-- ==== Sys2Proof/Word.lean ====
section
/-! DEFINITION. The plain words of the VF1024 model: 64-bit register words, octets and the sparse
sorted maps in which numbered things (ports, contexts, tallies, frames ...) are kept. -/

namespace Sys2Proof

/-- A 64-bit register or memory word (00_scope, Register notation). -/
abbrev W64 := BitVec 64

/-- One octet. -/
abbrev Byte := BitVec 8

/-- A sparse map from numbers to values: pairs with strictly rising keys (`Machine.Map.set` keeps the order). -/
abbrev Map (α : Type) := List (Nat × α)

end Sys2Proof
end

