-- ==== Sys2Proof/Syntax.lean ====
section
/-! DEFINITION. The commands of the VF1024: one constructor for each row of spec/opcode_table.json.
The table gives its rows no operands; the operands here are the instance concerned (port, group, unit,
context ...) and what comes from outside (a register value, received octets, a measured value). -/

namespace Sys2Proof

/-- A lane or the port named by its first lane, L0000-L1023 (R10). -/
abbrev Lane := BitVec 10
/-- A port group PGn or hearth group Gn, n = 0-15 (R10). -/
abbrev Grp := BitVec 4
/-- A unit number of R129, 0-12. -/
abbrev UnitNo := BitVec 4
/-- A fabric channel 0-15 (R10). -/
abbrev Chan := BitVec 4
/-- A chip number (R10). -/
abbrev Chip := BitVec 16
/-- A collective context, 0-16,383 (R220). -/
abbrev CtxNo := BitVec 14
/-- A tally, 0-8,191 (R235). -/
abbrev TallyNo := BitVec 13
/-- A member group, 0-1,023 (R216). -/
abbrev MgNo := BitVec 10
/-- A layer table, 0-255 (R243). -/
abbrev LtabNo := BitVec 8
/-- A switch-and-compute die D0-D3 (R15). -/
abbrev Die := BitVec 2

/-- A link-layer run: a fabric port (by first lane) or one of the eight twin sublinks (R75). -/
inductive LinkId where
  | port (l : Lane)
  | sub (n : BitVec 3)
  deriving DecidableEq, Repr

/-- Where a frame header is accepted: a port's channel, an Ethernet-mode port, or a return port (R83). -/
inductive FrameSrc where
  | port (l : Lane) (ch : Chan)
  | eth (l : Lane)
  | ret (g : Grp)
  deriving DecidableEq, Repr

/-- A host-link port of the management die (R302). -/
inductive Hop where
  | up
  | dn
  deriving DecidableEq, Repr

/-- The outcome of lane training on a link's lanes: the loss a quick calibration estimates on each (none: no signal), and
the loss each has once it is trained (R322). -/
structure LaneTraining where
  test : List (Option Nat)
  loss : List Nat
  deriving DecidableEq, Repr

/-- A hop of the host link whose lanes are trained, and the loss estimated on each. -/
structure HopTraining where
  hop : Hop
  loss : List Nat
  deriving DecidableEq, Repr

/-- An SMBus Write Word to command 0x01: its word, and the packet error code if one came (R334). -/
structure SmbusWrite where
  word : BitVec 16
  pec : Option Byte
  deriving DecidableEq, Repr

/-- The place of a patrol-scrub slot: a pseudo-channel of a stack or a DDR5 channel (R124). -/
inductive ScrubSite where
  | hbm (stack : BitVec 3) (pc : BitVec 6)
  | ddr (ch : BitVec 3)
  deriving DecidableEq, Repr

/-- The body of a VERSION symbol (Table 3.4). -/
structure VersionSym where
  offers : Byte
  llVersion : Byte
  chip : Chip
  width : BitVec 2
  seen : Bool
  deriving DecidableEq, Repr

/-- A reorder window's key: the die of its destination port group, and its flow (R93). -/
structure WinKey where
  die : Die
  src : Chip
  dst : Chip
  ch : Chan
  deriving DecidableEq, Repr

/-- What a start step found (R318-R322, R339's causes): the step's outcome comes from the parts it trains or reads. -/
structure StepResult where
  /-- 0: the step ended well; otherwise the cause of Table 16.5's notes. -/
  cause : BitVec 8
  /-- Step 6: bit k = 1, a DIMM answers on channel k. -/
  ddrPresent : Byte
  /-- Step 6: bit k = 1, channel k trained with a DIMM of R115. -/
  ddrUsable : Byte
  /-- Step 6: the capacity in GB of the DIMM on each channel, channel 0 first. -/
  ddrGb : List Nat
  /-- Step 7 of a banked restart: the loss each host lane estimates with its kept equaliser values, HL_UP's four and then
  HL_DN's; none where it detects no signal (R322). -/
  hostLoss : List (Option Nat)
  /-- Step 4: SRAM rows found failing, with the rows each macro needs. -/
  bistRows : List Nat
  /-- How long the whole start took, in ms (logged at completion). -/
  durationMs : Nat
  deriving DecidableEq, Repr

/-- One command of the block: a row of spec/opcode_table.json. -/
inductive Instr where
  | registerWrite (addr : BitVec 48) (v : W64)
  | tempoMeasure (groups : List (BitVec 16)) (flue : List (BitVec 16))
  | pacerPermit (d : Die)
  | tmpGovCtrlWrite (v : W64)
  | governorApply
  | ftcSetWrite (v : W64)
  | syncExchangeStart
  | timeReq (l : LinkId) (xid : BitVec 16)
  | timeRsp (l : LinkId) (xid : BitVec 16) (t2 : W64) (dt : BitVec 32)
  | auxSyncEdge
  | linkAdminUp (l : Lane)
  | linkAdminDown (l : Lane)
  | orderlyCloseComplete (l : LinkId)
  | laneTrainingComplete (l : LinkId) (r : LaneTraining)
  | alignmentLock (l : LinkId)
  | linkStepTimeout (l : LinkId)
  | linkRetryTimer (l : LinkId)
  | versionTimer (l : LinkId)
  | version (l : LinkId) (b : VersionSym)
  | laneSignalLost (l : LinkId) (lane : BitVec 3) (alignment : Bool)
  | close (l : LinkId) (cause : Byte)
  | linkBlockReceive (l : LinkId) (bytes : List Byte) (fecBad : Bool)
  | linkBlockSend (l : LinkId)
  | creditTimer (l : LinkId)
  | credit (l : LinkId) (q : BitVec 2) (g0 g1 g2 g3 : BitVec 24)
  | ackTimer (l : LinkId)
  | ack (l : LinkId) (seq : BitVec 12)
  | nak (l : LinkId) (seq : BitVec 12)
  | replayTimeout (l : LinkId)
  | unknownControlSymbol (l : LinkId) (ty : Byte)
  | ethFrameReceive (l : Lane) (bytes : List Byte) (fcsBad : Bool)
  | frameHeaderAccept (src : FrameSrc)
  | frameEndReceive (l : Lane) (ch : Chan)
  | outputBufferWrite (pg : Grp)
  | reorderGapTimeout (k : WinKey)
  | pinResendTimer (k : WinKey)
  | reorderWindowExpire (k : WinKey)
  | pinExpire (src dst : Chip) (ch : Chan)
  | intakeEnqueue (pg : Grp)
  | memoryPortTake (d : Die)
  | returnPortSend (g : Grp)
  | egressSelect (l : Lane)
  | swcPortFlushWrite (l : Lane) (v : W64)
  | queueSample
  | patrolScrubSlot (site : ScrubSite)
  | sramScrubTick
  | hbmSpareWrite (v : W64)
  | spareCopyDone
  | sequencerIntakeTake (g : Grp)
  | stationQueueDeliver (g : Grp) (u : UnitNo) (portB : Bool)
  | steerPairDeliver (g : Grp)
  | stnSpareCtrlWrite (g : Grp) (v : W64)
  | spareTakeover (g : Grp)
  | programLoad (g : Grp) (v : W64)
  | programUnload (g : Grp) (v : W64)
  | pstoreWrite (g : Grp) (off : BitVec 21) (v : W64)
  | invocationStart (g : Grp) (u : UnitNo)
  | bundle (g : Grp) (u : UnitNo)
  | invocationCommit (g : Grp) (u : UnitNo)
  | paramWrite (g : Grp) (p i : BitVec 6) (v : W64)
  | replayCountWrite (g : Grp) (p : BitVec 6) (v : W64)
  | maintWrite (g : Grp) (v : W64)
  | arithDebugWrite (v : W64)
  | accPeek (v : W64)
  | accPeekComplete
  | reform (m : MgNo) (e : BitVec 32)
  | define (c : CtxNo)
  | undefine (c : CtxNo)
  | bank (c : CtxNo)
  | unbank (c : CtxNo)
  | advance (c : CtxNo)
  | setstep (c : CtxNo)
  | contextBankAtBoundary (c : CtxNo)
  | contextSwapInComplete (c : CtxNo)
  | roundTimeout (c : CtxNo)
  | hold (g : Grp)
  | holdRelease (g : Grp)
  | tallyValueWrite (t : TallyNo) (v : W64)
  | tallyCfgWrite (t : TallyNo) (v : W64)
  | tallyReleaseWrite (t : TallyNo) (v : W64)
  | layerTableWrite (l : LtabNo) (w : BitVec 3) (v : W64)
  | placementWrite (b : BitVec 1) (l : LtabNo) (e : BitVec 13) (v : W64)
  | bookStatistics (l : LtabNo)
  | bookGateDeliver (l : LtabNo)
  | bookClaims (l : LtabNo)
  | ledgerVerdict (l : LtabNo)
  | bookApply (l : LtabNo)
  | bookCombine (l : LtabNo)
  | steerWrite (g : Grp) (v : W64)
  | cordStageWrite (off : BitVec 22) (v : W64)
  | cordVerify
  | cordLoad
  | cordApply
  | bind (v : W64)
  | unbind (v : W64)
  | floorWrite (v : W64)
  | hostLinkDown
  | hostHelloTimer (h : Hop)
  | hostHello (h : Hop) (header rest : List Byte)
  | hostLinkAck (h : Hop) (b : List Byte)
  | hostLinkNak (h : Hop) (b : List Byte)
  | hostHopRetryTimeout (h : Hop)
  | hostPacketForward (h : Hop) (b : List Byte)
  | hostPacketMalformed (h : Hop) (b : List Byte)
  | enum (b : List Byte)
  | rd (b : List Byte)
  | wr (b : List Byte)
  | cmd (b : List Byte)
  | bulk (b : List Byte)
  | invoke (g : Grp)
  | poolAlloc (g : Grp)
  | poolShare (g : Grp)
  | poolHandoff (g : Grp)
  | poolDrop (g : Grp)
  | poolFree (g : Grp)
  | operand (g : Grp)
  | nop (g : Grp)
  | completionSend
  | hostWatchdogExpire
  | off
  | cold
  | powerBank
  | bankedEntryComplete
  | restart
  | startStepComplete (r : StepResult)
  | idle
  | active
  | blaze
  | vsetWrite (v : W64)
  | vidFrameSend
  | groupGateWrite (v : W64)
  | blazeBudgetTick
  | blazeLifePersist
  | sensorSample (samples : List (Option (BitVec 16)))
  | smbusSelect (w : SmbusWrite)
  | smbusBlockRead
  | logEngineMove
  | logMarkSealComplete
  | logPersistWrite
  | logSelect (v : W64)
  | updateBegin (v : W64)
  | updateCommit
  | updateProgramComplete (readBackOk : Bool)
  | updateAbort
  | svnCommit
  | revoke (slot : BitVec 2)
  | getVersion
  | getCapabilities
  | negotiateAlgorithms
  | getDigests
  | getCertificate (slot : BitVec 4) (offset len : BitVec 16)
  | challenge (slot : BitVec 4) (measSummary : Byte) (nonce : BitVec 256)
  | getMeasurements (index : Byte) (signed : Bool) (nonce : BitVec 256)
  | twinEngage (v : W64)
  | twinDisengage (v : W64)
  | heartbeatToggle
  | heartbeatEdge
  | heartbeatMiss
  | twinHelloTimer
  | twinHello (sub : BitVec 3) (m : List Byte)
  | twinAck (sub : BitVec 3) (mseq : W64)
  | twinAckTimer
  | ctx (m : List Byte)
  | ctxGone (m : List Byte)
  | mgrp (m : List Byte)
  | tally (m : List Byte)
  | route (m : List Byte)
  | place (m : List Byte)
  | layer (m : List Byte)
  | epochs (m : List Byte)
  | fence (m : List Byte)
  | fetch (m : List Byte)
  | copyBegin (m : List Byte)
  | copyEnd (m : List Byte)
  | takeover (e : BitVec 32)
  | giveback (e : BitVec 32)
  | givebackComplete
  | resync (e : BitVec 32)
  | fencePartner (e : BitVec 32)
  | unfence (e : BitVec 32)
  | setEpoch (e : BitVec 32)
  | raise (serial : BitVec 32)
  | damper (l : Lane) (serial : BitVec 32) (origin : Chip) (time : BitVec 48)
  | release
  | scanSize (v : W64)
  | scanStart (v : W64)
  | scanComplete
  | traceDrain (d : Die)
  | traceRingWrite (d : Die) (v : W64)
  | counterClear (v : W64)
  | snapshotTake
  | snapshotPeriod
  | sparkPop
  | powerApplied
  | porstAssert
  | railEnableNext
  | railPgTimeout
  | railDisableNext
  | powerGoodLost (rail : BitVec 3)
  | ethPcsLinkUp (l : Lane)
  | pfcPauseExpire (l : Lane) (pri : BitVec 3)
  | hostLinkTrained (r : HopTraining)
  | hlDnDown
  | hostPacketCorrupt (h : Hop) (header rest : List Byte)
  | chunkGet (handle : Byte) (seq : BitVec 16)
  | takeoverComplete
  deriving DecidableEq, Repr

end Sys2Proof
end

