-- ==== Sys2Proof/Config.lean ====
section
/-! DEFINITION. What the spec leaves open, as constants without a body: nothing in Lean can evaluate one or prove a
value of it. The free values, and the keys, messages and octets the spec takes from manufacture and from other
standards. -/

namespace Sys2Proof.Config

/-- The n-th free value: a value the spec leaves open where the device goes on (log entry 5). -/
opaque freeValue : Nat → W64

/-- What the spec does not state of the frames a book or a ledger sends for layer table l: channel [3:0], TC [6:4],
TAG [30:7], OFFSET group to an expert [34:31]; for 256 + l, eight octets of a counts tile's payload (log entry 30). -/
opaque routingFrame : Nat → W64

/-- What the spec does not state of the frame that carries a tile between two groups of a pipeline, for producing unit
16g + u: channel [3:0], TC [6:4], PLANE [9:7] (R150; log entry 32). -/
opaque linkFrame : Nat → W64

/-- What a SKIP record of the gate holds beside its token and its SKIP bit, word i of token t at 4t + i: the spec states
none of it (R251; log entry 31). -/
opaque skipWord : Nat → BitVec 32

/-- Octet i of a scan-out section of a TYPE and INSTANCE from what the store holds (its things, each as octets): the
spec gives local stores, pool areas, table SRAM and output buffers no layout (R376; log entry 35). -/
opaque scanByte : Nat → Nat → List (List Byte) → Nat → Byte

/-- TYPE, INSTANCE and word of the body in which a scan-out copies an SRAM word: the spec gives no place (R376; log
entry 35). -/
opaque scanSpot : Nat → Nat × Nat × Nat

/-- Where the SRAM holds word i of thing n of kind k (`Machine.SramObj`): the spec gives no place (R27, R124; log
entry 74). -/
opaque sramPlace : Nat → Nat → Nat → Nat

/-- The levels of the power-good inputs at a point of a run, of which the device knows only in part (R394; log entry
54). -/
opaque pgInputs : Nat → Nat → BitVec 6

/-- The row of an SRAM macro that holds a word of it: the spec gives the rows no width (R125; log entry 74). -/
opaque sramRow : Nat → Nat

/-- Octet i of a context's record in the bank, from its numbers by rank, which the spec does not say how 4 KiB hold
(R26, R226; log entry 44). -/
opaque bankOctet : List Nat → Nat → Byte

/-- Row maximum and sum, row i, in the side-band a choice tile keeps from its operand: the spec gives it no values
(R251; log entry 89). -/
opaque choiceBand : Nat → BitVec 32 × BitVec 32

/-- The private seed of a key pair from what it is derived from: the device secret, and for the alias pairs the
verified firmware digest too. 0 device Ed25519, 1 device ML-DSA-65, 2 and 3 the alias pairs (R346; the derivation is
the MSS's own, log entry 58). -/
opaque keySeed : Nat → List Byte → List Byte

/-- The private seeds of Itvaten's identity keys, 0 Ed25519 and 1 ML-DSA-65: its signatures were made at manufacture
(R346). -/
opaque itvatenSeed : Nat → List Byte

/-- The sealing key of the digest store, from the device secret (R336). -/
opaque sealKey : List Byte → List Byte

/-- The octets of an SPDM 1.3 message with given fields, each as octets (R347; the standard's message forms are outside
the spec). -/
opaque spdmMessage : List (List Byte) → List Byte

/-- The X.509 chain of certificate slot 0: DEVICE_ID as subject of the device certificate, the alias Ed25519 key in
the alias certificate (R347). -/
opaque certificateChain : W64 → List Byte → List Byte

/-- The octets of the ROM (Table 16.9, measurement 0x02). -/
opaque romImage : List Byte

/-- The message SPDM 1.3 forms for a signature from the requests and responses of the connection so far and the
response to be signed (R347, R348). -/
opaque spdmSigMessage : List (List Byte) → List Byte → List Byte

end Sys2Proof.Config
end

