-- ==== Sys2Proof/Machine/Maps.lean ====
section
/-! DEFINITION. Operations of the sparse sorted maps, and small list helpers. -/

namespace Sys2Proof.Machine

open Sys2Proof

variable {α : Type}

/-- The value at key `k`, if any. -/
def Map.get? : Map α → Nat → Option α
  | [], _ => none
  | (j, a) :: m, k => if j = k then some a else Map.get? m k

/-- The value at key `k`, or `d`. -/
def Map.getD (m : Map α) (k : Nat) (d : α) : α :=
  match Map.get? m k with
  | some a => a
  | none => d

/-- Put `a` at key `k`, keeping the keys rising. -/
def Map.set : Map α → Nat → α → Map α
  | [], k, a => [(k, a)]
  | (j, b) :: m, k, a =>
    if k < j then (k, a) :: (j, b) :: m
    else if k = j then (k, a) :: m
    else (j, b) :: Map.set m k a

/-- Take key `k` out. -/
def Map.erase : Map α → Nat → Map α
  | [], _ => []
  | (j, b) :: m, k => if j = k then m else (j, b) :: Map.erase m k

/-- Keep the entries whose key and value pass a test. -/
def Map.keep (m : Map α) (p : Nat → α → Bool) : Map α :=
  m.filter (fun e => p e.1 e.2)

/-- Apply a function to every value. -/
def Map.each {β : Type} (m : Map α) (f : Nat → α → β) : Map β :=
  m.map (fun e => (e.1, f e.1 e.2))

/-- Is the key in the map? -/
def Map.has (m : Map α) (k : Nat) : Bool := (Map.get? m k).isSome

/-- The keys of a map rise strictly. -/
def Map.sorted : Map α → Bool
  | [] => true
  | [_] => true
  | (j, _) :: (k, b) :: m => decide (j < k) && Map.sorted ((k, b) :: m)

/-- The numbers 0 to n - 1. -/
def upTo (n : Nat) : List Nat := List.range n

/-- Fold a state through a list of items. -/
def foldOver {σ β : Type} (l : List β) (f : σ → β → σ) (s : σ) : σ := l.foldl f s

/-- The n-th item of a list, or a default. -/
def nthD (l : List α) (n : Nat) (d : α) : α := l.getD n d

/-- Insert into a list kept in an order. -/
def insertBy (lt : α → α → Bool) (a : α) : List α → List α
  | [] => [a]
  | b :: l => if lt a b then a :: b :: l else b :: insertBy lt a l

/-- Stable insertion sort: an item goes after those it does not precede. -/
def sortBy (lt : α → α → Bool) : List α → List α
  | [] => []
  | a :: l =>
    let rec ins (a : α) : List α → List α
      | [] => [a]
      | b :: r => if lt b a then b :: ins a r else a :: b :: r
    ins a (sortBy lt l)

/-- Remove the first item equal to `a`. -/
def removeFirst [DecidableEq α] (a : α) : List α → List α
  | [] => []
  | b :: l => if b = a then l else b :: removeFirst a l

/-- Split a list into pieces of n items (fuel: the list's length). -/
def chunksOf (n : Nat) (l : List α) : List (List α) :=
  let rec go : Nat → List α → List (List α)
    | 0, _ => []
    | f + 1, l => if l.isEmpty then [] else l.take n :: go f (l.drop n)
  go l.length l

/-- ceil(a / b). -/
def ceilDiv (a b : Nat) : Nat := (a + b - 1) / b

end Sys2Proof.Machine
end

