-- ==== Sys2Proof/Machine/State.lean ====
section
/-! DEFINITION. The state of the VF1024: every register, queue, buffer, counter, mode and pin the spec gives the
device, as plain data, and the queue of waiting commands. Registers that only hold what the host wrote (RW fields)
live in `State.regs`, keyed by control-space address (Table 14.12), an unlisted address holding its reset value
(`Machine.Reg.resetValue`); fields the device itself drives live in the structures below. -/

namespace Sys2Proof.Machine

open Sys2Proof

/-- Why the machine stops with a fault. The block has no exception and no stuck state: every failure the spec names
is a status code, a counter, a log record or a power state, so no command ends in a fault and the type is empty. -/
inductive Fault where
  deriving DecidableEq, Repr

/-- Why a command has no meaning. -/
inductive Refusal where
  /-- Raised by an arm of `exec` for a command not yet modelled. Safe: the machine stops where the device goes on. -/
  | notModelled (mnemonic : String)
  /-- Raised by a meaning whose operands name no instance of the device (a unit above 12, a sample list of the wrong
  length): such an event cannot occur (R10, R129). Safe. -/
  | illFormedCommand
  deriving DecidableEq, Repr

/-- The status codes of Table 14.8 (R313). -/
inductive Status where
  | ok | stationAbsent | queueFull | resourceBound | poolExhausted | freeDenied | contextLimit | contextTimedOut
  | epochStale | malformedTile | paramLocked | versionUnsupported | signatureFail | cordRejected | cordConflict
  | notBankable | dampered | twinFenced | fieldInvalid
  deriving DecidableEq, Repr

/-- One arbiter (R102): the wait counter of each requester and the last winner. -/
structure Arb where
  waits : Map Nat
  last : Nat
  deriving DecidableEq, Repr

/-- Self-timed operation and fabric time (chapter 2). -/
structure TimeSt where
  /-- Master fabric time counter (R37). -/
  ftc : W64
  /-- Ticks of the reference since power was applied: the model's own count, which a slew neither repeats nor skips. -/
  raw : Nat
  /-- Ticks still to insert (positive) or to repeat (negative) of the slew in progress (R41). -/
  slewLeft : Int
  /-- Ticks between two corrections of the slew, and ticks until the next (R41: spread over the next 1 ms). -/
  slewEvery : Nat
  slewWait : Nat
  /-- FTC_DISC_STATUS.OFFSET (R41). -/
  offset : BitVec 32
  setRefused : Bool
  stepped : Bool
  locked : Bool
  upstreamLost : Bool
  /-- Exchange ID of the latest request (R65). -/
  xid : BitVec 16
  /-- A reply to the latest request is awaited, and t1 once the request was sent (R65). -/
  awaiting : Bool
  t1 : Option W64
  /-- Exchanges in a row without a reply (R42). -/
  missed : Nat
  /-- Last slew rate, ticks per exchange (R42). -/
  lastSlew : Int
  /-- The last eight offsets, newest first (R42). -/
  offsets : List Int
  /-- Pending TMP_GOV_CTRL value (R35). -/
  govPending : Option W64
  /-- Tick at which it was accepted. -/
  govAt : Nat
  /-- TMP_GOV_CTRL in force (R35). -/
  govCtrl : W64
  underrun : BitVec 16
  active : Bool
  /-- Counted ticks k of each die's pacer since the latest restart (R34). -/
  pacerK : Map Nat
  /-- The reference tick each die's pacer counted last (R34: one count a tick). -/
  pacerAt : Map Nat
  /-- TMP_MEASURE_n, n = 0-16 (R30). -/
  measure : Map (BitVec 16)
  deriving DecidableEq, Repr

/-- SWC_LNK_STATUS.STATE (Table 3.7). -/
inductive LinkState where
  | down | training | aligning | negotiating | up | closing
  deriving DecidableEq, Repr

/-- A control symbol waiting to be sent (Table 3.4). -/
inductive CtrlSym where
  | credit (q : BitVec 2) (g0 g1 g2 g3 : BitVec 24)
  | ack (seq : BitVec 12)
  | nak (seq : BitVec 12)
  | timeReq (xid : BitVec 16)
  | timeRsp (xid : BitVec 16) (t2 : W64) (dt : BitVec 32)
  | damper (serial : BitVec 32) (origin : Chip) (time : BitVec 48)
  | version (b : VersionSym)
  | close (cause : Byte)
  deriving DecidableEq, Repr

/-- A data block kept in the replay buffer (R60). -/
structure TxBlock where
  seq : BitVec 12
  kind : BitVec 4
  ch : Chan
  payload : List Byte
  deriving DecidableEq, Repr

/-- A channel's current frame (R33, R103). -/
structure CurFrame where
  uid : Nat
  /-- How many frames the port had selected before it: the order in which the current frames were selected. -/
  sel : Nat
  /-- The frame's wire octets as they leave (header rewritten, R78). -/
  sent : Nat
  deriving DecidableEq, Repr

/-- A token bucket: tokens in 2^-16 octets and the tick they stood at (R105). -/
structure Bucket where
  tokens : Int
  at_ : Nat
  deriving DecidableEq, Repr

/-- A fabric port or twin sublink with its link layer, its scheduler and its port registers' device-driven fields. -/
structure Port where
  state : LinkState
  lanesUp : Byte
  peerChip : Chip
  rev : BitVec 4
  cause : Byte
  downed : Bool
  /-- Waiting out the 100 ms after a failed bring-up (R52). -/
  retryWait : Bool
  /-- The peer's VERSION, once received (R67). -/
  versionRx : Option VersionSym
  /-- A VERSION with SEEN = 1 has been sent (R67). -/
  seenSent : Bool
  /-- Cumulative grants received, and blocks sent, per channel (R57). -/
  grant : Map (BitVec 24)
  sent : Map (BitVec 24)
  txSeq : BitVec 12
  replay : List TxBlock
  /-- Blocks to be sent again before new ones (R62). -/
  resend : List TxBlock
  /-- Times the oldest unacknowledged block has been resent (R62). -/
  resends : Nat
  /-- Next SEQ wanted (R61). -/
  expected : BitVec 12
  nakPending : Bool
  /-- Blocks accepted, room granted and grants last sent, per channel (R57-R59). -/
  accepted : Map (BitVec 24)
  granted : Map (BitVec 24)
  grantSent : Map (BitVec 24)
  /-- Blocks accepted since the last acknowledgement (R60). -/
  sinceAck : Nat
  /-- The frame being received on each channel (R56). -/
  rxCur : Map Nat
  /-- Frames, by channel, whose header awaits acceptance, oldest first (R39). -/
  hdrWait : List (Nat × Nat)
  /-- Control symbols waiting for a control block (R63). -/
  ctrlQ : List CtrlSym
  /-- Frames the port has selected (the model's own count, to order the current frames). -/
  selected : Nat
  /-- On a twin sublink: the octets already sent of the message in transmission, and the message being put together from
  received blocks (R354). -/
  msgSent : Nat
  rxMsg : Option (List Byte)
  /-- Current frame of each channel; on an Ethernet-mode port the frame in transmission under key 0 (R103). -/
  cur : Map CurFrame
  /-- Priorities paused by the peer, and priorities this port pauses (R73). -/
  pfcRx : Byte
  pfcTx : Byte
  /-- Virtual time and head tags (R104). -/
  vt : BitVec 48
  tags : Map (BitVec 48 × BitVec 48)
  shapers : Map Bucket
  policers : Map Bucket
  /-- SCH_Q_SAMPLE_DEPTH and _DELAY as (MAX, LAST), per TC (R107). -/
  sampleDepth : Map (Nat × Nat)
  sampleDelay : Map (Nat × Nat)
  /-- Frames counted for spark sampling (R108). -/
  sparkCount : Nat
  egressArb : Arb
  /-- Recorded channel signature of each lane: loss in 0.5 dB and peer (R322). -/
  signature : Map (Nat × Chip)
  /-- Lanes calibrated in full as the link was last trained, the others going on from kept equaliser values (R322). -/
  fullCal : List Nat
  /-- Losses of the training just ended, for the signatures of the link as it comes up (R322). -/
  trained : List Nat
  /-- A banked restart has passed since the link was last up: its peer is compared with the recorded one (R322). -/
  peerCheck : Bool
  deriving DecidableEq, Repr

/-- A frame header in rev 2 form (Tables 4.1, 4.2). -/
structure Hdr where
  ver : BitVec 4
  kind : BitVec 4
  ch : Chan
  tc : BitVec 3
  pinned : Bool
  dst : Chip
  src : Chip
  offset : BitVec 48
  len : Nat
  td : Bool
  ep : Bool
  tag : BitVec 24
  hops : Byte
  sseq : BitVec 16
  sgen : Byte
  plane : BitVec 3
  deriving DecidableEq, Repr

/-- Where an accepted frame is bound (R83-R85). -/
inductive Dest where
  | egress (l : Nat) (tc : Nat)
  | intake (g : Nat)
  | memory (pg : Nat) (tc : Nat)
  deriving DecidableEq, Repr

/-- A frame in the device. -/
structure Frame where
  ingress : FrameSrc
  /-- Transport revision of the link as the frame came in (R53, R68, R83). -/
  rev : BitVec 4
  /-- Octets received so far, header to PCRC; of a frame not yet accepted on an Ethernet-mode port, the MAC frame (R74). -/
  raw : List Byte
  /-- The last block has arrived (R56). -/
  whole : Bool
  /-- The frame has been judged complete, by its length too (R83). -/
  ended : Bool
  /-- The header after acceptance (R83); before it, none. -/
  hdr : Option Hdr
  stamp : Nat
  /-- The tick at which the last octet of its header came through FEC decode and the link layer: the stamp it gets (R39). -/
  early : Option Nat
  /-- Ticks by which a damper release moved the stamp for ageing (R375). -/
  ageShift : Nat
  dest : Option Dest
  lastHop : Bool
  /-- Transmission onward has begun (R83, R100). -/
  begun : Bool
  /-- Cut short: no octet beyond this count is sent (R83). -/
  cutAt : Option Nat
  /-- A tile on a link between stations of two groups: the unit and port it goes to (R150). -/
  link : Option (Nat × Bool)
  deriving DecidableEq, Repr

/-- A held frame of a reorder window (R93, R94). -/
structure Held where
  sseq : BitVec 16
  uid : Nat
  /-- The hold tick, moved by every damper's length (R94, R375). -/
  since : Nat
  deriving DecidableEq, Repr

/-- A reorder window (R93-R96). -/
structure Window where
  /-- Destination port group of the flow's latest arrival (R93). -/
  pg : Nat
  base : BitVec 16
  gen : Byte
  span : Nat
  held : List Held
  pinSent : Bool
  lastPin : Nat
  lastArrival : Nat
  deriving DecidableEq, Repr

/-- The switch core (chapter 4). -/
structure SwitchSt where
  frames : Map Frame
  nextUid : Nat
  /-- Staging queues, key 16 × flue input + output buffer (R97). -/
  staging : Map (List Nat)
  /-- Egress queues, key 8 × first lane + TC (R98). -/
  egress : Map (List Nat)
  /-- Memory queues, key 8 × port group + TC (R84). -/
  memq : Map (List Nat)
  /-- Intake queues, by port group (R99). -/
  intake : Map (List Nat)
  /-- Reorder windows by `winKey` (R93). -/
  windows : Map Window
  /-- Live pins by flow: expiry tick (R91). -/
  pins : Map Nat
  /-- Per-flow counters, key die and flow: next SSEQ and SGEN (R88). -/
  spray : Map (BitVec 16 × Byte)
  sgenCtr : Byte
  /-- Last chosen member of each next-hop set (R89). -/
  setLast : Map Nat
  /-- Return ports: frames built, oldest first (R19, R84). -/
  retq : Map (List Nat)
  /-- Accepted frames before the flue input of a port group, in order of stamp: key 2 × port group for its ingress,
  2 × port group + 1 for its return port (R19, R97, R102). -/
  flueIn : Map (List Nat)
  flueArb : Map Arb
  writeArb : Map Arb
  deriving DecidableEq, Repr

/-- HBM4 and DDR5 contents (R117-R123): octets by offset at the own chip number; an unlisted octet reads 0,
the value of the cold-start scrub. `chk` lists, by word offset, the stored check symbols XOR those of the data. -/
structure MemSt where
  cells : List Host.Cell
  chk : Map (BitVec 16)
  deriving DecidableEq, Repr

/-- Memory management (chapter 5). -/
structure BpmSt where
  /-- The running sparing copy: stack, pseudo-channel (R126). -/
  copy : Option (Nat × Nat)
  spareEpoch : BitVec 32
  spareStatus : Status
  spareState : BitVec 2
  spareStack : BitVec 3
  sparePc : BitVec 6
  spared : Map W64
  /-- Next granule of each patrol scrub, keyed by site (R124). -/
  scrubPos : Map Nat
  sramScrubPos : Nat
  /-- Rows marked at run time, at most 256, and the rows the repair map replaces (R125). -/
  sramMarks : List Nat
  sramRepairs : List Nat
  /-- Rows the repair fuses name, as step 3 of the last cold start read them (Table 15.3). -/
  fusedRows : List Nat
  ddrPresent : Byte
  ddrUsable : Byte
  ddrWindow : Bool
  ddrGb : BitVec 16
  /-- The arbiter of each pseudo-channel (64 × stack + pc) and DDR5 channel (512 + ch) (R127). -/
  pcArb : Map Arb
  /-- Corrected words counted by pseudo-channel and DDR5 channel (R121). -/
  siteErrors : Map Nat
  /-- SRAM words in error: the stored check symbols XOR those of the data, by word number (R27, R120). -/
  sramChk : Map (BitVec 16)
  /-- Corrected errors of each SRAM row not yet marked, row numbered 2^16 × macro + row (R125). -/
  rowErrors : Map Nat
  deriving DecidableEq, Repr

/-- A tile: header (Table 6.1) and payload (R134), multi-octet elements least significant octet first. -/
structure Tile where
  hver : Byte
  format : Byte
  layout : BitVec 4
  clinker : Bool
  fallback : Bool
  scaled : Bool
  stats : Bool
  last : Bool
  rows : Nat
  cols : Nat
  ctx : BitVec 16
  rank : BitVec 12
  epoch : BitVec 32
  seq : BitVec 32
  tag : BitVec 24
  dataLen : Nat
  mdLen : Nat
  step : W64
  aux : W64
  /-- Every zero field and zero bit of the header is zero. -/
  zerosOk : Bool
  /-- Of a tile a station loads: the address of a scratch word found uncorrectable, which makes it clinker (R122, R136). -/
  ue : Option Nat
  data : List Byte
  scales : List (BitVec 32)
  rstats : List (BitVec 32 × BitVec 32)
  md : List Byte
  deriving DecidableEq, Repr

/-- A buffer taken from a pool (R128-R131): what it holds (none: a zero tile header). -/
structure Buf where
  share : Nat
  owner : BitVec 16
  tile : Option Tile
  deriving DecidableEq, Repr

/-- One element of a long accumulator (R193). -/
structure LongAcc where
  i : BitVec 640
  nan : Bool
  pinf : Bool
  ninf : Bool
  deriving DecidableEq, Repr

/-- The elements of an accumulator. -/
inductive AccVal where
  | none
  | long (l : List LongAcc)
  | fp (l : List (BitVec 32))
  deriving DecidableEq, Repr

/-- An accumulator ACC0-ACC3 (R160, R195, R270). -/
structure Acc where
  rows : Nat
  cols : Nat
  clinker : Bool
  /-- Why it is marked: kind and ARG1 of the record its output will log (R136). -/
  cause : Nat × Nat
  val : AccVal
  deriving DecidableEq, Repr

/-- A tile in a station input queue: buffer handle and tile stamp (R143). -/
structure QTile where
  handle : Nat
  stamp : Nat
  deriving DecidableEq, Repr

/-- An invocation (Table 7.6). -/
structure Invoc where
  unit : Nat
  prog : BitVec 6
  replaySel : Bool
  count : BitVec 32
  tag : BitVec 24
  context : BitVec 15
  doneTally : BitVec 14
  startTick : W64
  /-- Tick at which the command reached the group sequencer (R44). -/
  reached : Nat
  /-- Made by a trigger (R167). -/
  triggered : Bool
  quiet : Bool
  /-- The paced step in which the tile that triggered it entered its port; 0 at natural tempo (R34, R167). -/
  atStep : Nat
  deriving DecidableEq, Repr

/-- What an EMIT slot recorded (R172). -/
inductive Emit where
  | next (h : Nat)
  | send (h : Nat) (route : W64)
  | put (h : Nat) (route : W64) (off : W64)
  | write (h : Nat) (off : BitVec 48)
  | discard (h : Nat)
  | nothing
  deriving DecidableEq, Repr

/-- What a tile register names (R160): a buffer, or an empty SELECT result (R282). -/
inductive TReg where
  | tile (h : Nat)
  | emptySelect
  deriving DecidableEq, Repr

/-- A running invocation (R168-R172). -/
structure Run where
  inv : Invoc
  passes : Nat
  pass : Nat
  /-- Bundle index and word index of the next bundle. -/
  bundle : Nat
  word : Nat
  params : Map W64
  treg : Map TReg
  acc : Map Acc
  /-- Recorded EMIT slots and SIGNAL increments, each with its bundle index, in the order they ran. -/
  emits : List (Nat × Emit)
  signals : List (Nat × Nat × Nat)
  /-- Headers the META slots of this invocation gave to tiles it did not make; they take effect at commit (R172). -/
  overlay : Map Tile
  outs : List Nat
  takenA : Nat
  takenB : Nat
  /-- NEXTSEQ slots run, per counter (R161). -/
  nextSeqs : Map Nat
  sctr : Map (BitVec 32)
  invocNo : BitVec 48
  btag : BitVec 24
  /-- Steps spent, by R162. -/
  cost : Nat
  /-- The last bundle of the last pass has finished. -/
  ended : Bool
  /-- The tick at which it did, once its last paced step has come: the stamp of the tiles it made and gives to NEXT
  (R143). -/
  doneAt : Option Nat
  /-- The context's round timed out: the next wait point fails the invocation (R232). -/
  doomed : Bool
  deriving DecidableEq, Repr

/-- A completion record (Table 14.7). -/
structure Cpl where
  kind : Byte
  status : Status
  group : BitVec 4
  opcode : Byte
  tag : BitVec 24
  pass : BitVec 32
  btag : BitVec 24
  result : W64
  ftime : W64
  deriving DecidableEq, Repr

/-- A unit of a hearth group (R141). -/
structure UnitSt where
  qa : List QTile
  qb : List QTile
  arbA : Arb
  arbB : Arb
  order : List Invoc
  run : Option Run
  acc : Map Acc
  sctr : Map (BitVec 32)
  invoc : BitVec 48
  /-- A completion that found the queue full (R312). -/
  heldCpl : Option Cpl
  /-- The last paced step the unit's work takes, counted as `GroupSt.stepLimit` (R34, R162). -/
  lastStep : Nat
  deriving DecidableEq, Repr

/-- A valid program (Table 7.13). -/
structure Prog where
  unit : Nat
  tagHi : Byte
  addr : Nat
  bundles : Nat
  words : List (BitVec 32)
  deriving DecidableEq, Repr

/-- A HOLD the sequencer waits in (R237). -/
structure HoldSt where
  tally : Nat
  gen : BitVec 16
  timed : Bool
  ctx : Option Nat
  tag : BitVec 24
  quiet : Bool
  /-- Tick at which the generation was found reached before START (R44). -/
  metAt : Option Nat
  deriving DecidableEq, Repr

/-- A tile the sequencer offers to a station port (Table 6.5): from the intake, a command or a book. -/
structure Offer where
  unit : Nat
  portB : Bool
  handle : Nat
  stamp : Nat
  /-- The command whose tile it is, to be completed when the tile is queued (OPERAND). -/
  cmd : Option (BitVec 24 × Bool)
  /-- From the intake: holds back the intake until queued. -/
  fromIntake : Bool
  /-- A share of a tile another owner keeps (R253): delivery hands nothing off. -/
  share : Bool
  /-- Of a command's tile, still to be counted and logged as it is queued, so that a push that fails leaves no
  side effects (R151): the cause of a tile already clinker. -/
  cause : Option (Nat × Nat)
  /-- Of a command's tile: the counter of the compressor's outcome, still to be counted likewise (R266-R268). -/
  dense : Option Nat
  deriving DecidableEq, Repr

/-- A tile taken from the intake into a buffer that waits for its book or ledger: buffer, layer table, context (R252).
-/
structure RouteWait where
  handle : Nat
  ltab : Nat
  ctx : Nat
  deriving DecidableEq, Repr

/-- A hearth group (chapters 5-8, 12). -/
structure GroupSt where
  bufs : Map Buf
  fifo : List (List Byte)
  fifoHigh : Nat
  hold : Option HoldSt
  seqCpl : Option Cpl
  offers : List Offer
  /-- The tile that waits for its book or ledger, and holds back the intake (log entry 120). -/
  routeWait : Option RouteWait
  units : Map UnitSt
  progs : Map Prog
  params : Map W64
  replay : Map (BitVec 32)
  pstore : Map Byte
  maint : Bool
  progStatus : Status
  progDetail : Byte
  progBundle : Nat
  progNo : BitVec 6
  spareEpoch : BitVec 32
  spareStatus : Status
  /-- Tick since which the intake head waits for pool space (R139, R231). -/
  poolWait : Option Nat
  covering : Bool
  coverUnit : BitVec 2
  /-- A takeover begun and not finished (R153). -/
  taking : Option Nat
  steerA : List QTile
  steerB : List QTile
  steerStatus : Status
  pairs : Nat
  /-- Step permits received since the restart (R34). -/
  permits : Nat
  /-- Paced steps begun before the last counted tick, and with it: each has taken a permit (R34). -/
  stepsBegun : Nat
  stepLimit : Nat
  /-- Thousandths of a step that a group at its natural tempo carries over into the next counted tick (R36). -/
  stepCarry : Nat
  /-- Is it below TARGET at present, by its last measured tempo? -/
  below : Bool
  /-- The paced step in which the sequencer last took a command, and a tile. -/
  seqStep : Nat
  intakeStep : Nat
  /-- The paced step in which a tile last entered port 2u + (1 for B) of unit u, and at 32 a pair left the holds. -/
  portSteps : Map Nat
  /-- The requester that a port's round has granted and that has not yet come, by 2u + (1 for B) (R102, R144). -/
  portGrant : Map Nat
  /-- The paced step in which the pools were last used, and the issuer's owner ID (R131). -/
  poolTurn : Nat × Nat
  /-- Invocations abandoned by a damper, with their unit (R375). -/
  abandoned : List (Nat × Run)
  deriving DecidableEq, Repr

/-- CTX_STATE_c_w.STATE (Table 10.14); an undefined context is not in the table. -/
inductive CtxState where
  | active | banking | banked | unbanking | timedOut
  deriving DecidableEq, Repr

/-- A defined context (R220-R232). -/
structure Ctx where
  arg0 : W64
  timeout : BitVec 32
  stepInit : W64
  state : CtxState
  onChip : Bool
  /-- Expected SEQ by rank (R137). -/
  expSeq : Map (BitVec 32)
  step : W64
  lastAdv : Nat
  roundOpen : Bool
  openStamp : Nat
  deadline : Nat
  arrived : Nat
  required : Option Nat
  /-- TILES announced by the ranks whose counts tile is accepted, and payload tiles accepted per rank (R230). -/
  counts : Map Nat
  payloads : Map Nat
  deriving DecidableEq, Repr

/-- A member group (R216). -/
structure MGroup where
  chips : List Chip
  epoch : BitVec 32
  deriving DecidableEq, Repr

/-- A tally's counts; its THRESHOLD, flags and release target are its registers (R235). -/
structure TallySt where
  value : BitVec 48
  gen : BitVec 16
  start : W64
  relSeq : BitVec 32
  deriving DecidableEq, Repr

/-- A swap asked for: the context needed on chip (none: a BANK with no swap-in, R227), its paired victim while that is
still to be banked, and the tick of the need (R225, R226). -/
structure Need where
  at_ : Nat
  ctx : Option Nat
  victim : Option Nat
  /-- No slot is free and no victim left to choose: the choice waits (log entry 95). -/
  waits : Bool
  deriving DecidableEq, Repr

/-- Contexts, member groups and tallies (chapter 10). -/
structure CtxSt where
  table : Map Ctx
  groups : Map MGroup
  tallies : Map TallySt
  needs : List Need
  actStatus : Status
  actCode : BitVec 4
  actCtx : BitVec 14
  actMgrp : BitVec 10
  deriving DecidableEq, Repr

/-- A routing tile a book holds (Table 11.3): its buffer, EXPERT, TOKEN0 and ROWS. -/
structure BookTile where
  handle : Nat
  expert : Nat
  token0 : Nat
  rows : Nat
  deriving DecidableEq, Repr

/-- An admitted pair (t, e) with its weight and combine slot (R256). -/
structure Pair where
  token : Nat
  expert : Nat
  slot : Nat
  w : BitVec 32
  deriving DecidableEq, Repr

/-- A dispatch tile sent and the expert's output matched to it (R257, R258). -/
structure Dispatch where
  token0 : Nat
  expert : Nat
  rowNos : List Nat
  out : Option Nat
  deriving DecidableEq, Repr

/-- A four-word routing record (R248). -/
structure Rec where
  w0 : BitVec 32
  w1 : BitVec 32
  w2 : BitVec 32
  w3 : BitVec 32
  deriving DecidableEq, Repr

/-- A book (R252): the layer step in its intake to apply phases, and the one in its combine phase. -/
structure Book where
  /-- 0 none, 1 intake, 2 statistics and gate, 3 claims sent, 4 apply (Table 11.7). -/
  phase : BitVec 3
  /-- Step counter of GATE_CTX in the round. -/
  step : W64
  /-- Activation tiles, score tiles and gate outputs held. -/
  acts : List BookTile
  scores : List BookTile
  gates : List BookTile
  /-- TOKEN0 of the activation tiles whose statistics are done, and of those delivered to the gate. -/
  statsDone : List Nat
  gated : List Nat
  /-- The final choices (class I) or the candidates (class T). -/
  choices : List Rec
  /-- Verdict records by ledger. -/
  verdicts : Map (List Rec)
  /-- The round of GATE_CTX has completed. -/
  closed : Bool
  /-- A step is in its combine phase: its step counter, activation tiles, pairs and dispatches. -/
  combining : Bool
  cStep : W64
  cActs : List BookTile
  pairs : List Pair
  dispatches : List Dispatch
  cSkipped : BitVec 32
  /-- The round of RETURN_CTX has completed. -/
  returned : Bool
  skipped : BitVec 32
  /-- Activation tiles to be freed once no unit holds a share of them (R253). -/
  done : List Nat
  /-- Stream counters by destination chip (R257), and SEQ of the streams to the ledgers. -/
  streams : Map (BitVec 32)
  ledgerSeq : Map (BitVec 32)
  deriving DecidableEq, Repr

/-- A ledger (R254, R255): records and reply places by rank. -/
structure Ledger where
  recs : Map (List Rec)
  reply : Map (Nat × Nat)
  bad : Bool
  /-- SEQ of the ledger's stream to each book. -/
  seqs : Map (BitVec 32)
  /-- The round completed and verdicts are due. -/
  complete : Bool
  deriving DecidableEq, Repr

/-- Expert routing (chapter 11). -/
structure MoeSt where
  books : Map Book
  ledgers : Map Ledger
  wrStatus : Status
  wrCheck : Byte
  wrLtab : Byte
  /-- The placement entries in the cache of table SRAM: bank, table and expert (R246, R288). -/
  cache : List (Nat × Nat × Nat)
  deriving DecidableEq, Repr

/-- A pipeline station entry (R291). -/
structure PipeStation where
  group : Nat
  unit : Nat
  portB : Bool
  deriving DecidableEq, Repr

/-- A binding record (R292). -/
structure Binding where
  claimant : Byte
  resource : Byte
  base : Nat
  len : Nat
  deriving DecidableEq, Repr

/-- The structure a cord sets (R287-R292). -/
structure CordCfg where
  serial : W64
  /-- Octet widths (code of SWC_LNK_CFG.WIDTH) and Ethernet bitmaps, index 8n + k. -/
  widths : List (BitVec 2)
  ethMaps : List Byte
  oMb : Nat
  hMb : Nat
  tMb : Nat
  slotTables : Nat
  pinEntries : Nat
  windows : Nat
  sprayCounters : Nat
  placeCache : Nat
  /-- COUNT_p, index 6n + p. -/
  pools : List Nat
  /-- LOCAL_KIB, SHARE_BASE, SHARE_KIB, index 13n + u. -/
  unitRecs : List (Nat × Nat × Nat)
  pipelines : List (Nat × List PipeStation)
  bindings : List Binding
  enables : W64
  deriving DecidableEq, Repr

/-- A claim in force (Table 13.12). -/
structure Claim where
  runtime : Bool
  resource : Byte
  base : Nat
  len : Nat
  deriving DecidableEq, Repr

/-- What a cord action is doing (R296). -/
inductive CordAction where
  | idle
  | applying (img : List Byte) (cfg : CordCfg)
  deriving DecidableEq, Repr

/-- The cord store (chapter 13). -/
structure CordSt where
  staged : Map Byte
  activeImg : List Byte
  /-- The structure in force; none before a first load. -/
  cfg : Option CordCfg
  digest : List Byte
  status : Status
  detail : Byte
  section_ : Byte
  resource : Byte
  claimA : Byte
  claimB : Byte
  /-- CRD_STATUS.STATE. -/
  state : BitVec 3
  action : CordAction
  serial : W64
  floor : W64
  claims : Map Claim
  /-- The tick of the reference in which a run-time binding of AUX_SYNC last changed, and the claimant that held the pad as
  that tick began, 0 for none (R391). -/
  auxBefore : Option (Nat × Nat)
  deriving DecidableEq, Repr

/-- A host-link packet (Table 14.3): its header's fields, the octets that are to be zero (bytes 6-7 and 12-15), its
payload. -/
structure HostPkt where
  ty : Byte
  dst : Byte
  src : Byte
  hseq : Byte
  len : BitVec 16
  reqId : BitVec 32
  zero : List Byte
  payload : List Byte
  deriving DecidableEq, Repr

/-- One hop of the host link (R303, R306). -/
structure HopSt where
  trained : Bool
  /-- Losses of the training just ended, lane 0 first (R322). -/
  loss : List Nat
  up : Bool
  /-- 0 none, 1: 1.0, 2: 1.1. -/
  version : BitVec 4
  helloRx : Option Byte
  seenSent : Bool
  txSeq : Byte
  rxExp : Byte
  nakPending : Bool
  unacked : List (Byte × HostPkt)
  resends : Nat
  /-- Own outgoing packets, none standing for a CPL packet, which is filled when its turn comes (R312), and packets held
  for forwarding, oldest first (R304). -/
  own : List (Option HostPkt)
  fwd : List HostPkt
  /-- The next turn is the forwarded packets'. -/
  turnFwd : Bool
  deriving DecidableEq, Repr

/-- The host link (chapter 14). -/
structure HostSt where
  hopUp : HopSt
  hopDn : HopSt
  chainAddr : Byte
  wdExpired : Bool
  cplq : List Cpl
  cplHigh : Nat
  /-- Pending tally notifications: new GEN and FIRINGS (R312). -/
  pendTally : Map (BitVec 16 × Nat)
  /-- Completions of records that entered no FIFO, held while the queue is full (R309, R310, R312). -/
  entryCpl : List Cpl
  /-- Recorded loss of each host lane, HL_UP's four and then HL_DN's, and those calibrated in full at the last start or
  training (R322). -/
  signature : Map Nat
  fullCal : List Nat
  deriving DecidableEq, Repr

/-- PWR_STATE.STATE (Table 15.6). -/
inductive PowerState where
  | off | coldStarting | bankedRestarting | banked | idle | active | blaze | halted
  deriving DecidableEq, Repr

/-- A fall of a power-good input: the reference tick, and what it ended, for the tie with a halt of that tick (R390). -/
structure LostAt where
  at_ : Nat
  state : PowerState
  startStep : BitVec 4
  failStep : BitVec 4
  lastLost : BitVec 3
  deriving DecidableEq, Repr

/-- Power, Blaze, heat and rails (chapters 15, 19). -/
structure PowerSt where
  state : PowerState
  lastStatus : Status
  lastCmd : BitVec 4
  haltCause : Byte
  startStep : BitVec 4
  failStep : BitVec 4
  fallback : Bool
  /-- Entry into Banked is under way (R320). -/
  bankEntry : Bool
  /-- The start under way began as a banked restart. -/
  restartKind : Bool
  /-- U in 1/4 ms (R326). -/
  blazeU : Nat
  warn : Bool
  exhausted : Bool
  lifeSeconds : Nat
  /-- Milliseconds in Blaze not yet counted as a whole second. -/
  lifeMs : Nat
  ratedExceeded : Bool
  tj : BitVec 16
  thermWarn : Bool
  /-- The warning may be raised (Tj has been below 100 °C since the last one, R329). -/
  thermArmed : Bool
  en : BitVec 6
  /-- Power-good inputs that are high; of those in `pgOpen` the board sets the level, and the others are low (R394). -/
  pg : BitVec 6
  pgOpen : BitVec 6
  lastLost : BitVec 3
  vidCode : Byte
  /-- The VID target of a ramp in progress, as CODE (R385). -/
  vidTarget : Byte
  /-- Rails still to be dropped by an OFF (R389). -/
  dropping : Bool
  haltN : Bool
  porst : Bool
  /-- The tick at which the device last left the Banked state (R320). -/
  resumedAt : Nat
  lost : Option LostAt
  deriving DecidableEq, Repr

/-- A log entry (R338) before or after numbering. -/
structure LogRec where
  lseq : BitVec 32
  code : BitVec 16
  sev : BitVec 2
  unit : Byte
  tag : Option (BitVec 24)
  lost : Bool
  persist : Bool
  ftime : W64
  args : List W64
  deriving DecidableEq, Repr

/-- The running firmware (R341, R342). -/
structure Firmware where
  version : BitVec 32
  svn : Byte
  slot : BitVec 2
  cordKeys : List (List Byte)
  digest : List Byte
  deriving DecidableEq, Repr

/-- The values of the digest store of the SPI NOR (R336). -/
structure DigestStore where
  /-- A firmware digest has been sealed. -/
  valid : Bool
  fwDigest : List Byte
  cordDigest : List Byte
  cordSerial : W64
  floor : W64
  blazeSeconds : Nat
  rated : Bool
  logMark : BitVec 32
  coldStarts : Nat
  deriving DecidableEq, Repr

/-- A copy of the digest store (Table 16.3): its generation, the HMAC-SHA-512 that closes it, whether it verifies, as
it does not after a write cut short, and its values (R336). -/
structure StoreCopy where
  gen : Nat
  mac : List Byte
  macOk : Bool
  vals : DigestStore
  deriving DecidableEq, Repr

/-- The capabilities the responder has (R347). -/
inductive SpdmCap where
  | cert | chal | measSig | chunk
  deriving DecidableEq, Repr

/-- The algorithms the responder has (R347). -/
inductive SpdmAlg where
  | ed25519 | sha512
  deriving DecidableEq, Repr

/-- The value types of Table 16.9. -/
inductive MeasType where
  | mutableFirmware | immutableRom | firmwareConfig | rawBits
  deriving DecidableEq, Repr

/-- An SPDM response (R347), its signed content left to SPDM 1.3's own message forms. -/
inductive SpdmRsp where
  | version (major minor : Nat)
  | capabilities (caps : List SpdmCap) (transferSize : Nat) (maxMsg : Nat) (ctExp : Nat)
  | algorithms (asym hash measHash : SpdmAlg)
  | digests (slotMask : Byte) (digest : List Byte)
  | certificate (slot : BitVec 4) (portion : List Byte) (remainder : Nat)
  | challengeAuth (chainDigest : List Byte) (nonce : List Byte) (measSummary : List Byte) (sig : List Byte)
  | measurements (blocks : List (Byte × MeasType × List Byte)) (nonce : List Byte) (sig : Option (List Byte))
  | chunk (handle : Byte) (seq : Nat) (last : Bool) (data : List Byte)
  | chunkLarge (handle : Byte)
  | error (code : Byte)
  deriving DecidableEq, Repr

/-- A held-back large response, being fetched in chunks (R347). -/
structure SpdmLarge where
  handle : Byte
  data : List Byte
  deriving DecidableEq, Repr

/-- The management subsystem (chapter 16). -/
structure MssSt where
  deviceId : W64
  /-- 0 A, 1 S, 2 C (Table 0.1). -/
  grade : BitVec 2
  svnFloor : Nat
  revoked : BitVec 4
  keyDigests : List (List Byte)
  /-- Fuse block: the SRAM rows repaired at manufacture, and the unique device secret (Table 16.1). -/
  repairFuses : List Nat
  secret : List Byte
  recovery : Bool
  /-- Only the ROM loader runs (R317). -/
  romOnly : Bool
  fw : Firmware
  /-- Timers T0-T3: running and count in µs (R332). -/
  timers : Map (Bool × BitVec 32)
  sensors : Map (Option (BitVec 16))
  sensorFailed : List Nat
  smbusSel : Option (BitVec 16)
  flash : Map Byte
  /-- Bytes 0-3 of the firmware region hold the MAGIC (R344). -/
  flashValid : Bool
  /-- The values of the digest store as the MSS holds them, its two copies in flash, and a write of it that waits for the
  end of programming (R336, R344). -/
  store : DigestStore
  storeA : StoreCopy
  storeB : StoreCopy
  sealWait : Bool
  storeLost : Bool
  logFifo : List LogRec
  logLost : Bool
  nextLseq : BitVec 32
  ring : List LogRec
  persistQ : List LogRec
  logStore : List LogRec
  /-- A new mark being sealed (R340). -/
  sealing : Option (BitVec 32)
  logSel : BitVec 32
  logHeld : Bool
  logData : List W64
  staging : Map Byte
  stagedLen : Nat
  words : List Nat
  updState : BitVec 3
  updStatus : Status
  updDetail : Byte
  /-- SPDM connection progress: 0 none, 1 VERSION, 2 CAPABILITIES, 3 ALGORITHMS (R347). -/
  spdmStage : Nat
  /-- The requests and responses of the connection so far, each as its octets. -/
  spdmCtx : List (List Byte)
  cosig : List Byte
  large : Option SpdmLarge
  nextHandle : Byte
  deriving DecidableEq, Repr

/-- A twin message (Table 17.2). -/
structure TwinMsg where
  mtype : Byte
  mseq : W64
  epoch : BitVec 32
  body : List Byte
  deriving DecidableEq, Repr

/-- A twin HELLO (Tables 17.2, 17.3). -/
structure TwinHelloMsg where
  vmin : Byte
  vmax : Byte
  side : Bool
  tookOver : Bool
  fenced : Bool
  chip : Chip
  digest : List Byte
  epoch : BitVec 32
  deriving DecidableEq, Repr

/-- A mirror message waiting for its acknowledgement (R358). -/
structure MirrorMsg where
  mseq : Nat
  mtype : Byte
  body : List Byte
  sub : Nat
  deriving DecidableEq, Repr

/-- A mirrored context (Table 17.3, CTX). -/
structure MirCtx where
  timedOut : Bool
  arg0 : W64
  timeout : BitVec 32
  step : W64
  deriving DecidableEq, Repr

/-- A mirrored tally (Table 17.3, TALLY). -/
structure MirTally where
  value : BitVec 48
  gen : BitVec 16
  cfg : W64
  release : W64
  start : W64
  deriving DecidableEq, Repr

/-- The mirror of the partner's half and routing state (R352, R357). -/
structure Mirror where
  ctxs : Map MirCtx
  mgroups : Map MGroup
  tallies : Map MirTally
  layers : Map (List W64)
  places : Map W64
  routes : Map W64
  pairEpoch : BitVec 32
  spareEpochs : Map (BitVec 32)
  memEpoch : BitVec 32
  deriving DecidableEq, Repr

/-- The twin pair (chapter 17). -/
structure TwinSt where
  hbTx : Bool
  hbAlive : Bool
  /-- The tick of the reference in which TWIN_HB_RX last showed an edge, ignored or not (R392). -/
  lastEdge : Option Nat
  state : BitVec 4
  cause : BitVec 4
  version : Byte
  tookOver : Bool
  fenced : Bool
  epoch : BitVec 32
  actStatus : Status
  actCode : BitVec 4
  actEpoch : BitVec 32
  /-- Actions recorded at the pair epoch (R363). -/
  recorded : List (BitVec 4)
  partnerHello : Option TwinHelloMsg
  sentMseq : Nat
  ackedMseq : Nat
  txq : List MirrorMsg
  nextSub : Nat
  recopy : Bool
  rxNext : Nat
  early : Map TwinMsg
  sinceAck : Nat
  inCopy : Bool
  copyResync : Bool
  partnerResync : Option (BitVec 32)
  mirror : Mirror
  giveback : Bool
  taking : Bool
  resyncing : Bool
  /-- The copy a RESYNC asked for has been installed (R364). -/
  resynced : Bool
  /-- Own-half objects asked for by FETCH and not yet installed: kind and number (R359). -/
  fetching : List (Nat × Nat)
  /-- Messages that wait to be sent, and whole messages received and not yet acted on: sublink and octets, oldest first
  (R354). -/
  out : List (Nat × List Byte)
  inbox : List (Nat × List Byte)
  deriving DecidableEq, Repr

/-- A trace record (Table 18.4). -/
structure TraceRec where
  bytes : List Byte
  deriving DecidableEq, Repr

/-- A spark sample (R381). -/
structure Spark where
  uid : Nat
  lane : Nat
  captured : List Byte
  stamp : Nat
  deriving DecidableEq, Repr

/-- A scan-out (R376). -/
structure ScanSt where
  status : Status
  state : BitVec 2
  sent : Nat
  size : W64
  dest : Bool
  base : Nat
  mask : BitVec 7
  startTick : W64
  deriving DecidableEq, Repr

/-- The parts of the device a scan-out copies, as they stood at T_d (R376). -/
structure Frozen where
  regs : Map W64
  time : TimeSt
  ports : Map Port
  sw : SwitchSt
  groups : Map GroupSt
  ctx : CtxSt
  cord : CordSt
  moe : MoeSt
  mss : MssSt
  pwr : PowerSt
  twn : TwinSt
  sramChk : Map (BitVec 16)
  counters : Map Nat
  dampered : Bool
  source : BitVec 3
  serial : BitVec 32
  origin : Chip
  td : W64
  deriving DecidableEq, Repr

/-- Determinism and debug (chapter 18). -/
structure DbgSt where
  dampered : Bool
  source : BitVec 3
  serial : BitVec 32
  origin : Chip
  td : W64
  /-- The originating fabric time carried by the damper (R374). -/
  originTime : BitVec 48
  serials : List (BitVec 32)
  scan : ScanSt
  /-- The device as it stood at T_d of the damper in force (R376). -/
  frozen : Option Frozen
  /-- The reference tick of the last write of DBG_ENABLE and its value before the writes of that tick: trace enables apply
  from the tick after (R377). -/
  traceOld : Option (Nat × W64)
  traceFifo : Map (List TraceRec)
  traceCount : Map (BitVec 48)
  counters : Map Nat
  /-- The events of the present tick, which a clear in that tick leaves counted (R379). -/
  recentAt : W64
  recent : Map Nat
  shadows : Map Nat
  snapTick : W64
  /-- Has a snapshot been taken (R380)? -/
  snapTaken : Bool
  sparks : List Spark
  /-- HTH_ACC_PEEK (R198). -/
  peekPending : Bool
  peekStatus : Status
  peekDone : Bool
  peekKind : BitVec 2
  peekCols : BitVec 11
  peekRows : BitVec 9
  peekFlags : BitVec 3
  peekData : List W64
  deriving DecidableEq, Repr

/-- What the pins have sent, and the twin messages and SPDM responses handed to their links (the model's own record,
newest first). -/
inductive WireOut where
  | block (l : LinkId) (b : TxBlock) (ackSeq : Option (BitVec 12))
  | control (l : LinkId) (syms : List CtrlSym)
  | mac (l : Lane) (bytes : List Byte)
  | pfc (l : Lane) (pris : Byte)
  | packet (h : Hop) (octets : List Byte)
  | vid (frame : BitVec 16)
  | smbus (bytes : List Byte)
  | smbusNack
  | spdm (r : SpdmRsp)
  deriving DecidableEq, Repr

/-- The whole device. -/
structure State where
  regs : Map W64
  time : TimeSt
  ports : Map Port
  sw : SwitchSt
  mem : MemSt
  bpm : BpmSt
  groups : Map GroupSt
  ctx : CtxSt
  moe : MoeSt
  cord : CordSt
  host : HostSt
  pwr : PowerSt
  mss : MssSt
  twn : TwinSt
  dbg : DbgSt
  /-- Completion status of the last register write or command (the model's own field). -/
  lastStatus : Status
  /-- Index of the next free value (the model's own field). -/
  freeCtr : Nat
  wire : List WireOut
  /-- Commands that wait, first in, first out. -/
  pending : List Instr
  deriving DecidableEq, Repr

def Arb.reset : Arb := { waits := [], last := 0 }

/-- A port nothing has touched: down, no cause (Table 3.7). -/
def Port.reset : Port :=
  { state := .down, lanesUp := 0, peerChip := 0, rev := 0, cause := 0, downed := false, retryWait := false,
    versionRx := none, seenSent := false, grant := [], sent := [], txSeq := 0, replay := [], resend := [],
    resends := 0, expected := 0, nakPending := false, accepted := [], granted := [], grantSent := [],
    sinceAck := 0, rxCur := [], hdrWait := [], ctrlQ := [], selected := 0,
    msgSent := 0, rxMsg := none, cur := [], pfcRx := 0, pfcTx := 0, vt := 0, tags := [],
    shapers := [], policers := [], sampleDepth := [], sampleDelay := [], sparkCount := 0,
    egressArb := Arb.reset, signature := [], fullCal := [], trained := [], peerCheck := false }

def UnitSt.reset : UnitSt :=
  { qa := [], qb := [], arbA := Arb.reset, arbB := Arb.reset, order := [], run := none, acc := [], sctr := [],
    invoc := 0, heldCpl := none, lastStep := 0 }

/-- A hearth group after reset: MAINT = 1 (Table 7.8). -/
def GroupSt.reset : GroupSt :=
  { bufs := [], fifo := [], fifoHigh := 0, hold := none, seqCpl := none, offers := [], routeWait := none,
    units := [], progs := [],
    params := [], replay := [], pstore := [], maint := true, progStatus := .ok, progDetail := 0, progBundle := 0,
    progNo := 0, spareEpoch := 0, spareStatus := .ok, poolWait := none, covering := false, coverUnit := 0, taking := none,
    steerA := [], steerB := [], steerStatus := .ok, pairs := 0,
    permits := 0, stepsBegun := 0, stepLimit := 0, stepCarry := 0, below := false, seqStep := 0,
    intakeStep := 0, portSteps := [], portGrant := [], poolTurn := (0, 0), abandoned := [] }

def TallySt.reset : TallySt := { value := 0, gen := 0, start := 0, relSeq := 0 }

def MGroup.reset : MGroup := { chips := [], epoch := 0 }

def Book.reset : Book :=
  { phase := 0, step := 0, acts := [], scores := [], gates := [], statsDone := [], gated := [], choices := [],
    verdicts := [], closed := false, combining := false, cStep := 0, cActs := [], pairs := [], dispatches := [],
    cSkipped := 0, returned := false, skipped := 0, done := [], streams := [], ledgerSeq := [] }

def Ledger.reset : Ledger := { recs := [], reply := [], bad := false, seqs := [], complete := false }

def HopSt.reset : HopSt :=
  { trained := false, loss := [], up := false, version := 0, helloRx := none, seenSent := false, txSeq := 0, rxExp := 0,
    nakPending := false, unacked := [], resends := 0, own := [], fwd := [], turnFwd := false }

def Mirror.reset : Mirror :=
  { ctxs := [], mgroups := [], tallies := [], layers := [], places := [], routes := [], pairEpoch := 0,
    spareEpochs := [], memEpoch := 0 }

def TimeSt.reset : TimeSt :=
  { ftc := 0, raw := 0, slewLeft := 0, slewEvery := 0, slewWait := 0, offset := 0, setRefused := false,
    stepped := false, locked := false,
    upstreamLost := false, xid := 0, awaiting := false, t1 := none, missed := 0, lastSlew := 0, offsets := [],
    govPending := none, govAt := 0,
    govCtrl := 0x0000044C00000000#64, underrun := 0, active := false, pacerK := [], pacerAt := [], measure := [] }

def SwitchSt.reset : SwitchSt :=
  { frames := [], nextUid := 0, staging := [], egress := [], memq := [], intake := [], windows := [], pins := [],
    spray := [], sgenCtr := 0, setLast := [], retq := [], flueIn := [], flueArb := [], writeArb := [] }

def BpmSt.reset : BpmSt :=
  { copy := none, spareEpoch := 0, spareStatus := .ok, spareState := 0, spareStack := 0, sparePc := 0, spared := [],
    scrubPos := [], sramScrubPos := 0, sramMarks := [], sramRepairs := [], fusedRows := [], ddrPresent := 0, ddrUsable := 0,
    ddrWindow := false, ddrGb := 0, pcArb := [], siteErrors := [], sramChk := [], rowErrors := [] }

def CordSt.reset : CordSt :=
  { staged := [], activeImg := [], cfg := none, digest := [], status := .ok, detail := 0, section_ := 0,
    resource := 0, claimA := 0, claimB := 0, state := 0, action := .idle, serial := 0, floor := 0,
    claims := [], auxBefore := none }

def HostSt.reset : HostSt :=
  { hopUp := HopSt.reset, hopDn := HopSt.reset, chainAddr := 0xFF#8, wdExpired := false, cplq := [], cplHigh := 0,
    pendTally := [], entryCpl := [], signature := [], fullCal := [] }

/-- Power just applied: Off, U = 0, VID code of 720 mV (R317, Tables 15.6, 19.9). -/
def PowerSt.reset : PowerSt :=
  { state := .off, lastStatus := .ok, lastCmd := 0, haltCause := 0, startStep := 0, failStep := 0, fallback := false,
    bankEntry := false, restartKind := false, blazeU := 0, warn := false, exhausted := false, lifeSeconds := 0,
    lifeMs := 0, ratedExceeded := false, tj := 0, thermWarn := false, thermArmed := true, en := 0, pg := 0, pgOpen := 0,
    lastLost := 0, vidCode := 0x2C#8, vidTarget := 0x2C#8, dropping := false, haltN := true, porst := true, resumedAt := 0,
    lost := none }

def Firmware.reset : Firmware := { version := 0, svn := 0, slot := 0, cordKeys := [], digest := [] }

def DigestStore.reset : DigestStore :=
  { valid := false, fwDigest := [], cordDigest := [], cordSerial := 0, floor := 0, blazeSeconds := 0, rated := false,
    logMark := 0, coldStarts := 0 }

/-- A copy of the digest store that holds its reset values and verifies (log entry 99). -/
def StoreCopy.reset : StoreCopy := { gen := 0, mac := [], macOk := true, vals := DigestStore.reset }

def MssSt.reset : MssSt :=
  { deviceId := 0, grade := 0, svnFloor := 0, revoked := 0, keyDigests := [], repairFuses := [], secret := [],
    recovery := false, romOnly := true,
    fw := Firmware.reset, timers := [], sensors := [], sensorFailed := [], smbusSel := none, flash := [],
    flashValid := false, store := DigestStore.reset, storeA := StoreCopy.reset, storeB := StoreCopy.reset,
    sealWait := false, storeLost := false, logFifo := [], logLost := false,
    nextLseq := 0, ring := [], persistQ := [], logStore := [], sealing := some 0x10000#32, logSel := 0, logHeld := false,
    logData := [], staging := [], stagedLen := 0, words := [], updState := 0, updStatus := .ok, updDetail := 0,
    spdmStage := 0, spdmCtx := [], cosig := [], large := none, nextHandle := 0 }

def TwinSt.reset : TwinSt :=
  { hbTx := false, hbAlive := false, lastEdge := none, state := 0, cause := 0, version := 0, tookOver := false,
    fenced := false, epoch := 0, actStatus := .ok, actCode := 0, actEpoch := 0, recorded := [],
    partnerHello := none, sentMseq := 0, ackedMseq := 0, txq := [], nextSub := 0, recopy := false, rxNext := 1,
    early := [], sinceAck := 0, inCopy := false, copyResync := false, partnerResync := none,
    mirror := Mirror.reset, giveback := false, taking := false, resyncing := false, resynced := false,
    fetching := [], out := [], inbox := [] }

def DbgSt.reset : DbgSt :=
  { dampered := false, source := 0, serial := 0, origin := 0, td := 0, originTime := 0, serials := [],
    scan := { status := .ok, state := 0, sent := 0, size := 0, dest := false, base := 0, mask := 0, startTick := 0 },
    frozen := none, traceOld := none,
    traceFifo := [], traceCount := [], counters := [], recentAt := 0, recent := [], shadows := [], snapTick := 0,
    snapTaken := false, sparks := [],
    peekPending := false, peekStatus := .ok, peekDone := false, peekKind := 0, peekCols := 0, peekRows := 0,
    peekFlags := 0, peekData := [] }

/-- The device at the moment of power application (R317, R387): Off, every register at its reset value, every queue
empty, nothing in memory. -/
def State.reset : State :=
  { regs := [], time := TimeSt.reset, ports := [], sw := SwitchSt.reset, mem := { cells := [], chk := [] },
    bpm := BpmSt.reset, groups := [],
    ctx := { table := [], groups := [], tallies := [], needs := [], actStatus := .ok, actCode := 0, actCtx := 0,
             actMgrp := 0 },
    moe := { books := [], ledgers := [], wrStatus := .ok, wrCheck := 0, wrLtab := 0, cache := [] },
    cord := CordSt.reset, host := HostSt.reset, pwr := PowerSt.reset, mss := MssSt.reset, twn := TwinSt.reset,
    dbg := DbgSt.reset, lastStatus := .ok, freeCtr := 0, wire := [], pending := [] }

end Sys2Proof.Machine
end

