-- ==== Sys2Proof/Machine/Ops.lean ====
section
/-! DEFINITION. The named operations the meanings are built from: bit fields and octet strings, CRC-32C and Philox,
registers, counters, log, completions, memory with its word code, and buffer pools. -/

namespace Sys2Proof.Machine

open Sys2Proof

/-! ### Bit fields and octets -/

/-- Bits hi down to lo of a number. -/
def bits (v hi lo : Nat) : Nat := (v / 2 ^ lo) % 2 ^ (hi + 1 - lo)

/-- Bits hi down to lo of a word, as a number (R8). -/
def fld (v : W64) (hi lo : Nat) : Nat := bits v.toNat hi lo

/-- Bit i of a word. -/
def bitAt (v : W64) (i : Nat) : Bool := v.getLsbD i

def bv64 (n : Nat) : W64 := BitVec.ofNat 64 n

/-- A 64-bit word with `v` placed at bit `lo`. -/
def at_ (v lo : Nat) : W64 := bv64 (v * 2 ^ lo)

def bit1 (b : Bool) : Nat := if b then 1 else 0

/-- The mask of bits hi down to lo. -/
def maskOf (hi lo : Nat) : W64 := bv64 ((2 ^ (hi + 1 - lo) - 1) * 2 ^ lo)

/-- The n octets of a number, most significant first (wire order, R9). -/
def beBytes : Nat → Nat → List Byte
  | 0, _ => []
  | n + 1, v => BitVec.ofNat 8 (v / 256 ^ n) :: beBytes n v

/-- The n octets of a number, least significant first (memory order, R9). -/
def leBytes : Nat → Nat → List Byte
  | 0, _ => []
  | n + 1, v => BitVec.ofNat 8 v :: leBytes n (v / 256)

/-- The number whose most significant octet comes first. -/
def fromBe (l : List Byte) : Nat := l.foldl (fun a b => a * 256 + b.toNat) 0

/-- The number whose least significant octet comes first. -/
def fromLe : List Byte → Nat
  | [] => 0
  | b :: l => b.toNat + 256 * fromLe l

/-- n octets from position i of an octet string. -/
def slice (l : List Byte) (i n : Nat) : List Byte := (l.drop i).take n

def allZero (l : List Byte) : Bool := l.all (fun b => b == 0)

def zeros (n : Nat) : List Byte := List.replicate n 0

/-- The octets of a field of n octets. -/
def fixN (n : Nat) (l : List Byte) : List Byte := (l ++ zeros n).take n

def ffs (n : Nat) : List Byte := List.replicate n 0xFF#8

/-! ### CRC-32C and Philox -/

/-- One bit of the reflected Castagnoli division. -/
def crcBit (c : BitVec 32) : BitVec 32 :=
  if c.getLsbD 0 then (c >>> 1) ^^^ 0x82F63B78#32 else c >>> 1

def crcByte (c : BitVec 32) (b : Byte) : BitVec 32 :=
  let x := c ^^^ b.setWidth 32
  crcBit (crcBit (crcBit (crcBit (crcBit (crcBit (crcBit (crcBit x)))))))

/-- CRC-32C (Castagnoli polynomial) of an octet string (R55, R78, R89). -/
def crc32c (l : List Byte) : BitVec 32 := l.foldl crcByte 0xFFFFFFFF#32 ^^^ 0xFFFFFFFF#32

/-- One bit of the reflected division by the IEEE 802.3 polynomial. -/
def fcsBit (c : BitVec 32) : BitVec 32 :=
  if c.getLsbD 0 then (c >>> 1) ^^^ 0xEDB88320#32 else c >>> 1

def fcsByte (c : BitVec 32) (b : Byte) : BitVec 32 :=
  let x := c ^^^ b.setWidth 32
  fcsBit (fcsBit (fcsBit (fcsBit (fcsBit (fcsBit (fcsBit (fcsBit x)))))))

/-- The frame check sequence of a MAC frame, IEEE 802.3's CRC-32 (R70). -/
def macFcs (l : List Byte) : BitVec 32 := l.foldl fcsByte 0xFFFFFFFF#32 ^^^ 0xFFFFFFFF#32

/-- One round of Philox4x32. -/
def philoxRound (c : Nat × Nat × Nat × Nat) (k : Nat × Nat) : Nat × Nat × Nat × Nat :=
  let p0 := 0xD2511F53 * c.1
  let p1 := 0xCD9E8D57 * c.2.2.1
  (Nat.xor (Nat.xor (p1 / 2 ^ 32) c.2.1) k.1, p1 % 2 ^ 32,
   Nat.xor (Nat.xor (p0 / 2 ^ 32) c.2.2.2) k.2, p0 % 2 ^ 32)

def philoxGo : Nat → Nat × Nat × Nat × Nat → Nat × Nat → Nat × Nat × Nat × Nat
  | 0, c, _ => c
  | n + 1, c, k =>
    philoxGo n (philoxRound c k) ((k.1 + 0x9E3779B9) % 2 ^ 32, (k.2 + 0xBB67AE85) % 2 ^ 32)

/-- The first output word of Philox4x32-10 (R108, R250). -/
def philox0 (key : Nat × Nat) (ctr : Nat × Nat × Nat × Nat) : Nat := (philoxGo 10 ctr key).1

/-! ### Registers -/

/-- The base of block b of the control space (Table 14.12). -/
def blockBase (b : Nat) : Nat := b * 0x100000000

namespace Reg
def ctGuard : Nat := blockBase 2 + 0x1010
def discCtrl : Nat := blockBase 2 + 0x10
def fwdCfg : Nat := blockBase 3
def reorderCfg : Nat := blockBase 3 + 0x08
def pinCfg : Nat := blockBase 3 + 0x10
def sparkCtrl : Nat := blockBase 3 + 0x18
def sparkSeed : Nat := blockBase 3 + 0x20
def arbCfg : Nat := blockBase 3 + 0x28
def tcCfg (t : Nat) : Nat := blockBase 3 + 0x40 + 8 * t
def obCfg (n : Nat) : Nat := blockBase 3 + 0x80 + 8 * n
def portBase (l : Nat) : Nat := blockBase 3 + 0x01000000 + 0x100 * l
def lnkCfg (l : Nat) : Nat := portBase l
def ethCtrl (l : Nat) : Nat := portBase l + 0x20
def ethMac (l n : Nat) : Nat := portBase l + 0x28 + 8 * n
def ethIp (l n : Nat) : Nat := portBase l + 0x40 + 8 * n
def police (l t : Nat) : Nat := portBase l + 0x80 + 8 * t
def rtRack (r : Nat) : Nat := blockBase 3 + 0x02000000 + 8 * r
def rtSlot (t s : Nat) : Nat := blockBase 3 + 0x02010000 + 0x200 * t + 8 * s
def rtSet (n w : Nat) : Nat := blockBase 3 + 0x02100000 + 0x80 * n + 8 * w
def sampleCtrl : Nat := blockBase 4
def qCfg (l t : Nat) : Nat := blockBase 4 + 0x00100000 + 0x400 * l + 0x40 * t
def qShape (l t : Nat) : Nat := qCfg l t + 8
def memScrub : Nat := blockBase 5 + 0x08
def memArb : Nat := blockBase 5 + 0x10
def hbmFreeze (st : Nat) : Nat := blockBase 5 + 0x140 + 8 * st
def stnBase (n : Nat) : Nat := blockBase 7 + n * 0x10000000
def stnArb (n : Nat) : Nat := stnBase n + 0x08
def trigger (n u : Nat) : Nat := stnBase n + 0x300 + 8 * u
def arithDebug : Nat := blockBase 6 + 0x100
def peekCtrl : Nat := blockBase 6 + 0x108
def redCfg : Nat := blockBase 6 + 0x200
def ctxArg (i : Nat) : Nat := blockBase 8 + 8 * i
def mgrpStage (k : Nat) : Nat := blockBase 8 + 0x10000 + 8 * k
def tallyCfg (t : Nat) : Nat := blockBase 8 + 0x10000000 + 0x20 * t + 0x08
def tallyRelease (t : Nat) : Nat := blockBase 8 + 0x10000000 + 0x20 * t + 0x10
def layer (l w : Nat) : Nat := blockBase 9 + 0x10000 + 0x40 * l + 8 * w
def place (b l e : Nat) : Nat := blockBase 9 + 0x01000000 + 0x1000000 * b + 0x10000 * l + 8 * e
def cmp (n : Nat) : Nat := blockBase 10 + 8 * n
def steer (n : Nat) : Nat := blockBase 10 + 0x100 + 8 * n
def twnCfg : Nat := blockBase 12
def dbgEnable : Nat := blockBase 13
def damperCfg : Nat := blockBase 13 + 0x108
def traceRing (d : Nat) : Nat := blockBase 13 + 0x300 + 8 * d
def snapCtrl : Nat := blockBase 13 + 0x400
def vset : Nat := blockBase 14 + 0x10
def groupGate : Nat := blockBase 14 + 0x18
def wdCfg : Nat := blockBase 1 + 0x10
def logCfg : Nat := 0x408

/-- What a stored register reads as when nothing has been written: its table's reset value. -/
def resetValue (a : Nat) : W64 :=
  let b := a / 0x100000000
  let o := a % 0x100000000
  if b = 0 then (if o = 0x408 then 2#64 else 0)
  else if b = 1 then (if o = 0x10 then 0x3E8#64 else 0)
  else if b = 2 then (if o = 0x1010 then 0x44C#64 else if o = 0x10 then 0xFFFF0000#64 else 0)
  else if b = 3 then
    (if o = 0 then 0x800#64
     else if o = 0x08 then 0x04E20300100A0000#64
     else if o = 0x10 then 0x186A0#64
     else if o = 0x28 then 0x1010#64
     else if 0x40 ≤ o ∧ o < 0x80 then 0x06000000#64
     else if 0x80 ≤ o ∧ o < 0x100 then 0x0000400000000000#64
     else if 0x01000000 ≤ o ∧ o < 0x01040000 ∧ o % 0x100 = 0x20 then 2#64
     else 0)
  else if b = 4 then
    (if o = 0 then 0x1400#64
     else if 0x00100000 ≤ o ∧ o < 0x00200000 ∧ o % 0x400 < 0x200 ∧ o % 0x40 = 0 then 0x10#64
     else 0)
  else if b = 5 then (if o = 0x10 then 0x10#64 else 0)
  else if b = 7 then
    (let p := o % 0x10000000
     if p = 0x08 then 0x10#64
     else if 0x300 ≤ p ∧ p < 0x360 then 0x00003FFF00007FFF#64 else 0)
  else if b = 8 then (if o = 0 then 0x3FFF#64 else 0)
  else if b = 10 then
    (if o < 0x80 then 0x9F#64 else if 0x100 ≤ o ∧ o < 0x180 then 9#64 else 0)
  else if b = 12 then (if o = 0 then 0x40001#64 else 0)
  else if b = 13 then (if o = 0x400 then 0xF4240#64 else 0)
  else if b = 14 then (if o = 0x10 then 0x2D0#64 else 0)
  else 0
end Reg

/-- A stored register. -/
def reg (s : State) (a : Nat) : W64 := Map.getD s.regs a (Reg.resetValue a)

/-- Store a register: writing the reset value takes the entry out, so equal contents are equal data. -/
def setReg (s : State) (a : Nat) (v : W64) : State :=
  { s with regs := if v = Reg.resetValue a then Map.erase s.regs a else Map.set s.regs a v }

/-! ### Parts of the state -/

/-- The present tick of the fabric time counter (R37). Every stamp and reading in the package takes the master's value:
the followers of R38 have no value of their own in the model (log entry 71). -/
def now (s : State) : Nat := s.time.ftc.toNat

def linkKey : LinkId → Nat
  | .port l => l.toNat
  | .sub n => 1024 + n.toNat

def getPort (s : State) (k : Nat) : Port := Map.getD s.ports k Port.reset

def setPort (s : State) (k : Nat) (p : Port) : State := { s with ports := Map.set s.ports k p }

def modPort (s : State) (k : Nat) (f : Port → Port) : State := setPort s k (f (getPort s k))

def getGroup (s : State) (g : Nat) : GroupSt := Map.getD s.groups g GroupSt.reset

def setGroup (s : State) (g : Nat) (x : GroupSt) : State := { s with groups := Map.set s.groups g x }

def modGroup (s : State) (g : Nat) (f : GroupSt → GroupSt) : State := setGroup s g (f (getGroup s g))

def getUnit (s : State) (g u : Nat) : UnitSt := Map.getD (getGroup s g).units u UnitSt.reset

def setUnit (s : State) (g u : Nat) (x : UnitSt) : State :=
  modGroup s g (fun gr => { gr with units := Map.set gr.units u x })

def modUnit (s : State) (g u : Nat) (f : UnitSt → UnitSt) : State := setUnit s g u (f (getUnit s g u))

def emit (s : State) (w : WireOut) : State := { s with wire := w :: s.wire }

def withStatus (s : State) (st : Status) : State := { s with lastStatus := st }

/-- The next free value: a value the spec leaves open, with the counter advanced. -/
def takeFree (s : State) : W64 × State :=
  (Config.freeValue s.freeCtr, { s with freeCtr := s.freeCtr + 1 })

def Status.code : Status → Nat
  | .ok => 0 | .stationAbsent => 1 | .queueFull => 2 | .resourceBound => 3 | .poolExhausted => 4 | .freeDenied => 5
  | .contextLimit => 6 | .contextTimedOut => 7 | .epochStale => 8 | .malformedTile => 9 | .paramLocked => 10
  | .versionUnsupported => 11 | .signatureFail => 12 | .cordRejected => 13 | .cordConflict => 14 | .notBankable => 15
  | .dampered => 16 | .twinFenced => 17 | .fieldInvalid => 18

/-- Units present in every group of the grade (R2, Table 6.6). -/
def unitsOfGrade (g : BitVec 2) : Nat := if g = 0 then 0x1FFF else if g = 1 then 0x13FF else 0x11FF

def unitPresent (s : State) (u : Nat) : Bool := u < 13 && (unitsOfGrade s.mss.grade).testBit u

/-- Kinds of station by unit (R129, R141): 0 reduce, 1 gather, 2 sort, 3 filter, 4 dense, 5 sparse, 6 sequencer. -/
def unitKind (u : Nat) : Nat :=
  if u ≤ 4 then 0 else if u ≤ 6 then 1 else if u = 7 then 2 else if u = 8 then 3 else if u ≤ 10 then 4
  else if u = 11 then 5 else 6

/-- The die of a port group or hearth group (Table 1.1). -/
def dieOf (g : Nat) : Nat := g / 4

/-! ### Counters (R379) -/

def ctrKey (b i k : Nat) : Nat := (b * 64 + i) * 16384 + k

/-- Add n events to a counter; it stops at 2^48 - 1, where SAT is set (R379). -/
def bumpCtr (key n : Nat) (m : Map Nat) : Map Nat :=
  let old := Map.getD m key 0
  let cnt := old % 2 ^ 48 + n
  Map.set m key (if cnt ≥ 2 ^ 48 - 1 then 2 ^ 63 + (2 ^ 48 - 1) else (old / 2 ^ 63) * 2 ^ 63 + cnt)

/-- Count n events on counter i, instance k, of block b, while its block is enabled (R379). A snapshot of this tick has
the tick's events included (R380). -/
def countN (b i k n : Nat) (s : State) : State :=
  if n = 0 then s
  else if bitAt (reg s Reg.dbgEnable) b then
    let key := ctrKey b i k
    let t := s.time.ftc
    { s with dbg := { s.dbg with
      counters := bumpCtr key n s.dbg.counters, recentAt := t,
      recent := bumpCtr key n (if s.dbg.recentAt = t then s.dbg.recent else []),
      shadows := if s.dbg.snapTaken ∧ s.dbg.snapTick = t then bumpCtr key n s.dbg.shadows else s.dbg.shadows } }
  else s

def count (b i k : Nat) (s : State) : State := countN b i k 1 s

/-- The counter instance of a frame's source: its port's first lane, or 1,024 + n for a return port (Table 18.6). -/
def srcInstance : FrameSrc → Nat
  | .port l _ => l.toNat
  | .eth l => l.toNat
  | .ret g => 1024 + g.toNat

/-- The port group of a frame's source. -/
def srcPg : FrameSrc → Nat
  | .port l _ => l.toNat / 64
  | .eth l => l.toNat / 64
  | .ret g => g.toNat

/-! ### The event log (R337-R339) -/

/-- The block that owns an event: CODE[15:8], but for the events of Table 16.5, whose CODE[15:8] is 0: the start, rail,
Blaze and heat events are PWR_'s, a keep-alive expiry HLK_'s, a governor underrun TMP_'s, a late start STN_'s and an
uncorrectable word BPM_'s (R337, R339; DEDUCED, log entry 75). -/
def logBlock (code : Nat) : Nat :=
  if 0x0001 ≤ code ∧ code ≤ 0x0008 ∨ code = 0x000E then 14
  else if code = 0x000D then 1
  else if code = 0x000F then 7
  else if code = 0x0010 then 2
  else if code = 0x0011 then 5
  else code / 256

/-- Does entry a precede entry b: same tick, and lower block, then lower UNIT (R337)? -/
def logBefore (a b : LogRec) : Bool :=
  a.ftime == b.ftime &&
    (decide (logBlock a.code.toNat < logBlock b.code.toNat) ||
      (logBlock a.code.toNat == logBlock b.code.toNat && decide (a.unit.toNat < b.unit.toNat)))

/-- Insert an arriving entry behind every entry it does not precede. -/
def logInsert (a : LogRec) : List LogRec → List LogRec
  | [] => [a]
  | b :: l => if logBefore a b then a :: b :: l else b :: logInsert a l

/-- Log an event: it enters the intake FIFO of 1,024 entries, or is dropped and counted (R337). -/
def logEv (code sev unit : Nat) (tag : Option (BitVec 24)) (args : List Nat) (s : State) : State :=
  let e : LogRec :=
    { lseq := 0, code := BitVec.ofNat 16 code, sev := BitVec.ofNat 2 sev, unit := BitVec.ofNat 8 unit, tag := tag,
      lost := false, persist := false, ftime := s.time.ftc, args := args.map bv64 }
  if s.mss.logFifo.length < 1024 then
    { s with mss := { s.mss with logFifo := logInsert e s.mss.logFifo } }
  else count 0 0 0 { s with mss := { s.mss with logLost := true } }

/-- CODE of an outcome with a status, of a counted event, and of any other event of block b (R339). -/
def codeStatus (b : Nat) (st : Status) : Nat := b * 256 + st.code
def codeCounter (b i : Nat) : Nat := b * 256 + 0x80 + i
def codeOther (b : Nat) : Nat := b * 256 + 0xFF

/-- UNIT byte of a group's unit (R338). -/
def unitByte (g u : Nat) : Nat := g * 16 + u

/-! ### Completions (R312) -/

/-- Write a completion record into the queue; whether there was room. -/
def pushCpl (c : Cpl) (s : State) : Bool × State :=
  if s.host.cplq.length < 4096 then
    let q := s.host.cplq ++ [{ c with ftime := s.time.ftc }]
    (true, { s with host := { s.host with cplq := q, cplHigh := max s.host.cplHigh q.length } })
  else (false, s)

/-- A command record's completion. -/
def mkCpl (g opc : Nat) (tag : BitVec 24) (st : Status) (result : W64) : Cpl :=
  { kind := 1, status := st, group := BitVec.ofNat 4 g, opcode := BitVec.ofNat 8 opc, tag := tag, pass := 0, btag := 0,
    result := result, ftime := 0 }

/-- Complete a command the group sequencer took (QUIET leaves out an OK record, Table 14.5); a full queue holds it. -/
def completeSeq (g opc : Nat) (tag : BitVec 24) (quiet : Bool) (st : Status) (result : W64) (s : State) : State :=
  if quiet && st == .ok then s
  else
    let r := pushCpl (mkCpl g opc tag st result) s
    if r.1 then r.2 else modGroup s g (fun gr => { gr with seqCpl := some (mkCpl g opc tag st result) })

/-- Complete an invocation of unit u: a triggered one writes no record (R167). -/
def completeUnit (g u : Nat) (inv : Invoc) (st : Status) (pass : Nat) (btag : BitVec 24) (s : State) : State :=
  if inv.triggered || (inv.quiet && st == .ok) then s
  else
    let c : Cpl := { mkCpl g 1 inv.tag st 0 with
      pass := if st = .ok then 0 else BitVec.ofNat 32 pass, btag := if st = .ok then 0 else btag }
    let r := pushCpl c s
    if r.1 then r.2 else modUnit s g u (fun un => { un with heldCpl := some c })

/-- A tally notification: queued, or kept in the pending store of one record per tally (R312). -/
def notifyTally (t : Nat) (gen : BitVec 16) (s : State) : State :=
  let waiting := Map.get? s.host.pendTally t
  let c (f : Nat) : Cpl :=
    { kind := 2, status := .ok, group := 0, opcode := 0, tag := 0, pass := 0, btag := 0,
      result := at_ gen.toNat 48 ||| at_ f 16 ||| bv64 t, ftime := 0 }
  match waiting with
  | some (_, n) =>
    { s with host := { s.host with pendTally := Map.set s.host.pendTally t (gen, min (n + 1) 65535) } }
  | none =>
    let r := pushCpl (c 1) s
    if r.1 then r.2 else { s with host := { s.host with pendTally := Map.set s.host.pendTally t (gen, 1) } }

/-! ### Memory: windows, the word code, reads and writes (R117-R123) -/

/-- Size in octets of the HBM4 window (Table 1.5). -/
def hbmSize : Nat := 0x006C00000000
def ddrBase : Nat := 0x020000000000

/-- The populated octets of the DDR5 window (R116). -/
def ddrSize (s : State) : Nat := if s.bpm.ddrWindow then 8 * s.bpm.ddrGb.toNat * 2 ^ 30 else 0

/-- Is the octet in a range bound under R294? -/
def bound (s : State) (o : Nat) : Bool :=
  s.cord.claims.any (fun c =>
    c.2.resource == 0x20#8 && decide (c.2.base * 2 ^ 20 ≤ o) && decide (o < (c.2.base + c.2.len) * 2 ^ 20))

/-- May octet o be reached by a frame, READ or WRITE (R118, R294)? -/
def reachable (s : State) (o : Nat) : Bool :=
  (decide (o < hbmSize) || (decide (ddrBase ≤ o) && decide (o < ddrBase + ddrSize s))) && !bound s o

/-- Whether a bound range or the edge of a window meets the n octets from o: any octet out of reach spoils the access.
-/
def rangeOk (s : State) (o n : Nat) : Bool :=
  n == 0 ||
    ((decide (o + n ≤ hbmSize) || (decide (ddrBase ≤ o) && decide (o + n ≤ ddrBase + ddrSize s))) &&
      !(s.cord.claims.any (fun c =>
        c.2.resource == 0x20#8 && decide (c.2.base * 2 ^ 20 < o + n) && decide (o < (c.2.base + c.2.len) * 2 ^ 20))))

/-- The memory's canonical form: addresses strictly rising and no cell holding 0, what an unlisted octet reads as. -/
def Memory.sorted : List Host.Cell → Bool
  | [] => true
  | [(_, v)] => v != 0
  | (a, v) :: (b, w) :: m => v != 0 && decide (a < b) && Memory.sorted ((b, w) :: m)

abbrev Memory.wf (m : List Host.Cell) : Prop := Memory.sorted m = true

/-- Octet at an address; an unlisted one reads 0 (cold-start scrub, R318 step 9). -/
def Memory.readByte : List Host.Cell → Nat → Byte
  | [], _ => 0
  | (a, v) :: m, k => if a = k then v else Memory.readByte m k

/-- Write one octet, keeping the canonical form: writing 0 removes the cell. -/
def Memory.writeByte : List Host.Cell → Nat → Byte → List Host.Cell
  | [], k, v => if v = 0 then [] else [(k, v)]
  | (a, w) :: m, k, v =>
    if k < a then (if v = 0 then (a, w) :: m else (k, v) :: (a, w) :: m)
    else if k = a then (if v = 0 then m else (k, v) :: m)
    else (a, w) :: Memory.writeByte m k v

def Memory.writeBytes : List Host.Cell → Nat → List Byte → List Host.Cell
  | m, _, [] => m
  | m, k, v :: l => Memory.writeBytes (Memory.writeByte m k v) (k + 1) l

def Memory.readBytes (m : List Host.Cell) (k n : Nat) : List Byte :=
  (List.range n).map (fun i => Memory.readByte m (k + i))

/-- Product in GF(16) with x^4 + x + 1 (R120). -/
def gf16Mul (a b : Nat) : Nat :=
  let dbl (x : Nat) : Nat := if x < 8 then 2 * x else Nat.xor (2 * x - 16) 3
  let step (acc : Nat × Nat) (i : Nat) : Nat × Nat :=
    (if b.testBit i then Nat.xor acc.1 acc.2 else acc.1, dbl acc.2)
  ([0, 1, 2, 3].foldl step (0, a)).1

def gf16Pow : Nat → Nat
  | 0 => 1
  | n + 1 => gf16Mul 2 (gf16Pow n)

/-- The inverse of a non-zero element: a^14. -/
def gf16Inv (a : Nat) : Nat :=
  (List.range 14).foldl (fun acc _ => gf16Mul acc a) 1

/-- The four check symbols c0-c3 of a data word, packed as bits [79:64] (R120). -/
def checkBits (w : Nat) : Nat :=
  let d (i : Nat) : Nat := bits w (4 * i + 3) (4 * i)
  let sum (p : Nat) : Nat :=
    (List.range 15).foldl (fun acc i => Nat.xor acc (gf16Mul (gf16Pow ((p * i) % 15)) (d i))) 0
  let c0 := sum 0
  let c1 := Nat.xor (sum 1) (d 15)
  let c2 := Nat.xor (sum 2) (d 15)
  let c3 := Nat.xor (sum 3) (gf16Mul (gf16Pow 3) (d 15))
  c0 + 16 * c1 + 256 * c2 + 4096 * c3

/-- What a read of a word finds (R121). -/
inductive Syndrome where
  | good
  | poison
  | correctData (i : Nat) (e : Nat)
  | correctCheck
  | uncorrectable
  deriving DecidableEq, Repr

/-- Judge a syndrome s0-s3, packed as the check bits are (R121). -/
def judge (sy : Nat) : Syndrome :=
  let s0 := bits sy 3 0
  let s1 := bits sy 7 4
  let s2 := bits sy 11 8
  let s3 := bits sy 15 12
  if sy % 65536 = 0 then .good
  else if s0 = 1 ∧ s1 = 0 ∧ s2 = 0 ∧ s3 = 1 then .poison
  else if s0 ≠ 0 then
    let a := gf16Mul s1 (gf16Inv s0)
    if s2 = gf16Mul s0 (gf16Mul a a) ∧ s3 = gf16Mul s0 (gf16Mul a (gf16Mul a a)) then
      if a = 0 then .correctCheck
      else
        match (List.range 15).find? (fun i => gf16Pow i == a) with
        | some i => .correctData i s0
        | none => .uncorrectable
    else .uncorrectable
  else if s1 ≠ 0 ∧ s2 = s1 ∧ s3 = gf16Mul (gf16Pow 3) s1 then .correctData 15 s1
  else if (s1 ≠ 0 ∧ s2 = 0 ∧ s3 = 0) ∨ (s1 = 0 ∧ s2 ≠ 0 ∧ s3 = 0) ∨ (s1 = 0 ∧ s2 = 0 ∧ s3 ≠ 0) then .correctCheck
  else .uncorrectable

/-- One word of memory as a read finds it: is it uncorrectable, and the memory after the write-back (R121, R123). -/
def readWord (m : MemSt) (o : Nat) : Bool × MemSt :=
  let w := o / 8 * 8
  match Map.get? m.chk w with
  | none => (false, m)
  | some dl =>
    match judge dl.toNat with
    | .good => (false, { m with chk := Map.erase m.chk w })
    | .poison => (true, m)
    | .correctCheck => (false, { m with chk := Map.erase m.chk w })
    | .correctData i e =>
      let old := Memory.readByte m.cells (w + i / 2)
      let x : Byte := BitVec.ofNat 8 (if i % 2 = 0 then e else 16 * e)
      (false, { cells := Memory.writeByte m.cells (w + i / 2) (old ^^^ x), chk := Map.erase m.chk w })
    | .uncorrectable => (true, { m with chk := Map.set m.chk w 0x1001#16 })

/-- Does a read of the word correct a symbol (R121)? -/
def wordCorrected (m : MemSt) (o : Nat) : Bool :=
  match Map.get? m.chk (o / 8 * 8) with
  | none => false
  | some dl =>
    match judge dl.toNat with
    | .correctCheck => true
    | .correctData _ _ => true
    | _ => false

/-- Words met by n octets from o. -/
def wordsOf (o n : Nat) : List Nat :=
  if n = 0 then [] else (List.range ((o + n - 1) / 8 - o / 8 + 1)).map (fun i => (o / 8 + i) * 8)

/-- The memory number of an offset for log code 0x0011: 1 HBM4, 2 DDR5. -/
def memKind (o : Nat) : Nat := if o < hbmSize then 1 else 2

/-- The pseudo-channel (64 × stack + pc) or DDR5 channel (512 + ch) an offset lies in (R117). -/
def memSite (o : Nat) : Nat :=
  if o < hbmSize then 64 * (o / 0x001200000000) + o / 256 % 64 else 512 + (o - ddrBase) / 256 % 8

/-- The die a pseudo-channel or DDR5 channel is attached to (Table 1.1, R114, R117): H0 to D0, H2 to D2, H3 to D1, H5 to
D3; the halves of H1 to D0 and D2, those of H4 to D1 and D3; channel ch to die ch div 2. -/
def siteDie (k : Nat) : Nat :=
  if 512 ≤ k then (k - 512) / 2
  else
    match k / 64 with
    | 0 => 0
    | 1 => if k % 64 < 32 then 0 else 2
    | 2 => 2
    | 3 => 1
    | 4 => if k % 64 < 32 then 1 else 3
    | _ => 3

/-- A word read from memory is corrected: counted with its location (R121). -/
def countFixed (w : Nat) (s : State) : State :=
  { s with bpm := { s.bpm with
    siteErrors := Map.set s.bpm.siteErrors (memSite w) (Map.getD s.bpm.siteErrors (memSite w) 0 + 1) } }

/-- One word of memory read: is it bad, and the state after: corrected and counted, or poisoned and logged
(R121-R123). -/
def takeWord (reader unit : Nat) (tag : Option (BitVec 24)) (w : Nat) (s : State) : Bool × State :=
  let r := readWord s.mem w
  let s1 := { s with mem := r.2 }
  if r.1 then (true, logEv 0x0011 2 unit tag [memKind w, w, reader] s1)
  else (false, if wordCorrected s.mem w then countFixed w s1 else s1)

/-- Read the words of a range: correct them, poison and log the uncorrectable ones; the list of bad words (R121-R123).
-/
def scanWords (reader unit : Nat) (tag : Option (BitVec 24)) (ws : List Nat) (s : State) : List Nat × State :=
  ws.foldl (fun acc w =>
    let r := takeWord reader unit tag w acc.2
    (if r.1 then acc.1 ++ [w] else acc.1, r.2)) ([], s)

/-- Read n octets from o, every octet in reach: the octets as delivered (0xFF in an uncorrectable word) and the bad
words. -/
def readMem (reader unit : Nat) (tag : Option (BitVec 24)) (o n : Nat) (s : State) : List Byte × List Nat × State :=
  let r := scanWords reader unit tag (wordsOf o n) s
  let b := (List.range n).map (fun i =>
    if r.1.contains ((o + i) / 8 * 8) then 0xFF#8 else Memory.readByte r.2.mem.cells (o + i))
  (b, r.1, r.2)

/-- Write octets from o, word by word: a whole word is stored with fresh checks; a part of a word is a
read-modify-write, and on a poisoned word it is lost and counted (R119, R123). The read of a read-modify-write logs an
uncorrectable word under the reader number of the access it belongs to (log entry 74). -/
def writeMem (reader unit : Nat) (tag : Option (BitVec 24)) (o : Nat) (l : List Byte) (s : State) : State :=
  (wordsOf o l.length).foldl (fun s w =>
    let lo := max o w
    let hi := min (o + l.length) (w + 8)
    let part := slice l (lo - o) (hi - lo)
    if hi - lo = 8 then
      { s with mem := { cells := Memory.writeBytes s.mem.cells lo part, chk := Map.erase s.mem.chk w } }
    else
      let r := takeWord reader unit tag w s
      if r.1 then count 5 4 0 r.2
      else { r.2 with mem := { r.2.mem with cells := Memory.writeBytes r.2.mem.cells lo part } }) s

/-! ### SRAM words (R27, R121-R125) -/

/-- SRAM that no control-space address names: an accumulator in a unit's local store, a program, a command FIFO, and in
table SRAM a reorder window, a pin, a spray counter and a member group. -/
inductive SramStore where
  | accumulator | program | fifo | window | pin | spray | members
  deriving DecidableEq, Repr

/-- What a word of SRAM belongs to: a frame in an output buffer, a pool buffer of a scratch, a table word at a
control-space address, a context's state, a tally, or thing n of another store. -/
inductive SramObj where
  | frame (uid : Nat)
  | tile (h : Nat)
  | table (a : Nat)
  | ctx (c : Nat)
  | tally (t : Nat)
  | store (k : SramStore) (n : Nat)
  deriving DecidableEq, Repr

/-- The number of a store among the places of SRAM words. -/
def SramStore.no : SramStore → Nat
  | .accumulator => 5
  | .program => 6
  | .fifo => 7
  | .window => 8
  | .pin => 9
  | .spray => 10
  | .members => 11

/-- Words of SRAM in the package: four dies of 384 macros of 1 MB (R111, R125). -/
def sramWords : Nat := 4 * 384 * 131072

/-- The SRAM word that holds word i of a thing. -/
def SramObj.word (ob : SramObj) (i : Nat) : Nat :=
  (match ob with
    | .frame n => Config.sramPlace 0 n i
    | .tile n => Config.sramPlace 1 n i
    | .table n => Config.sramPlace 2 n i
    | .ctx n => Config.sramPlace 3 n i
    | .tally n => Config.sramPlace 4 n i
    | .store k n => Config.sramPlace k.no n i) % sramWords

/-- Which of the words lo to lo + n - 1 of a thing the SRAM word p is. -/
def SramObj.index (ob : SramObj) (lo n p : Nat) : Option Nat :=
  (upTo n).find? (fun i => ob.word (lo + i) == p)

/-- The octet address of an SRAM word in its die's SRAM: what log code 0x0011 and clinker kind 2 report (log entry
74). -/
def sramAddr (p : Nat) : Nat := 8 * (p % (384 * 131072))

/-- The row of an SRAM word, numbered 2^16 × macro + row. -/
def sramRowOf (p : Nat) : Nat := 65536 * (p / 131072) + Config.sramRow (p % 131072) % 65536

/-- Is what is stored of a word beyond correction? -/
def badSyndrome (dl : BitVec 16) : Bool :=
  match judge dl.toNat with
  | .poison => true
  | .uncorrectable => true
  | _ => false

/-- A corrected SRAM word is written back and counted; the MSS marks its row at 8 corrected errors, up to 256 marks
(R125). -/
def sramFixed (p : Nat) (s : State) : State :=
  let r := sramRowOf p
  let n := Map.getD s.bpm.rowErrors r 0 + 1
  let b : BpmSt := { s.bpm with sramChk := Map.erase s.bpm.sramChk p }
  if 8 ≤ n ∧ ¬ b.sramMarks.contains r ∧ b.sramMarks.length < 256 then
    { s with bpm := { b with rowErrors := Map.erase b.rowErrors r, sramMarks := b.sramMarks ++ [r] } }
  else { s with bpm := { b with rowErrors := Map.set b.rowErrors r n } }

/-- One SRAM word read: is it bad, and the state after: corrected and counted, or logged (R121, R122). -/
def takeSram (reader unit : Nat) (tag : Option (BitVec 24)) (p : Nat) (s : State) : Bool × State :=
  match Map.get? s.bpm.sramChk p with
  | none => (false, s)
  | some dl =>
    if badSyndrome dl then (true, logEv 0x0011 2 unit tag [0, sramAddr p, reader] s)
    else if dl = 0 then (false, { s with bpm := { s.bpm with sramChk := Map.erase s.bpm.sramChk p } })
    else (false, sramFixed p s)

/-- Read the words lo to lo + n - 1 of a thing: the addresses of the bad ones, and the state after. -/
def readSram (reader unit : Nat) (tag : Option (BitVec 24)) (ob : SramObj) (lo n : Nat) (s : State) : List Nat × State :=
  (s.bpm.sramChk.filter (fun e => (ob.index lo n e.1).isSome)).foldl (fun acc e =>
    let r := takeSram reader unit tag e.1 acc.2
    (if r.1 then acc.1 ++ [sramAddr e.1] else acc.1, r.2)) ([], s)

/-- Would a read of those words find a bad one? -/
def sramBad (ob : SramObj) (lo n : Nat) (s : State) : Bool :=
  s.bpm.sramChk.any (fun e => (ob.index lo n e.1).isSome && badSyndrome e.2)

/-- Those words are written: they hold fresh check symbols. -/
def writeSram (ob : SramObj) (lo n : Nat) (s : State) : State :=
  if s.bpm.sramChk.any (fun e => (ob.index lo n e.1).isSome) then
    { s with bpm := { s.bpm with sramChk := Map.keep s.bpm.sramChk (fun p _ => (ob.index lo n p).isNone) } }
  else s

/-- The first words of a thing are read and written back, as a table entry is that each use changes: corrected and
counted, or logged. R122 names no outcome for an uncorrectable word of such a store: the thing stands as it was stored
(DESIGN CHOICE, log entry 125). -/
def useStore (k : SramStore) (n words unit : Nat) (tag : Option (BitVec 24)) (s : State) : State :=
  writeSram (.store k n) 0 words (readSram 5 unit tag (.store k n) 0 words s).2

/-- Words of a thing that is only read: those found uncorrectable stay so (R122; log entry 125). -/
def readStore (reader : Nat) (k : SramStore) (n lo words unit : Nat) (tag : Option (BitVec 24)) (s : State) : State :=
  (readSram reader unit tag (.store k n) lo words s).2

/-! ### Buffer pools (R128-R131) -/

/-- COUNT_p of a group, from the cord in force. -/
def poolCount (s : State) (g p : Nat) : Nat :=
  match s.cord.cfg with
  | none => 0
  | some c => if p < 6 then nthD c.pools (6 * g + p) 0 else 0

def bufSize (p : Nat) : Nat := 256 * 4 ^ p

def mkHandle (g p i : Nat) : Nat := g * 2 ^ 28 + p * 2 ^ 25 + i
def handlePool (h : Nat) : Nat := bits h 27 25
def handleGroup (h : Nat) : Nat := bits h 31 28

/-- Smallest fitting pool (R130). -/
def fitPool (bytes : Nat) : Nat :=
  if bytes ≤ 256 then 0 else if bytes ≤ 1024 then 1 else if bytes ≤ 4096 then 2 else if bytes ≤ 16384 then 3
  else if bytes ≤ 65536 then 4 else 5

/-- Lowest free index of a pool, looked for among the first `fuel` (one more than the buffers taken suffices). -/
def lowestFree (b : Map Buf) (g p cnt : Nat) : Nat → Nat → Option Nat
  | 0, _ => none
  | f + 1, i =>
    if cnt ≤ i then none
    else if Map.has b (mkHandle g p i) then lowestFree b g p cnt f (i + 1) else some i

/-- Owner IDs (R129). -/
def ownerUnit (g u : Nat) : BitVec 16 := BitVec.ofNat 16 (0x4000 + 16 * g + u)
def ownerCtx (c : Nat) : BitVec 16 := BitVec.ofNat 16 (0x8000 + c)
def ownerHost : BitVec 16 := 0

/-- A valid owner ID: host 0, a hearth unit, or a context. -/
def ownerValid (o : BitVec 16) : Bool :=
  let c := bits o.toNat 15 14
  let i := bits o.toNat 13 0
  (c == 0 && i == 0) || (c == 1 && decide (i < 256) && decide (i % 16 < 13)) || c == 2

/-- The buffer an ALLOC of a size within range takes: the lowest free index of the first pool that has one (Table
5.1). -/
def freeHandle (g bytes : Nat) (s : State) : Option Nat :=
  let b := (getGroup s g).bufs
  ((List.range 6).filter (fun p => decide (fitPool bytes ≤ p))).findSome? (fun p =>
    (lowestFree b g p (poolCount s g p) (b.length + 1) 0).map (mkHandle g p))

/-- The buffer is taken: share count 1, its first 64 octets zero. -/
def takeBuffer (g h : Nat) (owner : BitVec 16) (s : State) : State :=
  writeSram (.tile h) 0 8
    (modGroup s g (fun gr => { gr with bufs := Map.set gr.bufs h { share := 1, owner := owner, tile := none } }))

/-- A buffer from a pool above the smallest fitting one is counted UPSIZE. -/
def countUpsize (g bytes h : Nat) (s : State) : State :=
  if handlePool h = fitPool bytes then s else count 5 0 (8 * g + fitPool bytes) s

/-- ALLOC (Table 5.1): the handle taken, if any. -/
def poolAlloc (g bytes : Nat) (owner : BitVec 16) (s : State) : Option Nat × State :=
  if bytes = 0 ∨ bytes > 262144 then (none, count 5 1 g s)
  else match freeHandle g bytes s with
    | none => (none, s)
    | some h => (some h, takeBuffer g h owner (countUpsize g bytes h s))

def getBuf (s : State) (g h : Nat) : Option Buf := Map.get? (getGroup s g).bufs h

def setBuf (g h : Nat) (b : Buf) (s : State) : State :=
  modGroup s g (fun gr => { gr with bufs := Map.set gr.bufs h b })

def freeBuf (g h : Nat) (s : State) : State :=
  modGroup s g (fun gr => { gr with bufs := Map.erase gr.bufs h })

/-- Does a handle name a buffer this group's manager can hold (notes of Table 5.1)? -/
def handleOk (s : State) (g h : Nat) : Bool :=
  handleGroup h == g && bits h 24 18 == 0 && decide (handlePool h ≤ 5) && decide (h < 2 ^ 32) &&
    decide (bits h 17 0 < poolCount s g (handlePool h))

/-- SHARE (Table 5.1). -/
def poolShare (g h : Nat) (s : State) : Status × State :=
  match handleOk s g h, getBuf s g h with
  | true, some b =>
    if b.share < 65535 then (.ok, setBuf g h { b with share := b.share + 1 } s) else (.poolExhausted, s)
  | _, _ => (.freeDenied, s)

/-- HANDOFF (Table 5.1). -/
def poolHandoff (g h : Nat) (issuer taker : BitVec 16) (s : State) : Status × State :=
  match handleOk s g h, getBuf s g h with
  | true, some b =>
    if b.owner = issuer ∧ ownerValid taker then (.ok, setBuf g h { b with owner := taker } s) else (.freeDenied, s)
  | _, _ => (.freeDenied, s)

/-- DROP (Table 5.1). -/
def poolDrop (g h : Nat) (issuer : BitVec 16) (s : State) : Status × State :=
  match handleOk s g h, getBuf s g h with
  | true, some b =>
    if b.owner ≠ issuer ∧ 2 ≤ b.share then (.ok, setBuf g h { b with share := b.share - 1 } s) else (.freeDenied, s)
  | _, _ => (.freeDenied, s)

/-- FREE (Table 5.1). -/
def poolFree (g h : Nat) (issuer : BitVec 16) (s : State) : Status × State :=
  match handleOk s g h, getBuf s g h with
  | true, some b =>
    if b.owner = issuer ∧ b.share = 1 then (.ok, freeBuf g h s) else (.freeDenied, s)
  | _, _ => (.freeDenied, s)

/-- The tile a buffer holds. -/
def tileAt (s : State) (g h : Nat) : Option Tile := (getBuf s g h).bind (fun b => b.tile)

/-- Words of scratch a tile fills: its header and its payload. -/
def tileWords (t : Tile) : Nat := 8 + (t.data.length + 4 * t.scales.length + 8 * t.rstats.length + t.md.length + 7) / 8

/-- A tile is written to a buffer, its words with fresh check symbols (R27). -/
def setTile (g h : Nat) (t : Tile) (s : State) : State :=
  match getBuf s g h with
  | some b => setBuf g h { b with tile := some t } (writeSram (.tile h) 0 (tileWords t) s)
  | none => s

/-- The header of a stored tile changes: its eight words are read and written back, one found uncorrectable stays so,
and the words of the payload are not touched (R122, R123). -/
def setTileHdr (g u : Nat) (tag : BitVec 24) (h : Nat) (t : Tile) (s : State) : State :=
  match getBuf s g h with
  | some b => setBuf g h { b with tile := some t } (readSram 1 (unitByte g u) (some tag) (.tile h) 0 8 s).2
  | none => s

/-! ### The arbiter round (R102) -/

/-- One round among `reqs` (index order): `pref` ranks a requester, smaller is better. The winner and the arbiter after.
Among forced requesters of one wait, the preference decides before the index order (DEDUCED, log entry 87: R102 puts the
highest wait first for them and leaves the preference's place open). -/
def arbRound (limit : Nat) (pref : Nat → Nat) (reqs : List Nat) (a : Arb) : Option Nat × Arb :=
  let wait (r : Nat) : Nat := Map.getD a.waits r 0
  let forced := reqs.filter (fun r => decide (limit ≤ wait r))
  let isForced := !forced.isEmpty
  let pool := if isForced then forced else reqs
  -- index order after the last winner
  let ordered := pool.filter (fun r => decide (a.last < r)) ++ pool.filter (fun r => decide (r ≤ a.last))
  let better (x y : Nat) : Bool :=
    if isForced then decide (wait x > wait y) || (wait x == wait y && decide (pref x < pref y))
    else decide (pref x < pref y)
  let win := ordered.foldl (fun (b : Option Nat) r =>
    match b with
    | none => some r
    | some x => if better r x then some r else some x) none
  match win with
  | none => (none, a)
  | some w =>
    let waits := reqs.foldl (fun m r => Map.set m r (if r = w then 0 else min (wait r + 1) 255)) a.waits
    (some w, { waits := waits, last := w })

/-! ### The memory arbiters (R127) -/

/-- Is the arbiter of a pseudo-channel or DDR5 channel frozen (Tables 5.4, 5.8)? -/
def siteFrozen (s : State) (k : Nat) : Bool :=
  if 512 ≤ k then bitAt (reg s Reg.memArb) (16 + (k - 512)) else bitAt (reg s (Reg.hbmFreeze (k / 64))) (k % 64)

/-- The pseudo-channels or channels the granules of n octets from o lie in. -/
def sitesOf (o n : Nat) : List Nat :=
  if n = 0 then []
  else ((upTo ((o + n - 1) / 256 - o / 256 + 1)).map (fun i => memSite ((o / 256 + i) * 256))).eraseDups

/-- Is every arbiter an access goes through free to grant it? A frozen one puts the whole access off. -/
def memFree (s : State) (o n : Nat) : Bool := (sitesOf o n).all (fun k => !siteFrozen s k)

/-- The requester number of a hearth group, of a die's switch core memory port, and of the copy engine, at an arbiter:
a request from another die comes by the interposer port (R127). -/
def hearthReq (g k : Nat) : Nat := if siteDie k = dieOf g then g % 4 else 5
def portReq (d k : Nat) : Nat := if siteDie k = d then 4 else 5

/-- The rounds that grant an access: one at each arbiter it goes through. Commands run one after another, so each round
has the one requester (log entry 76). -/
def memGrant (req : Nat → Nat) (ks : List Nat) (s : State) : State :=
  let limit := fld (reg s Reg.memArb) 7 0
  ks.foldl (fun s k =>
    { s with bpm := { s.bpm with
      pcArb := Map.set s.bpm.pcArb k (arbRound limit (fun _ => 0) [req k] (Map.getD s.bpm.pcArb k Arb.reset)).2 } }) s

/-! ### Power and the damper, asked by every engine -/

/-- Forwarding, intake and the stations run in Idle, Active and Blaze; never while PORST_N is low (R387). -/
def powered (s : State) : Bool :=
  s.pwr.porst &&
    (match s.pwr.state with
     | .idle => true
     | .active => true
     | .blaze => true
     | _ => false)

/-- Is hearth group n gated: every group in Idle, the ones of PWR_GROUP_GATE in Active and Blaze (R25, R324)? -/
def gated (s : State) (n : Nat) : Bool :=
  match s.pwr.state with
  | .active => bitAt (reg s Reg.groupGate) n
  | .blaze => bitAt (reg s Reg.groupGate) n
  | _ => true

/-- May a hearth group's sequencer and stations take a step: powered, ungated, not dampered (R25, R373)? -/
def groupRuns (s : State) (n : Nat) : Bool := powered s && !gated s n && !s.dbg.dampered

def ownChip (s : State) : Nat := fld (reg s Reg.fwdCfg) 63 48

/-- Is forwarding on: FWD_EN = 1 and CRD_STATUS.STATE loaded (R83)? -/
def forwarding (s : State) : Bool := bitAt (reg s Reg.fwdCfg) 0 && s.cord.state == 3

end Sys2Proof.Machine
end

