-- ==== Sys2Proof/Machine/Flags.lean ====
section
/-! DEFINITION. Number formats, exact values, rounding with its outcome flags, the long accumulator with its flags,
and the group sums of the dense array (chapters 8 and 9). -/

namespace Sys2Proof.Machine

open Sys2Proof

/-! ### Exact values -/

/-- An exact value: (-1)^neg × num × 2^exp, an infinity or a NaN (R179, R181). -/
inductive Val where
  | nan
  | inf (neg : Bool)
  | fin (neg : Bool) (num : Nat) (exp : Int)
  deriving DecidableEq, Repr

/-- A floating-point format: exponent and mantissa widths, bias, and whether all-ones E is finite but for NaN (E4M3). -/
structure Flt where
  eb : Nat
  mb : Nat
  bias : Nat
  noInf : Bool
  deriving DecidableEq, Repr

def fp32 : Flt := { eb := 8, mb := 23, bias := 127, noInf := false }
def bf16 : Flt := { eb := 8, mb := 7, bias := 127, noInf := false }
def fp16 : Flt := { eb := 5, mb := 10, bias := 15, noInf := false }
def e5m2 : Flt := { eb := 5, mb := 2, bias := 15, noInf := false }
def e4m3 : Flt := { eb := 4, mb := 3, bias := 7, noInf := true }

/-- The floating-point format of a tile format code (Tables 6.2, 8.1). -/
def fltOf (format : Nat) : Option Flt :=
  if format = 1 then some e4m3 else if format = 2 then some e5m2 else if format = 3 then some bf16
  else if format = 4 then some fp16 else if format = 5 then some fp32 else none

/-- Canonical NaN (Table 8.1): 0x7FC0_0000 and its like; all ones but the sign for E4M3. -/
def canonNan (f : Flt) : Nat :=
  if f.noInf then 2 ^ (f.eb + f.mb) - 1
  else (2 ^ f.eb - 1) * 2 ^ f.mb + 2 ^ (f.mb - 1)

def infCode (f : Flt) (neg : Bool) : Nat := bit1 neg * 2 ^ (f.eb + f.mb) + (2 ^ f.eb - 1) * 2 ^ f.mb

/-- A code's value (R179). -/
def decodeFlt (f : Flt) (code : Nat) : Val :=
  let sg := (code / 2 ^ (f.eb + f.mb)) % 2 == 1
  let e := (code / 2 ^ f.mb) % 2 ^ f.eb
  let m := code % 2 ^ f.mb
  if e = 2 ^ f.eb - 1 ∧ (¬ f.noInf ∨ m = 2 ^ f.mb - 1) then
    (if ¬ f.noInf ∧ m = 0 then .inf sg else .nan)
  else if e = 0 then .fin sg m (1 - (f.bias : Int) - f.mb)
  else .fin sg (2 ^ f.mb + m) ((e : Int) - f.bias - f.mb)

def intVal (i : Int) : Val := .fin (decide (i < 0)) i.natAbs 0

/-- The value of an element code in a tile format 0x01-0x08 (R179, R182). -/
def elemVal (format code : Nat) : Val :=
  match fltOf format with
  | some f => decodeFlt f code
  | none =>
    if format = 6 then intVal (if code < 128 then (code : Int) else (code : Int) - 256)
    else if format = 7 then intVal (if code < 2 ^ 31 then (code : Int) else (code : Int) - 2 ^ 32)
    else intVal code

def val32 (c : BitVec 32) : Val := decodeFlt fp32 c.toNat

/-- An exact product; 0 × ∞ is NaN. -/
def mulVal : Val → Val → Val
  | .nan, _ => .nan
  | _, .nan => .nan
  | .inf a, .inf b => .inf (a != b)
  | .inf a, .fin b n _ => if n = 0 then .nan else .inf (a != b)
  | .fin a n _, .inf b => if n = 0 then .nan else .inf (a != b)
  | .fin a n e, .fin b m d => .fin (a != b) (n * m) (e + d)

/-- The signed integer of a finite value over 2^e, for e at or below its exponent. -/
def scaleTo (neg : Bool) (n : Nat) (x e : Int) : Int :=
  let m : Int := (n : Int) * (2 ^ (x - e).toNat : Nat)
  if neg then -m else m

/-- An exact sum under IEEE 754: opposite infinities give NaN, x + (-x) = +0, -0 only from two -0s. -/
def addVal : Val → Val → Val
  | .nan, _ => .nan
  | _, .nan => .nan
  | .inf a, .inf b => if a = b then .inf a else .nan
  | .inf a, .fin _ _ _ => .inf a
  | .fin _ _ _, .inf b => .inf b
  | .fin a n x, .fin b m y =>
    if n = 0 ∧ m = 0 then .fin (a && b) 0 0
    else
      let e := min x y
      let t := scaleTo a n x e + scaleTo b m y e
      if t = 0 then .fin false 0 0 else .fin (decide (t < 0)) t.natAbs e

def negVal : Val → Val
  | .nan => .nan
  | .inf a => .inf (!a)
  | .fin a n e => .fin (!a) n e

def absVal : Val → Val
  | .nan => .nan
  | .inf _ => .inf false
  | .fin _ n e => .fin false n e

def isZero : Val → Bool
  | .fin _ n _ => n == 0
  | _ => false

def isFinite : Val → Bool
  | .fin _ _ _ => true
  | _ => false

/-- IEEE numeric comparison a < b of values without NaN. -/
def ltVal : Val → Val → Bool
  | .nan, _ => false
  | _, .nan => false
  | .inf a, .inf b => a && !b
  | .inf a, .fin _ _ _ => a
  | .fin _ _ _, .inf b => !b
  | .fin a n x, .fin b m y =>
    let e := min x y
    decide (scaleTo a n x e < scaleTo b m y e)

/-- IEEE equality (−0 = +0, NaN equal to nothing). -/
def eqVal : Val → Val → Bool
  | .inf a, .inf b => a == b
  | .fin a n x, .fin b m y =>
    let e := min x y
    scaleTo a n x e == scaleTo b m y e
  | _, _ => false

/-! ### Rounding (R183, Table 8.3) -/

/-- num/den rounded to the nearest integer, ties to even. -/
def rneDiv (num den : Nat) : Nat :=
  let q := num / den
  let r := num % den
  if 2 * r < den then q else if den < 2 * r then q + 1 else if q % 2 = 0 then q else q + 1

/-- num/den × 2^e rounded to an integer, ties to even. -/
def rneScaled (num den : Nat) (e : Int) : Nat :=
  if 0 ≤ e then rneDiv (num * 2 ^ e.toNat) den else rneDiv num (den * 2 ^ (-e).toNat)

/-- floor(log2 (num/den × 2^e)) for num, den > 0. -/
def floorLog2 (num den : Nat) (e : Int) : Int :=
  let k : Int := (Nat.log2 num : Int) - Nat.log2 den
  -- 2^(k-1) < num/den < 2^(k+1)
  let ok : Bool := if 0 ≤ k then decide (den * 2 ^ k.toNat ≤ num) else decide (den ≤ num * 2 ^ (-k).toNat)
  e + (if ok then k else k - 1)

/-- What a conversion did (Tables 8.3 and 8.11). -/
inductive ConvFlag where
  | none
  | madeInf
  | saturated
  | nanToInt
  deriving DecidableEq, Repr

/-- Is num/den × 2^e above n × 2^q? -/
def ratAbove (num den : Nat) (e : Int) (n : Nat) (q : Int) : Bool :=
  if q ≤ e then decide (n * den < num * 2 ^ (e - q).toNat) else decide (n * den * 2 ^ (q - e).toNat < num)

/-- A magnitude num/den × 2^e with a sign, rounded once into a floating-point format. A format with infinities overflows
by the rounded magnitude, E4M3 by the source itself: every finite source beyond 448 is counted (Table 8.3). -/
def roundFlt (f : Flt) (neg : Bool) (num den : Nat) (e : Int) : Nat × ConvFlag :=
  let sb := bit1 neg * 2 ^ (f.eb + f.mb)
  if num = 0 then (sb, .none)
  else
    let emin : Int := 1 - (f.bias : Int)
    let lg := floorLog2 num den e
    let q : Int := max lg emin - f.mb
    let n := rneScaled num den (e - q)
    -- the largest finite value is topM × 2^topQ
    let topE : Int := if f.noInf then (2 ^ f.eb - 1 : Nat) else (2 ^ f.eb - 2 : Nat)
    let topM : Nat := if f.noInf then 2 ^ (f.mb + 1) - 2 else 2 ^ (f.mb + 1) - 1
    let topQ : Int := topE - f.bias - f.mb
    if f.noInf ∧ ratAbove num den e topM topQ then (sb + 2 ^ (f.eb + f.mb) - 2, .saturated)
    else if ¬ f.noInf ∧ (topQ < q ∨ (q = topQ ∧ topM < n)) then (infCode f neg, .madeInf)
    else if n < 2 ^ f.mb then (sb + n, .none)
    else
      -- n × 2^q with 2^mb ≤ n ≤ 2^(mb+1)
      let ef := (q + f.mb + f.bias).toNat
      (sb + ef * 2 ^ f.mb + (n - 2 ^ f.mb), .none)

/-- A rational magnitude rounded to an integer format of limits lo..hi, in `w` bits (Table 8.3). It is counted where
the clamping changes the rounded value, but for a source rounded to -1, which gives 0 in U32 without a count (DEDUCED,
log entry 88). -/
def roundInt (lo hi : Int) (w : Nat) (neg : Bool) (num den : Nat) (e : Int) : Nat × ConvFlag :=
  let m : Int := rneScaled num den e
  let i := if neg then -m else m
  let c := if i < lo then lo else if hi < i then hi else i
  ((c % (2 ^ w : Nat)).toNat, if c = i ∨ (lo = 0 ∧ i = -1) then .none else .saturated)

def intLimits (format : Nat) : Int × Int × Nat :=
  if format = 6 then (-128, 127, 8) else if format = 7 then (-2147483648, 2147483647, 32) else (0, 4294967295, 32)

/-- A quotient of exact values to be rounded: sign, numerator, denominator and exponent, or a special. -/
def convRat (format : Nat) (neg : Bool) (num den : Nat) (e : Int) : Nat × ConvFlag :=
  match fltOf format with
  | some f => roundFlt f neg num den e
  | none =>
    let l := intLimits format
    roundInt l.1 l.2.1 l.2.2 neg num den e

/-- An exact value converted into a tile format 0x01-0x08 (R183, Table 8.3). -/
def convVal (format : Nat) (v : Val) : Nat × ConvFlag :=
  match v with
  | .fin neg n e => convRat format neg n 1 e
  | .inf neg =>
    match fltOf format with
    | some f => if f.noInf then (canonNan f, .none) else (infCode f neg, .none)
    | none =>
      let l := intLimits format
      ((((if neg then l.1 else l.2.1) % (2 ^ l.2.2 : Nat)).toNat), .saturated)
  | .nan =>
    match fltOf format with
    | some f => (canonNan f, .none)
    | none => (0, .nanToInt)

/-- One rounding to FP32. -/
def rne32 (v : Val) : BitVec 32 := BitVec.ofNat 32 (convVal 5 v).1

/-- The exact quotient a / b rounded into a format; a finite a over an infinite b is a zero. -/
def convQuot (format : Nat) (a b : Val) : Nat × ConvFlag :=
  match a, b with
  | .fin sa n x, .fin sb m y => if m = 0 then convVal format .nan else convRat format (sa != sb) n m (x - y)
  | .fin sa _ _, .inf sb => convVal format (.fin (sa != sb) 0 0)
  | _, _ => convVal format .nan

/-- The counter a conversion outcome is counted on (Table 8.11). -/
def countConv (g : Nat) (f : ConvFlag) (s : State) : State :=
  match f with
  | .none => s
  | .madeInf => count 6 0 g s
  | .saturated => count 6 1 g s
  | .nanToInt => count 6 2 g s

/-- Convert a list of values, counting every outcome. -/
def convList (g format : Nat) (vs : List Val) (s : State) : List Nat × State :=
  let cs := vs.map (convVal format)
  (cs.map (·.1), foldOver cs (fun s c => countConv g c.2 s) s)

/-! ### exp32 (R192): the natural exponential, correctly rounded to FP32 -/

/-- Bits of the fixed point in which e^-t is formed before its one rounding. -/
def expBits : Nat := 512

/-- sum over i of (-t)^i / i!, t in fixed point below 2^-10; alternating terms. -/
def expSeries (t : Nat) : Nat → Nat → Int → Int → Int
  | 0, _, _, acc => acc
  | n + 1, i, term, acc =>
    let term' := -(term * t) / (2 ^ expBits : Nat) / (i : Int)
    expSeries t n (i + 1) term' (acc + term')

def squareTimes : Nat → Nat → Nat
  | 0, x => x
  | n + 1, x => squareTimes n (x * x / 2 ^ expBits)

/-- e^(-n × 2^x) for n > 0, as a magnitude over 2^512: the argument cut by 2^20, the series, then 20 squarings. -/
def expNegFixed (n : Nat) (x : Int) : Nat :=
  let sh : Int := x + expBits - 20
  let t : Nat := if 0 ≤ sh then n * 2 ^ sh.toNat else n / 2 ^ (-sh).toNat
  let one : Int := (2 ^ expBits : Nat)
  squareTimes 20 (expSeries t 60 1 one one).toNat

/-- exp32 of an FP32 value at or below zero (what R192 and R251 ask of it); above zero by the reciprocal. -/
def exp32 (v : Val) : BitVec 32 :=
  match v with
  | .nan => BitVec.ofNat 32 (canonNan fp32)
  | .inf true => 0
  | .inf false => BitVec.ofNat 32 (infCode fp32 false)
  | .fin neg n x =>
    if n = 0 then 0x3F800000#32
    else if neg then
      (if ltVal v (.fin true 105 0) then 0
       else BitVec.ofNat 32 (roundFlt fp32 false (expNegFixed n x) 1 (-(expBits : Int))).1)
    else if ltVal (.fin false 105 0) v then BitVec.ofNat 32 (infCode fp32 false)
    else BitVec.ofNat 32 (roundFlt fp32 false (2 ^ expBits) (expNegFixed n x) 0).1

/-- An exact sum of values, none of them infinite or NaN. -/
def sumVals (vs : List Val) : Val := vs.foldl addVal (.fin false 0 0)

/-! ### The long accumulator (R193-R196, R204-R207) -/

def LongAcc.zero : LongAcc := { i := 0, nan := false, pinf := false, ninf := false }

/-- A contribution to a long accumulator (R194). -/
def longAdd (a : LongAcc) (v : Val) : LongAcc :=
  match v with
  | .nan => { a with nan := true }
  | .inf false => { a with pinf := true }
  | .inf true => { a with ninf := true }
  | .fin neg n e =>
    if n = 0 then a
    else if 276 ≤ floorLog2 n 1 e then (if neg then { a with ninf := true } else { a with pinf := true })
    else
      let m : Int := rneScaled n 1 (e + 300)
      { a with i := a.i + BitVec.ofInt 640 (if neg then -m else m) }

/-- ROUND out of a long accumulator (Table 8.6). -/
def longRound (format : Nat) (a : LongAcc) : Nat × ConvFlag :=
  if a.nan ∨ (a.pinf ∧ a.ninf) then convVal format .nan
  else if a.pinf then convVal format (.inf false)
  else if a.ninf then convVal format (.inf true)
  else
    let i := a.i.toInt
    convVal format (.fin (decide (i < 0)) i.natAbs (-300))

/-- Trailing zero bits of an integer; 0 for 0 (R207). -/
def trailingZeros (n : Nat) : Nat :=
  let rec go : Nat → Nat → Nat → Nat
    | 0, _, c => c
    | f + 1, m, c => if m % 2 = 1 then c else go f (m / 2) (c + 1)
  if n = 0 then 0 else go 640 n 0

def partBase (ext : Bool) (i : Int) : Nat := min (trailingZeros i.natAbs / 4) (if ext then 68 else 132)

/-- Does an element fit the form (R207)? -/
def partFits (ext : Bool) (i : Int) : Bool :=
  let sig := i / (2 ^ (4 * partBase ext i) : Nat)
  let w : Nat := if ext then 367 else 111
  decide (-(2 ^ w : Nat) ≤ sig) && decide (sig ≤ (2 ^ w : Nat) - 1)

/-- An exact partial as its whole field (Tables 9.2, 9.3). -/
def partEncode (ext : Bool) (a : LongAcc) : Nat :=
  let i := a.i.toInt
  let b := partBase ext i
  let sw : Nat := if ext then 368 else 112
  let sig := ((i / (2 ^ (4 * b) : Nat)) % (2 ^ sw : Nat)).toNat
  b * 2 ^ (sw + 8) + sig * 256 + bit1 a.nan * 4 + bit1 a.pinf * 2 + bit1 a.ninf

/-- A partial read into a long accumulator; none if it is defective (R206). -/
def partMerge (ext : Bool) (a : LongAcc) (code : Nat) : Option LongAcc :=
  let sw : Nat := if ext then 368 else 112
  let b := code / 2 ^ (sw + 8)
  let sig := BitVec.ofNat sw (code / 256)
  if b > (if ext then 68 else 132) ∨ bits code 7 3 ≠ 0 then none
  else some
    { i := a.i + BitVec.ofInt 640 (sig.toInt * (2 ^ (4 * b) : Nat)),
      nan := a.nan || code.testBit 2, pinf := a.pinf || code.testBit 1, ninf := a.ninf || code.testBit 0 }

/-! ### FP32 accumulation and the dense array (R188, R189, R197) -/

/-- acc + v rounded once; whether an infinity was made from finite values. -/
def fpAdd (acc : BitVec 32) (v : Val) : BitVec 32 × Bool :=
  let a := val32 acc
  let r := rne32 (addVal a v)
  (r, isFinite a && isFinite v && !isFinite (val32 r))

/-- The group sum of 16 products (R188). -/
def groupSum (ps : List Val) : Val :=
  if ps.contains .nan ∨ (ps.contains (.inf false) ∧ ps.contains (.inf true)) then .nan
  else if ps.contains (.inf false) then .inf false
  else if ps.contains (.inf true) then .inf true
  else
    let logs := ps.filterMap (fun p => match p with
      | .fin _ n e => if n = 0 then none else some (floorLog2 n 1 e)
      | _ => none)
    match logs with
    | [] => .fin false 0 0
    | l :: ls =>
      let emax := ls.foldl max l
      let u := emax - 29
      let f (p : Val) : Int := match p with
        | .fin neg n e =>
          if u ≤ e then scaleTo neg n e u
          else scaleTo neg n e e / (2 ^ (u - e).toNat : Nat)
        | _ => 0
      let t := (ps.map f).foldl (· + ·) 0
      if t = 0 then .fin false 0 0 else .fin (decide (t < 0)) t.natAbs u

/-- The group sums of one output element in ascending g, each scaled and added with one rounding (R189). -/
def dotInto (acc : BitVec 32) (scale : Val) (row col : List Val) : BitVec 32 × Nat :=
  let prods := List.zipWith mulVal row col
  (chunksOf 16 prods).foldl (fun st ps =>
    let r := fpAdd st.1 (mulVal scale (groupSum ps))
    (r.1, st.2 + bit1 r.2)) (acc, 0)

/-! ### Orders (R278) and GF(2^8) (R211) -/

/-- The rank of a key code under R278, as an unsigned number of the format's width. -/
def keyRank (format code : Nat) : Nat :=
  match fltOf format with
  | some f =>
    let w := f.eb + f.mb + 1
    if code.testBit (w - 1) then 2 ^ w - 1 - code else code + 2 ^ (w - 1)
  | none =>
    if format = 6 then (code + 128) % 256 else if format = 7 then (code + 2 ^ 31) % 2 ^ 32 else code

/-- Multiplication by x in GF(2^8) modulo 0x11D. -/
def gf256Dbl (a : Nat) : Nat := if a < 128 then 2 * a else Nat.xor (2 * a - 256) 0x1D

/-- Product in GF(2^8) (R211). -/
def gf256Mul (a b : Nat) : Nat :=
  ((List.range 8).foldl (fun (acc : Nat × Nat) i =>
    (if b.testBit i then Nat.xor acc.1 acc.2 else acc.1, gf256Dbl acc.2)) (0, a)).1

end Sys2Proof.Machine
end

