-- ==== Sys2Proof/Machine/Operands.lean ====
section
/-! DEFINITION. The operand forms: link blocks and control symbols, frame headers of both transport revisions, tiles on
the wire and in memory with their well-formedness, the sparse layouts and the compressor. -/

namespace Sys2Proof.Machine

open Sys2Proof

/-! ### Link blocks (Table 3.3) -/

/-- A link block as received. -/
structure Blk where
  kind : Nat
  ch : Nat
  seq : BitVec 12
  len : Nat
  ackValid : Bool
  ackSeq : BitVec 12
  payload : List Byte
  crcOk : Bool
  /-- It breaks no rule of Table 3.3. -/
  legal : Bool
  deriving DecidableEq, Repr

/-- Read a 256-octet link block (R55). -/
def parseBlk (b : List Byte) : Blk :=
  let b0 := fromBe (slice b 0 1)
  let w1 := fromBe (slice b 1 2)
  let w4 := fromBe (slice b 4 2)
  let kind := b0 / 16
  let ch := b0 % 16
  let len := fromBe (slice b 3 1)
  let isData := decide (1 ≤ kind ∧ kind ≤ 4)
  let lenOk := if kind = 1 ∨ kind = 2 then len == 244 else if kind = 3 ∨ kind = 4 then decide (1 ≤ len ∧ len ≤ 244)
    else len == 0
  { kind := kind, ch := ch, seq := BitVec.ofNat 12 w1, len := len, ackValid := w4.testBit 15,
    ackSeq := BitVec.ofNat 12 w4, payload := slice b 8 244,
    crcOk := (crc32c (b.take 252)).toNat == fromBe (slice b 252 4),
    legal := (isData || kind == 0 || kind == 8) && (isData || (ch == 0 && w1 % 4096 == 0)) && w1 / 4096 == 0 &&
      bits w4 14 12 == 0 && allZero (slice b 6 2) && lenOk && (kind != 8 || allZero (slice b 248 4)) }

/-- A control symbol as received (Table 3.4), or its reserved type. -/
inductive RxSym where
  | empty
  | sym (c : CtrlSym)
  | unknown (ty : Nat)
  deriving DecidableEq, Repr

/-- Read a 16-octet control symbol. -/
def parseSym (b : List Byte) : RxSym :=
  let n (i k : Nat) : Nat := fromBe (slice b i k)
  let ty := n 0 1
  if ty = 0 then .empty
  else if ty = 1 then .sym (.credit (BitVec.ofNat 2 (n 1 1)) (BitVec.ofNat 24 (n 2 3)) (BitVec.ofNat 24 (n 5 3))
    (BitVec.ofNat 24 (n 8 3)) (BitVec.ofNat 24 (n 11 3)))
  else if ty = 2 then .sym (.ack (BitVec.ofNat 12 (n 1 2)))
  else if ty = 3 then .sym (.nak (BitVec.ofNat 12 (n 1 2)))
  else if ty = 4 then .sym (.timeReq (BitVec.ofNat 16 (n 1 2)))
  else if ty = 5 then .sym (.timeRsp (BitVec.ofNat 16 (n 1 2)) (bv64 (n 3 8)) (BitVec.ofNat 32 (n 11 4)))
  else if ty = 6 then .sym (.damper (BitVec.ofNat 32 (n 1 4)) (BitVec.ofNat 16 (n 5 2)) (BitVec.ofNat 48 (n 7 6)))
  else if ty = 7 then .sym (.version
    { offers := BitVec.ofNat 8 (n 1 1), llVersion := BitVec.ofNat 8 (n 2 1), chip := BitVec.ofNat 16 (n 3 2),
      width := BitVec.ofNat 2 (n 5 1), seen := (n 6 1).testBit 0 })
  else if ty = 8 then .sym (.close (BitVec.ofNat 8 (n 1 1)))
  else .unknown ty

/-- The 15 symbols of a control block. -/
def symbolsOf (b : Blk) : List RxSym := (chunksOf 16 (b.payload.take 240)).map parseSym

/-- A control symbol's 16 octets (Table 3.4). -/
def CtrlSym.octets : CtrlSym → List Byte
  | .credit q g0 g1 g2 g3 =>
    [1, q.setWidth 8] ++ beBytes 3 g0.toNat ++ beBytes 3 g1.toNat ++ beBytes 3 g2.toNat ++ beBytes 3 g3.toNat ++ zeros 2
  | .ack seq => [2] ++ beBytes 2 seq.toNat ++ zeros 13
  | .nak seq => [3] ++ beBytes 2 seq.toNat ++ zeros 13
  | .timeReq xid => [4] ++ beBytes 2 xid.toNat ++ zeros 13
  | .timeRsp xid t2 dt => [5] ++ beBytes 2 xid.toNat ++ beBytes 8 t2.toNat ++ beBytes 4 dt.toNat ++ zeros 1
  | .damper serial origin time => [6] ++ beBytes 4 serial.toNat ++ beBytes 2 origin.toNat ++ beBytes 6 time.toNat ++ zeros 3
  | .version b =>
    [7, b.offers, b.llVersion] ++ beBytes 2 b.chip.toNat ++ [b.width.setWidth 8, if b.seen then 1 else 0] ++ zeros 9
  | .close cause => [8, cause] ++ zeros 14

/-- A link block's 256 octets: its first 252 and their CRC-32C (Table 3.3). -/
def sealBlock (l : List Byte) : List Byte := l ++ beBytes 4 (crc32c l).toNat

/-- The 256 octets of a data block with the acknowledgement its header carries (Table 3.3). -/
def TxBlock.octets (b : TxBlock) (ack : Option (BitVec 12)) : List Byte :=
  sealBlock ([BitVec.ofNat 8 (b.kind.toNat * 16 + b.ch.toNat)] ++ beBytes 2 b.seq.toNat ++
    [BitVec.ofNat 8 b.payload.length] ++ beBytes 2 (match ack with
      | some a => 0x8000 + a.toNat
      | none => 0) ++ zeros 2 ++ b.payload ++ zeros (244 - b.payload.length))

/-- The 256 octets of a control block: up to 15 symbols, the other slots empty (Table 3.3). -/
def controlOctets (syms : List CtrlSym) : List Byte :=
  let p := (syms.map CtrlSym.octets).flatten
  sealBlock ([0x80#8] ++ zeros 7 ++ p ++ zeros (244 - p.length))

/-! ### Frame headers (Tables 4.1, 4.2) -/

/-- A header as read from a frame's octets. -/
structure RxHdr where
  ver : Nat
  hcrcOk : Bool
  zerosOk : Bool
  hdr : Hdr
  deriving DecidableEq, Repr

def hdrLen (ver : Nat) : Nat := if ver = 1 then 24 else 32

def parseHdr (b : List Byte) : RxHdr :=
  let n (i k : Nat) : Nat := fromBe (slice b i k)
  let ver := n 0 1 / 16
  let hl := hdrLen ver
  let common : Hdr :=
    { ver := BitVec.ofNat 4 ver, kind := BitVec.ofNat 4 (n 0 1), ch := BitVec.ofNat 4 (n 1 1 / 16),
      tc := BitVec.ofNat 3 (n 1 1 / 2), pinned := false, dst := BitVec.ofNat 16 (n 2 2), src := BitVec.ofNat 16 (n 4 2),
      offset := BitVec.ofNat 48 (n 6 6), len := 0, td := false, ep := false, tag := 0, hops := 0, sseq := 0, sgen := 0,
      plane := 0 }
  let hcrcOk := (crc32c (b.take (hl - 4))).toNat == n (hl - 4) 4
  if ver = 1 then
    { ver := ver, hcrcOk := hcrcOk, zerosOk := n 1 1 % 2 == 0 && n 18 2 == 0,
      hdr := { common with len := n 12 2, tag := BitVec.ofNat 24 (n 14 3), hops := BitVec.ofNat 8 (n 17 1) } }
  else
    { ver := ver, hcrcOk := hcrcOk,
      zerosOk := n 15 1 % 64 == 0 && n 23 1 / 8 == 0 && n 24 4 == 0 && decide (n 12 3 ≤ 65600),
      hdr := { common with
        pinned := (n 1 1).testBit 0, len := n 12 3, td := (n 15 1).testBit 7, ep := (n 15 1).testBit 6,
        tag := BitVec.ofNat 24 (n 16 3), hops := BitVec.ofNat 8 (n 19 1), sseq := BitVec.ofNat 16 (n 20 2),
        sgen := BitVec.ofNat 8 (n 22 1), plane := BitVec.ofNat 3 (n 23 1) } }

/-- A rev 2 header with its HCRC (R78, R80). -/
def hdrBytes2 (h : Hdr) : List Byte :=
  let b := [BitVec.ofNat 8 (32 + h.kind.toNat),
      BitVec.ofNat 8 (h.ch.toNat * 16 + h.tc.toNat * 2 + bit1 h.pinned)] ++ beBytes 2 h.dst.toNat ++
    beBytes 2 h.src.toNat ++ beBytes 6 h.offset.toNat ++ beBytes 3 h.len ++
    [BitVec.ofNat 8 (bit1 h.td * 128 + bit1 h.ep * 64)] ++ beBytes 3 h.tag.toNat ++ [h.hops] ++
    beBytes 2 h.sseq.toNat ++ [h.sgen, h.plane.setWidth 8] ++ zeros 4
  b ++ beBytes 4 (crc32c b).toNat

/-- A rev 1 header with its HCRC (R79). -/
def hdrBytes1 (h : Hdr) : List Byte :=
  let b := [BitVec.ofNat 8 (16 + h.kind.toNat), BitVec.ofNat 8 (h.ch.toNat * 16 + h.tc.toNat * 2)] ++
    beBytes 2 h.dst.toNat ++ beBytes 2 h.src.toNat ++ beBytes 6 h.offset.toNat ++ beBytes 2 h.len ++
    beBytes 3 h.tag.toNat ++ [h.hops, 0, 0]
  b ++ beBytes 4 (crc32c b).toNat

/-- Is a header's kind listed for its revision, and do TD and EP agree with it (R81, R83)? -/
def hdrLegal (r : RxHdr) : Bool :=
  let k := r.hdr.kind.toNat
  decide (1 ≤ k) && decide (k ≤ (if r.ver = 1 then 4 else 5)) && r.zerosOk &&
    !(r.hdr.ep && !r.hdr.td) && !(r.hdr.td && k != 4) && !(r.hdr.td && decide (r.hdr.len < 64))

/-- PCRC of a payload: CRC-32C, 0 for an empty one (R78). -/
def pcrcOf (p : List Byte) : BitVec 32 := if p.isEmpty then 0 else crc32c p

/-- CRC-32C of the five octets SRC, DST and CHANNEL (R84, R89). -/
def flowHash (src dst : Chip) (ch : Chan) : Nat :=
  (crc32c (beBytes 2 src.toNat ++ beBytes 2 dst.toNat ++ [ch.setWidth 8])).toNat

/-- A flow as a key (R88). -/
def flowKey (src dst : Chip) (ch : Chan) : Nat := (src.toNat * 65536 + dst.toNat) * 16 + ch.toNat

/-! ### Tiles (R132-R135, R178, R264) -/

/-- Element size in octets of a tile format; 0 for a reserved code (Table 6.2). -/
def elemSize (format : Nat) : Nat :=
  if format = 1 ∨ format = 2 ∨ format = 6 ∨ format = 9 then 1 else if format = 3 ∨ format = 4 then 2
  else if format = 5 ∨ format = 7 ∨ format = 8 then 4 else if format = 16 then 16 else if format = 17 then 48 else 0

/-- Formats that allow SCALED and the sparse layouts. -/
def allowsScaled (format : Nat) : Bool := format == 1 || format == 2 || format == 3 || format == 4 || format == 6

def isPartial (format : Nat) : Bool := format == 16 || format == 17

/-- Reverse the octets of each n-octet element. -/
def swapEach (n : Nat) (l : List Byte) : List Byte :=
  if n ≤ 1 then l else ((chunksOf n l).map List.reverse).flatten

def denseLen (t : Tile) : Nat := t.rows * t.cols * elemSize t.format.toNat

def sideLen (t : Tile) : Nat := (if t.scaled then 4 * t.rows else 0) + (if t.stats then 8 * t.rows else 0)

/-- Payload octets under R134. -/
def payloadLen (t : Tile) : Nat := t.dataLen + sideLen t + t.mdLen

/-- A tile from its 64-octet header and its payload; `be` for the wire, otherwise as stored in memory (R9, R132,
R134). -/
def parseTile (be : Bool) (h payload : List Byte) : Tile :=
  let n (i k : Nat) : Nat := if be then fromBe (slice h i k) else fromLe (slice h i k)
  let fmt := n 1 1
  let rows := n 4 2
  let scaled := (n 3 1).testBit 5
  let stats := (n 3 1).testBit 4
  let dl := n 24 4
  let ml := n 28 4
  let num (l : List Byte) : Nat := if be then fromBe l else fromLe l
  let sl := if scaled then 4 * rows else 0
  let rl := if stats then 8 * rows else 0
  let raw := payload.take dl
  let md := slice payload (dl + sl + rl) ml
  { hver := BitVec.ofNat 8 (n 0 1), format := BitVec.ofNat 8 fmt, layout := BitVec.ofNat 4 (n 2 1 / 16),
    clinker := (n 3 1).testBit 7, fallback := (n 3 1).testBit 6, scaled := scaled, stats := stats,
    last := (n 3 1).testBit 3, rows := rows, cols := n 6 2, ctx := BitVec.ofNat 16 (n 8 2),
    rank := BitVec.ofNat 12 (n 10 2), epoch := BitVec.ofNat 32 (n 12 4), seq := BitVec.ofNat 32 (n 16 4),
    tag := BitVec.ofNat 24 (n 20 3), dataLen := dl, mdLen := ml, step := bv64 (n 32 8), aux := bv64 (n 40 8),
    zerosOk := n 2 1 % 16 == 0 && n 3 1 % 8 == 0 && n 10 2 / 4096 == 0 && n 23 1 == 0 && allZero (slice h 48 16),
    ue := none,
    data := if be then swapEach (elemSize fmt) raw else raw,
    scales := (chunksOf 4 (slice payload dl sl)).map (fun b => BitVec.ofNat 32 (num b)),
    rstats := (chunksOf 8 (slice payload (dl + sl) rl)).map (fun b =>
      (BitVec.ofNat 32 (num (b.take 4)), BitVec.ofNat 32 (num (b.drop 4)))),
    md := if be ∧ n 2 1 / 16 = 2 then swapEach 8 md else md }

/-- A tile's 64 header octets. -/
def tileHdrBytes (be : Bool) (t : Tile) : List Byte :=
  let n (k v : Nat) : List Byte := if be then beBytes k v else leBytes k v
  [t.hver, t.format, BitVec.ofNat 8 (t.layout.toNat * 16),
    BitVec.ofNat 8 (bit1 t.clinker * 128 + bit1 t.fallback * 64 + bit1 t.scaled * 32 + bit1 t.stats * 16 +
      bit1 t.last * 8)] ++
  n 2 t.rows ++ n 2 t.cols ++ n 2 t.ctx.toNat ++ n 2 t.rank.toNat ++ n 4 t.epoch.toNat ++ n 4 t.seq.toNat ++
  n 3 t.tag.toNat ++ [0] ++ n 4 t.dataLen ++ n 4 t.mdLen ++ n 8 t.step.toNat ++ n 8 t.aux.toNat ++ zeros 16

/-- A tile's payload octets (R134). -/
def tilePayload (be : Bool) (t : Tile) : List Byte :=
  let n (k v : Nat) : List Byte := if be then beBytes k v else leBytes k v
  (if be then swapEach (elemSize t.format.toNat) t.data else t.data) ++
  (t.scales.map (fun c => n 4 c.toNat)).flatten ++
  (t.rstats.map (fun c => n 4 c.1.toNat ++ n 4 c.2.toNat)).flatten ++
  (if be ∧ t.layout = 2 then swapEach 8 t.md else t.md)

def tileBytes (be : Bool) (t : Tile) : List Byte := tileHdrBytes be t ++ tilePayload be t

def popByte (b : Byte) : Nat := (List.range 8).foldl (fun a i => a + bit1 (b.getLsbD i)) 0

/-- Set bits of a string of octets. -/
def popBytes (l : List Byte) : Nat := l.foldl (fun a b => a + popByte b) 0

/-- Do DATA_LEN and MD_LEN fit the layout (R134, R135, R262-R264)? -/
def lengthsOk (t : Tile) : Bool :=
  let es := elemSize t.format.toNat
  let dense := t.rows * t.cols * es
  if t.layout = 0 then t.dataLen == dense && t.mdLen == 0
  else if t.mdLen = 0 then t.dataLen == dense
  else if t.layout = 1 then t.dataLen == t.rows * (t.cols / 2) * es && t.mdLen == t.rows * t.cols / 8
  else
    t.mdLen == 8 * (t.rows / 16) &&
      (if t.clinker then t.dataLen % (256 * es) == 0 && decide (t.dataLen ≤ dense)
       else t.dataLen == popBytes t.md * 256 * es)

/-- A well-formed tile with a payload of `n` octets (R135, R264). -/
def tileOk (t : Tile) (n : Nat) : Bool :=
  let f := t.format.toNat
  t.hver == 1 && decide (elemSize f ≠ 0) && decide (t.layout.toNat ≤ 2) && (t.layout == 0 || allowsScaled f) &&
    t.zerosOk && (!t.scaled || allowsScaled f) && decide (1 ≤ t.rows) && decide (t.rows ≤ 256) &&
    decide (16 ≤ t.cols) && decide (t.cols ≤ 1024) && t.cols % 16 == 0 && decide (t.ctx.toNat < 16384) &&
    !(t.layout == 2 && t.rows % 16 != 0) && !(t.fallback && t.layout != 0) && lengthsOk t &&
    payloadLen t == n && decide (n ≤ 65536)

/-- The tile a frame carries, and whether it is well formed in that frame (R135). -/
def tileOfFrame (payload : List Byte) (ep : Bool) : Tile × Bool :=
  let t := parseTile true (payload.take 64) (payload.drop 64)
  (t, decide (64 ≤ payload.length) && tileOk t (payload.length - 64) && (ep == isPartial t.format.toNat))

/-- A zero tile header: what a buffer holds that no tile was written to (R161, Table 5.1). -/
def blankTile : Tile := parseTile false (zeros 64) []

/-- Codes of a tile's data region, row-major. -/
def codesOf (t : Tile) : List Nat := (chunksOf (elemSize t.format.toNat) t.data).map fromLe

def packCodes (format : Nat) (codes : List Nat) : List Byte := (codes.map (leBytes (elemSize format))).flatten

/-- A tile of the same header with new data codes of a dense layout, shape and format. -/
def withCodes (t : Tile) (format rows cols : Nat) (codes : List Nat) : Tile :=
  let d := packCodes format codes
  { t with format := BitVec.ofNat 8 format, layout := 0, rows := rows, cols := cols, dataLen := d.length, mdLen := 0,
           data := d, md := [] }

/-- Scale of row r: the side-band's, or 1 (R184). -/
def scaleOf (t : Tile) (r : Nat) : Val :=
  if t.scaled then val32 (nthD t.scales r 0) else .fin false 1 0

/-- A dense tile's rows of codes. -/
def rowCodes (t : Tile) : List (List Nat) := chunksOf t.cols (codesOf t)

/-- A dense tile's rows of values, scaled (R184). -/
def rowVals (t : Tile) : List (List Val) :=
  (rowCodes t).zipIdx.map (fun e => e.1.map (fun c => mulVal (elemVal t.format.toNat c) (scaleOf t e.2)))

/-! ### The sparse layouts (R262, R263, R269) -/

/-- Is a code other than +0 and -0 (R266)? -/
def codeNonZero (format code : Nat) : Bool :=
  match fltOf format with
  | some f => code % 2 ^ (f.eb + f.mb) != 0
  | none => code != 0

/-- One row of a compressed 2:4 tile; the first nibble with i0 ≥ i1 is an error, given by its i0 (R262, R269). -/
def expand24 (vals : List Nat) (nibbles : List Nat) : Except Nat (List Nat) :=
  let rec go : List Nat → List Nat → Except Nat (List Nat)
    | nb :: nbs, a :: b :: vs =>
      let i0 := nb % 4
      let i1 := nb / 4 % 4
      if i1 ≤ i0 then .error i0
      else match go nbs vs with
        | .error e => .error e
        | .ok rest => .ok ((List.range 4).map (fun i => if i = i0 then a else if i = i1 then b else 0) ++ rest)
    | _, _ => .ok []
  go nibbles vals

def nibblesOf (l : List Byte) : List Nat := (l.map (fun b => [b.toNat % 16, b.toNat / 16])).flatten

/-- The rows of codes of an operand B in any layout; an index beyond the operand is an error (R262, R263, R269). -/
def operandRows (t : Tile) : Except Nat (List (List Nat)) :=
  if t.layout = 0 ∨ t.mdLen = 0 then .ok (rowCodes t)
  else if t.layout = 1 then
    let vals := chunksOf (t.cols / 2) (codesOf t)
    let nibs := chunksOf (t.cols / 4) (nibblesOf t.md)
    (List.zip vals nibs).foldl (fun acc e =>
      match acc with
      | .error x => .error x
      | .ok rows => match expand24 e.1 e.2 with
        | .error x => .error x
        | .ok r => .ok (rows ++ [r])) (.ok [])
  else
    let maps := (chunksOf 8 t.md).map fromLe
    let nb := t.cols / 16
    let bad := maps.findSome? (fun m => (List.range 64).find? (fun j => decide (nb ≤ j) && m.testBit j))
    match bad with
    | some j => .error j
    | none =>
      let blocks := chunksOf 256 (codesOf t)
      let step (acc : List (List Nat) × List (List Nat)) (m : Nat) : List (List Nat) × List (List Nat) :=
        let present := (List.range nb).filter (fun j => m.testBit j)
        let mine := acc.2.take present.length
        let row (r : Nat) : List Nat :=
          ((List.range nb).map (fun j =>
            match present.idxOf? j with
            | some p => slice' (nthD mine p []) (16 * r) 16
            | none => List.replicate 16 0)).flatten
        (acc.1 ++ (List.range 16).map row, acc.2.drop present.length)
      .ok (maps.foldl step ([], blocks)).1
where
  slice' (l : List Nat) (i n : Nat) : List Nat := (l.drop i).take n

/-- Present blocks of each block row (R271). -/
def blockCounts (t : Tile) : List Nat := (chunksOf 8 t.md).map popBytes

/-! ### The compressor (R265-R268) -/

/-- The compressed form of one row's group of four codes: nibble and the two stored codes; none if three are non-zero.
-/
def pack24 (format : Nat) (grp : List Nat) : Option (Nat × List Nat) :=
  let nz := (List.range 4).filter (fun i => codeNonZero format (nthD grp i 0))
  if 2 < nz.length then none
  else
    let rest := (List.range 4).filter (fun i => !nz.contains i)
    let taken := ((nz ++ rest).take 2)
    let i0 := min (nthD taken 0 0) (nthD taken 1 0)
    let i1 := max (nthD taken 0 0) (nthD taken 1 0)
    some (i0 + 4 * i1, [nthD grp i0 0, nthD grp i1 0])

/-- Two nibbles to an octet, the first in [3:0]. -/
def packNibbles (l : List Nat) : List Byte :=
  (chunksOf 2 l).map (fun p => BitVec.ofNat 8 (nthD p 0 0 + 16 * nthD p 1 0))

/-- The form of a declared tile stored dense (R268). -/
def storedDense (t : Tile) : Tile := { t with layout := 0, fallback := true, mdLen := 0, md := [] }

/-- A declared 2:4 tile as stored (R266); none where some group holds three or four non-zero codes. -/
def compress24 (t : Tile) : Option Tile :=
  let f := t.format.toNat
  let gs := (chunksOf 4 (codesOf t)).map (pack24 f)
  if gs.all (fun g => g.isSome) then
    let ps := gs.filterMap id
    let d := packCodes f ((ps.map (·.2)).flatten)
    let m := packNibbles (ps.map (·.1))
    some { t with dataLen := d.length, data := d, mdLen := m.length, md := m }
  else none

/-- The blocks of a dense block row, each 256 codes row-major (R263). -/
def blockRow (rows : List (List Nat)) (nb : Nat) : List (List Nat) :=
  (List.range nb).map (fun j => (rows.map (fun r => (r.drop (16 * j)).take 16)).flatten)

/-- A declared block-sparse tile: its present and total blocks, and its compressed form (R263, R267). -/
def compressBlocks (t : Tile) : Nat × Nat × Tile :=
  let f := t.format.toNat
  let nb := t.cols / 16
  let brs := (chunksOf 16 (rowCodes t)).map (fun r => blockRow r nb)
  let present (b : List Nat) : Bool := b.any (codeNonZero f)
  let n := (brs.map (fun br => (br.filter present).length)).foldl (· + ·) 0
  let d := packCodes f ((brs.map (fun br => (br.filter present).flatten)).flatten)
  let m := (brs.map (fun br => leBytes 8 ((br.zipIdx.map (fun e => if present e.1 then 2 ^ e.2 else 0)).foldl (· + ·) 0))).flatten
  (n, brs.length * nb, { t with dataLen := d.length, data := d, mdLen := m.length, md := m })

/-- The form in which the compressor of group g stores a tile written into scratch from outside, and the counter of a
tile stored dense: 0 not 2:4, 1 every block present, 2 above the limit (R265-R268). -/
def compressForm (g : Nat) (t : Tile) (s : State) : Tile × Option Nat :=
  if t.clinker ∨ t.layout = 0 ∨ t.mdLen ≠ 0 then (t, none)
  else if t.layout = 1 then
    match compress24 t with
    | some c => (c, none)
    | none => (storedDense t, some 0)
  else
    let r := compressBlocks t
    if r.1 = r.2.1 then (storedDense t, some 1)
    else if fld (reg s (Reg.cmp g)) 8 0 * r.2.1 < 256 * r.1 then (storedDense t, some 2)
    else (r.2.2, none)

/-- A tile stored dense is counted, and one that is not 2:4 logged with its TAG; `unit` names the reader (R266-R268). -/
def noteDense (g unit : Nat) (tag : BitVec 24) (k : Option Nat) (s : State) : State :=
  match k with
  | none => s
  | some 0 => logEv (codeCounter 10 0) 0 (unitByte g unit) (some tag) [] (count 10 0 g s)
  | some i => count 10 i g s

/-- The compressor acting on a tile as it is written into scratch (R265). -/
def compressTile (g unit : Nat) (t : Tile) (s : State) : Tile × State :=
  let z := compressForm g t s
  (z.1, noteDense g unit t.tag z.2 s)

/-! ### Clinker (R136) -/

/-- The tile made clinker: every data, scale and statistics octet 0xFF, metadata zero. -/
def makeClinker (t : Tile) : Tile :=
  { t with clinker := true, data := ffs t.data.length, scales := t.scales.map (fun _ => 0xFFFFFFFF#32),
           rstats := t.rstats.map (fun _ => (0xFFFFFFFF#32, 0xFFFFFFFF#32)), md := zeros t.md.length }

/-- The record and the count of an output tile made clinker (R136). -/
def logClinker (g u : Nat) (tag : BitVec 24) (kind arg : Nat) (s : State) : State :=
  logEv 0x0786 2 (unitByte g u) (some tag) [kind, arg] (count 7 6 g s)

/-! ### Row statistics (R192) -/

def isNanVal : Val → Bool
  | .nan => true
  | _ => false

/-- The larger of two values under totalOrder: +0 ranks above -0. -/
def maxVal (a b : Val) : Val :=
  if ltVal a b then b
  else match a, b with
    | .fin true 0 _, .fin false 0 _ => b
    | _, _ => a

/-- Row maximum and row sum of exponentials, in FP32. -/
def rowStats (ys : List Val) : BitVec 32 × BitVec 32 :=
  let nan : BitVec 32 := BitVec.ofNat 32 (canonNan fp32)
  match ys with
  | [] => (nan, nan)
  | y :: rest =>
    if ys.any isNanVal then (nan, nan)
    else
      let m := rest.foldl maxVal y
      (rne32 m,
       if isFinite m then rne32 (sumVals (ys.map (fun y => val32 (exp32 (val32 (rne32 (addVal y (negVal m))))))))
       else nan)

end Sys2Proof.Machine
end

