-- ==== Sys2Proof/Machine/Crypto.lean ====
section
/-! DEFINITION. The functions of the standards the spec names, the crypto engine's of Table 16.1: SHA-512 (FIPS
180-4), HMAC-SHA-512 (RFC 2104), Ed25519 (RFC 8032) and ML-DSA-65 (FIPS 204, deterministic signing, with the SHAKE
functions of FIPS 202), for the digests, seals and signatures of R295, R336, R341, R346 and R348; and the packet error
code of SMBus 3.1 (R334). The spec gives their names and sizes; their computation is the standards' (PRESUMED, log
entry 112). -/

namespace Sys2Proof.Machine

open Sys2Proof

/-! ### SHA-512 and HMAC-SHA-512 -/

/-- The largest r below 2^67 whose k-th power does not exceed n, found bit by bit from the top. -/
def rootFloor (k n : Nat) : Nat :=
  (upTo 67).foldl (fun r i => if (r + 2 ^ (66 - i)) ^ k ≤ n then r + 2 ^ (66 - i) else r) 0

/-- The primes below 410: there are 80 of them. -/
def smallPrimes : List Nat :=
  (upTo 410).filter (fun p => decide (2 ≤ p) && (upTo 19).all (fun i => p % (i + 2) != 0 || p == i + 2))

/-- The first 64 bits of the fraction of the k-th root of a prime. -/
def rootFraction (k p : Nat) : Nat := rootFloor k (p * 2 ^ (64 * k)) % 2 ^ 64

/-- The round constants: from the cube roots of the first 80 primes. -/
def sha512K : List Nat := smallPrimes.map (rootFraction 3)

/-- The chaining value at the start: from the square roots of the first 8 primes. -/
def sha512Init : List Nat := (smallPrimes.take 8).map (rootFraction 2)

/-- A 64-bit word rotated right by n places. -/
def ror64 (x n : Nat) : Nat := x / 2 ^ n + x % 2 ^ n * 2 ^ (64 - n)

/-- The exclusive or of some rotations of a word. -/
def xorRots (rs : List Nat) (x : Nat) : Nat := rs.foldl (fun v n => Nat.xor v (ror64 x n)) 0

/-- The schedule is held with its newest word first: one word more. -/
def sha512Word (w : List Nat) : Nat :=
  let near := nthD w 1 0
  let far := nthD w 14 0
  (nthD w 15 0 + Nat.xor (xorRots [1, 8] far) (far / 2 ^ 7) + nthD w 6 0 +
    Nat.xor (xorRots [19, 61] near) (near / 2 ^ 6)) % 2 ^ 64

/-- The n words of a list of octets, most significant octet first. -/
def beWords (n : Nat) (b : List Byte) : List Nat := (upTo n).map (fun i => fromBe (slice b (8 * i) 8))

/-- The 80 words of the schedule of a block. -/
def sha512Schedule (block : List Byte) : List Nat :=
  ((upTo 64).foldl (fun w _ => sha512Word w :: w) (beWords 16 block).reverse).reverse

/-- The eight working variables are the last four words of two sequences, newest first: one step of both, from the sum
of the round's constant and its schedule word. -/
def sha512Step (v : List Nat × List Nat) (kw : Nat) : List Nat × List Nat :=
  let p (i : Nat) : Nat := nthD v.1 i 0
  let q (i : Nat) : Nat := nthD v.2 i 0
  let chosen := Nat.xor (q 2) (Nat.land (q 0) (Nat.xor (q 1) (q 2)))
  let agreed := Nat.lor (Nat.land (p 0) (p 1)) (Nat.land (p 2) (Nat.lor (p 0) (p 1)))
  let t := q 3 + xorRots [14, 18, 41] (q 0) + chosen + kw
  ((t + xorRots [28, 34, 39] (p 0) + agreed) % 2 ^ 64 :: v.1.take 3, (t + p 3) % 2 ^ 64 :: v.2.take 3)

def sha512Block (h : List Nat) (block : List Byte) : List Nat :=
  let kws := List.zipWith (fun k w => k + w) sha512K (sha512Schedule block)
  let v := kws.foldl sha512Step (h.take 4, h.drop 4)
  List.zipWith (fun x y => (x + y) % 2 ^ 64) h (v.1 ++ v.2)

/-- The message with its padding: a one bit, zeros, and its length in bits. -/
def sha512Pad (m : List Byte) : List Byte :=
  m ++ [0x80#8] ++ zeros ((239 - m.length % 128) % 128) ++ beBytes 16 (8 * m.length)

def sha512 (m : List Byte) : List Byte :=
  let p := sha512Pad m
  (((upTo (p.length / 128)).foldl (fun h i => sha512Block h (slice p (128 * i) 128)) sha512Init).map (beBytes 8)).flatten

/-- HMAC-SHA-512 (RFC 2104): a key longer than a block is hashed first. -/
def hmacSha512 (key m : List Byte) : List Byte :=
  let k := fixN 128 (if 128 < key.length then sha512 key else key)
  sha512 (k.map (· ^^^ 0x5C#8) ++ sha512 (k.map (· ^^^ 0x36#8) ++ m))

/-! ### Ed25519 -/

def edP : Nat := 2 ^ 255 - 19
def edL : Nat := 2 ^ 252 + 27742317777372353535851937790883648493
def edD : Nat := 37095705934669439343138083508754565189542113879843219016388785533085940283555
/-- A square root of -1. -/
def edI : Nat := 19681161376707505956807079304988542015446066515923890162744021073123829784752

/-- A difference modulo m of two numbers below it. -/
def subMod (m a b : Nat) : Nat := (a + m - b) % m

/-- b^e modulo m, by squaring (fuel: bits of e). -/
def powMod (m : Nat) : Nat → Nat → Nat → Nat
  | 0, _, _ => 1
  | n + 1, b, e => if e % 2 = 1 then b * powMod m n (b * b % m) (e / 2) % m else powMod m n (b * b % m) (e / 2)

/-- A point in extended coordinates X, Y, Z, T. -/
structure EdPoint where
  x : Nat
  y : Nat
  z : Nat
  t : Nat
  deriving DecidableEq, Repr

def EdPoint.zero : EdPoint := { x := 0, y := 1, z := 1, t := 0 }

def EdPoint.add (u v : EdPoint) : EdPoint :=
  let a := subMod edP u.y u.x * subMod edP v.y v.x % edP
  let b := (u.y + u.x) * (v.y + v.x) % edP
  let c := 2 * u.t * v.t * edD % edP
  let d := 2 * u.z * v.z % edP
  let e := subMod edP b a
  let f := subMod edP d c
  let g := d + c
  let h := b + a
  { x := e * f % edP, y := g * h % edP, z := f * g % edP, t := e * h % edP }

/-- k times a point (fuel: bits of k). -/
def EdPoint.mul : Nat → Nat → EdPoint → EdPoint
  | 0, _, _ => EdPoint.zero
  | n + 1, k, u =>
    let v := EdPoint.mul n (k / 2) (u.add u)
    if k % 2 = 1 then v.add u else v

def EdPoint.same (u v : EdPoint) : Bool := u.x * v.z % edP == v.x * u.z % edP && u.y * v.z % edP == v.y * u.z % edP

def EdPoint.base : EdPoint :=
  let x := 15112221349535400772501151409588531511454012693041857206046113283949847762202
  let y := 46316835694926478169428394003475163141307993866256225615783033603165251855960
  { x := x, y := y, z := 1, t := x * y % edP }

/-- The x of a point, from its y and x's lowest bit. -/
def edX (y sign : Nat) : Option Nat :=
  let u := (y * y + edP - 1) % edP
  let v := (edD * (y * y) + 1) % edP
  let v3 := v * v % edP * v % edP
  let x := u * v3 % edP * powMod edP 255 (u * v3 % edP * v3 % edP * v % edP) ((edP - 5) / 8) % edP
  let w := v * x % edP * x % edP
  let r := if w = u then some x else if w = (edP - u) % edP then some (x * edI % edP) else none
  r.bind (fun x => if x = 0 ∧ sign = 1 then none else some (if x % 2 = sign then x else edP - x))

/-- The point 32 octets hold. -/
def edDecode (b : List Byte) : Option EdPoint :=
  let n := fromLe b
  let y := n % 2 ^ 255
  if y < edP then (edX y (n / 2 ^ 255)).map (fun x => { x := x, y := y, z := 1, t := x * y % edP }) else none

/-- Ed25519 verification: public key, message, signature. -/
def ed25519Verify (key m sig : List Byte) : Bool :=
  let s := fromLe (sig.drop 32)
  let k := fromLe (sha512 (sig.take 32 ++ key ++ m)) % edL
  key.length == 32 && sig.length == 64 && decide (s < edL) &&
    (match edDecode key, edDecode (sig.take 32) with
     | some a, some r =>
       EdPoint.same (EdPoint.mul 4 8 (EdPoint.mul 256 s EdPoint.base)) (EdPoint.mul 4 8 (r.add (EdPoint.mul 256 k a)))
     | _, _ => false)

/-- The 32 octets of a point: its y, with the lowest bit of x on top. -/
def edEncode (u : EdPoint) : List Byte :=
  let w := powMod edP 255 u.z (edP - 2)
  leBytes 32 (u.y * w % edP + u.x * w % edP % 2 * 2 ^ 255)

/-- The secret scalar of a private key of 32 octets. -/
def edScalar (seed : List Byte) : Nat := fromLe ((sha512 seed).take 32) % 2 ^ 254 / 8 * 8 + 2 ^ 254

/-- The public key of a private key. -/
def ed25519Public (seed : List Byte) : List Byte := edEncode (EdPoint.mul 256 (edScalar seed) EdPoint.base)

/-- Ed25519 signing: private key, message. -/
def ed25519Sign (seed m : List Byte) : List Byte :=
  let r := fromLe (sha512 ((sha512 seed).drop 32 ++ m)) % edL
  let rb := edEncode (EdPoint.mul 256 r EdPoint.base)
  let k := fromLe (sha512 (rb ++ ed25519Public seed ++ m)) % edL
  rb ++ leBytes 32 ((r + k * edScalar seed) % edL)

/-! ### SHAKE128 and SHAKE256 -/

/-- A 64-bit word rotated left by n places. -/
def rol64 (x n : Nat) : Nat := x % 2 ^ (64 - n) * 2 ^ n + x / 2 ^ (64 - n)

def keccakRot : List Nat := [0, 1, 62, 28, 27, 36, 44, 6, 55, 20, 3, 10, 43, 25, 39, 41, 45, 15, 21, 8, 18, 2, 61, 56, 14]

def keccakRc : List Nat :=
  [0x1, 0x8082, 0x800000000000808A, 0x8000000080008000, 0x808B, 0x80000001, 0x8000000080008081, 0x8000000000008009,
   0x8A, 0x88, 0x80008009, 0x8000000A] ++
  [0x8000808B, 0x800000000000008B, 0x8000000000008089, 0x8000000000008003, 0x8000000000008002, 0x8000000000000080,
   0x800A, 0x800000008000000A, 0x8000000080008081, 0x8000000000008080, 0x80000001, 0x8000000080008008]

/-- One round of Keccak-f[1600] on the 25 lanes, lane (x, y) at x + 5y. -/
def keccakRound (a : List Nat) (rc : Nat) : List Nat :=
  let lane (l : List Nat) (i : Nat) : Nat := nthD l i 0
  let c := (upTo 5).map (fun x => (upTo 5).foldl (fun v y => Nat.xor v (lane a (x + 5 * y))) 0)
  let d := (upTo 5).map (fun x => Nat.xor (lane c ((x + 4) % 5)) (rol64 (lane c ((x + 1) % 5)) 1))
  let t := (upTo 25).map (fun i => rol64 (Nat.xor (lane a i) (lane d (i % 5))) (lane keccakRot i))
  -- lane (x, y) of b comes from lane (x + 3y, x) of t
  let b := (upTo 25).map (fun i => lane t ((i % 5 + 3 * (i / 5)) % 5 + 5 * (i % 5)))
  (upTo 25).map (fun i =>
    let y := 5 * (i / 5)
    let v := Nat.xor (lane b i) (Nat.land (2 ^ 64 - 1 - lane b ((i + 1) % 5 + y)) (lane b ((i + 2) % 5 + y)))
    if i = 0 then Nat.xor v rc else v)

def keccakF (a : List Nat) : List Nat := keccakRc.foldl keccakRound a

/-- The message with the padding of a SHAKE function of a rate in octets. -/
def shakePad (rate : Nat) (m : List Byte) : List Byte :=
  let k := rate - 1 - m.length % rate
  if k = 0 then m ++ [0x9F#8] else m ++ [0x1F#8] ++ zeros (k - 1) ++ [0x80#8]

def shakeAbsorb (rate : Nat) (st : List Nat) (block : List Byte) : List Nat :=
  keccakF (List.zipWith Nat.xor st
    ((upTo (rate / 8)).map (fun i => fromLe (slice block (8 * i) 8)) ++ List.replicate (25 - rate / 8) 0))

/-- n blocks of output. -/
def shakeSqueeze (rate : Nat) : Nat → List Nat → List Byte
  | 0, _ => []
  | n + 1, st => ((st.take (rate / 8)).map (leBytes 8)).flatten ++ shakeSqueeze rate n (keccakF st)

/-- n blocks of output of a SHAKE function: rate 168 is SHAKE128, rate 136 is SHAKE256. -/
def shake (rate n : Nat) (m : List Byte) : List Byte :=
  let p := shakePad rate m
  shakeSqueeze rate n ((upTo (p.length / rate)).foldl (fun st i => shakeAbsorb rate st (slice p (rate * i) rate))
    (List.replicate 25 0))

/-! ### ML-DSA-65 verification -/

def dsaQ : Nat := 8380417

/-- The eight bits of a number in reverse. -/
def rev8 (m : Nat) : Nat := (upTo 8).foldl (fun v i => 2 * v + m / 2 ^ i % 2) 0

/-- A power of the root of unity 1753. -/
def dsaZeta (e : Nat) : Nat := 1753 ^ (e % 512) % dsaQ

/-- The number-theoretic transform of 2^k coefficients, block m of its level. -/
def dsaNtt : Nat → Nat → List Nat → List Nat
  | 0, _, w => w
  | k + 1, m, w =>
    let z := dsaZeta (rev8 m)
    let lo := w.take (2 ^ k)
    let t := (w.drop (2 ^ k)).map (fun x => z * x % dsaQ)
    dsaNtt k (2 * m) (List.zipWith (fun a b => (a + b) % dsaQ) lo t) ++
      dsaNtt k (2 * m + 1) (List.zipWith (subMod dsaQ) lo t)

/-- Its inverse, but for the factor 2^k. -/
def dsaInv : Nat → Nat → List Nat → List Nat
  | 0, _, w => w
  | k + 1, m, w =>
    let a := dsaInv k (2 * m) (w.take (2 ^ k))
    let b := dsaInv k (2 * m + 1) (w.drop (2 ^ k))
    let z := dsaZeta (512 - rev8 m)
    List.zipWith (fun x y => (x + y) % dsaQ) a b ++ List.zipWith (fun x y => z * subMod dsaQ x y % dsaQ) a b

def ntt (w : List Nat) : List Nat := dsaNtt 8 1 w

/-- 8,347,681 is the inverse of 256. -/
def nttInv (w : List Nat) : List Nat := (dsaInv 8 1 w).map (fun x => x * 8347681 % dsaQ)

def polyMul (a b : List Nat) : List Nat := List.zipWith (fun x y => x * y % dsaQ) a b
def polyAdd (a b : List Nat) : List Nat := List.zipWith (fun x y => (x + y) % dsaQ) a b
def polySub (a b : List Nat) : List Nat := List.zipWith (subMod dsaQ) a b

/-- 256 fields of w bits, the first at the lowest bits. -/
def unpackBits (w : Nat) (b : List Byte) : List Nat :=
  let n := fromLe b
  (upTo 256).map (fun i => n / 2 ^ (w * i) % 2 ^ w)

/-- The numbers below q among octets taken three by three, 23 bits of each (448 candidates: that fewer than 256 of them
are below q is out of reach). -/
def dsaUniform (seed : List Byte) : List Nat :=
  let b := shake 168 8 seed
  (((upTo 448).map (fun i => fromLe (slice b (3 * i) 3) % 2 ^ 23)).filter (fun x => decide (x < dsaQ))).take 256

/-- Entry (r, s) of the matrix, in the transform's domain. -/
def dsaMatrix (rho : List Byte) (r s : Nat) : List Nat := dsaUniform (rho ++ [BitVec.ofNat 8 s, BitVec.ofNat 8 r])

/-- The challenge polynomial: 49 coefficients are 1 or -1. The octets name places, each kept if it is within reach. -/
def dsaBallGo (signs : Nat) : List Byte → Nat → List Nat → List Nat
  | [], _, c => c
  | b :: l, i, c =>
    if i = 256 then c
    else if i < b.toNat then dsaBallGo signs l i c
    else
      dsaBallGo signs l (i + 1)
        ((c.set i (nthD c b.toNat 0)).set b.toNat (if signs / 2 ^ (i - 207) % 2 = 1 then dsaQ - 1 else 1))

def dsaBall (seed : List Byte) : List Nat :=
  let b := shake 136 4 seed
  dsaBallGo (fromLe (b.take 8)) (b.drop 8) 207 (List.replicate 256 0)

/-- The places of the hints of polynomial i, if the 61 octets have a legal form. -/
def dsaHintOf (y : List Byte) (i : Nat) : List Nat :=
  let from_ := if i = 0 then 0 else (nthD y (55 + i - 1) 0).toNat
  (slice y from_ ((nthD y (55 + i) 0).toNat - from_)).map (·.toNat)

def rising : List Nat → Bool
  | a :: b :: l => decide (a < b) && rising (b :: l)
  | _ => true

def dsaHintsOk (y : List Byte) : Bool :=
  let ends := (upTo 6).map (fun i => (nthD y (55 + i) 0).toNat)
  (upTo 6).all (fun i => decide (nthD ends i 0 ≤ 55) && (i == 0 || decide (nthD ends (i - 1) 0 ≤ nthD ends i 0)) &&
    rising (dsaHintOf y i)) && allZero (slice y (nthD ends 5 0) (55 - nthD ends 5 0))

/-- The high part of a coefficient, moved by its hint. -/
def dsaUseHint (hint : Bool) (r : Nat) : Nat :=
  let low := r % 523776
  let neg := decide (261888 < low)
  let high := if neg then r / 523776 + 1 else r / 523776
  -- the top of the range wraps to 0, its low part one lower
  if high = 16 then (if hint then 15 else 0)
  else if ¬ hint then high
  else if neg ∨ low = 0 then (high + 15) % 16
  else (high + 1) % 16

/-- Two coefficients to an octet. -/
def dsaPack4 : List Nat → List Byte
  | a :: b :: l => BitVec.ofNat 8 (a + 16 * b) :: dsaPack4 l
  | _ => []

/-- The high part of a row of the commitment, as the signature lets it be computed. -/
def dsaRow (rho : List Byte) (z : List (List Nat)) (c t1 : List Nat) (hints : List Nat) (r : Nat) : List Nat :=
  let az := (upTo 5).foldl (fun acc s => polyAdd acc (polyMul (dsaMatrix rho r s) (nthD z s []))) (List.replicate 256 0)
  let w := nttInv (polySub az (polyMul c (ntt (t1.map (fun x => x * 8192 % dsaQ)))))
  w.zipIdx.map (fun e => dsaUseHint (hints.contains e.2) e.1)

/-- ML-DSA-65 verification with an empty context string: public key, message, signature. -/
def mldsaVerify (key m sig : List Byte) : Bool :=
  let rho := key.take 32
  let y := sig.drop 3248
  -- coefficients are 2^19 less the packed field
  let packed := (upTo 5).map (fun i => unpackBits 20 (slice sig (48 + 640 * i) 640))
  let inRange := packed.all (fun l => l.all (fun v => decide (196 < v ∧ v < 1048380)))
  let z := packed.map (fun l => ntt (l.map (fun v => subMod dsaQ 524288 v)))
  let c := ntt (dsaBall (sig.take 48))
  let mu := (shake 136 1 ((shake 136 1 key).take 64 ++ [0, 0] ++ m)).take 64
  let rows := (upTo 6).map (fun r =>
    dsaRow rho z c (unpackBits 10 (slice key (32 + 320 * r) 320)) (dsaHintOf y r) r)
  key.length == 1952 && sig.length == 3309 && dsaHintsOk y && inRange &&
    (shake 136 1 (mu ++ (rows.map dsaPack4).flatten)).take 48 == sig.take 48

/-! ### ML-DSA-65 keys and signing (FIPS 204, deterministic) -/

/-- 256 fields of w bits, the first at the lowest bits, as octets. -/
def packBits (w : Nat) (l : List Nat) : List Byte :=
  leBytes (32 * w) (l.zipIdx.foldl (fun v e => v + e.1 % 2 ^ w * 2 ^ (w * e.2)) 0)

/-- A secret polynomial: 4 less each half octet below 9 (1,088 candidates: that fewer than 256 of them are is out of
reach). -/
def dsaShort (seed : List Byte) (r : Nat) : List Nat :=
  let halves := (shake 136 4 (seed ++ leBytes 2 r)).flatMap (fun b => [b.toNat % 16, b.toNat / 16])
  ((halves.filter (fun x => decide (x < 9))).take 256).map (fun x => subMod dsaQ 4 x)

/-- What a key pair is made of, from the 32 octets of its seed: the matrix's seed, the two secret vectors, the signing
seed. -/
structure DsaKey where
  rho : List Byte
  s1 : List (List Nat)
  s2 : List (List Nat)
  kay : List Byte
  deriving DecidableEq, Repr

def dsaKeyOf (seed : List Byte) : DsaKey :=
  let b := shake 136 1 (fixN 32 seed ++ [6, 5])
  let sd := slice b 32 64
  { rho := b.take 32, s1 := (upTo 5).map (dsaShort sd), s2 := (upTo 6).map (fun r => dsaShort sd (5 + r)),
    kay := slice b 96 32 }

/-- Row r of the matrix times a vector in the transform's domain, taken back from it. -/
def dsaTimes (rho : List Byte) (v : List (List Nat)) (r : Nat) : List Nat :=
  nttInv ((upTo 5).foldl (fun acc s => polyAdd acc (polyMul (dsaMatrix rho r s) (nthD v s []))) (List.replicate 256 0))

/-- The public vector: the matrix times the first secret vector, and the second added. -/
def DsaKey.t (k : DsaKey) : List (List Nat) :=
  let v := k.s1.map ntt
  (upTo 6).map (fun r => polyAdd (dsaTimes k.rho v r) (nthD k.s2 r []))

/-- The high part of a coefficient of the public vector: it is what is left of 13 bits, centred. -/
def dsaTop (x : Nat) : Nat := (x + 4095) / 8192

def dsaPublic (k : DsaKey) : List Byte := k.rho ++ k.t.flatMap (fun l => packBits 10 (l.map dsaTop))

/-- The ML-DSA-65 public key of a seed. -/
def mldsaPublic (seed : List Byte) : List Byte := dsaPublic (dsaKeyOf seed)

/-- The magnitude of a coefficient. -/
def dsaAbs (x : Nat) : Nat := min x (dsaQ - x)

/-- Is every coefficient below a bound in magnitude? -/
def dsaBelow (n : Nat) (v : List (List Nat)) : Bool := v.all (fun l => l.all (fun x => decide (dsaAbs x < n)))

/-- The low part of a coefficient, modulo q. -/
def dsaLow (x : Nat) : Nat := subMod dsaQ x (dsaUseHint false x * 523776 % dsaQ)

/-- The hints of a row: the places where adding the correction changes the high part. -/
def dsaHintRow (w ct0 : List Nat) : List Nat :=
  (List.zip w ct0).zipIdx.filterMap (fun e =>
    if dsaUseHint false e.1.1 = dsaUseHint false ((e.1.1 + e.1.2) % dsaQ) then none else some e.2)

/-- The hints as 61 octets: the places of every row, then where each row's end. -/
def dsaHintPack (h : List (List Nat)) : List Byte :=
  fixN 55 (h.flatten.map (BitVec.ofNat 8)) ++
    (upTo 6).map (fun r => BitVec.ofNat 8 (((h.take (r + 1)).map (fun l => l.length)).sum))

/-- One attempt at a signature, under a mask numbered kappa: none where it is to be rejected. -/
def dsaAttempt (k : DsaKey) (t0 : List (List Nat)) (mu rhopp : List Byte) (kappa : Nat) : Option (List Byte) :=
  let y := (upTo 5).map (fun r =>
    (unpackBits 20 ((shake 136 5 (rhopp ++ leBytes 2 (kappa + r))).take 640)).map (fun v => subMod dsaQ 524288 v))
  let yHat := y.map ntt
  let w := (upTo 6).map (dsaTimes k.rho yHat)
  let c0 := (shake 136 1 (mu ++ (w.map (fun l => dsaPack4 (l.map (dsaUseHint false)))).flatten)).take 48
  let c := ntt (dsaBall c0)
  let times (l : List Nat) : List Nat := nttInv (polyMul c (ntt l))
  let z := List.zipWith (fun a l => polyAdd a (times l)) y k.s1
  let w2 := List.zipWith (fun a l => polySub a (times l)) w k.s2
  let ct0 := t0.map times
  let h := List.zipWith dsaHintRow w2 ct0
  if dsaBelow 524092 z ∧ dsaBelow 261692 (w2.map (fun l => l.map dsaLow)) ∧ dsaBelow 261888 ct0 ∧ h.flatten.length ≤ 55 then
    some (c0 ++ z.flatMap (fun l => packBits 20 (l.map (fun v => subMod dsaQ 524288 v))) ++ dsaHintPack h)
  else none

/-- The first attempt of n that is not rejected. -/
def dsaAttempts (f : Nat → Option (List Byte)) : Nat → Nat → Option (List Byte)
  | 0, _ => none
  | n + 1, kappa => match f kappa with
    | some x => some x
    | none => dsaAttempts f n (kappa + 5)

/-- ML-DSA-65 signing with an empty context string, deterministic: seed, message. About one attempt in five is
accepted, and 1,000 that are all rejected are out of reach. -/
def mldsaSign (seed m : List Byte) : List Byte :=
  let k := dsaKeyOf seed
  let mu := (shake 136 1 ((shake 136 1 (dsaPublic k)).take 64 ++ [0, 0] ++ m)).take 64
  let rhopp := (shake 136 1 (k.kay ++ zeros 32 ++ mu)).take 64
  let t0 := k.t.map (fun l => l.map (fun x => subMod dsaQ x (dsaTop x * 8192 % dsaQ)))
  fixN 3309 ((dsaAttempts (dsaAttempt k t0 mu rhopp) 1000 0).getD [])

/-! ### The packet error code of SMBus -/

/-- One bit of the division by x^8 + x^2 + x + 1. -/
def pecBit (c : Byte) : Byte := if c.getLsbD 7 then (c <<< 1) ^^^ 0x07#8 else c <<< 1

def smbusPec (l : List Byte) : Byte :=
  l.foldl (fun c b => pecBit (pecBit (pecBit (pecBit (pecBit (pecBit (pecBit (pecBit (c ^^^ b))))))))) 0

end Sys2Proof.Machine
end

