-- ==== Sys2Proof/Machine/Damper.lean ====
section
/-! DEFINITION. The damper and the trace FIFOs, which many engines reach (chapter 18). -/

namespace Sys2Proof.Machine

open Sys2Proof

/-- A write of a block a fenced device refuses (R362): otherwise the operation. -/
def unfenced (op : State → Status × State) (s : State) : Status × State :=
  if s.twn.fenced then (.twinFenced, s) else op s

/-- The outcome of a write: the state with its completion status. -/
def finish (r : Status × State) : Host.Outcome State Fault Refusal := .next (withStatus r.2 r.1)

/-- A packet that is not handled or forwarded: discarded and counted HLK_BAD_DST (R304, R345). -/
def badDst (s : State) : State := count 1 0 0 s

/-- Something the MSS does: nothing while PORST_N is low, which holds it in reset (R387). -/
def mssRuns (op : State → State) (s : State) : State := if s.pwr.porst then op s else s

/-- A host's command that the ROM loader carries out too (R317, R345). -/
def loaderCmd (op : State → Status × State) (s : State) : Host.Outcome State Fault Refusal :=
  if s.pwr.porst then finish (op s) else .next s

/-- A host's command: nothing while PORST_N is low; discarded and counted by the ROM loader (R345); otherwise the
operation with its completion status. -/
def hostCmd (op : State → Status × State) (s : State) : Host.Outcome State Fault Refusal :=
  if s.pwr.porst ∧ s.mss.romOnly then .next (badDst s) else loaderCmd op s

/-! ### The digest store (R336) -/

/-- Is a firmware image being programmed, so that digest-store writes wait (R344)? -/
def programming (s : State) : Bool := s.mss.updState == 3

/-- The octets of a copy that its HMAC closes: the generation and the values of R336, multi-octet fields least
significant octet first (DESIGN CHOICE, log entry 112: the spec gives them no layout). -/
def storeOctets (gen : Nat) (d : DigestStore) : List Byte :=
  leBytes 8 gen ++ [BitVec.ofNat 8 (bit1 d.valid)] ++ fixN 64 d.fwDigest ++ fixN 64 d.cordDigest ++ leBytes 8 d.cordSerial.toNat ++
    leBytes 8 d.floor.toNat ++ leBytes 8 d.blazeSeconds ++ [BitVec.ofNat 8 (bit1 d.rated)] ++ leBytes 4 d.logMark.toNat ++
    leBytes 8 d.coldStarts

/-- A copy of one generation, closed by its HMAC under the sealing key. -/
def sealedCopy (m : MssSt) (gen : Nat) : StoreCopy :=
  { gen := gen, mac := hmacSha512 (Config.sealKey m.secret) (storeOctets gen m.store), macOk := true, vals := m.store }

/-- The whole store is written into the copy with the lower generation number, one generation above the other. -/
def writeCopy (m : MssSt) : MssSt :=
  if m.storeB.gen < m.storeA.gen then { m with storeB := sealedCopy m (m.storeA.gen + 1) }
  else { m with storeA := sealedCopy m (m.storeB.gen + 1) }

/-- A value is sealed; while an image is being programmed the write waits (R344). -/
def sealStore (f : DigestStore → DigestStore) (s : State) : State :=
  let m : MssSt := { s.mss with store := f s.mss.store }
  if programming s then { s with mss := { m with sealWait := true } } else { s with mss := writeCopy m }

/-- The copy in force at power application: the valid one with the higher generation; none where neither is valid. -/
def storeInForce (m : MssSt) : Option DigestStore :=
  match m.storeA.macOk, m.storeB.macOk with
  | true, true => if m.storeA.gen < m.storeB.gen then some m.storeB.vals else some m.storeA.vals
  | true, false => some m.storeA.vals
  | false, true => some m.storeB.vals
  | false, false => none

/-- The binding of a claimant, in the cord or at run time (Table 13.4). -/
def claimOf (s : State) (claimant : Nat) : Option Claim := Map.get? s.cord.claims claimant

def claimHeld (s : State) (claimant : Nat) : Bool := (claimOf s claimant).isSome

/-- The claimant AUX_SYNC is bound to: FTC_1PPS 0x01, DAMPER_IN 0x02, or 0 for none (Table 13.4). -/
def auxClaimant (s : State) : Nat := if claimHeld s 0x02 then 0x02 else if claimHeld s 0x01 then 0x01 else 0

/-- The claimant whose edges this tick's are: the one bound before the tick, where a run-time binding has changed in it
(R391). -/
def auxBinding (s : State) : Nat :=
  match s.cord.auxBefore with
  | some (t, c) => if t = s.time.raw then c else auxClaimant s
  | none => auxClaimant s

/-- A run-time binding is about to change: the first change of a tick keeps what the pad was bound to. -/
def noteAux (s : State) : State := { s with cord := { s.cord with auxBefore := some (s.time.raw, auxBinding s) } }

/-! ### MSS timers (R332) -/

/-- The timer a resource names. -/
def timerOf (r : Byte) : Option Nat := if 0x10 ≤ r.toNat ∧ r.toNat ≤ 0x13 then some (r.toNat - 0x10) else none

/-- The timer a claimant holds. -/
def timerHeld (s : State) (claimant : Nat) : Option Nat := (claimOf s claimant).bind (fun c => timerOf c.resource)

/-- The claimant's feature starts or reloads its timer: the count runs from 0. -/
def startTimer (claimant : Nat) (s : State) : State :=
  match timerHeld s claimant with
  | some t => { s with mss := { s.mss with timers := Map.set s.mss.timers t (true, 0) } }
  | none => s

/-- The claimant's feature stops its timer. -/
def haltTimer (claimant : Nat) (s : State) : State :=
  match timerHeld s claimant with
  | some t => { s with mss := { s.mss with timers := Map.erase s.mss.timers t } }
  | none => s

/-! ### Traces (R377, R378) -/

/-- DBG_ENABLE as its trace enables apply in this tick: a write applies from the tick after (R377). -/
def traceEn (s : State) : W64 :=
  match s.dbg.traceOld with
  | some (t, v) => if t = s.time.raw then v else reg s Reg.dbgEnable
  | none => reg s Reg.dbgEnable

/-- DBG_ENABLE is written, by the host or by a cord load. -/
def setEnable (v : W64) (s : State) : State :=
  setReg { s with dbg := { s.dbg with traceOld := some (s.time.raw, traceEn s) } } Reg.dbgEnable v

/-- Put a trace record into die d's FIFO, or drop and count it (R378). -/
def tracePush (d : Nat) (bytes : List Byte) (s : State) : State :=
  let q := Map.getD s.dbg.traceFifo d []
  if fld (reg s (Reg.traceRing d)) 63 44 = 0 ∨ s.bpm.ddrWindow = false ∨ 4096 ≤ q.length then count 13 0 d s
  else { s with dbg := { s.dbg with traceFifo := Map.set s.dbg.traceFifo d (q ++ [{ bytes := bytes }]) } }

/-- A group record: kind 1 bundle, 2 invocation start, 3 invocation end (Table 18.4). -/
def traceGroup (kind g u : Nat) (tag : BitVec 24) (status : Nat) (invoc pass : Nat) (btag : Nat) (s : State) : State :=
  if bitAt (traceEn s) (16 + g) then
    tracePush (dieOf g) ([BitVec.ofNat 8 kind, BitVec.ofNat 8 (unitByte g u)] ++ leBytes 3 tag.toNat ++
      [BitVec.ofNat 8 status, 0, 0] ++ leBytes 8 s.time.ftc.toNat ++ leBytes 6 invoc ++ [0, 0] ++ leBytes 4 pass ++
      leBytes 4 (if kind = 1 then btag else 0)) s
  else s

/-- A frame record: kind 4 sent, 5 accepted; `lane` none for a return port (Table 18.4). -/
def traceFrame (kind pg : Nat) (lane : Option Nat) (h : Hdr) (stamp : Nat) (s : State) : State :=
  let e := traceEn s
  if bitAt e (32 + pg) && bitAt e (48 + h.ch.toNat) then
    let unit : Nat := match lane with
      | some _ => 0xFF
      | none => pg * 16 + 15
    let first : Nat := match lane with
      | some l => l
      | none => 0xFFFF
    tracePush (dieOf pg) ([BitVec.ofNat 8 kind, BitVec.ofNat 8 unit] ++ leBytes 3 h.tag.toNat ++ [0, 0, 0] ++
      leBytes 8 stamp ++ leBytes 2 first ++ leBytes 2 h.src.toNat ++ leBytes 2 h.dst.toNat ++
      [BitVec.ofNat 8 (h.ch.toNat * 16 + h.tc.toNat * 2 + bit1 h.td), h.sgen] ++ leBytes 2 h.sseq.toNat ++
      leBytes 2 (h.len / 256) ++ [BitVec.ofNat 8 h.len, h.hops, 0, 0]) s
  else s

/-- A damper record (kind 6), whenever any trace enable is set; die D0's ring only. -/
def traceDamper (src serial origin : Nat) (s : State) : State :=
  if fld (traceEn s) 63 16 = 0 then s
  else tracePush 0 ([6#8, 0xFF#8] ++ zeros 6 ++ leBytes 8 s.time.ftc.toNat ++ leBytes 4 serial ++ leBytes 2 origin ++
    [BitVec.ofNat 8 src] ++ zeros 9) s

/-! ### Abandoning an invocation (R153 step 3, R373) -/

/-- Buffers an unfinished invocation took are freed; nothing it did is kept. -/
def abandonRun (g u : Nat) (r : Run) (s : State) : State :=
  modUnit (foldOver r.outs (fun s h => freeBuf g h s) s) g u (fun un => { un with run := none })

/-! ### The damper (R372-R374) -/

/-- The DAMPER symbol queued on every fabric-mode port that is up but one (R66: eight copies). -/
def spreadDamper (serial : BitVec 32) (origin : Chip) (time : BitVec 48) (except_ : Option Nat) (s : State) : State :=
  foldOver s.ports (fun s e =>
    if e.1 < 1024 ∧ e.2.state = .up ∧ e.2.rev ≠ 0 ∧ some e.1 ≠ except_ then
      modPort s e.1 (fun p =>
        { p with ctrlQ := p.ctrlQ ++ List.replicate 8 (CtrlSym.damper serial origin time) })
    else s) s

/-- Every running invocation of a group is abandoned and remembered (R373). -/
def stopGroup (g : Nat) (s : State) : State :=
  foldOver (upTo 13) (fun s u =>
    match (getUnit s g u).run with
    | some r => modGroup (abandonRun g u r s) g (fun gr => { gr with abandoned := gr.abandoned ++ [(u, r)] })
    | none => s) s

/-- Is the port in near-end serial loopback inside the chiplet (Table 3.6): what it sends comes back to its receiver,
and nothing passes its lanes? -/
def looped (s : State) : LinkId → Bool
  | .sub _ => false
  | .port l => fld (reg s (Reg.lnkCfg l.toNat)) 3 2 == 1

/-- An Ethernet-mode port pauses these priorities and no others (R73); in near-end loopback the frame comes back to
its own receiver, which honours it (R77). -/
def setPause (l : Nat) (want : Byte) (s : State) : State :=
  if (getPort s l).pfcTx = want then s
  else if looped s (.port (BitVec.ofNat 10 l)) then modPort s l (fun p => { p with pfcTx := want, pfcRx := want })
  else emit (modPort s l (fun p => { p with pfcTx := want })) (.pfc (BitVec.ofNat 10 l) want)

/-- Under a damper an Ethernet-mode port that is up holds PFC pause on every priority (R373). -/
def pauseAll (l : Nat) (s : State) : State := setPause l 0xFF s

/-- Every Ethernet-mode port that is up. -/
def ethUp (s : State) : List Nat :=
  (s.ports.filter (fun e => decide (e.1 < 1024) && e.2.state == .up && e.2.rev == 0)).map (·.1)

/-- What a scan-out copies, as it stands (R376). -/
def freeze (s : State) : Frozen :=
  { regs := s.regs, time := s.time, ports := s.ports, sw := s.sw, groups := s.groups, ctx := s.ctx, cord := s.cord,
    moe := s.moe, mss := s.mss, pwr := s.pwr, twn := s.twn, sramChk := s.bpm.sramChk,
    counters := s.dbg.counters, dampered := s.dbg.dampered,
    source := s.dbg.source, serial := s.dbg.serial, origin := s.dbg.origin, td := s.dbg.td }

/-- The damper's source, serial, origin and times as the debug registers hold them (R372). -/
def markDamper (src : BitVec 3) (serial : BitVec 32) (origin : Chip) (time : BitVec 48) (s : State) : State :=
  { s with dbg := { s.dbg with
    dampered := true, source := src, serial := serial, origin := origin, td := s.time.ftc, originTime := time,
    serials := (serial :: s.dbg.serials).take 16 } }

/-- What a scan-out copies is taken as the state stands at T_d (R376). -/
def freezeNow (s : State) : State := { s with dbg := { s.dbg with frozen := some (freeze s) } }

/-- A running cord apply ends in STATE 4 (R299). -/
def stopApply (s : State) : State :=
  match s.cord.action with
  | .applying _ _ => { s with cord := { s.cord with action := .idle, state := 4 } }
  | .idle => s

/-- A running sparing copy stops (R126). -/
def stopCopy (s : State) : State :=
  match s.bpm.copy with
  | some _ => { s with bpm := { s.bpm with copy := none, spareState := 3 } }
  | none => s

/-- A damper takes effect at this tick: the groups stop, a running cord apply and sparing copy end (R372-R374). -/
def damperNow (src : BitVec 3) (serial : BitVec 32) (origin : Chip) (time : BitVec 48) (from_ : Option Nat)
    (s : State) : State :=
  let s1 := freezeNow (markDamper src serial origin time s)
  let s2 := stopCopy (stopApply (foldOver (upTo 16) (fun s g => stopGroup g s) s1))
  let s3 := foldOver (ethUp s2) (fun s l => pauseAll l s) (traceDamper src.toNat serial.toNat origin.toNat s2)
  if src ≠ 4 ∧ bitAt (reg s3 Reg.damperCfg) 62 then spreadDamper serial origin time from_ s3 else s3

/-- A raise or a symbol: without effect for a remembered serial, or while a damper is in force (R372). -/
def raiseDamper (src : BitVec 3) (serial : BitVec 32) (origin : Chip) (time : BitVec 48) (from_ : Option Nat)
    (s : State) : State :=
  if s.dbg.dampered ∨ s.dbg.serials.contains serial then s else damperNow src serial origin time from_ s

/-- A damper raised by this device: origin OWN_CHIP, originating time T_d. -/
def raiseOwn (src : BitVec 3) (serial : BitVec 32) (s : State) : State :=
  raiseDamper src serial (BitVec.ofNat 16 (ownChip s)) (s.time.ftc.setWidth 48) none s

end Sys2Proof.Machine
end

