-- ==== Sys2Proof/Machine/Mirror.lean ====
section
/-! DEFINITION. The sending side of the twin pair's mirror (R354-R358) and the judgement of a lost partner (R360),
which many engines reach. -/

namespace Sys2Proof.Machine

open Sys2Proof

/-! ### Halves (R349, R350) -/

/-- The number of a placement entry: bank, layer table, expert. -/
def placeKey (b l e : Nat) : Nat := b * 2 ^ 21 + l * 2 ^ 13 + e

/-- The layer table of a placement entry's number. -/
def placeTable (k : Nat) : Nat := k / 2 ^ 13 % 256

/-- Kinds of divided object, as MTYPE numbers them: 3 context, 5 member group, 6 tally, 9 layer table, 8 placement (by
its layer table). -/
def halfBit (kind n : Nat) : Bool :=
  if kind = 3 then n.testBit 13 else if kind = 5 then n.testBit 9 else if kind = 6 then n.testBit 12 else n.testBit 7

def engaged (s : State) : Bool := bitAt (reg s Reg.twnCfg) 63

def twinSide (s : State) : Bool := bitAt (reg s Reg.twnCfg) 61

/-- Does an object lie in the partner's half of an engaged pair (R349)? -/
def partnerHalf (s : State) (kind n : Nat) : Bool := engaged s && (halfBit kind n != twinSide s)

/-- Is an action on the object refused, the partner half not being adopted (R350)? -/
def halfRefused (s : State) (kind n : Nat) : Bool := partnerHalf s kind n && !s.twn.tookOver

/-- A checked action on an object of the half (R350). -/
def inHalf (kind n : Nat) (op : State → Status × State) (s : State) : Status × State :=
  if halfRefused s kind n then (.resourceBound, s) else op s

/-! ### Messages (R354, R358) -/

/-- Sublinks that are up. -/
def upSublinks (s : State) : List Nat := (upTo 8).filter (fun n => (getPort s (1024 + n)).state == .up)

/-- The octets of a message (Table 17.2), most significant byte first. -/
def twinOctets (mtype : Byte) (mseq : Nat) (epoch : BitVec 32) (body : List Byte) : List Byte :=
  [mtype, 0] ++ beBytes 2 body.length ++ beBytes 8 mseq ++ beBytes 4 epoch.toNat ++ body

/-- The message received octets hold. -/
def twinMsgOf (b : List Byte) : TwinMsg :=
  { mtype := nthD b 0 0, mseq := bv64 (fromBe (slice b 4 8)), epoch := BitVec.ofNat 32 (fromBe (slice b 12 4)),
    body := b.drop 16 }

/-- n octets of a body from octet i, most significant first. -/
def bodyAt (b : List Byte) (i n : Nat) : Nat := fromBe (slice b i n)

/-- Is the type listed, does the LENGTH fit it, and the body its fields' ranges (Table 17.3)? -/
def bodyFits (mtype : Byte) (b : List Byte) : Bool :=
  match mtype.toNat with
  | 1 => b.length == 72
  | 2 => b.length == 8
  | 3 => b.length == 32 && decide (bodyAt b 0 2 < 16384)
  | 4 => b.length == 2 && decide (bodyAt b 0 2 < 16384)
  | 5 => b.length == 8 + 2 * bodyAt b 2 2 && decide (8 ≤ b.length) && decide (bodyAt b 0 2 < 1024)
  | 6 => b.length == 40 && decide (bodyAt b 0 2 < 8192)
  | 7 => b.length == 16
  | 8 => b.length == 12 && decide (bodyAt b 0 1 < 2) && decide (bodyAt b 2 2 < 8192)
  | 9 => b.length == 72
  | 10 => b.length == 72
  | 11 => b.length == 0
  | 12 => b.length == 8
  | 13 => b.length == 1
  | 14 => b.length == 8
  | _ => false

/-- A received message: discarded and counted where its type or its LENGTH is wrong, else kept until it is acted on. -/
def twinArrive (sub : Nat) (b : List Byte) (s : State) : State :=
  if 16 ≤ b.length ∧ bodyAt b 2 2 = b.length - 16 ∧ bodyFits (nthD b 0 0) (b.drop 16) then
    { s with twn := { s.twn with inbox := s.twn.inbox ++ [(sub, b)] } }
  else count 12 1 0 s

/-- A message handed to a sublink, which sends it in blocks on channel 0, with the pair epoch of the moment. -/
def twinEmit (sub : Nat) (mtype : Byte) (mseq : Nat) (body : List Byte) (s : State) : State :=
  { s with twn := { s.twn with out := s.twn.out ++ [(sub, twinOctets mtype mseq s.twn.epoch body)] } }

/-- The first message that waits on a sublink. -/
def subMsg (s : State) (n : Nat) : Option (List Byte) := (s.twn.out.find? (fun e => e.1 == n)).map (·.2)

/-- It has been sent. -/
def subSent (n : Nat) (s : State) : State :=
  { s with twn := { s.twn with out := s.twn.out.eraseP (fun e => e.1 == n) } }

/-- The body of HELLO (Table 17.3): firmware offers mirror protocol version 1. D is that of the active cord, as
CRD_DIGEST shows it: it changes where an apply ends, and stays while a LOAD is under way or has stopped short (R299).
-/
def helloBody (s : State) : List Byte :=
  let flags := bit1 (twinSide s) + 2 * bit1 s.twn.tookOver + 4 * bit1 s.twn.fenced
  [1#8, 1#8, BitVec.ofNat 8 flags, 0] ++ beBytes 2 (ownChip s) ++ zeros 2 ++ (s.cord.digest ++ zeros 64).take 64

/-- HELLO on every sublink that is up, while engaged (R355). -/
def helloNow (s : State) : State :=
  if engaged s then foldOver (upSublinks s) (fun s n => twinEmit n 1 0 (helloBody s) s) s else s

/-- The sublink after the one last used, of those that are up (R358). -/
def pickSub (s : State) : Option Nat :=
  let l := upSublinks s
  match l.find? (fun n => decide (s.twn.nextSub ≤ n)) with
  | some n => some n
  | none => l.head?

/-- Number and send one mirror message, in round-robin order over the sublinks that are up (R358). -/
def mirrorPush (mtype : Byte) (body : List Byte) (s : State) : State :=
  match pickSub s with
  | none => s
  | some n =>
    let q := s.twn.sentMseq + 1
    twinEmit n mtype q body { s with twn := { s.twn with
      sentMseq := q, nextSub := n + 1, txq := s.twn.txq ++ [{ mseq := q, mtype := mtype, body := body, sub := n }] } }

/-- Mirror a change while paired; one that would overflow the queue of 65,536 empties it and calls for a full copy,
which carries every change made before it (R357, R358). -/
def mirrorSend (mtype : Byte) (body : List Byte) (s : State) : State :=
  if s.twn.state ≠ 2 ∨ ¬ engaged s ∨ s.twn.recopy then s
  else if 65536 ≤ s.twn.txq.length then
    count 12 2 0 { s with twn := { s.twn with txq := [], recopy := true } }
  else mirrorPush mtype body s

/-- Is a change of this object mirrored: own half, and the adopted half while TOOK_OVER = 1 (R357)? -/
def mirrored (s : State) (kind n : Nat) : Bool := !halfRefused s kind n

def ctxBody (c : Nat) (x : Ctx) : List Byte :=
  beBytes 2 c ++ [if x.state = .timedOut then 1#8 else 0#8, 0] ++ beBytes 8 x.arg0.toNat ++
    beBytes 4 x.timeout.toNat ++ beBytes 8 x.step.toNat ++ zeros 8

def mgrpBody (m : Nat) (x : MGroup) : List Byte :=
  beBytes 2 m ++ beBytes 2 x.chips.length ++ beBytes 4 x.epoch.toNat ++ (x.chips.map (fun c => beBytes 2 c.toNat)).flatten

def tallyBody (s : State) (t : Nat) : List Byte :=
  let x := Map.getD s.ctx.tallies t TallySt.reset
  let c := reg s (Reg.tallyCfg t)
  beBytes 2 t ++ beBytes 6 x.value.toNat ++ beBytes 2 x.gen.toNat ++ beBytes 6 (fld c 47 0) ++
    [BitVec.ofNat 8 (4 * bit1 (bitAt c 63) + 2 * bit1 (bitAt c 62) + bit1 (bitAt c 61))] ++ zeros 7 ++
    beBytes 8 (reg s (Reg.tallyRelease t)).toNat ++ beBytes 8 x.start.toNat

def layerBody (s : State) (l : Nat) : List Byte :=
  [BitVec.ofNat 8 l] ++ zeros 7 ++ ((upTo 8).map (fun w => beBytes 8 (reg s (Reg.layer l w)).toNat)).flatten

def placeBody (b l e : Nat) (v : W64) : List Byte :=
  [BitVec.ofNat 8 b, BitVec.ofNat 8 l] ++ beBytes 2 e ++ beBytes 8 v.toNat

def routeBody (a : Nat) (v : W64) : List Byte := beBytes 8 a ++ beBytes 8 v.toNat

def epochsBody (s : State) : List Byte :=
  beBytes 4 s.twn.epoch.toNat ++ ((upTo 16).map (fun g => beBytes 4 (getGroup s g).spareEpoch.toNat)).flatten ++
    beBytes 4 s.bpm.spareEpoch.toNat

def mirrorCtx (c : Nat) (s : State) : State :=
  match Map.get? s.ctx.table c with
  | some x => if mirrored s 3 c then mirrorSend 3 (ctxBody c x) s else s
  | none => if mirrored s 3 c then mirrorSend 4 (beBytes 2 c) s else s

def mirrorMgrp (m : Nat) (s : State) : State :=
  if mirrored s 5 m then mirrorSend 5 (mgrpBody m (Map.getD s.ctx.groups m MGroup.reset)) s else s

def mirrorTally (t : Nat) (s : State) : State := if mirrored s 6 t then mirrorSend 6 (tallyBody s t) s else s

def mirrorLayer (l : Nat) (s : State) : State := if mirrored s 9 l then mirrorSend 9 (layerBody s l) s else s

def mirrorPlace (b l e : Nat) (v : W64) (s : State) : State :=
  if mirrored s 8 l then mirrorSend 8 (placeBody b l e v) s else s

def mirrorRoute (a : Nat) (v : W64) (s : State) : State := mirrorSend 7 (routeBody a v) s

def mirrorEpochs (s : State) : State := mirrorSend 10 (epochsBody s) s

/-- A routing word is stored: its word of table SRAM holds fresh check symbols. A changed OWN_CHIP is a field of
HELLO, which is sent at once (R355). -/
def routeStore (a : Nat) (v : W64) (s : State) : State :=
  let s1 := writeSram (.table a) 0 1 (setReg s a v)
  if ownChip s1 = ownChip s then s1 else helloNow s1

/-! ### Full copies (R356) -/

/-- Is a control-space address a rack entry, a slot entry, a next-hop set word or SWC_FWD_CFG? -/
def isRouteAddr (a : Nat) : Bool :=
  a == Reg.fwdCfg || (decide (Reg.rtRack 0 ≤ a) && decide (a < blockBase 3 + 0x02200000))

/-- Is a control-space address a word of a layer table? -/
def isLayerAddr (a : Nat) : Bool := decide (Reg.layer 0 0 ≤ a) && decide (a < Reg.layer 256 0)

/-- Is a control-space address a placement entry? -/
def isPlaceAddr (a : Nat) : Bool := decide (Reg.place 0 0 0 ≤ a) && decide (a < Reg.place 2 0 0)

/-- Bank, layer table and expert of a placement entry's address. -/
def placeOf (a : Nat) : Nat × Nat × Nat :=
  let o := a - Reg.place 0 0 0
  (o / 0x1000000, (o % 0x1000000) / 0x10000, (o % 0x10000) / 8)

/-- The messages of a copy: those objects of one half that hold anything but their reset values. `own` names the half.
-/
def copyObjects (s : State) (own : Bool) : List (Byte × List Byte) :=
  let mine (kind n : Nat) : Bool := (halfBit kind n == twinSide s) == own
  ((s.ctx.table.filter (fun e => mine 3 e.1)).map (fun e => (3#8, ctxBody e.1 e.2))) ++
  ((s.ctx.groups.filter (fun e => mine 5 e.1)).map (fun e => (5#8, mgrpBody e.1 e.2))) ++
  (((upTo 8192).filter (fun t => mine 6 t && (Map.has s.ctx.tallies t || Map.has s.regs (Reg.tallyCfg t) ||
      Map.has s.regs (Reg.tallyRelease t)))).map (fun t => (6#8, tallyBody s t))) ++
  (((upTo 256).filter (fun l => mine 9 l && (upTo 8).any (fun w => Map.has s.regs (Reg.layer l w)))).map
      (fun l => (9#8, layerBody s l))) ++
  ((s.regs.filter (fun e => isPlaceAddr e.1 && mine 8 (placeOf e.1).2.1)).map
      (fun e => let p := placeOf e.1; (8#8, placeBody p.1 p.2.1 p.2.2 e.2)))

/-- The device's own routing state. -/
def copyRoutes (s : State) : List (Byte × List Byte) :=
  (s.regs.filter (fun e => isRouteAddr e.1)).map (fun e => (7#8, routeBody e.1 e.2))

/-- Send a copy framed by COPY_BEGIN and COPY_END; the count is that of the messages between the two. -/
def sendCopy (resync : Bool) (msgs : List (Byte × List Byte)) (s : State) : State :=
  let s1 := mirrorPush 13 [BitVec.ofNat 8 (bit1 resync)] s
  let s2 := foldOver msgs (fun s m => mirrorPush m.1 m.2 s) s1
  mirrorPush 14 (beBytes 8 msgs.length) s2

/-- The full copy of the own half (and the adopted half), the routing state and the epochs; a fenced device sends
none until a RESYNC (R356, R357). -/
def fullCopy (s : State) : State :=
  if s.twn.fenced then s
  else
    let adopted := if s.twn.tookOver then copyObjects s false else []
    sendCopy false (copyObjects s true ++ adopted ++ copyRoutes s ++ [(10#8, epochsBody s)])
      { s with twn := { s.twn with recopy := false } }

/-! ### Objects found uncorrectable (R122, R359) -/

/-- The number by which FETCH names an object: a placement entry goes by its layer table (log entry 104). -/
def fetchNo (kind n : Nat) : Nat := if kind = 8 then placeTable n else n

/-- FETCH for one object. -/
def fetchOne (kind n : Nat) (s : State) : State :=
  mirrorPush 12 ([BitVec.ofNat 8 kind, 0] ++ beBytes 2 (fetchNo kind n) ++ zeros 4) s

/-- An object stays absent: logged and counted. -/
def fetchFailed (kind n : Nat) (s : State) : State :=
  logEv (codeCounter 12 4) 2 0xFF none [kind, fetchNo kind n] (count 12 4 0 s)

/-- A context (kind 3), tally (6) or placement entry (8, by its number) whose word was found uncorrectable has gone
absent: while paired FETCH asks the twin for one of the own half; any other stays absent, logged and counted. -/
def objectLost (kind n : Nat) (s : State) : State :=
  if engaged s ∧ s.twn.state = 2 ∧ halfBit kind (fetchNo kind n) = twinSide s then
    (if s.twn.fetching.contains (kind, n) then s
     else fetchOne kind n { s with twn := { s.twn with fetching := s.twn.fetching ++ [(kind, n)] } })
  else fetchFailed kind n s

/-- A fetched object has come: no FETCH for it is under way any more. -/
def fetched (kind n : Nat) (s : State) : State :=
  if s.twn.fetching.contains (kind, n) then
    { s with twn := { s.twn with fetching := s.twn.fetching.filter (fun x => x != (kind, n)) } }
  else s

/-! ### Loss of the partner (R358, R360, R361) -/

/-- What waited on a sublink that goes down is lost; messages unacknowledged on it go out again on another that is up,
and an ACK that waited there is due again (R358). -/
def twinReassign (n : Nat) (s0 : State) : State :=
  let ack := s0.twn.out.any (fun e => e.1 == n && nthD e.2 0 0 == 2#8)
  let s := { s0 with twn := { s0.twn with
    out := s0.twn.out.filter (fun e => e.1 != n), sinceAck := if ack then max 1 s0.twn.sinceAck else s0.twn.sinceAck } }
  match (upSublinks s).filter (fun m => m != n) with
  | [] => s
  | m :: _ =>
    let moved := s.twn.txq.filter (fun x => x.sub == n)
    let s1 := { s with twn := { s.twn with
      txq := s.twn.txq.map (fun x => if x.sub = n then { x with sub := m } else x) } }
    foldOver moved (fun s x => twinEmit m x.mtype x.mseq x.body s) s1

/-- The first two steps of a takeover, one act: TAKEOVER is recorded at the epoch and TOOK_OVER becomes 1; the rest
follows at TAKEOVER_COMPLETE (R361). -/
def takeoverBegin (s : State) : State :=
  { s with twn := { s.twn with tookOver := true, taking := true } }

/-- A new pair epoch: what was recorded at the old one is forgotten (R363). -/
def setPairEpoch (e : BitVec 32) (s : State) : State :=
  if e = s.twn.epoch then s
  else mirrorEpochs { s with twn := { s.twn with epoch := e, recorded := [] } }

/-- Both signs of life lost: partner lost, logged, and an automatic takeover begins (R360). -/
def partnerLost (s : State) : State :=
  let s1 := logEv (codeOther 12) 2 0xFF none [s.twn.epoch.toNat] { s with twn := { s.twn with state := 5, version := 0 } }
  if bitAt (reg s1 Reg.twnCfg) 62 ∧ ¬ s1.twn.fenced ∧ ¬ s1.twn.tookOver then
    let s2 := setPairEpoch (s1.twn.epoch + 1) s1
    takeoverBegin { s2 with twn := { s2.twn with recorded := [1#4] } }
  else s1

/-- Is the partner lost now: no heartbeat and no sublink up (R360)? -/
def partnerGone (s : State) : Bool := !s.twn.hbAlive && (upSublinks s).isEmpty

/-- Judge the partner when a sign of life goes or comes, and at engagement (R360): all sublinks down with the heartbeat
alive is Link lost, both gone is Partner lost. -/
def judgePartner (s : State) : State :=
  if engaged s ∧ (upSublinks s).isEmpty then
    if s.twn.hbAlive then { s with twn := { s.twn with state := 4, version := 0 } }
    else if s.twn.state = 5 then s
    else partnerLost s
  else s

/-- A sublink comes up: after a lost link or partner the pair is pairing again (R355; DEDUCED, log entry 103). -/
def sublinkUp (s : State) : State :=
  if engaged s ∧ (s.twn.state = 4 ∨ s.twn.state = 5) then { s with twn := { s.twn with state := 1 } } else s

/-- A sublink goes down (R358, R360). -/
def judgeSublink (n : Nat) (s : State) : State := judgePartner (twinReassign n s)

end Sys2Proof.Machine
end

