-- ==== Sys2Proof/Machine/Time.lean ====
section
/-! DEFINITION. Self-timed operation, tempo and fabric time (chapter 2). -/

namespace Sys2Proof.Machine

open Sys2Proof

/-- The MSS timers count microseconds; one passes with every 1,000 ticks of the reference (R332; log entry 33). -/
def timerTick (s : State) : State :=
  if s.time.raw % 1000 = 0 then
    { s with mss := { s.mss with timers := Map.each s.mss.timers (fun _ t => if t.1 then (true, t.2 + 1) else t) } }
  else s

/-- The fabric time counter goes on by one tick. A slew in progress inserts a tick, in which the reference stands, or
repeats a value after every `slewEvery` other ticks (R41; where in the millisecond the corrections fall is the
model's choice, log entry 17). -/
def ftcTick (s : State) : State :=
  let t := s.time
  if t.slewLeft = 0 then { s with time := { t with ftc := t.ftc + 1, raw := t.raw + 1 } }
  else if t.slewWait = 0 then
    if 0 < t.slewLeft then
      { s with time := { t with ftc := t.ftc + 1, slewLeft := t.slewLeft - 1, slewWait := t.slewEvery } }
    else { s with time := { t with raw := t.raw + 1, slewLeft := t.slewLeft + 1, slewWait := t.slewEvery } }
  else { s with time := { t with ftc := t.ftc + 1, raw := t.raw + 1, slewWait := t.slewWait - 1 } }

/-- What passes with one tick when no command waits. -/
def tick (s0 : State) : State :=
  mssRuns (fun s =>
    let s1 := ftcTick s
    if s1.time.raw = s.time.raw then s1 else timerTick s1) s0

/-! ### Tempo (R30, R34-R36) -/

/-- TMP_MEASURE_n for each group, and n = 16 as the slowest of the four flue sections, once every 1,000 ticks: at the
multiples of 1,000 (R30, Table 2.5; the phase is the model's choice, log entry 73). -/
def tempoMeasure (groups flue : List (BitVec 16)) (s : State) : State :=
  if powered s ∧ now s % 1000 = 0 then
    let m := foldOver (upTo 16) (fun m n => Map.set m n (nthD groups n 0)) s.time.measure
    let slow := (flue.map (·.toNat)).foldl min 65535
    { s with time := { s.time with measure := Map.set m 16 (BitVec.ofNat 16 slow) } }
  else s

def execTempoMeasure (groups flue : List (BitVec 16)) (s : State) : Host.Outcome State Fault Refusal :=
  if groups.length = 16 ∧ flue.length = 4 then .next (tempoMeasure groups flue s) else .refused .illFormedCommand

/-- TARGET in force. -/
def govTarget (s : State) : Nat := fld s.time.govCtrl 47 32

/-- Permits received after k counted ticks (R34). -/
def permitsAt (target k : Nat) : Nat := target * k / 1000

/-- Does a group run below TARGET, by its last measured tempo? A group not measured yet, which reads TEMPO 0, and a
gated one, which takes no step, do not (R36; the model's choice, log entry 72). -/
def runsBelow (g : Nat) (s : State) : Bool :=
  let m := (Map.getD s.time.measure g 0).toNat
  decide (m ≠ 0) && decide (m < govTarget s) && !gated s g

/-- A group below TARGET has its UNDERRUN bit set, and the beginning is logged (R36). -/
def underrunCheck (g : Nat) (s : State) : State :=
  let below := runsBelow g s
  let s1 := modGroup s g (fun gr => { gr with below := below })
  if ¬ below then s1
  else
    let s2 := { s1 with time := { s1.time with underrun := s1.time.underrun ||| BitVec.ofNat 16 (2 ^ g) } }
    if (getGroup s g).below then s2
    else logEv 0x0010 2 0xFF none [g, (Map.getD s.time.measure g 0).toNat, govTarget s] s2

/-- The tick in which the last paced step of a run has begun after its last bundle is the one at which it finished its
tiles (R143; log entry 109). -/
def finishRun (t limit : Nat) (u : UnitSt) : UnitSt :=
  match u.run with
  | some r =>
    if r.ended ∧ r.doneAt = none ∧ u.lastStep ≤ limit then { u with run := some { r with doneAt := some t } } else u
  | none => u

/-- A tick's `n` permits come to a group. A gated group takes none of them. A group that keeps up takes each as it
comes, for idle steps too; one below TARGET, or with permits in hand, steps at its natural tempo until none is left
(R34, R36; log entry 15). A group not measured yet takes all it has. -/
def givePermits (g n : Nat) (s : State) : State :=
  let m := (Map.getD s.time.measure g 0).toNat
  let off := gated s g
  let t := now s
  let target := govTarget s
  modGroup s g (fun gr =>
    let all := gr.permits + n
    let own := gr.stepCarry + m
    let free := m == 0 || (decide (target ≤ m) && gr.stepLimit == gr.permits)
    let limit := if off then gr.stepLimit else if free then all else min all (gr.stepLimit + own / 1000)
    { gr with
      permits := all, stepsBegun := gr.stepLimit, stepLimit := limit,
      stepCarry := if off || limit == all then 0 else own % 1000,
      units := Map.each gr.units (fun _ u => finishRun t limit u) })

/-- One counted tick of die d's pacer: its groups' permits of the fractional accumulator (R34); a tick under a damper
is not counted, and no tick of the reference twice. Nor is one in which the dies are off, Banked or restarting (DESIGN
CHOICE, log entry 114: R34 leaves out damper ticks only). -/
def pacerTick (d : Nat) (s : State) : State :=
  if s.time.active ∧ ¬ s.dbg.dampered ∧ powered s ∧ Map.get? s.time.pacerAt d ≠ some s.time.raw then
    let k := Map.getD s.time.pacerK d 0
    let n := permitsAt (govTarget s) (k + 1) - permitsAt (govTarget s) k
    let s1 := { s with time := { s.time with
      pacerK := Map.set s.time.pacerK d (k + 1), pacerAt := Map.set s.time.pacerAt d s.time.raw } }
    foldOver [4 * d, 4 * d + 1, 4 * d + 2, 4 * d + 3] (fun s g => underrunCheck g (givePermits g n s)) s1
  else s

def execPacerPermit (d : Die) (s : State) : Host.Outcome State Fault Refusal := .next (pacerTick d.toNat s)

/-- Does a new value restart the permit count (R35)? -/
def govRestarts (old new_ : W64) : Bool :=
  (!bitAt old 0 && bitAt new_ 0) || (bitAt old 0 && fld old 47 32 != fld new_ 47 32)

/-- The count of permits starts again from zero; the paced steps a bundle under way still takes are left over, and a
group that was not paced goes on between two steps (R34, R35). -/
def restartPermits (wasActive : Bool) (gr : GroupSt) : GroupSt :=
  { gr with
    permits := 0, stepsBegun := 0, stepLimit := 0, stepCarry := 0, below := false, seqStep := 0, intakeStep := 0,
    portSteps := [], poolTurn := (0, 0),
    units := Map.each gr.units (fun _ u => { u with lastStep := if wasActive then u.lastStep - gr.stepLimit else 0 }) }

/-- The pending value takes effect at a tick that is a multiple of 1,000 and later than its acceptance (R35). -/
def governorApply (s : State) : State :=
  match s.time.govPending with
  | none => s
  | some v =>
    if now s % 1000 = 0 ∧ s.time.govAt < now s then
      let wasActive := s.time.active
      let s1 := { s with time := { s.time with
        govCtrl := v, govPending := none, active := bitAt v 0,
        pacerK := if govRestarts s.time.govCtrl v then [] else s.time.pacerK } }
      if govRestarts s.time.govCtrl v then
        foldOver (upTo 16) (fun s g => modGroup s g (restartPermits wasActive)) s1
      else s1
    else s

def execGovernorApply (s : State) : Host.Outcome State Fault Refusal := .next (governorApply s)

/-- Accept a TMP_GOV_CTRL value: held until the next multiple of 1,000 ticks, the last one standing. A value held for
the present tick has taken effect before (R35). -/
def govCtrlWrite (v : W64) (s0 : State) : Status × State :=
  let t := fld v 47 32
  if t < 400 ∨ 1800 < t then (.fieldInvalid, s0)
  else
    let s := governorApply s0
    (.ok, { s with time := { s.time with
      govPending := some (v &&& (maskOf 47 32 ||| maskOf 0 0)), govAt := now s } })

def execTmpGovCtrlWrite (v : W64) (s : State) : Host.Outcome State Fault Refusal := hostCmd (govCtrlWrite v) s

/-! ### The fabric time counter and its discipline (R37-R43) -/

/-- FTC_SET (R40). -/
def ftcSet (v : W64) (s : State) : Status × State :=
  if s.time.ftc.toNat ≤ v.toNat then (.ok, { s with time := { s.time with ftc := v } })
  else (.ok, { s with time := { s.time with setRefused := true } })

def execFtcSetWrite (v : W64) (s : State) : Host.Outcome State Fault Refusal := hostCmd (ftcSet v) s

/-- Start a slew of so many ticks over the next 1,000,000: one of them falls within each `1000000 / n` ticks of the
counter, an extra tick at their beginning, a repeated value at their end. -/
def startSlew (n : Int) (t : TimeSt) : TimeSt :=
  if n = 0 then { t with slewLeft := 0, slewEvery := 0, slewWait := 0 }
  else { t with slewLeft := n, slewEvery := 1000000 / n.natAbs - 1,
                slewWait := if 0 < n then 0 else 1000000 / n.natAbs - 1 }

/-- An offset saturated to 32 bits (Table 2.9). -/
def offset32 (o : Int) : BitVec 32 :=
  BitVec.ofInt 32 (if o > 2147483647 then 2147483647 else if o < -2147483648 then -2147483648 else o)

/-- Correct the counter by an offset, leader minus own (R41, R42). A step leaves a slew in progress to run on; only a
new slew takes its place (the model's choice, log entry 17). -/
def applyOffset (o : Int) (s : State) : State :=
  let t := s.time
  let offs := (o :: t.offsets).take 8
  let t1 := { t with
    offset := offset32 o, offsets := offs,
    locked := offs.length == 8 && offs.all (fun x => decide (x.natAbs ≤ 16)) }
  if 1000 < o then
    { s with time := { t1 with ftc := t.ftc + BitVec.ofInt 64 o, stepped := true } }
  else
    let sl : Int := if o > 100 then 100 else if o < -100 then -100 else o
    { s with time := startSlew sl { t1 with lastSlew := sl } }

/-- The upstream link's first lane, while SOURCE = 0b01 names one (Table 2.8). -/
def upstream (s : State) : Option Nat :=
  let c := reg s Reg.discCtrl
  if fld c 3 2 = 1 ∧ fld c 31 16 ≠ 0xFFFF then some (fld c 31 16) else none

/-- Every 1,000,000 ticks, at the multiples of 1,000,000 (the phase is the model's choice, log entry 73): a new exchange
with the upstream link; three in a row without a reply set UPSTREAM_LOST, and the counter then runs on at the last slew
rate (R41, R42). -/
def syncStart (s : State) : State :=
  match upstream s with
  | none => s
  | some l =>
    if now s % 1000000 ≠ 0 then s else
    let t := s.time
    let missed := if t.awaiting then t.missed + 1 else t.missed
    let t1 := { t with
      xid := t.xid + 1, awaiting := true, t1 := none, missed := missed,
      upstreamLost := t.upstreamLost || decide (3 ≤ missed) }
    let t2 := if 3 ≤ missed then startSlew t.lastSlew t1 else t1
    let s1 := { s with time := t2 }
    if (getPort s1 l).state = .up then
      modPort s1 l (fun p => { p with ctrlQ := p.ctrlQ ++ [CtrlSym.timeReq t2.xid] })
    else s1

def execSyncExchangeStart (s : State) : Host.Outcome State Fault Refusal := .next (syncStart s)

/-- A TIME_REQ received: t2 is this tick; with SERVE = 1 a reply is queued (R65, Table 2.8). -/
def timeReq (l : LinkId) (xid : BitVec 16) (s : State) : State :=
  if bitAt (reg s Reg.discCtrl) 0 ∧ (getPort s (linkKey l)).state = .up then
    modPort s (linkKey l) (fun p => { p with ctrlQ := p.ctrlQ ++ [CtrlSym.timeRsp xid s.time.ftc 0] })
  else s

def execTimeReq (l : LinkId) (xid : BitVec 16) (s : State) : Host.Outcome State Fault Refusal := .next (timeReq l xid s)

/-- A TIME_RSP received from the upstream link: t4 is this tick (R41, R65). -/
def timeRsp (l : LinkId) (xid : BitVec 16) (t2 : W64) (dt : BitVec 32) (s : State) : State :=
  match s.time.t1 with
  | none => s
  | some t1 =>
    if upstream s = some (linkKey l) ∧ s.time.awaiting ∧ xid = s.time.xid then
      let a : Int := (t2.toNat : Int) - t1.toNat
      let b : Int := (s.time.ftc.toNat : Int) - (t2.toNat + dt.toNat)
      let o : Int := (a - b) / 2
      applyOffset o { s with time := { s.time with awaiting := false, t1 := none, missed := 0 } }
    else s

def execTimeRsp (l : LinkId) (xid : BitVec 16) (t2 : W64) (dt : BitVec 32) (s : State) :
    Host.Outcome State Fault Refusal := .next (timeRsp l xid t2 dt s)

/-- Distance from the counter to the nearest multiple of 1,000,000,000 ticks (R43); halfway is a free value. -/
def ppsOffset (s : State) : Int × State :=
  let r := now s % 1000000000
  if r < 500000000 then (-(r : Int), s)
  else if 500000000 < r then (1000000000 - (r : Int), s)
  else
    let f := takeFree s
    (if bitAt f.1 0 then 500000000 else -500000000, f.2)

/-- A rising edge on AUX_SYNC, by the pad's binding before this tick (R391, R43, R372). -/
def auxEdge (s : State) : State :=
  if auxBinding s = 0x02 then
    let c := reg s Reg.damperCfg
    let ser := fld c 31 0
    let s1 := raiseOwn 2 (BitVec.ofNat 32 ser) s
    setReg s1 Reg.damperCfg ((c &&& maskOf 63 62) ||| bv64 ((ser + 1) % 2 ^ 32))
  else if auxBinding s = 0x01 ∧ fld (reg s Reg.discCtrl) 3 2 = 2 then
    let r := ppsOffset s
    applyOffset r.1 r.2
  else s

def execAuxSyncEdge (s : State) : Host.Outcome State Fault Refusal := .next (mssRuns auxEdge s)

end Sys2Proof.Machine
end

