-- ==== Sys2Proof/Machine/Link.lean ====
section
/-! DEFINITION. Fabric lanes, ports and the link layer (chapter 3): bring-up and going down, link blocks, credits,
retry, control symbols, and frames as they are put together from blocks. -/

namespace Sys2Proof.Machine

open Sys2Proof

/-! ### Ports as the cord lays them out (R46, R48, R287) -/

/-- Lanes of the ports of lane l's octet; 0 with no cord. -/
def lanesOf (s : State) (l : Nat) : Nat :=
  match s.cord.cfg with
  | none => 0
  | some c => 2 ^ (nthD c.widths (l / 8) 0).toNat

/-- Is l the first lane of a port (R77)? -/
def isFirst (s : State) (l : Nat) : Bool := decide (l < 1024) && decide (lanesOf s l ≠ 0) && l % lanesOf s l == 0

/-- Is the port of first lane l in Ethernet mode (R287)? -/
def ethMode (s : State) (l : Nat) : Bool :=
  match s.cord.cfg with
  | none => false
  | some c => (nthD c.ethMaps (l / 8) 0).getLsbD ((l % 8) / lanesOf s l)

/-- The width code a link's VERSION carries; a twin sublink is a 400G link (R75). -/
def widthCode (s : State) : LinkId → BitVec 2
  | .sub _ => 1
  | .port l => match s.cord.cfg with
    | none => 0
    | some c => nthD c.widths (l.toNat / 8) 0

def linkLanes (s : State) : LinkId → Nat
  | .sub _ => 2
  | .port l => lanesOf s l.toNat

/-- Does the link exist and speak link blocks: a fabric-mode port or a twin sublink? -/
def fabricLink (s : State) : LinkId → Bool
  | .sub _ => true
  | .port l => isFirst s l.toNat && !ethMode s l.toNat

/-- Is FEC bypassed: FEC_BYPASS = 1, honoured only in near-end loopback (R50)? -/
def fecBypassed (s : State) (l : LinkId) : Bool :=
  looped s l && (match l with
    | .sub _ => false
    | .port p => bitAt (reg s (Reg.lnkCfg p.toNat)) 1)

def getLink (s : State) (l : LinkId) : Port := getPort s (linkKey l)
def modLink (s : State) (l : LinkId) (f : Port → Port) : State := modPort s (linkKey l) f

/-- Are the SerDes in service, so that links may train: calibrated in a start (R318 step 7, R321), and no entry into
Banked under way (R320)? -/
def serdesOn (s : State) : Bool :=
  s.pwr.porst &&
    (match s.pwr.state with
     | .idle => !s.pwr.bankEntry
     | .active => true
     | .blaze => true
     | .coldStarting => decide (8 ≤ s.pwr.startStep.toNat)
     | .bankedRestarting => decide (7 ≤ s.pwr.startStep.toNat)
     | _ => false)

/-- May the port be brought up: ADMIN = 1, first lane, and the device not fenced (R52, R362)? -/
def adminUp (s : State) (l : Nat) : Bool :=
  isFirst s l && bitAt (reg s (Reg.lnkCfg l)) 0 && !s.twn.fenced && serdesOn s

/-- Start of a link: counters and sequence numbers afresh (R57, R60, R61). -/
def freshLink (p : Port) : Port :=
  { p with
    versionRx := none, seenSent := false, grant := [], sent := [], txSeq := 0, replay := [], resend := [],
    resends := 0, expected := 0, nakPending := false, accepted := [], granted := [], grantSent := [], sinceAck := 0,
    rxCur := [], hdrWait := p.hdrWait, ctrlQ := [], msgSent := 0, rxMsg := none }

/-- Step 1 of bring-up (R52). -/
def toTraining (k : Nat) (s : State) : State :=
  modPort s k (fun p => { freshLink p with state := .training, lanesUp := 0, rev := 0, retryWait := false })

/-- A bring-up step failed: down with its cause, and again from step 1 after 100 ms (R52). -/
def bringUpFail (k : Nat) (cause : Byte) (s : State) : State :=
  modPort s k (fun p => { freshLink p with state := .down, rev := 0, cause := cause, retryWait := true })

/-! ### Frames in the device -/

def getFrame (s : State) (uid : Nat) : Option Frame := Map.get? s.sw.frames uid

def modFrame (uid : Nat) (f : Frame → Frame) (s : State) : State :=
  match getFrame s uid with
  | some fr => { s with sw := { s.sw with frames := Map.set s.sw.frames uid (f fr) } }
  | none => s

/-- A new frame; its number and the state. -/
def newFrame (f : Frame) (s : State) : Nat × State :=
  (s.sw.nextUid, { s with sw := { s.sw with
    frames := Map.set s.sw.frames s.sw.nextUid f, nextUid := s.sw.nextUid + 1 } })

def frameVer (f : Frame) : Nat := fromBe (f.raw.take 1) / 16

def frameHdrLen (f : Frame) : Nat := hdrLen (frameVer f)

/-- Header of an accepted frame; before acceptance, as it arrived. -/
def frameHdr (f : Frame) : Hdr :=
  match f.hdr with
  | some h => h
  | none => (parseHdr f.raw).hdr

/-! ### Frames built in the device (R84, R88) -/

/-- A frame built at the return port of Gn waits in it. -/
def buildRet (g : Nat) (h : Hdr) (payload : List Byte) (s : State) : State :=
  let h1 : Hdr := { h with ver := 2, hops := 0, len := payload.length }
  let r := newFrame
    { ingress := .ret (BitVec.ofNat 4 g), rev := 2, raw := hdrBytes2 h1 ++ payload ++ beBytes 4 (pcrcOf payload).toNat,
      whole := true, ended := true, hdr := none, stamp := 0, early := none, ageShift := 0, dest := none, lastHop := false,
      begun := false, cutAt := none, link := none } s
  { r.2 with sw := { r.2.sw with retq := Map.set r.2.sw.retq g (Map.getD r.2.sw.retq g [] ++ [r.1]) } }

def blankHdr : Hdr :=
  { ver := 2, kind := 0, ch := 0, tc := 0, pinned := false, dst := 0, src := 0, offset := 0, len := 0, td := false,
    ep := false, tag := 0, hops := 0, sseq := 0, sgen := 0, plane := 0 }

def fwdPlane (s : State) : BitVec 3 := BitVec.ofNat 3 (fld (reg s Reg.fwdCfg) 34 32)

/-- A NOTICE to a flow's source, with the flow's channel and TC 7, through the return port beside the flow's
destination port group (R92, R95; the injection point is the model's choice, log entry 14). -/
def sendNotice (pg : Nat) (pin : Bool) (src dst : Chip) (ch : Chan) (s : State) : State :=
  let life := fld (reg s Reg.pinCfg) 19 0
  buildRet pg { blankHdr with kind := 5, ch := ch, tc := 7, dst := src, src := BitVec.ofNat 16 (ownChip s),
                              plane := fwdPlane s }
    ([if pin then 1 else 2, ch.setWidth 8] ++ beBytes 2 dst.toNat ++ beBytes 4 (if pin then life else 0)) s

/-! ### Egress tags (R104) -/

/-- a precedes b modulo 2^48. -/
def precedes (a b : BitVec 48) : Bool := decide ((b - a).toNat < 2 ^ 47 ∧ a ≠ b)

def weightOf (s : State) (l t : Nat) : Nat := fld (reg s (Reg.qCfg l t)) 7 0

/-- Transport revision a port sends in (R69, R72). -/
def egressRev (s : State) (l : Nat) : Nat :=
  if ethMode s l then fld (reg s (Reg.ethCtrl l)) 3 0 else (getPort s l).rev.toNat

/-- Wire octets of a frame on its egress port. -/
def wireLen (s : State) (l : Nat) (h : Hdr) : Nat := hdrLen (if egressRev s l = 1 then 1 else 2) + h.len + 4

def tagInc (s : State) (l t : Nat) (h : Hdr) : BitVec 48 :=
  BitVec.ofNat 48 (ceilDiv (wireLen s l h * 1024) (max 1 (weightOf s l t)))

/-! ### Marks of the reorder windows (R95) -/

/-- A window's key: die, SRC, DST and CHANNEL. -/
def winCode (die src dst ch : Nat) : Nat := ((die * 65536 + src) * 65536 + dst) * 16 + ch

def winKeyNat (k : WinKey) : Nat := winCode k.die.toNat k.src.toNat k.dst.toNat k.ch.toNat

def winDie (k : Nat) : Nat := k / 2 ^ 36
def winSrc (k : Nat) : Chip := BitVec.ofNat 16 (k / 2 ^ 20)
def winDst (k : Nat) : Chip := BitVec.ofNat 16 (k / 16)
def winCh (k : Nat) : Chan := BitVec.ofNat 4 k

def setWindow (k : Nat) (w : Window) (s : State) : State :=
  { s with sw := { s.sw with windows := Map.set s.sw.windows k w } }

/-- PIN at FULL_MARK, UNPIN once at LOW_MARK (R95). -/
def pinMarks (k : Nat) (w : Window) (s : State) : State :=
  let c := reg s Reg.reorderCfg
  let n := w.held.length
  if ¬ w.pinSent ∧ fld c 43 32 ≤ n then
    sendNotice w.pg true (winSrc k) (winDst k) (winCh k) (setWindow k { w with pinSent := true, lastPin := now s } s)
  else if w.pinSent ∧ n ≤ fld c 31 20 then
    sendNotice w.pg false (winSrc k) (winDst k) (winCh k) (setWindow k { w with pinSent := false } s)
  else setWindow k w s

/-! ### Frames that go -/

def takeOut (uid : Nat) (m : Map (List Nat)) : Map (List Nat) := Map.each m (fun _ q => q.filter (fun u => u != uid))

/-- A frame of which every block has come is, when it goes, no longer its channel's frame being received. -/
def forgetRx (uid : Nat) (s : State) : State :=
  match getFrame s uid with
  | none => s
  | some f =>
    match f.ingress, f.whole with
    | .port l ch, true =>
      if Map.get? (getPort s l.toNat).rxCur ch.toNat = some uid then
        modPort s l.toNat (fun p => { p with rxCur := Map.erase p.rxCur ch.toNat })
      else s
    | _, _ => s

/-- Where a frame that goes was the head of its egress queue, unselected, the next head takes its place: S stays and F
is its own; an empty queue sleeps (R104; DESIGN CHOICE, log entry 77: the rule gives tags at waking and selection
only). -/
def retag (key : Nat) (s : State) : State :=
  let l := key / 8
  let t := key % 8
  let tags := (getPort s l).tags
  let st := (Map.getD tags t (0, 0)).1
  let tags1 := match (Map.getD s.sw.egress key []).head?.bind (getFrame s) with
    | some f => Map.set tags t (st, st + tagInc s l t (frameHdr f))
    | none => Map.erase tags t
  modPort s l (fun p => { p with tags := tags1 })

/-- A frame leaves the device from wherever it waits. -/
def eraseFrame (uid : Nat) (s0 : State) : State :=
  let s := forgetRx uid s0
  let s1 := { s with sw := { s.sw with
    frames := Map.erase s.sw.frames uid, staging := takeOut uid s.sw.staging, flueIn := takeOut uid s.sw.flueIn,
    egress := takeOut uid s.sw.egress, memq := takeOut uid s.sw.memq, intake := takeOut uid s.sw.intake,
    windows := Map.each s.sw.windows (fun _ w => { w with held := w.held.filter (fun h => h.uid != uid) }) } }
  match s.sw.egress.find? (fun e => e.2.head? == some uid) with
  | some e => retag e.1 s1
  | none => s1

/-- A frame leaves the device; a window that held it has its marks judged again (R95). -/
def dropFrame (uid : Nat) (s : State) : State :=
  match s.sw.windows.find? (fun e => e.2.held.any (fun h => h.uid == uid)) with
  | some e => pinMarks e.1 { e.2 with held := e.2.held.filter (fun h => h.uid != uid) } (eraseFrame uid s)
  | none => eraseFrame uid s

/-- A frame whose rest will not come: cut short where its transmission has begun, otherwise discarded (R53, R83). -/
def cutFrame (uid : Nat) (s : State) : State :=
  match getFrame s uid with
  | none => s
  | some f =>
    if f.begun then modFrame uid (fun f => { f with ended := true, cutAt := some f.raw.length }) s
    else dropFrame uid s

/-- Payload octets received. -/
def framePayload (f : Frame) : List Byte := (f.raw.drop (frameHdrLen f)).take (frameHdr f).len

/-- Does the trailer match the payload (R78, R83)? -/
def pcrcGood (f : Frame) : Bool :=
  fromBe (slice f.raw (frameHdrLen f + (frameHdr f).len) 4) == (pcrcOf (framePayload f)).toNat

/-- Octets on the wire in the device's own rev 2 form (R82, R98). -/
def frameBytes (h : Hdr) : Nat := 36 + h.len

/-- Output-buffer cells (R98). -/
def frameCells (h : Hdr) : Nat := ceilDiv (frameBytes h) 256

/-- A frame that has ended and whose header was accepted: a byte count other than its LENGTH (R83). -/
def lengthCheck (uid : Nat) (s : State) : State :=
  match getFrame s uid with
  | none => s
  | some f =>
    match f.hdr with
    | none => s
    | some h =>
      if f.ended ∧ f.cutAt = none ∧ f.raw.length ≠ frameHdrLen f + h.len + 4 then
        if f.begun then modFrame uid (fun f => { f with cutAt := some f.raw.length }) s
        else count 3 1 (srcInstance f.ingress) (dropFrame uid s)
      else s

/-! ### Tiles that wait for an intake (R22, R73, R99) -/

/-- Cells of a frame, 0 for one that is gone. -/
def cellsOf (s : State) (uid : Nat) : Nat :=
  match getFrame s uid with
  | some f => frameCells (frameHdr f)
  | none => 0

def sumCells (s : State) (q : List Nat) : Nat := (q.map (cellsOf s)).foldl (· + ·) 0

/-- Frames held in reorder windows, by destination (R93: they occupy their cells and count toward their queue). -/
def heldFor (s : State) (d : Dest) : List Nat :=
  (s.sw.windows.map (fun w => (w.2.held.map (·.uid)).filter (fun u => match getFrame s u with
    | some f => f.dest == some d
    | none => false))).flatten

/-- Cells in use of Gn's intake queue, held tiles included (R99). -/
def intakeCells (s : State) (g : Nat) : Nat :=
  sumCells s (Map.getD s.sw.intake g []) + sumCells s (heldFor s (.intake g))

def intakeLimit (s : State) (g : Nat) : Nat := fld (reg s (Reg.obCfg g)) 55 32

def intakeFull (s : State) (g : Nat) : Bool := decide (intakeLimit s g ≤ intakeCells s g)

/-- Do two frames share the path a waiting tile holds up: the channel of a port, or a return port (R22)? The source of a
frame on a fabric-mode port names its channel; on an Ethernet-mode port the frame does. -/
def samePath (src : FrameSrc) (ch : Chan) (f : Frame) : Bool :=
  f.ingress == src && (match src with
    | .eth _ => (frameHdr f).ch == ch
    | _ => true)

/-- Tiles that have moved on toward Gn's intake and are not in it yet: staged in the flue (R97). -/
def stagedTiles (s : State) (g : Nat) : List Nat :=
  ((s.sw.staging.map (·.2)).flatten).filter (fun u => match getFrame s u with
    | some f => f.dest == some (.intake g)
    | none => false)

/-- Does a staged tile wait for a full intake (R22, R99)? -/
def waitsIntake (s : State) (f : Frame) : Bool :=
  match f.dest with
  | some (.intake g) => !gated s g && intakeFull s g
  | _ => false

/-- Does a tile before the flue wait there, in the receive buffer of its channel, because its intake could not accept it
(R22, R99)? The tiles on their way before it count as in the intake, and the one that reaches the limit goes alone, so
that no tile that has moved on waits in the flue. -/
def entryHeld (s : State) (f : Frame) : Bool :=
  match f.dest with
  | some (.intake g) =>
    let ahead := stagedTiles s g
    let n := intakeCells s g + sumCells s ahead
    !gated s g && (decide (intakeLimit s g ≤ n) || (!ahead.isEmpty && decide (intakeLimit s g ≤ n + frameCells (frameHdr f))))
  | _ => false

/-- Does an accepted tile of this source, on this channel, wait for a full intake (R22, R99)? -/
def sourceBlocked (s : State) (src : FrameSrc) (ch : Chan) : Bool :=
  let holds (held : Frame → Bool) (q : List Nat) : Bool := q.any (fun u => match getFrame s u with
    | some f => samePath src ch f && held f
    | none => false)
  s.sw.staging.any (fun e => holds (waitsIntake s) e.2) || s.sw.flueIn.any (fun e => holds (entryHeld s) e.2)

/-- Frames a staging queue, and each side of a flue input, hold (R97; DESIGN CHOICE, log entry 80: the spec gives no
depth). -/
def stagingRoom : Nat := 64

/-- Frames before the flue that take up its room: not the tiles that wait for an intake, nor the frames behind them on
their paths, which stand in their channels' receive buffers (R22). -/
def flueLoad (s : State) : List Frame → List Nat → Nat
  | _, [] => 0
  | held, u :: q =>
    match getFrame s u with
    | none => flueLoad s held q
    | some f =>
      if entryHeld s f ∨ held.any (fun x => samePath x.ingress (frameHdr x).ch f) then flueLoad s (f :: held) q
      else 1 + flueLoad s held q

/-- Is the ingress bridge of a port group full: its link layers withhold credit (R32, R59, R97)? -/
def bridgeFull (s : State) (pg : Nat) : Bool :=
  decide (stagingRoom ≤ flueLoad s [] (Map.getD s.sw.flueIn (2 * pg) []))

/-- The priorities an Ethernet-mode port pauses: those of tiles that wait for a full intake (R22, R73), and under a
damper every one (R373). -/
def pfcUpdate (l : Nat) (s : State) : State :=
  let bits (held : Frame → Bool) (q : List Nat) (m : Byte) : Byte := q.foldl (fun (m : Byte) u => match getFrame s u with
    | some f => (match f.ingress with
      | .eth p => if p.toNat = l ∧ held f then m ||| BitVec.ofNat 8 (2 ^ (frameHdr f).tc.toNat) else m
      | _ => m)
    | none => m) m
  let full := s.sw.flueIn.foldl (fun m e => bits (entryHeld s) e.2 m)
    (s.sw.staging.foldl (fun m e => bits (waitsIntake s) e.2 m) 0)
  setPause l (if s.dbg.dampered then 0xFF else full) s

/-- An intake's fill or a waiting tile changed: every Ethernet-mode port judges its pause again (R22, R73). -/
def pfcAll (s : State) : State := foldOver (ethUp s) (fun s l => pfcUpdate l s) s

/-! ### Going down (R53) -/

/-- A frame selected but not begun goes back to the head of its egress queue, with the tags it had: where others wait, F
is the next head's S; an empty queue wakes (R53, R104; log entry 77). -/
def putBack (l uid : Nat) (f : Frame) (s : State) : State :=
  let t := (frameHdr f).tc.toNat
  let key := 8 * l + t
  let q := Map.getD s.sw.egress key []
  let inc := tagInc s l t (frameHdr f)
  let s1 := modPort s l (fun p =>
    let st := (Map.getD p.tags t (p.vt, 0)).1
    { p with tags := Map.set p.tags t (if q = [] then (p.vt, p.vt + inc) else (st - inc, st)) })
  { s1 with sw := { s1.sw with egress := Map.set s1.sw.egress key (uid :: q) } }

/-- Current frames of a port that goes down, the last selected first: one partly sent is lost and counted; one of which
no block was sent goes back to the head of its queue, still to begin (R53). -/
def loseCurrent (l : Nat) (s : State) : State :=
  foldOver (sortBy (fun a b => decide (b.2.sel < a.2.sel)) (getPort s l).cur) (fun s e =>
    let uid := e.2.uid
    if e.2.sent = 0 then
      match getFrame s uid with
      | some f => putBack l uid f (modFrame uid (fun f => { f with begun := false }) s)
      | none => s
    else count 3 16 l (dropFrame uid s)) s

/-- The end of a frame on a channel: its blocks are complete (R56, R83). -/
def frameEnd (l ch : Nat) (s : State) : State :=
  match Map.get? (getPort s l).rxCur ch with
  | none => s
  | some uid =>
    match getFrame s uid with
    | none => s
    | some f =>
      if f.whole then
        lengthCheck uid (modFrame uid (fun f => { f with ended := true })
          (modPort s l (fun p => { p with rxCur := Map.erase p.rxCur ch })))
      else s

/-- Frames partly received on a port that goes down are lost and counted; one whose last block has come is complete
(R53). -/
def losePartial (l : Nat) (s : State) : State :=
  foldOver (getPort s l).rxCur (fun s e =>
    match getFrame s e.2 with
    | some f => if f.whole then frameEnd l e.1 s else count 3 16 l (cutFrame e.2 s)
    | none => s) s

/-- An up or closing link goes down with a cause (R53); while ADMIN = 1 it is brought up again from step 1 after the
100 ms R52 gives for a failed step (DESIGN CHOICE, log entry 78: R53 gives no time). -/
def linkDown (l : LinkId) (cause : Byte) (s : State) : State :=
  let k := linkKey l
  let s1 := match l with
    | .port p => loseCurrent p.toNat (losePartial p.toNat s)
    | .sub _ => s
  let s2 := modPort s1 k (fun p =>
    { freshLink p with
      state := .down, rev := 0, cause := cause, downed := true, retryWait := true, cur := [], pfcRx := 0, pfcTx := 0,
      hdrWait := p.hdrWait.filter (fun e => match getFrame s1 e.2 with
        | some f => f.ended
        | none => false) })
  let s3 := logEv (codeOther 3) 2 0xFF none [k, cause.toNat] s2
  match l with
  | .port _ => s3
  | .sub n => judgeSublink n.toNat s3

/-! ### ADMIN (R52, R54, R77, Table 3.6) -/

/-- ADMIN goes to 1. -/
def adminRise (l : Nat) (s : State) : State :=
  if adminUp s l ∧ (getPort s l).state = .down then toTraining l s else s

/-- ADMIN goes to 0: bring-up stops at once; an up port starts its orderly close and leaves the live lists (R54,
R101). -/
def adminFall (l : Nat) (s : State) : State :=
  match (getPort s l).state with
  | .up => modPort s l (fun p => { p with state := .closing })
  | .closing => s
  | .down => modPort s l (fun p => { p with retryWait := false })
  | _ => modPort s l (fun p => { freshLink p with state := .down, rev := 0, cause := 0x01#8, lanesUp := 0,
                                                  retryWait := false })

/-- SWC_LNK_CFG (Table 3.6). -/
def lnkCfgWrite (l : Nat) (v : W64) (s : State) : Status × State :=
  if ¬ isFirst s l then (.ok, s)
  else if 2 ≤ fld v 3 2 then (.fieldInvalid, s)
  else
    let old := bitAt (reg s (Reg.lnkCfg l)) 0
    let s1 := setReg s (Reg.lnkCfg l) (v &&& 0xF#64)
    (.ok, if bitAt v 0 ∧ ¬ old then adminRise l s1 else if old ∧ ¬ bitAt v 0 then adminFall l s1 else s1)

/-- Writing ADMIN = 1, the other fields as they stand. -/
def execLinkAdminUp (l : Lane) (s : State) : Host.Outcome State Fault Refusal :=
  hostCmd (unfenced (fun s => lnkCfgWrite l.toNat (reg s (Reg.lnkCfg l.toNat) ||| 1#64) s)) s

/-- Writing ADMIN = 0, the other fields as they stand. -/
def execLinkAdminDown (l : Lane) (s : State) : Host.Outcome State Fault Refusal :=
  hostCmd (unfenced (fun s => lnkCfgWrite l.toNat (reg s (Reg.lnkCfg l.toNat) &&& 0xE#64) s)) s

/-- The close is finished: CLOSE with cause 0x01 is sent and the port goes down (R54). The command is the moment at
which every block is acknowledged or the 4 µs have passed; a frame in transmission holds it off. -/
def orderlyClose (l : LinkId) (s : State) : State :=
  let p := getLink s l
  if p.state = .closing ∧ p.cur = [] then
    let eth := match l with
      | .port n => ethMode s n.toNat
      | .sub _ => false
    let s1 := if eth || looped s l then s else emit s (.control l [.close 0x01#8])
    let s2 := modLink (linkDown l 0x01#8 s1) l (fun p => { p with lanesUp := 0 })
    match l with
    | .port n => adminRise n.toNat (modLink s2 l (fun p => { p with retryWait := false }))
    | .sub _ => s2
  else s

def execOrderlyCloseComplete (l : LinkId) (s : State) : Host.Outcome State Fault Refusal := .next (orderlyClose l s)

/-! ### Bring-up (Table 3.2, R67) -/

/-- Does the link train now? A twin sublink trains only while its SerDes are in service (R75). -/
def trains (s : State) (l : LinkId) : Bool :=
  (getLink s l).state == .training && (match l with
    | .port _ => true
    | .sub _ => serdesOn s)

/-- Is a lane calibrated in full after a banked restart: its new loss, in units of 0.5 dB, differs from the recorded
one by more than 1.0 dB, it detects no signal, or it has no record (R322)? -/
def needsCal (recorded new_ : Option Nat) : Bool :=
  match recorded, new_ with
  | some r, some x => decide (r + 2 < x ∨ x + 2 < r)
  | _, _ => true

/-- The lanes of a link that step 1 calibrates in full: all of them, but after a banked restart those only whose channel
has changed, by the losses estimated with the kept equaliser values (R321, R322). -/
def calLanes (p : Port) (n : Nat) (test : List (Option Nat)) : List Nat :=
  (upTo n).filter (fun i => !p.peerCheck || needsCal ((Map.get? p.signature i).map (·.1)) (nthD test i none))

/-- Step 1 ends: every lane trained, with the loss estimated on each (R322). -/
def trainingDone (l : LinkId) (test : List (Option Nat)) (loss : List Nat) (s : State) : State :=
  if trains s l then
    modLink s l (fun p => { freshLink p with
      state := .aligning, retryWait := false, trained := (upTo (linkLanes s l)).map (fun i => nthD loss i 0),
      fullCal := calLanes p (linkLanes s l) test })
  else s

def execLaneTrainingComplete (l : LinkId) (r : LaneTraining) (s : State) : Host.Outcome State Fault Refusal :=
  .next (trainingDone l r.test r.loss s)

/-- Step 2 ends: lock on every lane (Table 3.2). -/
def alignmentLock (l : LinkId) (s : State) : State :=
  if (getLink s l).state = .aligning then
    modLink s l (fun p => { p with state := .negotiating, lanesUp := BitVec.ofNat 8 (2 ^ linkLanes s l - 1) })
  else s

def execAlignmentLock (l : LinkId) (s : State) : Host.Outcome State Fault Refusal := .next (alignmentLock l s)

/-- The time limit of the step under way runs out (Table 3.2); in negotiating, only while no VERSION has come. -/
def stepTimeout (l : LinkId) (s : State) : State :=
  match (getLink s l).state with
  | .training => bringUpFail (linkKey l) 0x02#8 s
  | .aligning => bringUpFail (linkKey l) 0x03#8 s
  | .negotiating => if (getLink s l).versionRx = none ∧ fabricLink s l then bringUpFail (linkKey l) 0x05#8 s else s
  | _ => s

def execLinkStepTimeout (l : LinkId) (s : State) : Host.Outcome State Fault Refusal := .next (stepTimeout l s)

/-- The 100 ms after a failure are over: again from step 1, while ADMIN = 1 (R52). -/
def retryTimer (l : LinkId) (s : State) : State :=
  let ok : Bool := match l with
    | .port n => adminUp s n.toNat
    | .sub _ => serdesOn s
  if ok ∧ (getLink s l).retryWait ∧ (getLink s l).state = .down then toTraining (linkKey l) s else s

def execLinkRetryTimer (l : LinkId) (s : State) : Host.Outcome State Fault Refusal := .next (retryTimer l s)

/-- The device's VERSION on a link: revisions 1 and 2 on a port, none on a sublink (R67, R75). -/
def ownVersion (s : State) (l : LinkId) : VersionSym :=
  { offers := match l with
      | .port _ => 3#8
      | .sub _ => 0#8
    llVersion := 1#8, chip := BitVec.ofNat 16 (ownChip s), width := widthCode s l,
    seen := (getLink s l).versionRx.isSome }

def sendVersion (l : LinkId) (s : State) : State :=
  let v := ownVersion s l
  if looped s l then modLink s l (fun p => { p with ctrlQ := p.ctrlQ ++ [.version v], seenSent := p.seenSent || v.seen })
  else modLink (emit s (.control l [.version v])) l (fun p => { p with seenSent := p.seenSent || v.seen })

/-- Every 1 ms of negotiating until the exchange is complete (R67). -/
def versionTimer (l : LinkId) (s : State) : State :=
  let p := getLink s l
  if p.state = .negotiating ∧ fabricLink s l ∧ ¬ (p.versionRx.isSome ∧ p.seenSent) then sendVersion l s else s

def execVersionTimer (l : LinkId) (s : State) : Host.Outcome State Fault Refusal := .next (versionTimer l s)

/-- Blocks of room a channel has beyond those accepted: the model's receive buffer (R57: at least 64; log entry 9). -/
def rxRoom : Nat := 64

/-- The four CREDIT symbols of all 16 channels, as the grants stand. -/
def creditSyms (p : Port) : List CtrlSym :=
  (upTo 4).map (fun q =>
    let g (i : Nat) : BitVec 24 := Map.getD p.granted (4 * q + i) 0
    .credit (BitVec.ofNat 2 q) (g 0) (g 1) (g 2) (g 3))

def noteGrantsSent (p : Port) : Port := { p with grantSent := p.granted }

/-- After a banked restart, a peer other than the recorded one is logged with the port and both chip numbers (R322). -/
def peerJudge (l : LinkId) (chip : Chip) (s : State) : State :=
  match (getLink s l).peerCheck, (getLink s l).signature with
  | true, (_, old) :: _ =>
    if fabricLink s l ∧ old.2 ≠ chip then
      logEv (codeOther 3) 0 0xFF none [linkKey l, old.2.toNat, chip.toNat] s
    else s
  | _, _ => s

/-- Steps 4 and 5: initial grants, then data may flow (Table 3.2). Each lane records its signature (R322). -/
def linkUp (l : LinkId) (rev : BitVec 4) (chip : Chip) (s : State) : State :=
  let s1 := modLink (peerJudge l chip s) l (fun p =>
    { p with
      state := .up, rev := rev, peerChip := chip, retryWait := false,
      granted := (upTo 16).foldl (fun m c => Map.set m c (BitVec.ofNat 24 rxRoom)) [],
      peerCheck := false, signature := p.trained.zipIdx.map (fun e => (e.2, (e.1, chip))) })
  if fabricLink s1 l then
    let s2 := modLink s1 l (fun p => noteGrantsSent { p with ctrlQ := p.ctrlQ ++ creditSyms p })
    match l with
    | .port _ => s2
    | .sub _ => sublinkUp s2
  else s1

/-- A VERSION received in negotiating (R67). A VERSION with SEEN = 1 answers it at once, where none has been sent, and
not at the next 1 ms (DESIGN CHOICE, log entry 79). -/
def versionRx (l : LinkId) (b : VersionSym) (s : State) : State :=
  if (getLink s l).state = .negotiating ∧ fabricLink s l then
    let s1 := modLink s l (fun p => { p with versionRx := some b })
    let s2 := if (getLink s1 l).seenSent then s1 else sendVersion l s1
    let common : Byte := match l with
      | .port _ => b.offers &&& 3#8
      | .sub _ => 1#8
    if common = 0 then
      logEv (codeStatus 3 .versionUnsupported) 1 0xFF none [b.chip.toNat] (bringUpFail (linkKey l) 0x06#8 s2)
    else if b.width ≠ widthCode s l then bringUpFail (linkKey l) 0x08#8 s2
    else
      let rev : BitVec 4 := match l with
        | .port _ => if common.getLsbD 1 then 2 else 1
        | .sub _ => 0
      linkUp l rev b.chip s2
  else s

def execVersion (l : LinkId) (b : VersionSym) (s : State) : Host.Outcome State Fault Refusal := .next (versionRx l b s)

/-- PCS link-up on an Ethernet-mode port (Table 3.2, notes), which pauses at once what it must (R73, R373). -/
def pcsLinkUp (l : Nat) (s : State) : State :=
  if isFirst s l ∧ ethMode s l ∧ (getPort s l).state = .negotiating then
    pfcUpdate l (linkUp (.port (BitVec.ofNat 10 l)) 0 0 s)
  else s

def execEthPcsLinkUp (l : Lane) (s : State) : Host.Outcome State Fault Refusal := .next (pcsLinkUp l.toNat s)

/-! ### Lanes and CLOSE (R47, R53) -/

/-- A lane loses its signal or its alignment: its LANES_UP bit falls, and the link with it where it was further than
training (R47, R52, R53, Table 3.7). -/
def laneLost (l : LinkId) (lane : Nat) (alignment : Bool) (s : State) : State :=
  if lane < linkLanes s l then
    let cause : Byte := if alignment then 0x03#8 else 0x02#8
    let clear (s : State) : State :=
      modLink s l (fun p => { p with lanesUp := p.lanesUp &&& ~~~ (BitVec.ofNat 8 (2 ^ lane)) })
    match (getLink s l).state with
    | .up => clear (linkDown l cause s)
    | .closing => clear (linkDown l cause s)
    | .aligning => clear (bringUpFail (linkKey l) cause s)
    | .negotiating => clear (bringUpFail (linkKey l) cause s)
    | _ => clear s
  else s

def execLaneSignalLost (l : LinkId) (lane : BitVec 3) (alignment : Bool) (s : State) :
    Host.Outcome State Fault Refusal := .next (laneLost l lane.toNat alignment s)

/-- CLOSE received: cause 0x01 for an orderly close, 0x07 for any other (Table 3.7). -/
def closeRx (l : LinkId) (cause : Byte) (s : State) : State :=
  match (getLink s l).state with
  | .up => linkDown l (if cause = 1 then 0x01#8 else 0x07#8) s
  | .closing => linkDown l (if cause = 1 then 0x01#8 else 0x07#8) s
  | _ => s

def execClose (l : LinkId) (cause : Byte) (s : State) : Host.Outcome State Fault Refusal := .next (closeRx l cause s)

/-- Is the link carrying blocks: up, or finishing an orderly close? -/
def carrying (p : Port) : Bool := p.state == .up || p.state == .closing

/-! ### Credits (R57-R59) -/

/-- Raise a channel's grant to the room it has, unless credit is withheld (R22, R97) or a damper stands on a port
(R373). -/
def raiseGrant (l : LinkId) (c : Nat) (s : State) : State :=
  let held : Bool := match l with
    | .port n => s.dbg.dampered || sourceBlocked s (.port n (BitVec.ofNat 4 c)) (BitVec.ofNat 4 c) ||
        bridgeFull s (n.toNat / 64)
    | .sub _ => false
  if held then s
  else modLink s l (fun p =>
    { p with granted := Map.set p.granted c (Map.getD p.accepted c 0 + BitVec.ofNat 24 rxRoom) })

/-- Send CREDIT for a channel's quad once its grant has risen by 16 since it was last sent (R58). -/
def creditIfDue (l : LinkId) (c : Nat) (s : State) : State :=
  let p := getLink s l
  let rise := (Map.getD p.granted c 0 - Map.getD p.grantSent c 0).toNat
  if 16 ≤ rise then
    let q := c / 4
    modLink s l (fun p => { p with
      ctrlQ := p.ctrlQ ++ ((creditSyms p).drop q).take 1,
      grantSent := [4 * q, 4 * q + 1, 4 * q + 2, 4 * q + 3].foldl (fun m i => Map.set m i (Map.getD p.granted i 0))
        p.grantSent })
  else s

/-- At least every 1 µs while up: CREDIT for every channel (R58). -/
def creditTimer (l : LinkId) (s : State) : State :=
  if carrying (getLink s l) ∧ fabricLink s l then
    let s1 := foldOver (upTo 16) (fun s c => raiseGrant l c s) s
    modLink s1 l (fun p => noteGrantsSent { p with ctrlQ := p.ctrlQ ++ creditSyms p })
  else s

def execCreditTimer (l : LinkId) (s : State) : Host.Outcome State Fault Refusal := .next (creditTimer l s)

/-- A CREDIT received: four cumulative grants, never lowered (R57, R58). -/
def creditRx (l : LinkId) (q : BitVec 2) (gs : List (BitVec 24)) (s : State) : State :=
  if carrying (getLink s l) then
    modLink s l (fun p =>
      { p with grant := (upTo 4).foldl (fun m i =>
          let c := 4 * q.toNat + i
          let g := nthD gs i 0
          if (g - Map.getD m c 0).toNat < 2 ^ 23 then Map.set m c g else m) p.grant })
  else s

def execCredit (l : LinkId) (q : BitVec 2) (g0 g1 g2 g3 : BitVec 24) (s : State) : Host.Outcome State Fault Refusal :=
  .next (creditRx l q [g0, g1, g2, g3] s)

/-- Credit of a channel (R57). -/
def creditOf (p : Port) (c : Nat) : Nat := (Map.getD p.grant c 0 - Map.getD p.sent c 0).toNat

/-! ### Acknowledgement and retry (R60-R62) -/

/-- Queue an acknowledgement of every accepted block. -/
def queueAck (l : LinkId) (s : State) : State :=
  modLink s l (fun p => { p with ctrlQ := p.ctrlQ ++ [.ack (p.expected - 1)], sinceAck := 0 })

/-- 100 ns after the oldest unacknowledged accepted block (R60). -/
def ackTimer (l : LinkId) (s : State) : State :=
  if carrying (getLink s l) ∧ 0 < (getLink s l).sinceAck then queueAck l s else s

def execAckTimer (l : LinkId) (s : State) : Host.Outcome State Fault Refusal := .next (ackTimer l s)

/-- Blocks after the one numbered `seq`; none if it is not among them. -/
def afterSeq (seq : BitVec 12) : List TxBlock → Option (List TxBlock)
  | [] => none
  | b :: r => if b.seq = seq then some r else afterSeq seq r

/-- An acknowledgement releases every block up to and including ACK_SEQ (R60). -/
def ackRx (l : LinkId) (seq : BitVec 12) (s : State) : State :=
  let p := getLink s l
  match afterSeq seq p.replay with
  | none => s
  | some rest =>
    modLink s l (fun p => { p with
      replay := rest, resend := p.resend.filter (fun b => rest.contains b), resends := 0 })

def execAck (l : LinkId) (seq : BitVec 12) (s : State) : Host.Outcome State Fault Refusal :=
  .next (if carrying (getLink s l) then ackRx l seq s else s)

/-- Resend the unacknowledged blocks given; the seventeenth sending of the oldest takes the link down (R62). -/
def resendFrom (l : LinkId) (bs : List TxBlock) (s : State) : State :=
  let p := getLink s l
  let oldest := decide (bs ≠ [] ∧ bs.head? = p.replay.head?)
  if oldest ∧ 16 ≤ p.resends then linkDown l 0x04#8 s
  else modLink s l (fun p => { p with resend := bs, resends := p.resends + bit1 oldest })

/-- NAK(s): every unacknowledged block from s onward (R62). -/
def nakRx (l : LinkId) (seq : BitVec 12) (s : State) : State :=
  if carrying (getLink s l) then
    match (getLink s l).replay.dropWhile (fun b => b.seq != seq) with
    | [] => s
    | bs => resendFrom l bs s
  else s

def execNak (l : LinkId) (seq : BitVec 12) (s : State) : Host.Outcome State Fault Refusal := .next (nakRx l seq s)

/-- 4 µs without an acknowledgement of the oldest outstanding block (R62). -/
def replayTimeout (l : LinkId) (s : State) : State :=
  if carrying (getLink s l) ∧ (getLink s l).replay ≠ [] then resendFrom l (getLink s l).replay s else s

def execReplayTimeout (l : LinkId) (s : State) : Host.Outcome State Fault Refusal := .next (replayTimeout l s)

/-- A symbol of a reserved type: ignored and counted LNK_CTRL_UNKNOWN (R64). -/
def unknownSym (l : LinkId) (s : State) : State :=
  match l with
  | .port n => count 3 18 n.toNat s
  | .sub _ => s

def execUnknownControlSymbol (l : LinkId) (ty : Byte) (s : State) : Host.Outcome State Fault Refusal :=
  .next (if 9 ≤ ty.toNat then unknownSym l s else s)

/-! ### DAMPER symbols (R66, R372) -/

/-- The first good copy of a serial, with ACCEPT = 1, dampers the device; with ACCEPT = 0 it is counted and ignored. -/
def damperSym (l : LinkId) (serial : BitVec 32) (origin : Chip) (time : BitVec 48) (s : State) : State :=
  if bitAt (reg s Reg.damperCfg) 63 then raiseDamper 3 serial origin time (some (linkKey l)) s
  else count 13 1 0 s

def execDamper (l : Lane) (serial : BitVec 32) (origin : Chip) (time : BitVec 48) (s : State) :
    Host.Outcome State Fault Refusal := .next (damperSym (.port l) serial origin time s)

/-- A control symbol taken from a good control block. -/
def symbolRx (l : LinkId) (c : RxSym) (s : State) : State :=
  match c with
  | .empty => s
  | .unknown _ => unknownSym l s
  | .sym (.credit q g0 g1 g2 g3) => creditRx l q [g0, g1, g2, g3] s
  | .sym (.ack seq) => if carrying (getLink s l) then ackRx l seq s else s
  | .sym (.nak seq) => nakRx l seq s
  | .sym (.timeReq xid) => timeReq l xid s
  | .sym (.timeRsp xid t2 dt) => timeRsp l xid t2 dt s
  | .sym (.damper ser org t) => damperSym l ser org t s
  | .sym (.version b) => versionRx l b s
  | .sym (.close cause) => closeRx l cause s

/-! ### Receiving blocks (R55, R56, R61) -/

/-- A protocol error: the link goes down with cause 0x09 (R55). -/
def protocolError (l : LinkId) (s : State) : State :=
  match (getLink s l).state with
  | .up => linkDown l 0x09#8 s
  | .closing => linkDown l 0x09#8 s
  | _ => bringUpFail (linkKey l) 0x09#8 s

/-- NAK once until the wanted block comes (R61). -/
def sendNak (l : LinkId) (s : State) : State :=
  if (getLink s l).nakPending then s
  else modLink s l (fun p => { p with ctrlQ := p.ctrlQ ++ [.nak p.expected], nakPending := true })

def execFrameEndReceive (l : Lane) (ch : Chan) (s : State) : Host.Outcome State Fault Refusal :=
  .next (frameEnd l.toNat ch.toNat s)

/-- A frame whose header is complete, and has no stamp yet, is stamped at this tick (R39). -/
def stampHeader (t : Nat) (f : Frame) : Frame :=
  if f.early = none ∧ frameHdrLen f ≤ f.raw.length then { f with early := some t } else f

/-- First block of a frame. -/
def frameStart (l : Lane) (ch : Nat) (bytes : List Byte) (whole : Bool) (s : State) : State :=
  let r := newFrame (stampHeader (now s)
    { ingress := .port l (BitVec.ofNat 4 ch), rev := (getPort s l.toNat).rev, raw := bytes, whole := whole, ended := false,
      hdr := none, stamp := 0, early := none, ageShift := 0, dest := none, lastHop := false, begun := false, cutAt := none,
      link := none }) s
  modPort r.2 l.toNat (fun p => { p with
    rxCur := Map.set p.rxCur ch r.1, hdrWait := p.hdrWait ++ [(ch, r.1)] })

/-- Octets still wanted by a spark sample of the frame (R108). -/
def sparkFill (uid : Nat) (bytes : List Byte) (s : State) : State :=
  { s with dbg := { s.dbg with sparks := s.dbg.sparks.map (fun x =>
      if x.uid = uid then { x with captured := (x.captured ++ bytes).take 256 } else x) } }

/-- The rest of a frame on a channel goes nowhere: its blocks are received and dropped up to the end block. -/
def dropRest (l ch : Nat) (last : Bool) (s : State) : State :=
  if last then modPort s l (fun p => { p with rxCur := Map.erase p.rxCur ch })
  else
    modPort { s with sw := { s.sw with nextUid := s.sw.nextUid + 1 } } l (fun p =>
      { p with rxCur := Map.set p.rxCur ch s.sw.nextUid })

/-- A further block of the channel's frame; a frame above 66,560 octets is discarded and counted LNK_OVERSIZE, what
was sent of it onward cut short, and the rest of it dropped (R56). A frame discarded before still fills its sample
(R108). -/
def frameMore (l : Lane) (ch uid : Nat) (bytes : List Byte) (last : Bool) (s0 : State) : State :=
  let s := sparkFill uid bytes s0
  match getFrame s uid with
  | none => if last then dropRest l.toNat ch true s else s
  | some f =>
    if 66560 < f.raw.length + bytes.length then
      dropRest l.toNat ch last (modPort (count 3 17 l.toNat (cutFrame uid s)) l.toNat (fun p =>
        { p with hdrWait := p.hdrWait.filter (fun e => e.2 != uid) }))
    else
      writeSram (.frame uid) (f.raw.length / 8) (bytes.length / 8 + 1)
        (modFrame uid (fun f => stampHeader (now s) { f with raw := f.raw ++ bytes, whole := last }) s)

/-- The payload of an accepted data block on a port (R56). A block out of place, a start within a frame or a continue
or end block with none open, is a protocol error (DESIGN CHOICE, log entry 115: R56 and R55 name no outcome). -/
def blockPayload (l : Lane) (b : Blk) (s0 : State) : State :=
  let s := frameEnd l.toNat b.ch s0
  let bytes := b.payload.take b.len
  match Map.get? (getPort s l.toNat).rxCur b.ch with
  | none =>
    if b.kind = 1 ∨ b.kind = 4 then frameStart l b.ch bytes (b.kind == 4) s else protocolError (.port l) s
  | some uid =>
    if b.kind = 2 ∨ b.kind = 3 then frameMore l b.ch uid bytes (b.kind == 3) s else protocolError (.port l) s

/-- The payload of an accepted data block on a twin sublink: a message on channel 0, its frame put together as R56 says;
a whole message waits for the command that takes it (R354). -/
def blockMessage (n : Nat) (b : Blk) (s : State) : State :=
  let bytes := b.payload.take b.len
  let k := 1024 + n
  let start := b.kind == 1 || b.kind == 4
  let whole := b.kind == 3 || b.kind == 4
  match (getPort s k).rxMsg, start with
  | none, false => protocolError (.sub (BitVec.ofNat 3 n)) s
  | some _, true => protocolError (.sub (BitVec.ofNat 3 n)) s
  | had, _ =>
    let m := had.getD [] ++ bytes
    if ¬ whole then modPort s k (fun p => { p with rxMsg := some m })
    else
      let s1 := modPort s k (fun p => { p with rxMsg := none })
      if b.ch = 0 then twinArrive n m s1 else s1

/-- A data block in sequence is accepted: it consumes a credit, and every 32nd is acknowledged (R59-R61). -/
def acceptBlock (l : LinkId) (b : Blk) (s : State) : State :=
  let s1 := modLink s l (fun p => { p with
    expected := p.expected + 1, nakPending := false, sinceAck := p.sinceAck + 1,
    accepted := Map.set p.accepted b.ch (Map.getD p.accepted b.ch 0 + 1) })
  let s2 := if 32 ≤ (getLink s1 l).sinceAck then queueAck l s1 else s1
  let s3 := creditIfDue l b.ch (raiseGrant l b.ch s2)
  match l with
  | .port n => blockPayload n b s3
  | .sub n => blockMessage n.toNat b s3

/-- A data block (R61). -/
def dataBlock (l : LinkId) (b : Blk) (s : State) : State :=
  let e := (getLink s l).expected
  let d := (e - b.seq).toNat
  if b.seq = e then acceptBlock l b s
  else if 1 ≤ d ∧ d ≤ 2048 then modLink s l (fun p => { p with ctrlQ := p.ctrlQ ++ [.ack (e - 1)] })
  else sendNak l s

/-- A link block as received (R55, R61, R63). What a block that fails its CRC or that FEC could not correct was cannot
be known: it is NAKed, but for one with a good FEC decode whose KIND reads control, which is discarded (DESIGN CHOICE,
log entry 81). With FEC bypassed there is no FEC decode to fail (R50). -/
def blockReceive (l : LinkId) (bytes : List Byte) (fecBad : Bool) (s : State) : State :=
  let b := parseBlk bytes
  let p := getLink s l
  if ¬ fabricLink s l ∨ ¬ (carrying p ∨ p.state = .negotiating) then s
  else if (fecBad ∧ ¬ fecBypassed s l) ∨ ¬ b.crcOk then
    (if b.kind = 8 ∧ ¬ (fecBad ∧ ¬ fecBypassed s l) then s else if carrying p then sendNak l s else s)
  else if ¬ b.legal then protocolError l s
  else
    let s1 := if b.ackValid ∧ carrying p then ackRx l b.ackSeq s else s
    if b.kind = 8 then foldOver (symbolsOf b) (fun s c => symbolRx l c s) s1
    else if b.kind = 0 ∨ ¬ carrying p then s1
    else dataBlock l b s1

def execLinkBlockReceive (l : LinkId) (bytes : List Byte) (fecBad : Bool) (s : State) :
    Host.Outcome State Fault Refusal :=
  if bytes.length = 256 then .next (if looped s l then s else blockReceive l bytes fecBad s)
  else .refused .illFormedCommand

/-! ### Sending blocks (R57, R60, R62, R63, R66, R102) -/

def isDamper : CtrlSym → Bool
  | .damper _ _ _ => true
  | _ => false

/-- The symbols of the next control block: up to 15, with one DAMPER copy at most (R63, R66). -/
def takeSyms : Nat → Bool → List CtrlSym → List CtrlSym × List CtrlSym
  | 0, _, q => ([], q)
  | _ + 1, _, [] => ([], [])
  | n + 1, had, c :: q =>
    if had && isDamper c then ([], c :: q)
    else
      let r := takeSyms n (had || isDamper c) q
      (c :: r.1, r.2)

/-- Stamps taken as a control block enters the FEC encoder (R65). -/
def stampSym (l : LinkId) (c : CtrlSym) (s : State) : CtrlSym × State :=
  match c with
  | .timeReq xid =>
    (c, if upstream s = some (linkKey l) ∧ xid = s.time.xid ∧ s.time.awaiting then
          { s with time := { s.time with t1 := some s.time.ftc } } else s)
  | .timeRsp xid t2 _ => (.timeRsp xid t2 (BitVec.ofNat 32 (s.time.ftc.toNat - t2.toNat)), s)
  | _ => (c, s)

def sendControl (l : LinkId) (s : State) : State :=
  let r := takeSyms 15 false (getLink s l).ctrlQ
  let s1 := modLink s l (fun p => { p with ctrlQ := r.2 })
  let st := foldOver r.1 (fun (acc : List CtrlSym × State) c =>
    let x := stampSym l c acc.2
    (acc.1 ++ [x.1], x.2)) ([], s1)
  emit st.2 (.control l st.1)

/-- The acknowledgement a data block's header carries (R60). -/
def pigAck (p : Port) : Option (BitVec 12) := if p.accepted = [] then none else some (p.expected - 1)

/-- Octets a frame has on the wire of this port: header of the link's revision, then payload and trailer (R69, R78). -/
def egressBytes (rev : Nat) (f : Frame) : List Byte :=
  (if rev = 1 then hdrBytes1 (frameHdr f) else hdrBytes2 (frameHdr f)) ++ f.raw.drop (frameHdrLen f)

/-- Octets that may leave now, and whether they are all there will be. -/
def available (rev : Nat) (f : Frame) : Nat × Bool :=
  let shift := hdrLen (if rev = 1 then 1 else 2)
  match f.cutAt with
  | some n => (min n f.raw.length - min (frameHdrLen f) n + shift, true)
  | none => (f.raw.length - frameHdrLen f + shift, f.ended)

/-- Is a block of the current frame ready: an end block's octets, or 244 with more to come? -/
def blockReady (s : State) (p : Port) (c : CurFrame) : Bool :=
  match getFrame s c.uid with
  | none => false
  | some f =>
    let a := available p.rev.toNat f
    if a.2 then decide (c.sent < a.1) else decide (c.sent + 244 < a.1)

/-- Blocks left of a current frame (Table 4.14). -/
def blocksLeft (s : State) (p : Port) (c : CurFrame) : Nat :=
  match getFrame s c.uid with
  | none => 0
  | some f => ceilDiv (hdrLen (if p.rev = 1 then 1 else 2) + (frameHdr f).len + 4 - c.sent) 244

/-- Send one block of a channel's current frame and keep it for replay; the end block ends the frame (R56, R60). -/
def sendFrameBlock (l : LinkId) (ch : Nat) (c : CurFrame) (s : State) : State :=
  let p := getLink s l
  match getFrame s c.uid with
  | none => modLink s l (fun p => { p with cur := Map.erase p.cur ch })
  | some f =>
    let a := available p.rev.toNat f
    let left := a.1 - c.sent
    let last := a.2 && decide (left ≤ 244)
    let n := min left 244
    let kind : BitVec 4 := if c.sent = 0 then (if last then 4 else 1) else if last then 3 else 2
    let b : TxBlock := { seq := p.txSeq, kind := kind, ch := BitVec.ofNat 4 ch,
                         payload := slice (egressBytes p.rev.toNat f) c.sent n }
    let s1 := modLink (emit s (.block l b (pigAck p))) l (fun p => { p with
      txSeq := p.txSeq + 1, replay := p.replay ++ [b], sinceAck := 0,
      sent := Map.set p.sent ch (Map.getD p.sent ch 0 + 1),
      cur := if last then Map.erase p.cur ch else Map.set p.cur ch { c with sent := c.sent + n } })
    let s2 := if c.sent = 0 then traceFrame 4 (linkKey l / 64) (some (linkKey l)) (frameHdr f) s1.time.ftc.toNat s1 else s1
    if last then dropFrame c.uid s2 else s2

/-- Octets of a frame's words from position a, n octets long, read from the output buffer: the bad words found (R122).
-/
def readFrame (uid : Nat) (tag : Option (BitVec 24)) (a n : Nat) (s : State) : List Nat × State :=
  readSram 4 0xFF tag (.frame uid) (a / 8) (if n = 0 then 0 else (a + n - 1) / 8 - a / 8 + 1) s

/-- Send the next block of the channel's current frame. Where a word of it is uncorrectable the frame is counted
MEM_UE_DROP and cut short (R83, R122): at this block, of which one octet still leaves in the end block (DESIGN CHOICE,
log entry 117: R122 names no point). -/
def sendNextBlock (l : LinkId) (ch : Nat) (c : CurFrame) (s : State) : State :=
  match getFrame s c.uid with
  | none => sendFrameBlock l ch c s
  | some f =>
    let hd := if (getLink s l).rev = 1 then 24 else 32
    let at_ := if c.sent = 0 then 0 else c.sent - hd + frameHdrLen f
    let r := readFrame c.uid (some (frameHdr f).tag) at_ (min 244 (f.raw.length - at_)) s
    if r.1 = [] then sendFrameBlock l ch c r.2
    else
      let s1 := count 5 3 (linkKey l / 64) r.2
      sendFrameBlock l ch c (modFrame c.uid (fun f => { f with ended := true, cutAt := some (at_ + 1) }) s1)

/-- Send one block of the first message that waits on a sublink, on channel 0 (R354). -/
def sendMsgBlock (n : BitVec 3) (m : List Byte) (s0 : State) : State :=
  let s := if m.length ≤ (getPort s0 (1024 + n.toNat)).msgSent + 244 then subSent n.toNat s0 else s0
  let k := 1024 + n.toNat
  let p := getPort s k
  let left := m.length - p.msgSent
  let last := decide (left ≤ 244)
  let kind : BitVec 4 := if p.msgSent = 0 then (if last then 4 else 1) else if last then 3 else 2
  let b : TxBlock := { seq := p.txSeq, kind := kind, ch := 0, payload := slice m p.msgSent (min left 244) }
  modPort (emit s (.block (.sub n) b (pigAck p))) k (fun p => { p with
    txSeq := p.txSeq + 1, replay := p.replay ++ [b], sinceAck := 0,
    sent := Map.set p.sent 0 (Map.getD p.sent 0 0 + 1),
    msgSent := if last then 0 else p.msgSent + 244 })

/-- The egress arbiter of a port is frozen with its port group (Table 4.11). -/
def egressFrozen (s : State) (l : LinkId) : Bool :=
  match l with
  | .port n => bitAt (reg s (Reg.obCfg (n.toNat / 64))) 57
  | .sub _ => false

/-- One link block leaves: control first, then blocks to be resent, then the channel the arbiter picks (R63, R102), no
frame's block under a damper (R373). -/
def blockOut (l : LinkId) (s : State) : State :=
  let p := getLink s l
  if ¬ fabricLink s l ∨ ¬ (carrying p ∨ p.state = .negotiating) then s
  else if p.ctrlQ ≠ [] then sendControl l s
  else if ¬ carrying p then s
  else match p.resend with
    | b :: rest => modLink (emit s (.block l b (pigAck p))) l (fun p => { p with resend := rest, sinceAck := 0 })
    | [] =>
      if 2048 ≤ p.replay.length then s
      else match l with
      | .sub n => (match subMsg s n.toNat with
        | some m => if 0 < creditOf p 0 then sendMsgBlock n m s else s
        | none => s)
      | .port _ =>
      if egressFrozen s l ∨ s.dbg.dampered then s
      else
        let ready := p.cur.filter (fun e => decide (0 < creditOf p e.1) && blockReady s p e.2)
        let r := arbRound (fld (reg s Reg.arbCfg) 7 0)
          (fun ch => match Map.get? p.cur ch with
            | some c => blocksLeft s p c
            | none => 0) (ready.map (·.1)) p.egressArb
        match r.1 with
        | none => s
        | some ch => match Map.get? p.cur ch with
          | some c => sendNextBlock l ch c (modLink s l (fun p => { p with egressArb := r.2 }))
          | none => s

/-- The octets of what leaves a link's lanes, or the chain's: link blocks as Table 3.3 lays them out. -/
def blockOctets : WireOut → List Byte
  | .block _ b ack => b.octets ack
  | .control _ syms => controlOctets syms
  | _ => []

/-- One link block leaves. In near-end loopback it comes back to the port's own receiver (Table 3.6). -/
def blockSend (l : LinkId) (s : State) : State :=
  let s1 := blockOut l s
  match looped s l, s1.wire with
  | true, w :: rest =>
    if s.wire.length < s1.wire.length then blockReceive l (blockOctets w) false { s1 with wire := rest } else s1
  | _, _ => s1

def execLinkBlockSend (l : LinkId) (s : State) : Host.Outcome State Fault Refusal := .next (blockSend l s)

/-! ### Ethernet mode (R70-R73) -/

/-- The Internet checksum's sum over 16-bit words. -/
def sum16 (l : List Byte) : Nat :=
  let rec fold : Nat → Nat → Nat
    | 0, x => x
    | n + 1, x => if x < 65536 then x else fold n (x % 65536 + x / 65536)
  fold 8 (((chunksOf 2 l).map (fun p => if p.length = 2 then fromBe p else 256 * fromBe p)).foldl (· + ·) 0)

/-- The UDP checksum's sum with the IPv6 pseudo-header: 0xFFFF where a received checksum is good. -/
def udpSum (srcIp dstIp udp : List Byte) : Nat :=
  sum16 (srcIp ++ dstIp ++ beBytes 4 udp.length ++ [0, 0, 0, 17] ++ udp)

def ipBytes (s : State) (l n : Nat) : List Byte :=
  beBytes 8 (reg s (Reg.ethIp l n)).toNat ++ beBytes 8 (reg s (Reg.ethIp l (n + 1))).toNat

/-- PFC: each enabled priority pauses, or resumes at time 0 (R71, R73). -/
def pfcApply (l : Nat) (body : List Byte) (s : State) : State :=
  let vec := fromBe (slice body 0 2)
  let set (m : Byte) (i : Nat) : Byte :=
    if vec.testBit i then
      (if fromBe (slice body (2 + 2 * i) 2) = 0 then m &&& ~~~ (BitVec.ofNat 8 (2 ^ i))
       else m ||| BitVec.ofNat 8 (2 ^ i))
    else m
  modPort s l (fun p => { p with pfcRx := (upTo 8).foldl set p.pfcRx })

/-- The fabric frame an Ethernet frame carries, if every test of R71 passes under the registers as they stand (R74). -/
def ethPayload (s : State) (l : Nat) (b : List Byte) : Option (List Byte) :=
  let ctl := reg s (Reg.ethCtrl l)
  let tagged := fromBe (slice b 12 2) == 0x8100
  let vlan := bitAt ctl 28
  let o := if tagged then 18 else 14
  let ip := b.drop o
  let udp := ip.drop 40
  let ulen := fromBe (slice udp 4 2)
  if b.length + 4 ≤ 9216 ∧ slice b 0 6 = beBytes 6 (fld (reg s (Reg.ethMac l 0)) 47 0) ∧ tagged = vlan ∧
      (vlan = true → fromBe (slice b 14 2) % 4096 = fld ctl 27 16) ∧ fromBe (slice b (o - 2) 2) = 0x86DD ∧
      fromBe (slice ip 0 1) / 16 = 6 ∧ fromBe (slice ip 6 1) = 17 ∧ slice ip 24 16 = ipBytes s l 0 ∧
      slice ip 8 16 = ipBytes s l 2 ∧ fromBe (slice udp 2 2) = fld ctl 63 48 ∧ fld ctl 63 48 ≠ 0 ∧
      8 ≤ ulen ∧ ulen = fromBe (slice ip 4 2) ∧ ulen ≤ udp.length ∧ fromBe (slice udp 6 2) ≠ 0 ∧
      udpSum (slice ip 8 16) (slice ip 24 16) (udp.take ulen) = 0xFFFF then
    some ((udp.take ulen).drop 8)
  else none

/-- A MAC frame received on an Ethernet-mode port, from destination address to the octet before the FCS (R71). One
whose FCS is bad, or of fewer than 64 or more than 9,216 octets with its FCS (R70), is discarded; PFC acts; any other
waits for the acceptance of its header, which applies the tests of R71 (R74). -/
def ethReceive (l : Lane) (b : List Byte) (fcsBad : Bool) (s : State) : State :=
  let k := l.toNat
  if ¬ (isFirst s k ∧ ethMode s k ∧ carrying (getPort s k)) then s
  else if fcsBad ∨ b.length < 60 ∨ 9212 < b.length then count 3 20 k s
  else if fromBe (slice b 12 2) = 0x8808 ∧ fromBe (slice b 14 2) = 0x0101 then pfcApply k (b.drop 16) s
  else
    let r := newFrame
      { ingress := .eth l, rev := 0, raw := b, whole := true, ended := true, hdr := none, stamp := 0,
        early := some (now s), ageShift := 0, dest := none, lastHop := false, begun := false, cutAt := none,
        link := none } s
    modPort r.2 k (fun p => { p with hdrWait := p.hdrWait ++ [(0, r.1)] })

def execEthFrameReceive (l : Lane) (bytes : List Byte) (fcsBad : Bool) (s : State) :
    Host.Outcome State Fault Refusal := .next (if looped s (.port l) then s else ethReceive l bytes fcsBad s)

/-- The pause time of one priority runs out (R73). -/
def pauseExpire (l pri : Nat) (s : State) : State :=
  modPort s l (fun p => { p with pfcRx := p.pfcRx &&& ~~~ (BitVec.ofNat 8 (2 ^ pri)) })

def execPfcPauseExpire (l : Lane) (pri : BitVec 3) (s : State) : Host.Outcome State Fault Refusal :=
  .next (pauseExpire l.toNat pri.toNat s)

end Sys2Proof.Machine
end

