-- ==== Sys2Proof/Machine/Switch.lean ====
section
/-! DEFINITION. The switch core (chapter 4): header acceptance, routing, spraying and pinning, output buffers and their
admission, reorder windows, the memory port and the egress scheduler. -/

namespace Sys2Proof.Machine

open Sys2Proof

/-! ### Token buckets (R105, R106) -/

/-- A bucket's size in 2^-16 octets, from its register. -/
def bucketSize (r : W64) : Int := (fld r 15 0 * 1024 * 65536 : Nat)

/-- Gain per tick, RATE × 0.0125 octets held to 16 fractional bits, what is beyond them cut off (DESIGN CHOICE, log
entry 82: R105 does not state the rounding). -/
def bucketGain (r : W64) : Nat := fld r 45 32 * 65536 / 80

/-- A bucket brought up to a tick; one never used is full. -/
def bucketAt (r : W64) (b : Option Bucket) (t : Nat) : Int :=
  match b with
  | none => bucketSize r
  | some x => min (bucketSize r) (x.tokens + ((t - x.at_) * bucketGain r : Nat))

def octets (n : Nat) : Int := (n * 65536 : Nat)

/-- The bucket after a write of its register (R105): clipped to the new size; full when enabled from disabled. -/
def bucketWrite (old new_ : W64) (b : Option Bucket) (t : Nat) : Bucket :=
  if bitAt old 63 then { tokens := min (bucketSize new_) (bucketAt old b t), at_ := t }
  else { tokens := bucketSize new_, at_ := t }

/-! ### The tables (R85-R87, R122) -/

def slotTables (s : State) : Nat :=
  match s.cord.cfg with
  | none => 0
  | some c => c.slotTables

/-- A table word; one found uncorrectable counts as VALID = 0 until it is written again (R122). -/
def tableWord (s : State) (a : Nat) : W64 := if sramBad (.table a) 0 1 s then 0 else reg s a

def rackWord (s : State) (r : Nat) : W64 := tableWord s (Reg.rtRack r)

def slotWord (s : State) (t sl : Nat) : W64 := if t < slotTables s then tableWord s (Reg.rtSlot t sl) else 0

/-- The route entry of a destination (R85): none where no route is in force. -/
def routeEntry (s : State) (dst : Chip) : Option W64 :=
  let e := rackWord s (dst.toNat / 64)
  let e2 := if bitAt e 63 ∧ fld e 62 61 = 2 then
      (let w := slotWord s (fld e 43 38) (dst.toNat % 64)
       if fld w 62 61 = 2 then 0 else w)
    else e
  if bitAt e2 63 ∧ fld e2 62 61 = 1 then some e2 else none

/-- The table words a destination's route reads: rack entry, slot entry where there is one, and the set's members. -/
def routeReads (s : State) (dst : Chip) (plane : BitVec 3) : List Nat :=
  let e := rackWord s (dst.toNat / 64)
  let slot := bitAt e 63 && fld e 62 61 == 2
  [Reg.rtRack (dst.toNat / 64)] ++ (if slot then [Reg.rtSlot (fld e 43 38) (dst.toNat % 64)] else []) ++
    (match routeEntry s dst with
      | some r => (upTo 16).map (fun w => Reg.rtSet ((fld r 55 44 + plane.toNat % (fld r 58 56 + 1)) % 4096) w)
      | none => [])

/-- A lookup reads its table words: corrected and counted, or logged with the frame's TAG (R121, R122). -/
def readTables (as : List Nat) (tag : BitVec 24) (s : State) : State :=
  foldOver as (fun s a => (readSram 5 0xFF (some tag) (.table a) 0 1 s).2) s

/-- Members of a next-hop set that are up, ascending by lane (R85, R87). -/
def liveMembers (s : State) (n : Nat) : List Nat :=
  ((upTo 16).map (fun w =>
    let word := tableWord s (Reg.rtSet n w)
    if word = 0 then [] else ((upTo 64).filter (fun b => bitAt word b)).map (fun b => 64 * w + b))).flatten.filter
    (fun l => isFirst s l && (getPort s l).state == .up)

/-! ### Cells and queues (R98) -/

def currentOf (s : State) (l t : Nat) : List Nat :=
  (getPort s l).cur.filterMap (fun e => match getFrame s e.2.uid with
    | some f => if (frameHdr f).tc.toNat = t then some e.2.uid else none
    | none => none)

/-- Cells of an egress queue: waiting, held and in transmission (R93, R98). -/
def egressCells (s : State) (l t : Nat) : Nat :=
  sumCells s (Map.getD s.sw.egress (8 * l + t) []) + sumCells s (heldFor s (.egress l t)) + sumCells s (currentOf s l t)

def memqCells (s : State) (pg t : Nat) : Nat :=
  sumCells s (Map.getD s.sw.memq (8 * pg + t) []) + sumCells s (heldFor s (.memory pg t))

def destPg : Dest → Nat
  | .egress l _ => l / 64
  | .intake g => g
  | .memory pg _ => pg

/-- U: cells in use in a port group (R98). -/
def usedCells (s : State) (pg : Nat) : Nat :=
  let eg := ((s.sw.egress.filter (fun e => e.1 / 512 == pg)).map (fun e => sumCells s e.2)).foldl (· + ·) 0
  let mq := ((s.sw.memq.filter (fun e => e.1 / 8 == pg)).map (fun e => sumCells s e.2)).foldl (· + ·) 0
  let cur := ((s.ports.filter (fun e => decide (e.1 < 1024) && e.1 / 64 == pg)).map (fun e =>
    sumCells s (e.2.cur.map (fun c => c.2.uid)))).foldl (· + ·) 0
  let held := (s.sw.windows.map (fun w => sumCells s ((w.2.held.map (·.uid)).filter (fun u => match getFrame s u with
    | some f => (match f.dest with
      | some d => destPg d == pg
      | none => false)
    | none => false)))).foldl (· + ·) 0
  eg + mq + cur + held + sumCells s (Map.getD s.sw.intake pg [])

/-- SIZE of an output buffer in cells: O MB over 16 port groups (Table 4.11). -/
def obSize (s : State) : Nat :=
  match s.cord.cfg with
  | none => 196608
  | some c => c.oMb * 2 ^ 20 / 256

/-! ### Sequence numbers (R88) -/

def sprayLimit (s : State) : Nat :=
  match s.cord.cfg with
  | none => 0
  | some c => c.sprayCounters

/-- The flow's next SSEQ and SGEN at a die; a new or reclaimed counter starts at 0 with a new SGEN. With every counter
of the die in use, the one of the lowest flow is reclaimed (DESIGN CHOICE, log entry 83: R88 does not say which). -/
def assignSseq (die : Nat) (h : Hdr) (s0 : State) : Hdr × State :=
  let key := die * 2 ^ 36 + flowKey h.src h.dst h.ch
  let s := useStore .spray key 2 0xFF (some h.tag) s0
  match Map.get? s.sw.spray key with
  | some (n, gen) =>
    ({ h with sseq := n, sgen := gen }, { s with sw := { s.sw with spray := Map.set s.sw.spray key (n + 1, gen) } })
  | none =>
    let mine := s.sw.spray.filter (fun e => e.1 / 2 ^ 36 == die)
    let base := match mine with
      | e :: _ => if sprayLimit s ≤ mine.length then Map.erase s.sw.spray e.1 else s.sw.spray
      | [] => s.sw.spray
    let gen := s.sw.sgenCtr
    ({ h with sseq := 0, sgen := gen },
     { s with sw := { s.sw with spray := Map.set base key (1, gen), sgenCtr := gen + 1 } })

/-! ### Pins (R91, R92) -/

def pinEntries (s : State) : Nat :=
  match s.cord.cfg with
  | none => 0
  | some c => c.pinEntries

def pinLive (s : State) (flow : Nat) : Bool :=
  match Map.get? s.sw.pins flow with
  | some t => decide (now s < t)
  | none => false

/-- Record or clear a pin; a full table counts PIN_NOT_RECORDED (R91). An expired pin fills its entry until PIN_EXPIRE
takes it out (DESIGN CHOICE, log entry 116: R91 does not say when the entry is free). -/
def notePin (pin : Bool) (flow life : Nat) (s0 : State) : State :=
  let s := useStore .pin flow 2 0xFF none s0
  if pin then
    (if Map.has s.sw.pins flow ∨ s.sw.pins.length < pinEntries s then
       { s with sw := { s.sw with pins := Map.set s.sw.pins flow (now s + life) } }
     else count 3 14 0 s)
  else { s with sw := { s.sw with pins := Map.erase s.sw.pins flow } }

/-- A NOTICE body: PIN or UNPIN, channel, FLOW_DST, LIFE; none where it is malformed (Table 4.6). -/
def parseNotice (b : List Byte) : Option (Bool × Chan × Chip × Nat) :=
  let ty := fromBe (b.take 1)
  let chn := fromBe (slice b 1 1)
  if b.length = 8 ∧ (ty = 1 ∨ (ty = 2 ∧ fromBe (slice b 4 4) = 0)) ∧ chn < 16 then
    some (ty == 1, BitVec.ofNat 4 chn, BitVec.ofNat 16 (fromBe (slice b 2 2)), fromBe (slice b 4 4))
  else none

/-- Act on a notice to a destination: its own flows or those of the end point attached (R92). -/
def actNotice (dst : Chip) (n : Bool × Chan × Chip × Nat) (s : State) : State :=
  notePin n.1 (flowKey dst n.2.2.1 n.2.1) n.2.2.2 s

/-- A pin whose LIFE has passed is taken out of the table (R91). -/
def pinExpire (src dst : Chip) (ch : Chan) (s : State) : State :=
  match Map.get? s.sw.pins (flowKey src dst ch) with
  | some t =>
    if t ≤ now s then { s with sw := { s.sw with pins := Map.erase s.sw.pins (flowKey src dst ch) } } else s
  | none => s

def execPinExpire (src dst : Chip) (ch : Chan) (s : State) : Host.Outcome State Fault Refusal :=
  .next (pinExpire src dst ch s)

/-! ### Spark samples (R108) -/

def sparkQueueSize : Nat := 4096

/-- Count an accepted ingress frame and sample it by Philox, with its stamp (R108, R381). -/
def sparkSample (uid : Nat) (l : Nat) (raw : List Byte) (stamp : Nat) (s : State) : State :=
  let c := reg s Reg.sparkCtrl
  if bitAt c 63 ∧ bitAt c (l / 64) then
    let i := (getPort s l).sparkCount
    let seed := reg s Reg.sparkSeed
    let x := philox0 (fld seed 31 0, fld seed 63 32) (i % 2 ^ 32, i / 2 ^ 32 % 2 ^ 32, l, 0x5350)
    let s1 := modPort s l (fun p => { p with sparkCount := i + 1 })
    if x * (fld c 47 24 + 1) < 2 ^ 32 then
      if s1.dbg.sparks.length < sparkQueueSize then
        { s1 with dbg := { s1.dbg with
          sparks := s1.dbg.sparks ++ [{ uid := uid, lane := l, captured := raw.take 256, stamp := stamp }] } }
      else count 3 15 0 s1
    else s1
  else s

/-! ### Path choice (R89) -/

/-- The least-filled of the live members, ties to the first after the set's last choice. -/
def sprayChoice (s : State) (setNo t : Nat) (live : List Nat) : Nat :=
  let last := Map.get? s.sw.setLast setNo
  let order := match last with
    | some x => live.filter (fun l => decide (x < l)) ++ live.filter (fun l => decide (l ≤ x))
    | none => live
  match order with
  | [] => 0
  | a :: r => (r.foldl (fun (b : Nat × Nat) l =>
      let c := egressCells s l t
      if c < b.2 then (l, c) else b) (a, egressCells s a t)).1

/-- The partner's chip number, whose frames are handled here once its half is adopted (R361). -/
def partnerChip (s : State) : Nat := fld (reg s Reg.twnCfg) 47 32

/-- Is a frame addressed to this device (R84, R361)? -/
def forUs (s : State) (dst : Chip) : Bool :=
  dst.toNat == ownChip s || (s.twn.tookOver && dst.toNat == partnerChip s)

/-- Where a frame goes (R84, R85, R89), its table words read before: the destination, whether by a last hop, and the
state; none: discarded. -/
def route (src : FrameSrc) (h : Hdr) (s : State) : Option (Dest × Bool) × State :=
  if forUs s h.dst then
    if h.td then
      (if h.offset.toNat / 16 = 0 then (some (.intake h.offset.toNat, false), s)
       else (none, count 3 1 (srcInstance src) s))
    else (some (.memory (flowHash h.src h.dst h.ch % 16) h.tc.toNat, false), s)
  else match routeEntry s h.dst with
    | none => (none, count 3 5 (srcPg src) s)
    | some e =>
      let setNo := (fld e 55 44 + h.plane.toNat % (fld e 58 56 + 1)) % 4096
      let live := liveMembers s setNo
      if live = [] then (none, count 3 5 (srcPg src) s)
      else if h.pinned ∨ ¬ bitAt e 59 ∨ bitAt e 60 then
        (some (.egress (nthD live (flowHash h.src h.dst h.ch % live.length) 0) h.tc.toNat, bitAt e 60), s)
      else
        let l := sprayChoice s setNo h.tc.toNat live
        (some (.egress l h.tc.toNat, false),
         { s with sw := { s.sw with setLast := Map.set s.sw.setLast setNo l } })

/-! ### Header acceptance (R39, R82, R83) -/

/-- The port a source counts and polices at; none for a return port. -/
def srcLane : FrameSrc → Option Nat
  | .port l _ => some l.toNat
  | .eth l => some l.toNat
  | .ret _ => none

/-- The fabric channel of a MAC frame that waits, by the header it carries. -/
def ethChan (s : State) (l uid : Nat) : Chan :=
  match (getFrame s uid).bind (fun f => ethPayload s l f.raw) with
  | some b => (parseHdr b).hdr.ch
  | none => 0

/-- The frame whose header is next to be accepted from a source: not one behind a tile of its channel that waits for its
intake (R22). -/
def nextHeader (s : State) (src : FrameSrc) : Option Nat :=
  match src with
  | .port l ch => if sourceBlocked s src ch then none
    else ((getPort s l.toNat).hdrWait.find? (fun e => e.1 == ch.toNat)).map (·.2)
  | .eth l => ((getPort s l.toNat).hdrWait.find? (fun e => !sourceBlocked s src (ethChan s l.toNat e.2))).map (·.2)
  | .ret g => if sourceBlocked s src 0 then none else (Map.getD s.sw.retq g.toNat []).head?

def unqueueHeader (src : FrameSrc) (uid : Nat) (s : State) : State :=
  match src with
  | .port l _ => modPort s l.toNat (fun p => { p with hdrWait := p.hdrWait.filter (fun e => e.2 != uid) })
  | .eth l => modPort s l.toNat (fun p => { p with hdrWait := p.hdrWait.filter (fun e => e.2 != uid) })
  | .ret g => { s with sw := { s.sw with
      retq := Map.set s.sw.retq g.toNat ((Map.getD s.sw.retq g.toNat []).drop 1) } }

/-- Does the header's VER agree with its source (R83): the revision of the link that brought the frame, which may have
gone down since (R53)? -/
def verAllowed (f : Frame) (ver : Nat) : Bool :=
  match f.ingress with
  | .port _ _ => ver == f.rev.toNat
  | .eth _ => ver == 1 || ver == 2
  | .ret _ => ver == 2

/-- Police an ingress frame of so many wire octets (R106): whether it passes. -/
def police (src : FrameSrc) (tc n : Nat) (s : State) : Bool × State :=
  match srcLane src with
  | none => (true, s)
  | some l =>
    let r := reg s (Reg.police l tc)
    if bitAt r 63 then
      let tk := bucketAt r (Map.get? (getPort s l).policers tc) (now s)
      if tk < octets n then (false, count 3 3 (8 * l + tc) s)
      else (true, modPort s l (fun p => { p with policers := Map.set p.policers tc { tokens := tk - octets n, at_ := now s } }))
    else (true, s)

/-- Is the source a first hop of the frame (R91)? -/
def firstHop (s : State) (src : FrameSrc) (h : Hdr) : Bool :=
  match src with
  | .port l _ => (getPort s l.toNat).peerChip == h.src
  | .eth _ => true
  | .ret _ => true

/-- Convert to rev 2 form, assign SSEQ where R88 requires, apply any pin (R82, R88, R91). -/
def convertHdr (src : FrameSrc) (r : RxHdr) (s : State) : Hdr × State :=
  let h0 : Hdr := if r.ver = 1 then { r.hdr with ver := 2, plane := fwdPlane s } else r.hdr
  let isRet : Bool := match src with
    | .ret _ => true
    | _ => false
  let x := if r.ver = 1 ∨ isRet then assignSseq (dieOf (srcPg src)) h0 s else (h0, s)
  let h1 := x.1
  ({ h1 with pinned := h1.pinned || (firstHop x.2 src h1 && pinLive x.2 (flowKey h1.src h1.dst h1.ch)) }, x.2)

/-! ### The flue inputs (R19, R22, R97, R102) -/

/-- The staging queue of a frame at flue input pg: 16 × flue input + output buffer (R97). -/
def stagingKey (pg : Nat) (f : Frame) : Nat :=
  16 * pg + (match f.dest with
    | some d => destPg d
    | none => 0)

/-- May a frame before flue input pg move into its staging queue now: there is room, a tile's intake will take it
(R22), and no frame of its path waits before it? -/
def mayStage (pg : Nat) (before : List Nat) (s : State) (f : Frame) : Bool :=
  decide ((Map.getD s.sw.staging (stagingKey pg f) []).length < stagingRoom) && !entryHeld s f &&
    !before.any (fun u => match getFrame s u with
      | some x => samePath f.ingress (frameHdr f).ch x
      | none => false)

/-- The first frame of a flue input's requester that may move. -/
def flueHead (pg : Nat) (s : State) : List Nat → List Nat → Option Nat
  | _, [] => none
  | before, u :: q =>
    match getFrame s u with
    | none => flueHead pg s before q
    | some f => if mayStage pg before s f then some u else flueHead pg s (u :: before) q

/-- One round of PGn's flue input arbiter between its ingress and its return port, oldest head stamp first: the winner's
frame enters its staging queue (R19, R102, Table 4.14). -/
def flueRound (pg : Nat) (s : State) : State :=
  if ¬ powered s ∨ s.dbg.dampered ∨ bitAt (reg s (Reg.obCfg pg)) 56 then s
  else
    let head (r : Nat) : Option Nat := flueHead pg s [] (Map.getD s.sw.flueIn (2 * pg + r) [])
    let stampOf (r : Nat) : Nat := match (head r).bind (getFrame s) with
      | some f => f.stamp
      | none => 0
    let r := arbRound (fld (reg s Reg.arbCfg) 15 8) stampOf ((upTo 2).filter (fun r => (head r).isSome))
      (Map.getD s.sw.flueArb pg Arb.reset)
    match r.1 with
    | none => s
    | some w => match head w with
      | none => s
      | some uid => match getFrame s uid with
        | none => s
        | some f =>
          let key := stagingKey pg f
          { s with sw := { s.sw with
            flueArb := Map.set s.sw.flueArb pg r.2,
            flueIn := Map.set s.sw.flueIn (2 * pg + w) ((Map.getD s.sw.flueIn (2 * pg + w) []).filter (fun u => u != uid)),
            staging := Map.set s.sw.staging key (Map.getD s.sw.staging key [] ++ [uid]) } }

/-- An accepted frame goes before its flue input: the ingress's, where a round follows, or the return port's, which
RETURN_PORT_SEND moves on (R19, R84). -/
def stage (uid : Nat) (src : FrameSrc) (h : Hdr) (d : Dest) (last : Bool) (s : State) : State :=
  let side : Nat := match src with
    | .ret _ => 1
    | _ => 0
  let key := 2 * srcPg src + side
  let s1 := modFrame uid (fun f => { f with hdr := some h, dest := some d, lastHop := last }) s
  let s2 := { s1 with sw := { s1.sw with flueIn := Map.set s1.sw.flueIn key (Map.getD s1.sw.flueIn key [] ++ [uid]) } }
  pfcAll (if side = 0 then flueRound (srcPg src) s2 else s2)

/-- The end of acceptance: route, and the two things a NOTICE does at a last hop (R84, R85, R92), which acts on it here,
before its window and admission (DESIGN CHOICE, log entry 84: R92 gives no moment). -/
def acceptRoute (uid : Nat) (src : FrameSrc) (h : Hdr) (s0 : State) : State :=
  let s := if forUs s0 h.dst then s0 else readTables (routeReads s0 h.dst h.plane) h.tag s0
  let r := route src h s
  match r.1 with
  | none => dropFrame uid r.2
  | some (d, last) =>
    let go (s : State) : State := lengthCheck uid (stage uid src h d last s)
    if h.kind = 5 ∧ last then
      match getFrame r.2 uid, d with
      | some f, .egress l _ =>
        (match parseNotice ((f.raw.drop (frameHdrLen f)).take h.len) with
         | none => count 3 1 (srcInstance src) (dropFrame uid r.2)
         | some n =>
           let s1 := actNotice h.dst n r.2
           if (getPort s1 l).rev = 2 then go s1 else dropFrame uid s1)
      | _, _ => go r.2
    else go r.2

/-- The checks of R83 in their order. A header whose VER is neither 1 nor 2 is read as one of 32 octets for the HCRC
test (DESIGN CHOICE, log entry 85). -/
def acceptChecks (uid : Nat) (src : FrameSrc) (f : Frame) (s : State) : State :=
  let r := parseHdr f.raw
  let inst := srcInstance src
  let isRet : Bool := match src with
    | .ret _ => true
    | _ => false
  let hops := r.hdr.hops.toNat + 1
  if ¬ r.hcrcOk then count 3 0 inst (dropFrame uid s)
  else if ¬ verAllowed f r.ver ∨ ¬ hdrLegal r then count 3 1 inst (dropFrame uid s)
  else if ¬ forwarding s then count 3 4 (srcPg src) (dropFrame uid s)
  else if ¬ isRet ∧ fld (reg s Reg.fwdCfg) 15 8 < hops then count 3 2 inst (dropFrame uid s)
  else
    let p := police src r.hdr.tc.toNat (hdrLen r.ver + r.hdr.len + 4) s
    if ¬ p.1 then dropFrame uid p.2
    else
      let r1 : RxHdr := if isRet then r else { r with hdr := { r.hdr with hops := BitVec.ofNat 8 hops } }
      let c := convertHdr src r1 p.2
      let s1 := traceFrame 5 (srcPg src) (srcLane src) c.1 f.stamp c.2
      acceptRoute uid src c.1 s1

/-- A whole header has arrived: its frame has the stamp of that tick, or from a return port of the present one (R39).
The sample (R108) and the checks of R83 follow. -/
def acceptFrame (uid : Nat) (src : FrameSrc) (f : Frame) (s : State) : State :=
  let f1 := { f with stamp := f.early.getD (now s) }
  let s1 := modFrame uid (fun _ => f1) (unqueueHeader src uid s)
  let s2 := match srcLane src with
    | some l => sparkSample uid l f.raw f1.stamp s1
    | none => s1
  acceptChecks uid src f1 s2

/-- A frame that ended before the last octet of its header is never accepted: discarded and counted MALFORMED (DESIGN
CHOICE, log entry 85: the spec names no outcome). -/
def neverAccepted (uid : Nat) (src : FrameSrc) (s : State) : State :=
  count 3 1 (srcInstance src) (dropFrame uid (unqueueHeader src uid s))

/-- A MAC frame that waits is judged by the tests of R71 under the registers as they now stand (R74). -/
def acceptEth (uid l : Nat) (src : FrameSrc) (f : Frame) (s : State) : State :=
  match ethPayload s l f.raw with
  | none => count 3 20 l (dropFrame uid (unqueueHeader src uid s))
  | some b =>
    let f1 := { f with raw := b }
    if b.length < frameHdrLen f1 then neverAccepted uid src (modFrame uid (fun _ => f1) s)
    else acceptFrame uid src f1 s

/-- Is the ingress bridge or the return port's place before the flue full (R32, R97)? -/
def flueInFull (s : State) (src : FrameSrc) : Bool :=
  let side : Nat := match src with
    | .ret _ => 1
    | _ => 0
  decide (stagingRoom ≤ flueLoad s [] (Map.getD s.sw.flueIn (2 * srcPg src + side) []))

/-- The next header that has come from a source is judged and its frame routed (R83). Nothing is routed under a damper
(R373), on a fenced device (R362), while a tile of the same path waits for its intake (R22) or while the flue input is
full (R97). -/
def headerAccept (src : FrameSrc) (s : State) : State :=
  if ¬ powered s ∨ s.twn.fenced ∨ s.dbg.dampered ∨ flueInFull s src then s
  else match nextHeader s src with
    | none => s
    | some uid => match getFrame s uid, src with
      | none, _ => unqueueHeader src uid s
      | some f, .eth l => acceptEth uid l.toNat src f s
      | some f, _ =>
        if f.raw.length < frameHdrLen f then (if f.ended then neverAccepted uid src s else s)
        else acceptFrame uid src f s

def execFrameHeaderAccept (src : FrameSrc) (s : State) : Host.Outcome State Fault Refusal := .next (headerAccept src s)

/-! ### Return ports (R19, R22, R84) -/

/-- One round of PGn's flue input arbiter, which may send the return port's head into the flue. -/
def returnSend (g : Nat) (s : State) : State := pfcAll (flueRound g s)

def execReturnPortSend (g : Grp) (s : State) : Host.Outcome State Fault Refusal := .next (returnSend g.toNat s)

/-! ### Egress queues (R98, R104) -/

/-- A frame joins its egress queue; a queue that wakes takes the port's virtual time (R104). -/
def joinEgress (l t uid : Nat) (s : State) : State :=
  let q := Map.getD s.sw.egress (8 * l + t) []
  let s1 := { s with sw := { s.sw with egress := Map.set s.sw.egress (8 * l + t) (q ++ [uid]) } }
  match q, getFrame s uid with
  | [], some f => modPort s1 l (fun p => { p with tags := Map.set p.tags t (p.vt, p.vt + tagInc s l t (frameHdr f)) })
  | _, _ => s1

/-! ### Admission and reorder windows (R93-R96, R98, R99) -/

/-- The command tag of the tile a frame carries, once its octets have come (Table 6.1, bytes 20-22). -/
def tileTag (f : Frame) : Option (BitVec 24) :=
  let p := framePayload f
  if 23 ≤ p.length then some (BitVec.ofNat 24 (fromBe (slice p 20 3))) else none

/-- A frame enters its destination queue; a tile for a gated group's intake is discarded there (R25). -/
def release (uid : Nat) (s : State) : State :=
  match getFrame s uid with
  | none => s
  | some f =>
    match f.dest with
    | none => s
    | some (.egress l t) => joinEgress l t uid s
    | some (.intake g) =>
      if gated s g then
        logEv (codeCounter 7 9) 0 (unitByte g 12) (tileTag f) [] (count 7 9 g (eraseFrame uid s))
      else
      { s with sw := { s.sw with intake := Map.set s.sw.intake g (Map.getD s.sw.intake g [] ++ [uid]) } }
    | some (.memory pg t) =>
      { s with sw := { s.sw with memq := Map.set s.sw.memq (8 * pg + t) (Map.getD s.sw.memq (8 * pg + t) [] ++ [uid]) } }

/-- Held frames in SSEQ order from a base. -/
def heldSorted (base : BitVec 16) (l : List Held) : List Held :=
  sortBy (fun a b => decide ((a.sseq - base).toNat < (b.sseq - base).toNat)) l

/-- Release the run of held frames that starts at the base. -/
def drainRun : Nat → Window → State → Window × State
  | 0, w, s => (w, s)
  | n + 1, w, s =>
    match w.held.find? (fun h => h.sseq == w.base) with
    | none => (w, s)
    | some h =>
      drainRun n { w with held := w.held.filter (fun x => x.sseq != w.base), base := w.base + 1 } (release h.uid s)

/-- Move the base up to `nb`: held frames below it are released in order and the missing numbers counted
REORDER_SKIPPED (R93, R94). -/
def skipTo (pg : Nat) (nb : BitVec 16) (w : Window) (s : State) : Window × State :=
  let n := (nb - w.base).toNat
  let below := (heldSorted w.base w.held).filter (fun h => decide ((h.sseq - w.base).toNat < n))
  let s1 := foldOver below (fun s h => release h.uid s) s
  let s2 := countN 3 12 pg (n - below.length) s1
  let w1 := { w with held := w.held.filter (fun h => decide (n ≤ (h.sseq - w.base).toNat)), base := nb }
  drainRun w1.held.length w1 s2

/-- A frame judged by its window (R93). -/
def windowJudge (uid : Nat) (seq : BitVec 16) (w : Window) (s : State) : Window × State :=
  let d := (seq - w.base).toNat
  if 32768 ≤ d then (w, count 3 10 w.pg (dropFrame uid s))
  else if d = 0 then
    let w1 := { w with base := w.base + 1 }
    drainRun w1.held.length w1 (release uid s)
  else if w.held.any (fun h => h.sseq == seq) then (w, count 3 11 w.pg (dropFrame uid s))
  else
    ({ w with held := w.held ++ [{ sseq := seq, uid := uid, since := now s }] }, s)

/-- A frame reaches its flow's window (R93). -/
def windowArrive (k pg uid : Nat) (h : Hdr) (w0 : Window) (s0 : State) : State :=
  let s := useStore .window k 72 0xFF (some h.tag) s0
  let w1 := { w0 with pg := pg, lastArrival := now s }
  let r1 := if h.sgen ≠ w1.gen then
      ({ w1 with gen := h.sgen, base := h.sseq, held := [] },
       foldOver (heldSorted w1.base w1.held) (fun s x => release x.uid s) s)
    else (w1, s)
  let d := (h.sseq - r1.1.base).toNat
  let r2 := if d < 32768 ∧ r1.1.span ≤ d then
      skipTo pg (h.sseq - BitVec.ofNat 16 r1.1.span + 1) r1.1 r1.2
    else r1
  let r3 := windowJudge uid h.sseq r2.1 r2.2
  pinMarks k r3.1 r3.2

def windowLimit (s : State) : Nat :=
  match s.cord.cfg with
  | none => 0
  | some c => c.windows

/-- The flow's window, made or reclaimed where there is none; none where every window of the die holds frames (R96). -/
def findWindow (k : Nat) (h : Hdr) (s : State) : Option (Window × State) :=
  match Map.get? s.sw.windows k with
  | some w => some (w, s)
  | none =>
    let fresh : Window :=
      { pg := 0, base := h.sseq, gen := h.sgen, span := 2 ^ fld (reg s Reg.reorderCfg) 19 16, held := [], pinSent := false,
        lastPin := 0, lastArrival := now s }
    let mine := s.sw.windows.filter (fun e => winDie e.1 == winDie k)
    if mine.length < windowLimit s then some (fresh, s)
    else
      match mine.filter (fun e => e.2.held.isEmpty) with
      | [] => none
      | e :: r =>
        let old := r.foldl (fun b x => if x.2.lastArrival < b.2.lastArrival then x else b) e
        some (fresh, { s with sw := { s.sw with windows := Map.erase s.sw.windows old.1 } })

/-- Its words are written to the output buffer with fresh check symbols (R27). An admitted frame goes through its
window where R93 says so, else straight to its queue. -/
def enterQueue (uid : Nat) (s0 : State) : State :=
  match getFrame s0 uid with
  | none => s0
  | some f =>
    let s := writeSram (.frame uid) 0 (f.raw.length / 8 + 1) s0
    let h := frameHdr f
    match f.dest with
    | none => s
    | some d =>
      let windowed : Bool := match d with
        | .egress _ _ => f.lastHop
        | _ => true
      if windowed then
        let k := winCode (dieOf (destPg d)) h.src.toNat h.dst.toNat h.ch.toNat
        match findWindow k h s with
        | none => release uid (count 3 13 (destPg d) s)
        | some (w, s1) => windowArrive k (destPg d) uid h w s1
      else release uid s

/-- Does a frame for an egress or memory queue fit (R98)? -/
def admits (s : State) (d : Dest) (h : Hdr) : Bool :=
  let pg := destPg d
  let cells := frameCells h
  let alpha := fld (reg s (Reg.tcCfg h.tc.toNat)) 27 24
  let free := obSize s - usedCells s pg
  let q := match d with
    | .egress l t => egressCells s l t
    | .memory p t => memqCells s p t
    | .intake _ => 0
  decide (q + cells ≤ free * 2 ^ alpha / 64)

/-- Counter instance of a destination queue (Table 18.6). -/
def queueInstance : Dest → Nat
  | .egress l t => 8 * l + t
  | .memory pg t => 8 * (1040 + pg) + t
  | .intake g => g

def isIntake (f : Frame) : Bool :=
  match f.dest with
  | some (.intake _) => true
  | _ => false

/-- Does a staged frame wait behind a tile of its path, a port's channel or a return port, that waits for a full intake
(R22)? -/
def waitsBehind (s : State) (uid : Nat) (f : Frame) : Bool :=
  s.sw.staging.any (fun e => e.2.any (fun u => decide (u < uid) && (match getFrame s u with
    | some x => samePath f.ingress (frameHdr f).ch x && waitsIntake s x
    | none => false)))

/-- The first frame of a staging queue that does not wait (R22, R97). -/
def firstFree (s : State) (q : List Nat) : Option Nat :=
  q.find? (fun u => match getFrame s u with
    | some f => !waitsIntake s f && !waitsBehind s u f
    | none => false)

/-- The round of an output buffer's write port: the frame that wins, and the arbiter after it (R102, Table 4.14). -/
def writeRound (pg : Nat) (s : State) : Option Nat × State :=
  let heads := (upTo 16).filterMap (fun i =>
    (firstFree s (Map.getD s.sw.staging (16 * i + pg) [])).map (fun u => (i, u)))
  let stampOf (i : Nat) : Nat := match heads.find? (fun e => e.1 == i) with
    | some e => (match getFrame s e.2 with
      | some f => f.stamp
      | none => 0)
    | none => 0
  let r := arbRound (fld (reg s Reg.arbCfg) 15 8) stampOf (heads.map (·.1)) (Map.getD s.sw.writeArb pg Arb.reset)
  match r.1 with
  | none => (none, s)
  | some i =>
    (((heads.find? (fun e => e.1 == i)).map (·.2)),
     { s with sw := { s.sw with writeArb := Map.set s.sw.writeArb pg r.2 } })

def unstage (uid : Nat) (s : State) : State := { s with sw := { s.sw with staging := takeOut uid s.sw.staging } }

def flueStops (s : State) (pg : Nat) : Bool := !powered s || s.dbg.dampered || bitAt (reg s (Reg.obCfg pg)) 56

/-- Every flue input runs a round, so that frames before it go on while its staging queues have room. -/
def flueRounds (s : State) : State := foldOver (upTo 16) (fun s n => flueRound n s) s

/-- A frame crosses the flue into PGn's output buffer: admitted under R98, or discarded as ADMIT_DROP. -/
def outputWrite (pg : Nat) (s0 : State) : State :=
  let s := flueRounds s0
  if flueStops s pg then s
  else
    let r := writeRound pg s
    match r.1 with
    | none => s
    | some uid => match getFrame s uid with
      | none => s
      | some f =>
        if isIntake f then s
        else match f.dest with
          | none => s
          | some d =>
            let s1 := unstage uid r.2
            if admits s d (frameHdr f) then enterQueue uid s1
            else count 3 7 (queueInstance d) (dropFrame uid s1)

def execOutputBufferWrite (pg : Grp) (s : State) : Host.Outcome State Fault Refusal := .next (outputWrite pg.toNat s)

/-- A tile crosses the flue into Gn's intake queue, through its flow's window (R93, R99), unless intake is off (R299).
-/
def intakeEnqueue (g : Nat) (s0 : State) : State :=
  let s := flueRounds s0
  if flueStops s g ∨ s.cord.state ≠ 3 then s
  else
    let r := writeRound g s
    match r.1 with
    | none => s
    | some uid => match getFrame s uid with
      | none => s
      | some f =>
        if ¬ isIntake f then s
        else
          pfcAll (enterQueue uid (unstage uid r.2))

def execIntakeEnqueue (pg : Grp) (s : State) : Host.Outcome State Fault Refusal := .next (intakeEnqueue pg.toNat s)

/-! ### Deadlines of the windows (R94-R96) -/

/-- Is a frame stamped at or before a tick still between an ingress bridge and the windows: before the flue or in it,
or with its header still to be judged (R39, R94)? -/
def inTransit (s : State) (t : Nat) : Bool :=
  (s.sw.staging ++ s.sw.flueIn).any (fun e => e.2.any (fun u => match getFrame s u with
    | some f => decide (f.stamp ≤ t)
    | none => false)) ||
  s.sw.frames.any (fun e => e.2.hdr.isNone && e.2.early.any (fun x => decide (x ≤ t)))

/-- A held frame's deadline: its hold tick plus GAP_TIMEOUT (R94). -/
def gapDeadline (s : State) (h : Held) : Nat := h.since + fld (reg s Reg.reorderCfg) 63 44

/-- The gap before a held frame past its deadline is skipped (R94); never under a damper (R373). -/
def gapTimeout (k : Nat) (s : State) : State :=
  if s.dbg.dampered then s
  else match Map.get? s.sw.windows k with
    | none => s
    | some w =>
      let due := w.held.filter (fun h => decide (gapDeadline s h < now s) && !inTransit s (gapDeadline s h))
      match (heldSorted w.base due).getLast? with
      | none => s
      | some h =>
        let pg : Nat := match (getFrame s h.uid).bind (·.dest) with
          | some d => destPg d
          | none => w.pg
        let r := skipTo pg h.sseq w s
        pinMarks k r.1 r.2

def execReorderGapTimeout (k : WinKey) (s : State) : Host.Outcome State Fault Refusal :=
  .next (gapTimeout (winKeyNat k) s)

/-- Every LIFE/2 ticks while the held count stays above LOW_MARK (R95). -/
def pinResend (k : Nat) (s : State) : State :=
  match Map.get? s.sw.windows k with
  | none => s
  | some w =>
    let life := fld (reg s Reg.pinCfg) 19 0
    if w.pinSent ∧ fld (reg s Reg.reorderCfg) 31 20 < w.held.length ∧ w.lastPin + life / 2 ≤ now s then
      sendNotice w.pg true (winSrc k) (winDst k) (winCh k) (setWindow k { w with lastPin := now s } s)
    else s

def execPinResendTimer (k : WinKey) (s : State) : Host.Outcome State Fault Refusal := .next (pinResend (winKeyNat k) s)

/-- A window with nothing held and no arrival for 1,000,000 ticks is freed (R96). -/
def windowExpire (k : Nat) (s : State) : State :=
  match Map.get? s.sw.windows k with
  | none => s
  | some w =>
    if w.held = [] ∧ w.lastArrival + 1000000 ≤ now s then
      { s with sw := { s.sw with windows := Map.erase s.sw.windows k } }
    else s

def execReorderWindowExpire (k : WinKey) (s : State) : Host.Outcome State Fault Refusal :=
  .next (windowExpire (winKeyNat k) s)

/-! ### Ageing (R100) -/

/-- Is a frame ash at this tick: AGE_LIMIT of its TC set, and its age above it? -/
def isAsh (s : State) (f : Frame) : Bool :=
  let lim := fld (reg s (Reg.tcCfg (frameHdr f).tc.toNat)) 19 0
  !f.begun && decide (lim ≠ 0) && decide (lim * 1000 < now s - (f.stamp + f.ageShift))

/-! ### The memory port (R81, R84, R92, R118, R122) -/

/-- Are the n octets a frame names in reach? None is under the partner's chip number (R361). -/
def frameReach (s : State) (h : Hdr) (n : Nat) : Bool := h.dst.toNat == ownChip s && rangeOk s h.offset.toNat n

/-- A PUT whose range is in reach is written, word by word; otherwise discarded, counted MEM_RANGE and logged (R118). -/
def putWrite (h : Hdr) (payload : List Byte) (s : State) : State :=
  if frameReach s h payload.length then writeMem 0 0xFF (some h.tag) h.offset.toNat payload s
  else logEv (codeCounter 5 2) 0 0xFF (some h.tag) [] (count 5 2 0 s)

/-- A GET answered with one GET_RESP through the return port of Gm (R81, R84, R118). -/
def getAnswer (pg : Nat) (src : FrameSrc) (h : Hdr) (payload : List Byte) (s : State) : State :=
  let n := fromBe (payload.take 4)
  if h.len ≠ 8 ∨ fromBe (slice payload 4 4) ≠ 0 ∨ n = 0 ∨ 65535 < n then count 3 1 (srcInstance src) s
  else
    let resp : Hdr := { blankHdr with kind := 3, ch := h.ch, tc := h.tc, dst := h.src, src := h.dst, offset := h.offset,
                                      tag := h.tag, plane := fwdPlane s }
    if frameReach s h n then
      let r := readMem 0 0xFF (some h.tag) h.offset.toNat n s
      buildRet pg resp r.1 r.2.2
    else buildRet pg resp (ffs n)
      (logEv (codeCounter 5 2) 0 0xFF (some h.tag) [] (count 5 2 0 s))

/-- The memory port handles a frame by its kind (Table 4.3). -/
def memoryHandle (pg : Nat) (f : Frame) (s : State) : State :=
  let h := frameHdr f
  let p := framePayload f
  if h.kind = 1 then (if pcrcGood f then putWrite h p s else count 3 6 (srcPg f.ingress) s)
  else if h.kind = 2 then getAnswer pg f.ingress h p s
  else if h.kind = 3 then
    -- no Hearth or MSS function of the device issues a GET, so none waits for this TAG
    (if pcrcGood f then count 3 1 (srcInstance f.ingress) s else count 3 6 (srcPg f.ingress) s)
  else if h.kind = 5 then
    match parseNotice p with
    | some n => actNotice h.dst n s
    | none => count 3 1 (srcInstance f.ingress) s
  else count 3 1 (srcInstance f.ingress) s

/-- The flow of a frame. -/
def frameFlow (f : Frame) : Nat := flowKey (frameHdr f).src (frameHdr f).dst (frameHdr f).ch

/-- The frames of a memory queue that may be taken: the first of each flow, whose frames take effect in order (R90,
R119). -/
def flowHeads (s : State) : List Nat → List Nat → List (Nat × Frame)
  | [], _ => []
  | u :: q, seen =>
    match getFrame s u with
    | none => flowHeads s q seen
    | some f => if seen.contains (frameFlow f) then flowHeads s q seen
      else (u, f) :: flowHeads s q (frameFlow f :: seen)

/-- The frame of oldest stamp in the die's memory queues (R84): port group, TC and frame. -/
def oldestMem (d : Nat) (s : State) : Option (Nat × Nat × Nat × Frame) :=
  let heads := (s.sw.memq.map (fun e => (flowHeads s e.2 []).map (fun x => (e.1 / 8, e.1 % 8, x.1, x.2)))).flatten
  let mine := heads.filter (fun x => x.1 / 4 == d)
  match mine with
  | [] => none
  | a :: r => some (r.foldl (fun b x => if x.2.2.2.stamp < b.2.2.2.stamp then x else b) a)

/-- The memory a frame's handling goes to: the octets it writes or reads. -/
def memRange (f : Frame) : Nat × Nat :=
  let h := frameHdr f
  let n := if h.kind = 1 then h.len else if h.kind = 2 then fromBe ((framePayload f).take 4) else 0
  (h.offset.toNat, n)

/-- Is one of the memory arbiters a frame needs frozen (R127)? -/
def memStops (s : State) (f : Frame) : Bool := !memFree s (memRange f).1 (memRange f).2

/-- The switch-core memory port of a die takes the oldest frame from its memory queues (R84, R100), reads it from the
output buffer (R122) and handles it, its accesses granted by the memory arbiters (R127). -/
def memoryTake (d : Nat) (s : State) : State :=
  if ¬ powered s ∨ s.dbg.dampered then s
  else match oldestMem d s with
    | none => s
    | some (pg, t, uid, f) =>
      if ¬ f.ended ∨ memStops s f then s
      else
        let r := readFrame uid (some (frameHdr f).tag) 0 f.raw.length s
        let s1 := dropFrame uid r.2
        if isAsh s f then count 3 8 (8 * (1040 + pg) + t) s1
        else if r.1 ≠ [] then count 5 3 pg s1
        else memoryHandle pg f (memGrant (portReq d) (sitesOf (memRange f).1 (memRange f).2) s1)

def execMemoryPortTake (d : Die) (s : State) : Host.Outcome State Fault Refusal := .next (memoryTake d.toNat s)

/-! ### Egress (R33, R69, R72, R103-R105) -/

/-- May the port cut frames through now (R33)? -/
def cutThroughOk (s : State) : Bool :=
  decide (fld (reg s Reg.ctGuard) 15 0 ≤ (Map.getD s.time.measure 16 0).toNat)

def shaperOk (s : State) (l t : Nat) : Bool :=
  let r := reg s (Reg.qShape l t)
  !bitAt r 63 || decide (0 < bucketAt r (Map.get? (getPort s l).shapers t) (now s))

/-- Is queue TCt of a port eligible (R103), with its head ready to start in the mode of R33? An Ethernet-mode port
starts a frame only once the whole of it has come: the UDP checksum goes ahead of the payload (DEDUCED from Table 3.5,
log entry 86). -/
def eligible (s : State) (l t : Nat) : Bool :=
  match Map.getD s.sw.egress (8 * l + t) [] with
  | [] => false
  | u :: _ => match getFrame s u with
    | none => false
    | some f =>
      let h := frameHdr f
      let p := getPort s l
      shaperOk s l t &&
        (if ethMode s l then p.cur.isEmpty && !p.pfcRx.getLsbD t && f.ended
         else !Map.has p.cur h.ch.toNat && decide (0 < creditOf p h.ch.toNat) && (f.ended || cutThroughOk s))

/-- The eligible queue of smallest finish tag; a tie goes to the lower t (R104). -/
def pickQueue (s : State) (l : Nat) : Option Nat :=
  let p := getPort s l
  let tag (t : Nat) : BitVec 48 := (Map.getD p.tags t (0, 0)).2
  ((upTo 8).filter (eligible s l)).foldl (fun (b : Option Nat) t =>
    match b with
    | none => some t
    | some x => if precedes (tag t) (tag x) then some t else some x) none

/-- The head leaves its queue: V moves up and the next head takes its tags (R104). -/
def popHead (l t : Nat) (s : State) : State :=
  let rest := (Map.getD s.sw.egress (8 * l + t) []).drop 1
  let s1 := { s with sw := { s.sw with egress := Map.set s.sw.egress (8 * l + t) rest } }
  let p := getPort s l
  let tg := Map.getD p.tags t (0, 0)
  let vt := if precedes p.vt tg.1 then tg.1 else p.vt
  let tags := match rest with
    | [] => Map.erase p.tags t
    | u :: _ => (match getFrame s u with
      | some f => Map.set p.tags t (tg.2, tg.2 + tagInc s l t (frameHdr f))
      | none => Map.erase p.tags t)
  modPort s1 l (fun p => { p with vt := vt, tags := tags })

/-- Can transport rev 1 express the frame (R69)? -/
def rev1Fits (h : Hdr) : Bool := !h.td && !h.ep && decide (h.kind.toNat ≤ 4) && decide (h.len ≤ 65535)

/-- Take a frame's wire octets from its queue's bucket (R105). -/
def shaperTake (l t n : Nat) (s : State) : State :=
  let r := reg s (Reg.qShape l t)
  if bitAt r 63 then
    let tk := bucketAt r (Map.get? (getPort s l).shapers t) (now s)
    modPort s l (fun p => { p with shapers := Map.set p.shapers t { tokens := tk - octets n, at_ := now s } })
  else s

/-- The MAC frame of Table 3.5, without preamble and FCS. No frame needs padding: headers alone exceed 60 octets. -/
def macFrame (s : State) (l : Nat) (f : Frame) : List Byte :=
  let h := frameHdr f
  let ctl := reg s (Reg.ethCtrl l)
  let body := egressBytes (egressRev s l) f
  let src := ipBytes s l 0
  let dst := ipBytes s l 2
  let ulen := body.length + 8
  let udp0 := beBytes 2 (0xC000 + h.ch.toNat) ++ beBytes 2 (fld ctl 63 48) ++ beBytes 2 ulen
  let sum := 0xFFFF - udpSum src dst (udp0 ++ [0, 0] ++ body)
  let ck := if sum = 0 then 0xFFFF else sum
  beBytes 6 (fld (reg s (Reg.ethMac l 1)) 47 0) ++ beBytes 6 (fld (reg s (Reg.ethMac l 0)) 47 0) ++
  (if bitAt ctl 28 then beBytes 2 0x8100 ++ beBytes 2 (h.tc.toNat * 8192 + fld ctl 27 16) else []) ++
  beBytes 2 0x86DD ++ beBytes 4 (6 * 2 ^ 28 + 8 * h.tc.toNat * 4 * 2 ^ 20) ++ beBytes 2 ulen ++ [17, 255] ++ src ++ dst ++
  udp0 ++ beBytes 2 ck ++ body

/-- A MAC frame leaves with its FCS, least significant octet first (R70); in near-end loopback it comes back to the
port's own receiver. -/
def macOut (l : Nat) (b : List Byte) (s : State) : State :=
  if looped s (.port (BitVec.ofNat 10 l)) then ethReceive (BitVec.ofNat 10 l) b false s
  else emit s (.mac (BitVec.ofNat 10 l) (b ++ leBytes 4 (macFcs b).toNat))

/-- Start the frame on its port: the channel's current frame, or the whole MAC frame at once. -/
def startFrame (l uid : Nat) (f : Frame) (s : State) : State :=
  let h := frameHdr f
  if ethMode s l then
    let tagLen := if bitAt (reg s (Reg.ethCtrl l)) 28 then 70 else 66
    if fld (reg s (Reg.ethCtrl l)) 63 48 = 0 ∨ 9216 < (egressBytes (egressRev s l) f).length + tagLen then
      count 3 21 l (dropFrame uid s)
    else
      dropFrame uid (traceFrame 4 (l / 64) (some l) h (now s)
        (macOut l (macFrame s l f) (shaperTake l h.tc.toNat (wireLen s l h) s)))
  else
    modPort (modFrame uid (fun f => { f with begun := true }) (shaperTake l h.tc.toNat (wireLen s l h) s)) l
      (fun p => { p with
        cur := Map.set p.cur h.ch.toNat { uid := uid, sel := p.selected, sent := 0 },
        selected := p.selected + 1 })

/-- The scheduler selects a frame and its transmission begins, or it is ash, or the link cannot carry it (R69, R100). -/
def egressSelect (l : Nat) (s : State) : State :=
  if ¬ powered s ∨ s.dbg.dampered ∨ (getPort s l).state ≠ .up then s
  else match pickQueue s l with
    | none => s
    | some t => match Map.getD s.sw.egress (8 * l + t) [] with
      | [] => s
      | uid :: _ => match getFrame s uid with
        | none => popHead l t s
        | some f =>
          let r := readFrame uid (some (frameHdr f).tag) 0 f.raw.length (popHead l t s)
          let s1 := r.2
          if isAsh s f then count 3 8 (8 * l + t) (dropFrame uid s1)
          else if r.1 ≠ [] then count 5 3 (l / 64) (dropFrame uid s1)
          else if egressRev s l = 1 ∧ ¬ rev1Fits (frameHdr f) then
            logEv (codeCounter 3 19) 0 0xFF (some (frameHdr f).tag) [] (count 3 19 l (dropFrame uid s1))
          else startFrame l uid f s1

def execEgressSelect (l : Lane) (s : State) : Host.Outcome State Fault Refusal := .next (egressSelect l.toNat s)

/-! ### Flushing and sampling (R101, R107) -/

/-- SWC_PORT_FLUSH: the queued frames of the named TCs, but none whose transmission has begun (R101). -/
def portFlush (l : Nat) (v : W64) (s : State) : Status × State :=
  if ¬ isFirst s l then (.ok, s)
  else
    (.ok, foldOver ((upTo 8).filter (bitAt v)) (fun s t =>
      let gone := (Map.getD s.sw.egress (8 * l + t) []).filter (fun u => match getFrame s u with
        | some f => !f.begun
        | none => true)
      foldOver gone (fun s u => count 3 9 (8 * l + t) (dropFrame u s)) s) s)

def execSwcPortFlushWrite (l : Lane) (v : W64) (s : State) : Host.Outcome State Fault Refusal :=
  hostCmd (unfenced (portFlush l.toNat v)) s

/-- One sample of an egress queue (R107). -/
def sampleQueue (l t : Nat) (s : State) : State :=
  let depth := egressCells s l t
  let delay := match Map.getD s.sw.egress (8 * l + t) [] with
    | [] => 0
    | u :: _ => (match getFrame s u with
      | some f => min (now s - f.stamp) 0xFFFFFFFF
      | none => 0)
  modPort s l (fun p => { p with
    sampleDepth := Map.set p.sampleDepth t (max (Map.getD p.sampleDepth t (0, 0)).1 depth, depth),
    sampleDelay := Map.set p.sampleDelay t (max (Map.getD p.sampleDelay t (0, 0)).1 delay, delay) })

/-- Every 2^INTERVAL_LOG2 ticks while EN = 1 (R107). -/
def queueSample (s : State) : State :=
  let c := reg s Reg.sampleCtrl
  if bitAt c 0 ∧ now s % 2 ^ fld c 12 8 = 0 then
    foldOver (s.ports.filter (fun e => isFirst s e.1)) (fun s e => foldOver (upTo 8) (fun s t => sampleQueue e.1 t s) s) s
  else s

def execQueueSample (s : State) : Host.Outcome State Fault Refusal := .next (queueSample s)

end Sys2Proof.Machine
end

