-- ==== Sys2Proof/Machine/Invoc.lean ====
section
/-! DEFINITION. What the context store, the sequencer and the stations share: tiles in station queues, their release,
and the failure of an invocation (chapters 6, 7). -/

namespace Sys2Proof.Machine

open Sys2Proof

/-! ### Buffers released by a unit (R171 step 5) -/

/-- A share of a tile was dropped: an activation tile a book is done with is freed when no unit holds a share (R253). -/
def settleShare (g h : Nat) (s : State) : State :=
  match getBuf s g h with
  | some b =>
    if b.share = 1 ∧ s.moe.books.any (fun e => e.2.done.contains h) then
      freeBuf g h { s with moe := { s.moe with
        books := Map.each s.moe.books (fun _ k => { k with done := removeFirst h k.done }) } }
    else s
  | none => s

/-- A unit releases a taken tile: its own unshared buffer is freed; another owner's is dropped; its own shared buffer
loses a share and passes to `heir`. -/
def releaseTile (g h : Nat) (unit heir : BitVec 16) (s : State) : State :=
  match getBuf s g h with
  | none => s
  | some b =>
    if b.owner ≠ unit then
      if 2 ≤ b.share then settleShare g h (setBuf g h { b with share := b.share - 1 } s) else s
    else if b.share ≤ 1 then freeBuf g h s
    else setBuf g h { b with share := b.share - 1, owner := heir } s

/-- The owner a command's or an invocation's context stands for: the context, or the host when none is named. -/
def heirOf (c : BitVec 15) : BitVec 16 := if c.toNat < 16384 then ownerCtx c.toNat else ownerHost

/-! ### Tiles given to NEXT -/

/-- Items in bundle order, and within a bundle in pass order. -/
def inBundleOrder {α : Type} (l : List (Nat × α)) : List α := (sortBy (fun a b => decide (a.1 < b.1)) l).map (·.2)

/-- The buffers a run gives to NEXT, in order. -/
def nextsOf (r : Run) : List Nat := (inBundleOrder r.emits).filterMap (fun e => match e with
  | .next h => some h
  | _ => none)

/-! ### Paced steps (R34) -/

/-- The paced step that work whose last step was `last` begins next: none that the group began before the last counted
tick, since idle steps take permits too (R34; log entry 15). -/
def pacedStep (gr : GroupSt) (last : Nat) : Nat := max (last + 1) (gr.stepsBegun + 1)

/-- May that step begin: always at natural tempo, under the governor only with its permit? -/
def stepFree (s : State) (g last : Nat) : Bool :=
  !s.time.active || decide (pacedStep (getGroup s g) last ≤ (getGroup s g).stepLimit)

/-- The last of `n` paced steps begun now. -/
def lastOf (gr : GroupSt) (last n : Nat) : Nat := pacedStep gr last + (n - 1)

/-- A unit's work takes `n` paced steps from the present one. -/
def takeSteps (g u n : Nat) (s : State) : State :=
  if s.time.active then modUnit s g u (fun x => { x with lastStep := lastOf (getGroup s g) x.lastStep n }) else s

/-- May the sequencer begin a step with a command, or with a tile (R34, R147)? -/
def seqStepFree (s : State) (g : Nat) : Bool := stepFree s g (getGroup s g).seqStep
def intakeStepFree (s : State) (g : Nat) : Bool := stepFree s g (getGroup s g).intakeStep

/-- May a tile enter a port of a unit in a step now, and the step taken (R34)? Port key 2u + 1 for port B. -/
def portStepFree (s : State) (g k : Nat) : Bool := stepFree s g (Map.getD (getGroup s g).portSteps k 0)
def takePortStep (g k : Nat) (s : State) : State :=
  if s.time.active then
    modGroup s g (fun x => { x with portSteps := Map.set x.portSteps k (lastOf x (Map.getD x.portSteps k 0) 1) })
  else s

def takeSeqStep (g : Nat) (s : State) : State := modGroup s g (fun x => { x with seqStep := lastOf x x.seqStep 1 })
def takeIntakeStep (g : Nat) (s : State) : State := modGroup s g (fun x => { x with intakeStep := lastOf x x.intakeStep 1 })

/-! ### The order of pool operations in a step (R131) -/

/-- The buffers taken, with their share counts and last owners. -/
def poolView (s : State) (g : Nat) : List (Nat × Nat × BitVec 16) :=
  (getGroup s g).bufs.map (fun e => (e.1, e.2.share, e.2.owner))

/-- Work that may use the pools of Gn. Under the governor, where steps are numbered, an issuer that comes after a higher
owner ID in the same step has come too late for it and takes the next step (R131; log entry 97). -/
def inPoolOrder (g issuer last : Nat) (skip : Nat → State → State) (op : State → State) (s : State) : State :=
  let t := op s
  let gr := getGroup s g
  let n := pacedStep gr last
  if ¬ s.time.active ∨ poolView t g = poolView s g then t
  else if n = gr.poolTurn.1 ∧ issuer < gr.poolTurn.2 then skip n s
  else modGroup t g (fun x => { x with poolTurn := if gr.poolTurn.1 ≤ n then (n, issuer) else gr.poolTurn })

/-- A unit's bundle or commit, in pool order. -/
def unitTurn (g u : Nat) (op : State → State) (s : State) : State :=
  inPoolOrder g (ownerUnit g u).toNat (getUnit s g u).lastStep (fun n s => modUnit s g u (fun x => { x with lastStep := n })) op s

/-- The sequencer's command or tile, in pool order. -/
def seqTurn (g issuer : Nat) (op : State → State) (s : State) : State :=
  inPoolOrder g issuer (getGroup s g).seqStep (fun n s => modGroup s g (fun x => { x with seqStep := n })) op s
def intakeTurn (g : Nat) (op : State → State) (s : State) : State :=
  inPoolOrder g (ownerCtx 0).toNat (getGroup s g).intakeStep (fun n s => modGroup s g (fun x => { x with intakeStep := n })) op s

/-! ### Bundles (R157) -/

/-- The slots the header at word index w names, in stored order. -/
def slotsNamed (words : List (BitVec 32)) (w : Nat) : List Nat :=
  (upTo 8).filter (fun n => (nthD words w 0).getLsbD (24 + n))

/-- The slots of a bundle whose header is at word index w: mask bit and slot word. -/
def bundleSlots (words : List (BitVec 32)) (w : Nat) : List (Nat × BitVec 32) :=
  (slotsNamed words w).zip (words.drop (w + 1))

/-- Words of a bundle, by its header. -/
def bundleLen (words : List (BitVec 32)) (w : Nat) : Nat := 1 + (slotsNamed words w).length

def slotOp (v : BitVec 32) : Nat := bits v.toNat 31 26
def slotA (v : BitVec 32) : Nat := bits v.toNat 25 20
def slotB (v : BitVec 32) : Nat := bits v.toNat 19 14
def slotC (v : BitVec 32) : Nat := bits v.toNat 13 8
def slotImm (v : BitVec 32) : Nat := bits v.toNat 7 0

/-- Is a slot a wait point: TAKE, READ or WAIT (R232)? -/
def slotWaits (x : Nat × BitVec 32) : Bool :=
  (x.1 == 0 && (slotOp x.2 == 1 || slotOp x.2 == 3)) || (x.1 == 6 && slotOp x.2 == 2)

/-- Has a run reached a wait point: the commit, or a bundle with a wait slot (R232)? -/
def atWaitPoint (gr : GroupSt) (r : Run) : Bool :=
  r.ended ||
    (match Map.get? gr.progs r.inv.prog.toNat with
     | some p => (bundleSlots p.words r.word).any slotWaits
     | none => false)

/-! ### Failure (R173) -/

/-- The full tag of a run's present bundle (R176). -/
def runTag (gr : GroupSt) (r : Run) : BitVec 24 :=
  match Map.get? gr.progs r.inv.prog.toNat with
  | some p => BitVec.ofNat 24 (p.tagHi.toNat * 65536 + bits (nthD p.words r.word 0).toNat 23 8)
  | none => 0

/-- A run with the tag of the bundle it is at: the one it waits in, or its last once that has ended (R173, R176). -/
def atBundle (gr : GroupSt) (r : Run) : Run := if r.ended then r else { r with btag := runTag gr r }

/-- An invocation fails with a status: it commits nothing, its outputs are freed, it is counted, logged and completed.
-/
def failRun (g u : Nat) (r : Run) (st : Status) (s : State) : State :=
  let s1 := abandonRun g u r s
  let s2 := count 7 12 (32 * g + st.code) s1
  let sev := if st = .contextTimedOut then 2 else 1
  let s3 := logEv (codeStatus 7 st) sev (unitByte g u) (some r.inv.tag) [r.btag.toNat, r.invocNo.toNat, r.pass] s2
  let s4 := traceGroup 3 g u r.inv.tag st.code r.invocNo.toNat r.pass r.btag.toNat s3
  completeUnit g u r.inv st r.pass r.btag s4

/-! ### Tiles in station queues (R218, R232, R234) -/

/-- Remove from a queue, past the `taken` tiles of the running invocation, the tiles a test picks; and release them. -/
def purgeQueue (g u : Nat) (taken : Nat) (p : Tile → Bool) (q : List QTile) (s : State) : List QTile × State :=
  let gone (s : State) (x : QTile) : Bool :=
    match tileAt s g x.handle with
    | some t => p t
    | none => false
  let out := (q.drop taken).filter (gone s)
  (q.take taken ++ (q.drop taken).filter (fun x => !gone s x),
   foldOver out (fun s x =>
     match tileAt s g x.handle with
     | some t => releaseTile g x.handle (ownerUnit g u) (ownerCtx t.ctx.toNat) s
     | none => s) s)

/-- Purge both ports of a unit. -/
def purgeUnit (g u : Nat) (p : Tile → Bool) (s : State) : State :=
  let un := getUnit s g u
  let ta : Nat × Nat := match un.run with
    | some r => (r.takenA, r.takenB)
    | none => (0, 0)
  let a := purgeQueue g u ta.1 p un.qa s
  let b := purgeQueue g u ta.2 p un.qb a.2
  if a.1 = un.qa ∧ b.1 = un.qb then s else modUnit b.2 g u (fun x => { x with qa := a.1, qb := b.1 })

/-- A tile of a steering hold is released. It has not been handed off: its owner's last share is freed, another
dropped. -/
def releaseHeld (g h : Nat) (s : State) : State :=
  match getBuf s g h with
  | some b => if 2 ≤ b.share then settleShare g h (setBuf g h { b with share := b.share - 1 } s) else freeBuf g h s
  | none => s

/-- Purge the steering holds, which count as the sparse unit's input queue (R272). -/
def purgeHolds (g : Nat) (p : Tile → Bool) (s : State) : State :=
  let gr := getGroup s g
  let gone (x : QTile) : Bool := match tileAt s g x.handle with
    | some t => p t
    | none => false
  let out := (gr.steerA ++ gr.steerB).filter gone
  if out.isEmpty then s
  else
    modGroup (foldOver out (fun s x => releaseHeld g x.handle s) s) g (fun x => { x with
      steerA := x.steerA.filter (fun y => !gone y), steerB := x.steerB.filter (fun y => !gone y) })

/-- Purge tiles offered and not yet queued: from the intake head, and with `own` those of a book, whose share is
dropped. -/
def purgeOffers (own : Bool) (g : Nat) (p : Tile → Bool) (s : State) : State :=
  let gone (o : Offer) : Bool :=
    (o.fromIntake || (own && o.cmd.isNone)) && (match tileAt s g o.handle with
      | some t => p t
      | none => false)
  let out := (getGroup s g).offers.filter gone
  if out.isEmpty then s
  else
    modGroup (foldOver out (fun s o => if o.share then releaseHeld g o.handle s else freeBuf g o.handle s) s) g
      (fun gr => { gr with offers := gr.offers.filter (fun o => !out.contains o) })

/-- Every queue of a group. -/
def purgeGroup (g : Nat) (p : Tile → Bool) (s : State) : State :=
  purgeOffers false g p (purgeHolds g p (foldOver (upTo 12) (fun s u => purgeUnit g u p s) s))

/-! ### Delivery into a station queue (R143, R167, R170) -/

/-- The number of the paced step in which a tile enters the port of a key; steps at natural tempo have none. -/
def portStep (s : State) (g k : Nat) : Nat := if s.time.active then Map.getD (getGroup s g).portSteps k 0 else 0

/-- The invocation a unit's trigger makes of a tile that enters in a step (R167). -/
def triggerInvoc (s : State) (g u : Nat) (tag : BitVec 24) (step : Nat) : Invoc :=
  let r := reg s (Reg.trigger g u)
  { unit := u, prog := BitVec.ofNat 6 (fld r 53 48), replaySel := false, count := 0, tag := tag,
    context := BitVec.ofNat 15 (fld r 14 0), doneTally := BitVec.ofNat 14 (fld r 45 32), startTick := 0, reached := 0,
    triggered := true, quiet := false, atStep := step }

/-- A tile enters a port's queue in a step: it is handed off to the receiving unit, and an enabled trigger of that port
adds an invocation. -/
def deliverTile (g u : Nat) (portB : Bool) (q : QTile) (handoff : Bool) (step : Nat) (s : State) : State :=
  let s1 := if handoff then
      match getBuf s g q.handle with
      | some b => setBuf g q.handle { b with owner := ownerUnit g u } s
      | none => s
    else s
  let s2 := modUnit s1 g u (fun x => if portB then { x with qb := x.qb ++ [q] } else { x with qa := x.qa ++ [q] })
  let tr := reg s2 (Reg.trigger g u)
  if bitAt tr 63 ∧ bitAt tr 62 = portB then
    let tag : BitVec 24 := match tileAt s2 g q.handle with
      | some t => t.tag
      | none => 0
    modUnit s2 g u (fun x => { x with order := x.order ++ [triggerInvoc s2 g u tag step] })
  else s2

end Sys2Proof.Machine
end

