-- ==== Sys2Proof/Machine/Context.lean ====
section
/-! DEFINITION. Member groups, contexts, rounds, banking and tallies (chapter 10). -/

namespace Sys2Proof.Machine

open Sys2Proof

/-! ### Fields (Tables 10.6, 10.7) -/

namespace CtxArg
def resident (v : W64) : Bool := bitAt v 63
def countsFirst (v : W64) : Bool := bitAt v 62
def sink (v : W64) : Bool := bitAt v 61
def fast (v : W64) : Bool := bitAt v 60
def group (v : W64) : Nat := fld v 59 56
def entryUnit (v : W64) : Nat := fld v 55 52
def entryPortB (v : W64) : Bool := bitAt v 51
def mgrp (v : W64) : Nat := fld v 41 32
def arrivals (v : W64) : Nat := fld v 31 16
def tally (v : W64) : Nat := fld v 13 0
/-- The bits of CTX_ARG_0 that are no reserved bits. -/
def mask : W64 := maskOf 63 51 ||| maskOf 41 16 ||| maskOf 13 0
end CtxArg

def getCtx (s : State) (c : Nat) : Option Ctx := Map.get? s.ctx.table c

def setCtx (c : Nat) (x : Ctx) (s : State) : State := { s with ctx := { s.ctx with table := Map.set s.ctx.table c x } }

def modCtx (c : Nat) (f : Ctx → Ctx) (s : State) : State :=
  match getCtx s c with
  | some x => setCtx c (f x) s
  | none => s

def getMGroup (s : State) (m : Nat) : MGroup := Map.getD s.ctx.groups m MGroup.reset

def ctxMGroup (s : State) (x : Ctx) : MGroup := getMGroup s (CtxArg.mgrp x.arg0)

/-- Contexts counting their tiles in rounds (R229). -/
def hasRounds (x : Ctx) : Bool := CtxArg.arrivals x.arg0 != 0 || CtxArg.countsFirst x.arg0

/-! ### Tallies (R235-R238) -/

def getTally (s : State) (t : Nat) : TallySt := Map.getD s.ctx.tallies t TallySt.reset

def setTally (t : Nat) (x : TallySt) (s : State) : State :=
  { s with ctx := { s.ctx with tallies := if x = TallySt.reset then Map.erase s.ctx.tallies t
                                           else Map.set s.ctx.tallies t x } }

/-- A release tile to one member (Table 10.4). -/
def releaseTileTo (t : Nat) (r : W64) (epoch : BitVec 32) (seq : BitVec 32) (tick : W64) (chip : Chip) (s : State) : State :=
  let tile : Tile := { blankTile with
    hver := 1, format := 9, rows := 1, cols := 16, ctx := BitVec.ofNat 16 (fld r 63 50), epoch := epoch, seq := seq,
    tag := BitVec.ofNat 24 t, dataLen := 16, aux := bv64 (2 * 2 ^ 56), data := beBytes 8 tick.toNat ++ zeros 8 }
  buildRet 0
    { blankHdr with kind := 4, ch := BitVec.ofNat 4 (fld r 45 42), tc := 7, dst := chip,
                    src := BitVec.ofNat 16 (ownChip s), offset := BitVec.ofNat 48 (fld r 49 46), td := true,
                    tag := BitVec.ofNat 24 t, plane := fwdPlane s }
    (tileBytes true tile) s

/-- Release tiles to every member in rank order; the release sequence rises by 1 (R238). -/
def sendRelease (t : Nat) (s : State) : State :=
  let r := reg s (Reg.tallyRelease t)
  let x := getTally s t
  let tick := s.time.ftc + bv64 (fld r 31 0)
  let m := getMGroup s (fld r 41 32)
  let s1 := setTally t { x with start := tick } s
  let s2 := foldOver m.chips (fun s c => releaseTileTo t r m.epoch x.relSeq tick c s) s1
  setTally t { getTally s2 t with relSeq := x.relSeq + 1 } s2

/-- One firing (R236). -/
def fireOnce (t : Nat) (s : State) : State :=
  let c := reg s (Reg.tallyCfg t)
  let x := getTally s t
  let v := if bitAt c 63 then x.value - BitVec.ofNat 48 (fld c 47 0) else x.value
  let x1 : TallySt := { x with gen := x.gen + 1, value := v }
  let s1 := setTally t x1 s
  let s2 := if bitAt c 62 then notifyTally t x1.gen s1 else s1
  let s3 := if bitAt c 61 then sendRelease t s2 else s2
  mirrorTally t s3

/-- With REARM = 1 firing repeats while VALUE reaches THRESHOLD. -/
def fireLoop (t : Nat) : Nat → State → State
  | 0, s => s
  | n + 1, s =>
    let c := reg s (Reg.tallyCfg t)
    let s1 := fireOnce t s
    if bitAt c 63 ∧ fld c 47 0 ≤ (getTally s1 t).value.toNat then fireLoop t n s1 else s1

/-- A tally is read in table SRAM, the four words of its registers: one found uncorrectable makes it absent, as at
reset, until it is fetched (R122, R359; log entry 94). -/
def readTally (t : Nat) (s : State) : State :=
  let r := readSram 5 0xFF none (.tally t) 0 4 s
  if r.1.isEmpty then r.2
  else
    objectLost 6 t (writeSram (.tally t) 0 4
      (setTally t TallySt.reset (setReg (setReg r.2 (Reg.tallyCfg t) 0) (Reg.tallyRelease t) 0)))

/-- Add n to a tally: an addition to a partner-half tally is dropped (R350); saturation (R235); firing (R236). -/
def tallyAdd (t n : Nat) (s0 : State) : State :=
  let s := readTally t s0
  if halfRefused s 6 t then count 12 0 0 s
  else
    let x := getTally s t
    let old := x.value.toNat
    let sum := old + n
    let v := min sum (2 ^ 48 - 1)
    let s1 := setTally t { x with value := BitVec.ofNat 48 v } s
    let s2 := if sum = v then s1 else count 8 7 0 s1
    let c := reg s2 (Reg.tallyCfg t)
    let th := fld c 47 0
    if th ≠ 0 ∧ th ≤ v ∧ (bitAt c 63 ∨ old < th) then fireLoop t (v / th + 1) s2 else s2

/-- TAL_t_VALUE: sets VALUE and fires nothing (R236, Table 10.15); GEN in the same word is read and kept (R122). -/
def tallyValueWrite (t : Nat) (v : W64) : State → Status × State :=
  inHalf 6 t (fun s0 =>
    let s := readTally t s0
    (.ok, mirrorTally t (setTally t { getTally s t with value := BitVec.ofNat 48 (fld v 47 0) } s)))

/-- TAL_t_CFG (Table 10.16). -/
def tallyCfgWrite (t : Nat) (v : W64) : State → Status × State :=
  inHalf 6 t (fun s =>
    (.ok, mirrorTally t (writeSram (.tally t) 1 1 (setReg s (Reg.tallyCfg t) (v &&& (maskOf 63 61 ||| maskOf 47 0))))))

/-- TAL_t_RELEASE: LEAD is 0 or at least 1,000; the release sequence restarts at 0 (Table 10.17, R12). -/
def tallyReleaseWrite (t : Nat) (v : W64) : State → Status × State :=
  inHalf 6 t (fun s =>
    if 0 < fld v 31 0 ∧ fld v 31 0 < 1000 then (.fieldInvalid, s)
    else
      let s1 := writeSram (.tally t) 2 1 (setReg s (Reg.tallyRelease t) v)
      (.ok, mirrorTally t (setTally t { getTally s1 t with relSeq := 0 } s1)))

def execTallyValueWrite (t : TallyNo) (v : W64) (s : State) : Host.Outcome State Fault Refusal :=
  hostCmd (unfenced (tallyValueWrite t.toNat v)) s

def execTallyCfgWrite (t : TallyNo) (v : W64) (s : State) : Host.Outcome State Fault Refusal :=
  hostCmd (unfenced (tallyCfgWrite t.toNat v)) s

def execTallyReleaseWrite (t : TallyNo) (v : W64) (s : State) : Host.Outcome State Fault Refusal :=
  hostCmd (unfenced (tallyReleaseWrite t.toNat v)) s

/-- A field of a word of a layer table. -/
def ltField (s : State) (l w hi lo : Nat) : Nat := fld (reg s (Reg.layer l w)) hi lo

/-! ### Banking (R225-R227) -/

def onChipCount (s : State) : Nat := (s.ctx.table.filter (fun e => e.2.onChip)).length

/-- Slots promised to swap-ins that have no victim, or whose victim is banked. -/
def slotsPromised (s : State) : Nat :=
  (s.ctx.needs.filter (fun n => n.ctx.isSome && n.victim.isNone && !n.waits)).length

def isVictim (s : State) (c : Nat) : Bool := s.ctx.needs.any (fun n => n.victim == some c)

def isNeeded (s : State) (c : Nat) : Bool := s.ctx.needs.any (fun n => n.ctx == some c)

/-- The victim: the on-chip context with the smallest last-advance tick that is neither RESIDENT nor chosen already;
ties go to the lower number. -/
def chooseVictim (s : State) : Option Nat :=
  let c := s.ctx.table.filter (fun e => e.2.onChip && !CtxArg.resident e.2.arg0 && !isVictim s e.1)
  (c.foldl (fun (b : Option (Nat × Nat)) e =>
    match b with
    | none => some (e.1, e.2.lastAdv)
    | some x => if e.2.lastAdv < x.2 then some (e.1, e.2.lastAdv) else some x) none).map (·.1)

/-- Give the needs of one tick their victims in ascending order of the needed contexts (R225). -/
def repair (tick : Nat) (l : List Need) : List Need :=
  let same (n : Need) : Bool := n.at_ == tick && n.ctx.isSome
  let cs := sortBy (fun a b => decide (a < b)) ((l.filter same).filterMap (·.ctx))
  let vs := (l.filter same).map (fun n => (n.victim, n.waits))
  (l.filter (fun n => !same n)) ++
    (cs.zip vs).map (fun p => { at_ := tick, ctx := some p.1, victim := p.2.1, waits := p.2.2 })

/-- The state of a context chosen to be banked: Banking, unless it stays Timed out. -/
def markBanking (c : Nat) : State → State :=
  modCtx c (fun x => if x.state = .active then { x with state := .banking } else x)

/-- What a swap-in asked for now gets: a free slot, a victim, or, with every context that could go already chosen, a
place in the waiting line (R225; log entry 95). -/
def swapFor (s : State) : Option Nat × Bool :=
  if onChipCount s + slotsPromised s < 1024 then (none, false)
  else match chooseVictim s with
    | some v => (some v, false)
    | none => (none, true)

/-- A victim just chosen begins its banking. -/
def markVictim (v : Option Nat) (s : State) : State :=
  match v with
  | some c => markBanking c s
  | none => s

/-- A context in the bank is needed: its swap-in starts at once, or is paired with a victim, or waits for one (R225). -/
def needCtx (c : Nat) (s : State) : State :=
  match getCtx s c with
  | none => s
  | some x =>
    if x.onChip ∨ isNeeded s c then s
    else
      let v := swapFor s
      let n : Need := { at_ := now s, ctx := some c, victim := v.1, waits := v.2 }
      modCtx c (fun x => if x.state = .banked then { x with state := .unbanking } else x)
        (markVictim v.1 { s with ctx := { s.ctx with needs := repair (now s) (s.ctx.needs ++ [n]) } })

/-- Needs that wait are served in order once a slot or a victim can be had. -/
def fillNeeds (s : State) : State :=
  foldOver (s.ctx.needs.filter (fun n => n.waits)) (fun s n =>
    let v := swapFor s
    if v.2 then s
    else markVictim v.1 { s with ctx := { s.ctx with
      needs := s.ctx.needs.map (fun m => if m = n then { m with victim := v.1, waits := false } else m) } }) s

/-- The swaps that name a context that goes: its own need leaves its victim to be banked, and a need it was victim of
takes its slot. -/
def dropNeeds (c : Nat) (l : List Need) : List Need :=
  (l.map (fun n => if n.ctx = some c then { n with ctx := none }
                   else if n.victim = some c then { n with victim := none } else n)).filter
    (fun n => n.ctx.isSome || n.victim.isSome)

/-- A context's record goes: its slot, its bank record, its fast slot and its place in any swap (R234). -/
def eraseCtx (c : Nat) (s : State) : State :=
  fillNeeds { s with ctx := { s.ctx with table := Map.erase s.ctx.table c, needs := dropNeeds c s.ctx.needs } }

/-! ### Records in the bank and in table SRAM (R26, R122, R226, R359) -/

/-- The offset in HBM4 of a claimant's range (R294). -/
def regionBase (s : State) (claimant : Nat) : Option Nat := (claimOf s claimant).map (fun c => c.base * 2 ^ 20)

/-- Where a context's record of 4 KiB lies in the bank. -/
def bankOffset (s : State) (c : Nat) : Option Nat := (regionBase s 0x20).map (fun b => b + 4096 * c)

def ctxStateNo : CtxState → Nat
  | .active => 1
  | .banking => 2
  | .banked => 3
  | .unbanking => 4
  | .timedOut => 5

/-- The fields a record keeps (R228), as numbers. -/
def ctxFields (x : Ctx) : List Nat :=
  [x.arg0.toNat, x.timeout.toNat, x.stepInit.toNat, ctxStateNo x.state, x.step.toNat, x.lastAdv, bit1 x.roundOpen,
    x.openStamp, x.deadline, x.arrived, x.required.getD 0xFFFFFFFF] ++
    (x.expSeq.map (fun e => [e.1, e.2.toNat])).flatten ++ (x.counts.map (fun e => [e.1, e.2])).flatten ++
    (x.payloads.map (fun e => [e.1, e.2])).flatten

/-- A record's octets: its first fields in eight octets each, least significant first (R9), and then what the spec
gives no layout (log entry 44). -/
def storedRecord (n : Nat) (fixed rest : List Nat) : List Byte :=
  let b := fixed.flatMap (leBytes 8)
  (upTo n).map (fun i => if i < b.length then nthD b i 0 else Config.bankOctet rest i)

/-- A context's record of 4 KiB: its eleven fields of fixed size, and its numbers by rank. -/
def ctxRecord (x : Ctx) : List Byte := storedRecord 4096 ((ctxFields x).take 11) ((ctxFields x).drop 11)

/-- A banked context's record is written to the bank (R26, R226). -/
def storeBank (c : Nat) (s : State) : State :=
  match getCtx s c, bankOffset s c with
  | some x, some o =>
    if x.onChip then s else writeMem 5 0xFF none o (ctxRecord x) s
  | _, _ => s

/-- Is every memory arbiter free that the record's words are reached through (R127)? -/
def bankFree (s : State) (c : Nat) : Bool :=
  match bankOffset s c with
  | some o => memFree s o 4096
  | none => true

/-- A context's record was found uncorrectable: it counts as Undefined until it is fetched (R122, R359). -/
def ctxLost (c : Nat) (s : State) : State := objectLost 3 c (eraseCtx c s)

/-- A context is looked up: its on-chip record, 512 words of table SRAM, is read (R122; log entry 94). -/
def readCtx (reader unit : Nat) (tag : Option (BitVec 24)) (c : Nat) (s : State) : State :=
  match getCtx s c with
  | none => s
  | some x =>
    if ¬ x.onChip then s
    else
      let r := readSram reader unit tag (.ctx c) 0 512 s
      if r.1.isEmpty then r.2 else ctxLost c (writeSram (.ctx c) 0 512 r.2)

/-- The member group of a context is looked up in table SRAM: its epoch and its chips, four to a word (R122). -/
def readMembers (c unit : Nat) (tag : Option (BitVec 24)) (s : State) : State :=
  match getCtx s c with
  | some x =>
    let m := CtxArg.mgrp x.arg0
    readStore 5 .members m 0 (1 + ((getMGroup s m).chips.length + 3) / 4) unit tag s
  | none => s

/-- A banked context's record is read from the bank. -/
def readBank (c : Nat) (s : State) : State :=
  match getCtx s c, bankOffset s c with
  | some x, some o =>
    if x.onChip then s
    else
      let r := scanWords 5 0xFF none (wordsOf o 4096) s
      if r.1.isEmpty then r.2 else ctxLost c r.2
  | _, _ => s

/-- A context's record is looked up where it lies, in table SRAM or in the bank: a command that changes it, and a
timeout, read it first (R122). -/
def touchCtx (c : Nat) (s : State) : State := readBank c (readCtx 5 0xFF none c s)

/-- The tiles a book holds: accepted, or made of accepted ones, and not yet in a station queue (R252, R258). -/
def bookHandles (b : Book) : List Nat :=
  (b.acts ++ b.scores ++ b.gates ++ b.cActs).map (·.handle) ++ b.dispatches.filterMap (·.out)

/-- Is a context at a tile boundary: no started invocation names it and no tile of it lies between an intake and a
queue: on its way to its book or in it, offered, or in a steering hold, which is a queue under R218 and R232 only
(R226, R272)? -/
def atBoundary (s : State) (c : Nat) : Bool :=
  (upTo 16).all (fun g =>
    let gr := getGroup s g
    let own (h : Nat) : Bool := match tileAt s g h with
      | some t => t.ctx.toNat == c
      | none => false
    let books := (s.moe.books.filter (fun e => ltField s e.1 3 19 16 == g)).map (fun e => bookHandles e.2)
    let between := gr.offers.map (·.handle) ++ (gr.steerA ++ gr.steerB).map (·.handle) ++ books.flatten
    (upTo 12).all (fun u => match (getUnit s g u).run with
      | some r => r.inv.context.toNat != c
      | none => true) &&
    gr.routeWait.all (fun w => w.ctx != c) && !between.any own)

/-- The swap whose turn it is: the first need of a context (R226: one context at a time). -/
def headNeed (s : State) : Option Need := s.ctx.needs.find? (fun n => n.ctx.isSome)

/-- May a swap go on under the damper: one asked for before T_d completes, no other starts (R373)? -/
def swapGoes (s : State) (n : Need) : Bool := !s.dbg.dampered || decide (n.at_ < s.dbg.td.toNat)

/-- A victim, or a context named by BANK, reaches its tile boundary: its record, read in table SRAM, goes to the bank;
one with an uncorrectable word is lost (R122, R226, R227). -/
def bankAtBoundary (c : Nat) (s0 : State) : State :=
  match s0.ctx.needs.find? (fun n => n.victim == some c) with
  | none => s0
  | some n =>
    if ¬ swapGoes s0 n ∨ ¬ atBoundary s0 c ∨ ¬ bankFree s0 c ∨ (n.ctx.isSome ∧ headNeed s0 ≠ some n) then s0
    else
    let s := readCtx 5 0xFF none c s0
    match getCtx s c with
    | none => s
    | some x =>
      let needs := if n.ctx.isNone then removeFirst n s.ctx.needs
        else s.ctx.needs.map (fun m => if m = n then { m with victim := none } else m)
      let st : CtxState := if x.state = .timedOut then .timedOut else .banked
      fillNeeds (storeBank c (count 8 1 0
        (setCtx c { x with onChip := false, state := st } { s with ctx := { s.ctx with needs := needs } })))

def execContextBankAtBoundary (c : CtxNo) (s : State) : Host.Outcome State Fault Refusal :=
  .next (bankAtBoundary c.toNat s)

/-- The record of a needed context takes its on-chip slot (R222, R226). -/
def swapIn (c : Nat) (n : Need) (s : State) : State :=
  match getCtx s c with
  | none => s
  | some x =>
    let st : CtxState := if x.state = .timedOut then .timedOut else .active
    fillNeeds (writeSram (.ctx c) 0 512 (count 8 2 0 (setCtx c { x with onChip := true, state := st }
      { s with ctx := { s.ctx with needs := removeFirst n s.ctx.needs } })))

/-- The record of a needed context has been read from the bank (R222, R226); one with an uncorrectable word is lost
(R228). -/
def swapInComplete (c : Nat) (s : State) : State :=
  match headNeed s with
  | some n =>
    if n.ctx = some c ∧ n.victim = none ∧ ¬ n.waits ∧ swapGoes s n ∧ bankFree s c then swapIn c n (readBank c s) else s
  | none => s

def execContextSwapInComplete (c : CtxNo) (s : State) : Host.Outcome State Fault Refusal :=
  .next (swapInComplete c.toNat s)

/-! ### Timeouts (R231-R233, R259) -/

def ltValid (s : State) (l : Nat) : Bool := bitAt (reg s (Reg.layer l 0)) 63
def ltBookEn (s : State) (l : Nat) : Bool := ltValid s l && bitAt (reg s (Reg.layer l 3)) 15
def ltLedgerEn (s : State) (l : Nat) : Bool := ltValid s l && bitAt (reg s (Reg.layer l 4)) 46
def ltGateCtx (s : State) (l : Nat) : Nat := ltField s l 3 63 50
def ltReturnCtx (s : State) (l : Nat) : Nat := ltField s l 3 49 36
def ltLedgerCtx (s : State) (l : Nat) : Nat := ltField s l 4 63 50

/-- Tables that have a VALID layer table word; only they can have a book or a ledger. -/
def ltabs (s : State) : List Nat := (upTo 256).filter (fun l => ltValid s l)

/-- Every buffer of a group whose last owner is the context is freed, whatever its share count. -/
def freeOwned (c : Nat) (s : State) : State :=
  foldOver (upTo 16) (fun s g =>
    if (getGroup s g).bufs.any (fun e => e.2.owner == ownerCtx c) then
      modGroup s g (fun gr => { gr with bufs := Map.keep gr.bufs (fun _ b => b.owner != ownerCtx c) })
    else s) s

def getBook (s : State) (l : Nat) : Book := Map.getD s.moe.books l Book.reset
def setBook (l : Nat) (b : Book) (s : State) : State := { s with moe := { s.moe with books := Map.set s.moe.books l b } }
def getLedger (s : State) (l : Nat) : Ledger := Map.getD s.moe.ledgers l Ledger.reset
def setLedger (l : Nat) (b : Ledger) (s : State) : State :=
  { s with moe := { s.moe with ledgers := Map.set s.moe.ledgers l b } }

/-- Fields of a tile's routing AUX (Table 11.3). -/
def auxIsRouting (a : W64) : Bool := fld a 63 56 == 3
def auxLtab (a : W64) : Nat := fld a 55 48

/-- The buffers of one layer step at a book: the tiles it has put forward to the stations, offered or queued, and
those it holds; nothing more is delivered (R259). -/
def freeStep (l : Nat) (step : W64) (hs : List Nat) (s : State) : State :=
  let g := ltField s l 3 19 16
  let p (t : Tile) : Bool := auxIsRouting t.aux && auxLtab t.aux == l && t.step == step &&
    (t.ctx.toNat == ltGateCtx s l || t.ctx.toNat == ltReturnCtx s l)
  foldOver hs (fun s h => freeBuf g h s) (purgeOffers true g p (purgeGroup g p s))

/-- A tile that waits for the book or ledger of a context is freed (R232, R259). -/
def dropRouteWait (c : Nat) (s : State) : State :=
  foldOver (upTo 16) (fun s g => match (getGroup s g).routeWait with
    | some w => if w.ctx = c then freeBuf g w.handle (modGroup s g (fun gr => { gr with routeWait := none })) else s
    | none => s) s

/-- The step in the intake to apply phases of a book ends. -/
def endGateStep (l : Nat) (s : State) : State :=
  let b := getBook s l
  let s1 := freeStep l b.step ((b.acts ++ b.scores ++ b.gates).map (·.handle)) s
  setBook l { b with
    phase := 0, acts := [], scores := [], gates := [], statsDone := [], gated := [], choices := [], verdicts := [],
    closed := false } s1

/-- The step in the combine phase of a book ends. -/
def endCombineStep (l : Nat) (s : State) : State :=
  let b := getBook s l
  let s1 := freeStep l b.cStep (b.cActs.map (·.handle) ++ b.dispatches.filterMap (·.out)) s
  setBook l { b with combining := false, cActs := [], pairs := [], dispatches := [], cSkipped := 0, returned := false } s1

/-- A timeout of a routing context ends the layer step at its book or ledger: its tables and step counters are logged,
and its buffers freed (R259). -/
def endLayerStep (c : Nat) (s : State) : State :=
  let step (s : State) : Nat := match getCtx s c with
    | some x => x.step.toNat
    | none => 0
  let ended (g l k : Nat) (s : State) : State := logEv (codeOther 9) 2 (unitByte g 12) none [l, k] s
  foldOver (ltabs s) (fun s l =>
    let g := ltField s l 3 19 16
    let s1 := if ltBookEn s l ∧ ltGateCtx s l = c then endGateStep l (ended g l (step s) s) else s
    let s2 := if ltBookEn s1 l ∧ ltReturnCtx s1 l = c then
        endCombineStep l (ended g l (getBook s1 l).cStep.toNat s1)
      else s1
    if ltLedgerEn s2 l ∧ ltLedgerCtx s2 l = c then
      setLedger l { Ledger.reset with seqs := (getLedger s2 l).seqs } (ended (ltField s2 l 4 45 42) l (step s2) s2)
    else s2) s

/-- Invocations naming the context fail: those at a wait point, or waiting for the context to be on chip, at
once, the others when they reach one. -/
def doomRuns (c : Nat) (s : State) : State :=
  foldOver (upTo 16) (fun s g => foldOver (upTo 12) (fun s u =>
    match (getUnit s g u).run with
    | none => s
    | some r =>
      if r.inv.context.toNat = c then
        let waits : Bool := match getCtx s c with
          | some x => !x.onChip
          | none => false
        if waits ∨ atWaitPoint (getGroup s g) r then
          failRun g u (atBundle (getGroup s g) r) .contextTimedOut s
        else modUnit s g u (fun x => { x with run := some { r with doomed := true } })
      else s) s) s

/-- A HOLD naming the context completes with CONTEXT_TIMED_OUT. -/
def endHolds (c : Nat) (s : State) : State :=
  foldOver (upTo 16) (fun s g =>
    match (getGroup s g).hold with
    | some h =>
      if h.ctx = some c then
        completeSeq g 2 h.tag h.quiet .contextTimedOut 0 (modGroup s g (fun gr => { gr with hold := none }))
      else s
    | none => s) s

/-- The effects of a timeout, one act (R232). -/
def timeoutEffects (c : Nat) (s0 : State) : State :=
  let s := touchCtx c s0
  match getCtx s c with
  | none => s
  | some x =>
    let g := CtxArg.group x.arg0
    let req : Nat := match x.required with
      | some n => n
      | none => 0xFFFFFFFF
    let s1 := setCtx c { x with state := .timedOut, roundOpen := false, counts := [], payloads := [] } s
    let s2 := doomRuns c s1
    let s3 := foldOver (upTo 16) (fun s g => purgeGroup g (fun t => t.ctx.toNat == c) s) s2
    let s4 := freeOwned c (endLayerStep c (dropRouteWait c s3))
    let s5 := endHolds c s4
    let s6 := count 8 0 g (logEv (codeStatus 8 .contextTimedOut) 2 (unitByte g 12) none
      [c, x.step.toNat, x.arrived, req, x.deadline] s5)
    mirrorCtx c (storeBank c s6)

/-- Does a tile of the context stamped at or before the deadline (R39) lie between an ingress bridge and its
acceptance? -/
def tileInTransit (s : State) (x : Ctx) (c : Nat) : Bool :=
  s.sw.frames.any (fun e =>
    let h := frameHdr e.2
    let here : Bool := match e.2.dest with
      | some (.intake g) => g == CtxArg.group x.arg0
      | some _ => false
      | none => h.kind == 4 && h.td && h.dst.toNat == ownChip s && h.offset.toNat % 16 == CtxArg.group x.arg0
    let stamped : Bool := if e.2.dest.isSome then decide (e.2.stamp ≤ x.deadline)
      else e.2.early.any (fun t => decide (t ≤ x.deadline))
    here && stamped && decide (10 ≤ (framePayload e.2).length) &&
      fromBe (slice (framePayload e.2) 8 2) == c)

/-- Did the deadline pass in the Banked state, so that the round waits for its group to resume (R320)? -/
def heldOver (s : State) (x : Ctx) : Bool :=
  decide (x.deadline < s.pwr.resumedAt) && gated s (CtxArg.group x.arg0)

/-- The round's deadline passes with the round short (R231). -/
def roundTimeout (c : Nat) (s : State) : State :=
  match getCtx s c with
  | none => s
  | some x =>
    let short : Bool := match x.required with
      | some n => decide (x.arrived < n)
      | none => true
    let poolHeld : Bool := match (getGroup s (CtxArg.group x.arg0)).poolWait with
      | some t => decide (t < now s)
      | none => false
    if (x.state = .active ∨ x.state = .banked) ∧ x.roundOpen ∧ x.timeout ≠ 0 ∧ x.deadline < now s ∧ short ∧
        ¬ s.dbg.dampered ∧ powered s ∧ ¬ heldOver s x ∧ (¬ tileInTransit s x c ∨ poolHeld) then timeoutEffects c s
    else s

def execRoundTimeout (c : CtxNo) (s : State) : Host.Outcome State Fault Refusal := .next (roundTimeout c.toNat s)

/-! ### Tiles accepted into rounds (R224, R229, R230, R239) -/

/-- KIND of a collective tile's AUX (Table 10.3): a value not listed reads as 0. -/
def auxKind (t : Tile) : Nat :=
  let k := fld t.aux 63 56
  if k = 1 ∨ k = 2 then k else 0

/-- The tests of R230 on a tile of a COUNTS_FIRST context: the counter index of a discard. -/
def countsTest (s : State) (x : Ctx) (t : Tile) : Option Nat :=
  let r := t.rank.toNat
  if ¬ CtxArg.countsFirst x.arg0 ∨ auxKind t = 2 then none
  else if auxKind t = 1 then
    if Map.has x.counts r then some 4
    else if 0xFFFFFFFE < (ctxMGroup s x).chips.length + (x.counts.map (·.2)).sum + fld t.aux 31 0 then some 5
    else none
  else match Map.get? x.counts r with
    | none => some 3
    | some n => if n ≤ Map.getD x.payloads r 0 then some 5 else none

/-- One accepted tile counted in the context's rounds (R229, R230). -/
def countInRound (c : Nat) (t : Tile) (stamp : Nat) (s : State) : State :=
  match getCtx s c with
  | none => s
  | some x =>
    if ¬ hasRounds x ∨ (CtxArg.countsFirst x.arg0 ∧ auxKind t = 2) then s
    else
      let x1 : Ctx := if x.roundOpen then x else
        { x with roundOpen := true, step := x.step + 1, lastAdv := now s, openStamp := stamp,
                 deadline := if x.timeout = 0 then 0 else stamp + x.timeout.toNat, arrived := 0, counts := [],
                 payloads := [],
                 required := if CtxArg.countsFirst x.arg0 then none else some (CtxArg.arrivals x.arg0) }
      let r := t.rank.toNat
      let x2 : Ctx :=
        if ¬ CtxArg.countsFirst x.arg0 then { x1 with arrived := x1.arrived + 1 }
        else if auxKind t = 1 then
          let counts := Map.set x1.counts r (fld t.aux 31 0)
          let n := (ctxMGroup s x).chips.length
          { x1 with arrived := x1.arrived + 1, counts := counts,
                    required := if counts.length = n then some (n + (counts.map (·.2)).sum) else none }
        else { x1 with arrived := x1.arrived + 1, payloads := Map.set x1.payloads r (Map.getD x1.payloads r 0 + 1) }
      let done : Bool := match x2.required with
        | some n => decide (n ≤ x2.arrived)
        | none => false
      if done then mirrorCtx c (setCtx c { x2 with roundOpen := false, counts := [], payloads := [] } s)
      else setCtx c x2 s

/-- The effects of an acceptance on rounds and tallies: START of a release tile first (R239), the round, then the
arrival tally in the step of acceptance (R224). -/
def acceptEffects (c : Nat) (t : Tile) (stamp : Nat) (s0 : State) : State :=
  match getCtx s0 c with
  | none => s0
  | some x =>
    let tal := CtxArg.tally x.arg0
    let s := if tal < 8192 then readTally tal s0 else s0
    let s1 := if CtxArg.sink x.arg0 ∧ auxKind t = 2 ∧ tal < 8192 then
        setTally tal { getTally s tal with start := bv64 (fromBe (t.data.take 8)) } s
      else s
    let s2 := countInRound c t stamp s1
    if tal < 8192 then tallyAdd tal 1 s2 else s2

/-! ### Actions (R217-R221, R227, R234) -/

/-- The outcome of a CTX_ACTION write is kept in CTX_ACTION_STATUS. -/
def ctxAction (code c m : Nat) (r : Status × State) : Status × State :=
  (r.1, { r.2 with ctx := { r.2.ctx with
    actStatus := r.1, actCode := BitVec.ofNat 4 code, actCtx := BitVec.ofNat 14 c, actMgrp := BitVec.ofNat 10 m } })

/-- The staged membership (Table 10.12). -/
def stagedChips (s : State) (n : Nat) : List Chip :=
  (upTo n).map (fun r => BitVec.ofNat 16 (fld (reg s (Reg.mgrpStage (r / 4))) (16 * (r % 4) + 15) (16 * (r % 4))))

/-- Contexts bound to a member group. -/
def boundCtxs (s : State) (m : Nat) : List Nat :=
  (s.ctx.table.filter (fun e => CtxArg.mgrp e.2.arg0 == m)).map (·.1)

/-- A tile leaves an intake queue without being taken: a head that waited for pool space waits no more (R231). -/
def leaveQueue (g uid : Nat) (s : State) : State :=
  let q := Map.getD s.sw.intake g []
  let s1 := dropFrame uid s
  let s2 := { s1 with sw := { s1.sw with intake := Map.set s1.sw.intake g (removeFirst uid (Map.getD s1.sw.intake g [])) } }
  pfcAll (if q.head? = some uid then modGroup s2 g (fun gr => { gr with poolWait := none }) else s2)

/-- The tiles of an intake queue that a test picks are removed. -/
def purgeQueued (g : Nat) (p : Tile → Bool) (f : State → State) (s : State) : State :=
  foldOver (Map.getD s.sw.intake g []) (fun s uid =>
    match getFrame s uid with
    | some x => if p (tileOfFrame (framePayload x) (frameHdr x).ep).1 then f (leaveQueue g uid s) else s
    | none => s) s

/-- Tiles of an intake queue that a test picks are discarded and counted. -/
def purgeIntake (g : Nat) (ctr : Nat) (p : Tile → Bool) (s : State) : State := purgeQueued g p (count 7 ctr g) s

/-- Tiles of the member group's contexts that carry an older epoch, in a group's queues, counted EPOCH_STALE. -/
def purgeStale (g : Nat) (p : Tile → Bool) (s : State) : State :=
  let held (l : List QTile) (skip : Nat) : Nat := ((l.drop skip).filter (fun q => match tileAt s g q.handle with
    | some t => p t
    | none => false)).length
  let gr := getGroup s g
  let inUnits := ((upTo 12).map (fun u =>
    let un := getUnit s g u
    let ta : Nat × Nat := match un.run with
      | some r => (r.takenA, r.takenB)
      | none => (0, 0)
    held un.qa ta.1 + held un.qb ta.2)).sum
  let inOffers := (gr.offers.filter (fun o => o.fromIntake && (match tileAt s g o.handle with
    | some t => p t
    | none => false))).length
  let n := inUnits + held gr.steerA 0 + held gr.steerB 0 + inOffers
  purgeIntake g 2 p (countN 7 2 g n (purgeGroup g p s))

/-- In a new epoch the streams of the books and ledgers to each other start at 0 again (R137). -/
def restartStreams (bound : List Nat) (s : State) : State :=
  foldOver (ltabs s) (fun s l =>
    let s1 := if ltBookEn s l ∧ bound.contains (ltGateCtx s l) then setBook l { getBook s l with ledgerSeq := [] } s else s
    if ltLedgerEn s1 l ∧ bound.contains (ltLedgerCtx s1 l) then setLedger l { getLedger s1 l with seqs := [] } s1 else s1) s

/-- Apply a re-formation (R218). It is the outcome of REFORM with status OK, which its log code gives (R339; log entry
96). -/
def reformApply (m : Nat) (e : BitVec 32) (chips : List Chip) (s : State) : State :=
  let bound := boundCtxs s m
  let s1 := foldOver bound (fun s0 c =>
    let s := touchCtx c s0
    match getCtx s c with
    | some x => if x.roundOpen then timeoutEffects c s else s
    | none => s) s
  let s2 := writeSram (.store .members m) 0 (1 + (chips.length + 3) / 4)
    { s1 with ctx := { s1.ctx with groups := Map.set s1.ctx.groups m { chips := chips, epoch := e } } }
  let s3 := foldOver bound (fun s c => modCtx c (fun x =>
    { x with state := if x.state = .timedOut then (if x.onChip then .active else .banked) else x.state, expSeq := [],
             roundOpen := false }) s) s2
  let stale (t : Tile) : Bool := bound.contains t.ctx.toNat && decide (t.epoch < e)
  let s4 := restartStreams bound (foldOver (upTo 16) (fun s g => purgeStale g stale s) s3)
  let s5 := foldOver s4.ctx.tallies (fun s x =>
    if fld (reg s (Reg.tallyRelease x.1)) 41 32 = m then setTally x.1 { x.2 with relSeq := 0 } s else s) s4
  let s6 := count 8 6 0 (logEv (codeStatus 8 .ok) 0 0xFF none [m, e.toNat] s5)
  foldOver bound (fun s c => mirrorCtx c (storeBank c s)) (mirrorMgrp m s6)

/-- REFORM (R217). MCOUNT at its reset value 0 is out of its range (R12). -/
def reform (m : Nat) (e : BitVec 32) (s : State) : Status × State :=
  let n := fld (reg s (Reg.ctxArg 1)) 12 0
  ctxAction 7 0 m
    (if n = 0 ∨ 4096 < n then (.fieldInvalid, s)
     else inHalf 5 m (fun s =>
       let g := getMGroup s m
       let chips := stagedChips s n
       if e < g.epoch then (.epochStale, s)
       else if e = g.epoch then (if g.chips = chips then (.ok, s) else (.epochStale, s))
       else (.ok, reformApply m e chips s)) s)

/-- Is the entry unit in no pipeline, or the first station of its own (Table 10.1, check 5)? -/
def entryOk (s : State) (g u : Nat) : Bool :=
  match s.cord.cfg with
  | none => true
  | some c =>
    let has (p : Nat × List PipeStation) : Bool := p.2.any (fun x => x.group == g && x.unit == u)
    match c.pipelines.find? has with
    | none => true
    | some p => match p.2 with
      | x :: _ => x.group == g && x.unit == u
      | [] => true

def fastUsed (s : State) : Nat := (s.ctx.table.filter (fun e => CtxArg.fast e.2.arg0)).length
def fastLimit (s : State) : Nat := fld (reg s Reg.redCfg) 6 0
def residentCount (s : State) : Nat := (s.ctx.table.filter (fun e => CtxArg.resident e.2.arg0)).length

/-- A newly defined context (R221). -/
def newCtx (a0 : W64) (timeout : BitVec 32) (step : W64) (onChip : Bool) (s : State) : Ctx :=
  { arg0 := a0, timeout := timeout, stepInit := step, state := if onChip then .active else .banked, onChip := onChip,
    expSeq := [], step := step, lastAdv := now s, roundOpen := false, openStamp := 0, deadline := 0, arrived := 0,
    required := none, counts := [], payloads := [] }

/-- The checks of DEFINE, in order (Table 10.1; without a CTX_BANK binding the limit is 1,024, R294); none passes. -/
def defineCheck (c : Nat) (a0 : W64) (timeout : BitVec 32) (step : W64) (s : State) : Option Status :=
  match getCtx s c with
  | some x => if x.arg0 = a0 ∧ x.timeout = timeout ∧ x.stepInit = step then some .ok else some .resourceBound
  | none =>
    if (if claimHeld s 0x20 then 16384 else 1024) ≤ s.ctx.table.length then some .contextLimit
    else if ¬ unitPresent s (CtxArg.entryUnit a0) then some .stationAbsent
    else if ¬ entryOk s (CtxArg.group a0) (CtxArg.entryUnit a0) then some .resourceBound
    else if (getMGroup s (CtxArg.mgrp a0)).chips.isEmpty then some .resourceBound
    else if CtxArg.countsFirst a0 ∧ CtxArg.arrivals a0 ≠ 0 then some .resourceBound
    else if CtxArg.fast a0 ∧ fastLimit s ≤ fastUsed s then some .resourceBound
    else if CtxArg.resident a0 ∧ 768 ≤ residentCount s then some .resourceBound
    else none

/-- DEFINE (R220, R221). -/
def define (c : Nat) (s : State) : Status × State :=
  let a0 := reg s (Reg.ctxArg 0)
  let timeout : BitVec 32 := BitVec.ofNat 32 (fld (reg s (Reg.ctxArg 1)) 63 32)
  let step := reg s (Reg.ctxArg 2)
  ctxAction 1 c 0 (inHalf 3 c (fun s0 =>
    let s := touchCtx c s0
    match defineCheck c a0 timeout step s with
    | some st =>
      -- a fast definition refused for want of a slot is counted FAST_REFUSED (R201)
      let noSlot := st = .resourceBound ∧ (getCtx s c).isNone ∧ CtxArg.fast a0 ∧ fastLimit s ≤ fastUsed s ∧
        entryOk s (CtxArg.group a0) (CtxArg.entryUnit a0) ∧ ¬ (getMGroup s (CtxArg.mgrp a0)).chips.isEmpty ∧
        ¬ (CtxArg.countsFirst a0 ∧ CtxArg.arrivals a0 ≠ 0)
      (st, if noSlot then count 6 9 0 s else s)
    | none =>
      let chip := decide (onChipCount s + slotsPromised s < 1024)
      (.ok, mirrorCtx c (storeBank c (writeSram (.ctx c) 0 512 (setCtx c (newCtx a0 timeout step chip s) s))))) s)

/-- Does a started invocation, or an enabled trigger, name the context (R234)? -/
def ctxInUse (s : State) (c : Nat) : Bool :=
  (upTo 16).any (fun g => (upTo 12).any (fun u =>
    (match (getUnit s g u).run with
     | some r => r.inv.context.toNat == c
     | none => false) ||
    (bitAt (reg s (Reg.trigger g u)) 63 && fld (reg s (Reg.trigger g u)) 14 0 == c)))

/-- UNDEFINE (R234). -/
def undefine (c : Nat) (s0 : State) : Status × State :=
  let s := touchCtx c s0
  ctxAction 2 c 0
    (match getCtx s c with
     | none => (.ok, s)
     | some _ =>
       if ctxInUse s c then (.resourceBound, s)
       else
         let p (t : Tile) : Bool := t.ctx.toNat == c
         let s1 := dropRouteWait c (foldOver (upTo 16) (fun s g => purgeQueued g p id (purgeGroup g p s)) s)
         (.ok, mirrorCtx c (eraseCtx c (freeOwned c s1))))

/-- BANK (R227; not without a CTX_BANK binding, R294). -/
def bank (c : Nat) (s0 : State) : Status × State :=
  let s := touchCtx c s0
  ctxAction 3 c 0
    (if ¬ claimHeld s 0x20 then (.notBankable, s)
     else match getCtx s c with
     | none => (.ok, s)
     | some x =>
       if CtxArg.resident x.arg0 then (.notBankable, s)
       else if ¬ x.onChip ∨ isVictim s c then (.ok, s)
       else (.ok, markBanking c { s with ctx := { s.ctx with
         needs := s.ctx.needs ++ [{ at_ := now s, ctx := none, victim := some c, waits := false }] } }))

/-- UNBANK (R227). -/
def unbank (c : Nat) (s0 : State) : Status × State :=
  let s := touchCtx c s0
  ctxAction 4 c 0
    (match getCtx s c with
     | none => (.ok, s)
     | some x => if x.onChip then (.ok, s) else (.ok, needCtx c s))

/-- ADVANCE (R234). -/
def advance (c : Nat) (s0 : State) : Status × State :=
  let s := touchCtx c s0
  ctxAction 5 c 0
    (match getCtx s c with
     | none => (.resourceBound, s)
     | some x => (.ok, mirrorCtx c (storeBank c (setCtx c { x with step := x.step + 1, lastAdv := now s } s))))

/-- SETSTEP (R234); a context in Timed out must first be returned to Active by re-formation (R371). -/
def setStep (c : Nat) (s0 : State) : Status × State :=
  let s := touchCtx c s0
  ctxAction 6 c 0
    (match getCtx s c with
     | none => (.resourceBound, s)
     | some x =>
       if x.roundOpen ∨ x.state = .timedOut then (.resourceBound, s)
       else (.ok, mirrorCtx c (storeBank c (setCtx c { x with step := reg s (Reg.ctxArg 2) } s))))

/-- A write of CTX_ACTION (Table 10.9); the reset value 0 is accepted and starts nothing (R12). -/
def ctxActionWrite (v : W64) (s : State) : Status × State :=
  let c := fld v 55 42
  let a := fld v 63 60
  if a = 1 then define c s
  else if a = 2 then undefine c s
  else if a = 3 then bank c s
  else if a = 4 then unbank c s
  else if a = 5 then advance c s
  else if a = 6 then setStep c s
  else if a = 7 then reform (fld v 41 32) (BitVec.ofNat 32 (fld v 31 0)) s
  else if a = 0 then (.ok, s)
  else (.fieldInvalid, s)

def execReform (m : MgNo) (e : BitVec 32) (s : State) : Host.Outcome State Fault Refusal :=
  hostCmd (unfenced (reform m.toNat e)) s

def execDefine (c : CtxNo) (s : State) : Host.Outcome State Fault Refusal := hostCmd (unfenced (define c.toNat)) s

def execUndefine (c : CtxNo) (s : State) : Host.Outcome State Fault Refusal := hostCmd (unfenced (undefine c.toNat)) s

def execBank (c : CtxNo) (s : State) : Host.Outcome State Fault Refusal := hostCmd (unfenced (bank c.toNat)) s

def execUnbank (c : CtxNo) (s : State) : Host.Outcome State Fault Refusal := hostCmd (unfenced (unbank c.toNat)) s

def execAdvance (c : CtxNo) (s : State) : Host.Outcome State Fault Refusal := hostCmd (unfenced (advance c.toNat)) s

def execSetstep (c : CtxNo) (s : State) : Host.Outcome State Fault Refusal := hostCmd (unfenced (setStep c.toNat)) s

end Sys2Proof.Machine
end

