-- ==== Sys2Proof/Machine/Moe.lean ====
section
/-! DEFINITION. Expert routing: layer tables, placement, books and ledgers (chapter 11). -/

namespace Sys2Proof.Machine

open Sys2Proof

/-! ### Layer table fields (Table 11.1) -/

def ltClassT (s : State) (l : Nat) : Bool := bitAt (reg s (Reg.layer l 0)) 62
def ltOwnerScores (s : State) (l : Nat) : Bool := bitAt (reg s (Reg.layer l 0)) 61
def ltRenorm (s : State) (l : Nat) : Bool := bitAt (reg s (Reg.layer l 0)) 60
def ltResidual (s : State) (l : Nat) : Bool := bitAt (reg s (Reg.layer l 0)) 59
def ltPbank (s : State) (l : Nat) : Nat := ltField s l 0 58 58
def ltK (s : State) (l : Nat) : Nat := ltField s l 0 57 56
def ltSlots (s : State) (l : Nat) : Nat := ltField s l 0 55 53
def ltExperts (s : State) (l : Nat) : Nat := ltField s l 0 45 32
def ltCapacity (s : State) (l : Nat) : Nat := ltField s l 0 31 16
def ltActTiles (s : State) (l : Nat) : Nat := ltField s l 2 31 16
def ltChunk (s : State) (l : Nat) : Nat := ltField s l 2 15 0
/-- NCH and NL (R243). -/
def ltNch (s : State) (l : Nat) : Nat := ceilDiv (ltExperts s l) (max 1 (ltChunk s l))
def ltNl (s : State) (l : Nat) : Nat := ceilDiv (ltExperts s l) 1024
def ltProj (s : State) (l : Nat) : Nat := ltField s l 3 35 32
def ltSort (s : State) (l : Nat) : Nat := ltField s l 3 31 28
def ltDispatch (s : State) (l : Nat) : Nat := ltField s l 3 27 24
def ltCombine (s : State) (l : Nat) : Nat := ltField s l 3 23 20
def ltBookGroup (s : State) (l : Nat) : Nat := ltField s l 3 19 16
def ltLedgerIndex (s : State) (l : Nat) : Nat := ltField s l 4 49 47
def ltLedgerGroup (s : State) (l : Nat) : Nat := ltField s l 4 45 42
def ltBookRank (s : State) (l : Nat) : Nat := ltField s l 4 41 30
def ltDispatchCtx (s : State) (l : Nat) : Nat := ltField s l 4 29 16

/-- Chip and group of ledger j. -/
def ltLedgerAt (s : State) (l j : Nat) : Nat × Nat :=
  let v := ltField s l (5 + j / 3) 63 0 / 2 ^ (40 - 20 * (j % 3)) % 2 ^ 20
  (v / 16, v % 16)

/-! ### Placement (R246, R254) -/

/-- The entry in force; one at or above EXPERTS is never read (Table 11.2). -/
def placeEntry (s : State) (l e : Nat) : W64 :=
  if e < ltExperts s l then reg s (Reg.place (ltPbank s l) l e) else 0
def placeValid (s : State) (l e : Nat) : Bool := bitAt (placeEntry s l e) 63
def placeChip (s : State) (l e : Nat) : Nat := fld (placeEntry s l e) 47 32

/-- cap(e). -/
def capOf (s : State) (l e : Nat) : Nat :=
  if placeValid s l e then
    let c := fld (placeEntry s l e) 15 0
    if c = 0 then ltCapacity s l else c
  else 0

/-- Where an entry lies in the HBM4 region of the placement (R246): bank, table and expert in the order of its
registers. -/
def placeOffset (s : State) (b l e : Nat) : Option Nat :=
  (regionBase s 0x21).map (fun o => o + b * 2 ^ 24 + l * 2 ^ 16 + 8 * e)

/-- PLACE_CACHE: entries the cache holds (R288). -/
def cacheSize (s : State) : Nat :=
  match s.cord.cfg with
  | some c => c.placeCache
  | none => 0

/-- An entry read from the region is cached; in a full cache it takes the place of one the spec does not name, a free
value (R246; log entry 110). -/
def cacheEntry (k : Nat × Nat × Nat) (s : State) : State :=
  let n := cacheSize s
  if n = 0 then s
  else
    let s1 := writeSram (.table (Reg.place k.1 k.2.1 k.2.2)) 0 1 s
    if s1.moe.cache.length < n then { s1 with moe := { s1.moe with cache := s1.moe.cache ++ [k] } }
    else
      let f := takeFree s1
      { f.2 with moe := { f.2.moe with cache := f.2.moe.cache.eraseIdx (f.1.toNat % f.2.moe.cache.length) ++ [k] } }

/-- An entry found uncorrectable is read as VALID = 0, and is absent until fetched (R122, R246, R359; log entry 94). -/
def placeLost (k : Nat × Nat × Nat) (s : State) : State :=
  objectLost 8 (placeKey k.1 k.2.1 k.2.2) (setReg { s with moe := { s.moe with cache := s.moe.cache.filter (fun x => x != k) } }
    (Reg.place k.1 k.2.1 k.2.2) 0)

/-- One look-up of the entry in force: in the cache, or, where that misses, in the region (R246). -/
def lookPlace (g l e : Nat) (s : State) : State :=
  let k : Nat × Nat × Nat := (ltPbank s l, l, e)
  if s.moe.cache.contains k then
    let r := readSram 5 (unitByte g 12) none (.table (Reg.place k.1 l e)) 0 1 s
    if r.1.isEmpty then r.2 else placeLost k r.2
  else match placeOffset s k.1 l e with
    | none => s
    | some o =>
      let r := takeWord 5 (unitByte g 12) none o (memGrant (hearthReq g) (sitesOf o 8) s)
      if r.1 then placeLost k r.2 else cacheEntry k r.2

/-- The entries e to e + n - 1 in force are looked up. -/
def readPlaces (g l e n : Nat) (s : State) : State := foldOver (upTo n) (fun s i => lookPlace g l (e + i) s) s

/-- Are the arbiters free that a look-up of those entries waits for where it misses the cache (R127, R246)? -/
def placesFree (s : State) (l e n : Nat) : Bool :=
  (upTo n).all (fun i => s.moe.cache.contains (ltPbank s l, l, e + i) || (match placeOffset s (ltPbank s l) l (e + i) with
    | some o => memFree s o 8
    | none => true))

/-! ### Checked writes (R244, R245) -/

/-- Is a round of one of the contexts that the table names open (R245; no condition on VALID, log entry 93)? -/
def ltRoundOpen (s : State) (l : Nat) : Bool :=
  let openAt (c : Nat) : Bool := match getCtx s c with
    | some x => x.roundOpen
    | none => false
  openAt (ltGateCtx s l) || openAt (ltReturnCtx s l) || openAt (ltLedgerCtx s l)

/-- The checks of R244 on the table as it would stand, in order; 0 passes. -/
def ltCheck (s : State) (l : Nat) : Nat :=
  let present (u k : Nat) : Bool := unitPresent s u && unitKind u == k
  if ¬ (ltOwnerScores s l ∨ present (ltProj s l) 4) then 1
  else if ¬ (present (ltSort s l) 2 ∧ present (ltDispatch s l) 1 ∧ present (ltCombine s l) 0) then 2
  else
    let inRange : Bool :=
      decide (1 ≤ ltExperts s l) && decide (ltExperts s l ≤ 8192) && decide (1 ≤ ltCapacity s l) &&
      decide (1 ≤ ltActTiles s l) && ltChunk s l % 16 == 0 && decide (16 ≤ ltChunk s l) && decide (ltChunk s l ≤ 1024)
    let classOk : Bool :=
      if ltClassT s l then decide (1 ≤ ltSlots s l) && decide (ltK s l ≤ 2) && ltField s l 2 63 32 == 0
      else (ltK s l == 1 || ltK s l == 2) && ltSlots s l == ltK s l
    let arrivals : Bool := !bitAt (reg s (Reg.layer l 3)) 15 ||
      decide (ltActTiles s l * (1 + 2 * ltNch s l) + ltNl s l ≤ 65535)
    if inRange && classOk && arrivals then 0 else 3

def ltMask (w : Nat) : W64 :=
  if w = 0 then maskOf 63 53 ||| maskOf 45 0
  else if w = 3 then maskOf 63 15
  else if w = 4 then maskOf 63 16
  else if w = 5 ∨ w = 6 then maskOf 59 0
  else if w = 7 then maskOf 59 20
  else maskOf 63 0

/-- Is a word of a table within the ranges its fields state, or at their reset values: K up to 2, and SLOTS equal to K
in class I (R12, Table 11.1)? -/
def ltWordOk (w : Nat) (v : W64) : Bool :=
  if w = 0 then
    decide (fld v 57 56 ≤ 2) && decide (fld v 45 32 ≤ 8192) &&
      (bitAt v 62 || fld v 55 53 == fld v 57 56 || fld v 55 53 == 0)
  else if w = 2 then fld v 15 0 % 16 == 0 && decide (fld v 15 0 ≤ 1024)
  else true

/-- The status of a layer table or placement write is kept in MOE_WRITE_STATUS. -/
def moeStatus (l check : Nat) (st : Status) (s : State) : Status × State :=
  (st, { s with moe := { s.moe with wrStatus := st, wrCheck := BitVec.ofNat 8 check, wrLtab := BitVec.ofNat 8 l } })

/-- MOE_LAYER_l_w (R244, R245): a write that sets VALID, or to a table with VALID = 1, is checked; one that leaves it
VALID restarts the book's streams (R257). A write refused by check 1 or 2 is answered STATION_ABSENT and shown, but
not logged or counted as the commands of R4 and R5 are: it carries no command tag (DESIGN CHOICE, log entry 113).
Elsewhere a field out of its range is refused (R12). VALID cannot be set without a PLACEMENT binding (R294). -/
def layerWrite (l w : Nat) (v : W64) (s : State) : Status × State :=
  if halfRefused s 9 l ∨ (w = 0 ∧ bitAt v 63 ∧ ¬ claimHeld s 0x21) then moeStatus l 0 .resourceBound s
  else
    let s1 := setReg s (Reg.layer l w) (v &&& ltMask w)
    let checked : Bool := ltValid s l || ltValid s1 l
    let ch := if checked then ltCheck s1 l else 0
    if ¬ checked ∧ ¬ ltWordOk w v then moeStatus l 0 .fieldInvalid s
    else if ch = 1 ∨ ch = 2 then moeStatus l ch .stationAbsent s
    else if ch = 3 then moeStatus l 3 .resourceBound s
    else if ltRoundOpen s l then moeStatus l 4 .resourceBound s
    else
      let s2 := match Map.get? s1.moe.books l with
        | some b =>
          if ltValid s1 l then { s1 with moe := { s1.moe with books := Map.set s1.moe.books l { b with streams := [] } } }
          else s1
        | none => s1
      moeStatus l 0 .ok (mirrorLayer l s2)

def execLayerTableWrite (l : LtabNo) (w : BitVec 3) (v : W64) (s : State) : Host.Outcome State Fault Refusal :=
  hostCmd (unfenced (layerWrite l.toNat w.toNat v)) s

/-- An entry is written to the region and its cache in one act (R246). -/
def placeStore (b l e : Nat) (v : W64) (s : State) : State :=
  let s0 := setReg s (Reg.place b l e) v
  let s1 := if s0.moe.cache.contains (b, l, e) then writeSram (.table (Reg.place b l e)) 0 1 s0 else s0
  match placeOffset s b l e with
  | some o => writeMem 5 0xFF none o (leBytes 8 v.toNat) s1
  | none => s1

/-- MOE_PLACE_b_l_e (R245, R246; refused without a PLACEMENT binding, R294). -/
def placeWrite (b l e : Nat) (v : W64) (s : State) : Status × State :=
  if halfRefused s 8 l ∨ ¬ claimHeld s 0x21 then moeStatus l 0 .resourceBound s
  else if b = ltPbank s l ∧ ltRoundOpen s l then moeStatus l 4 .resourceBound s
  else
    let v1 := v &&& (maskOf 63 56 ||| maskOf 47 32 ||| maskOf 15 0)
    moeStatus l 0 .ok (mirrorPlace b l e v1 (placeStore b l e v1 s))

def execPlacementWrite (b : BitVec 1) (l : LtabNo) (e : BitVec 13) (v : W64) (s : State) :
    Host.Outcome State Fault Refusal :=
  hostCmd (unfenced (placeWrite b.toNat l.toNat e.toNat v)) s

/-! ### Routing tiles (R247, R248) -/

def auxRole (a : W64) : Nat := fld a 47 45
def auxExpert (a : W64) : Nat := fld a 44 32
def auxToken (a : W64) : Nat := fld a 31 0

def routingAux (l role expert low : Nat) : W64 := bv64 (3 * 2 ^ 56 + l * 2 ^ 48 + role * 2 ^ 45 + expert * 2 ^ 32 + low)

/-- The records of a tile, padding left out (R248). -/
def recordsOf (t : Tile) : List Rec :=
  ((chunksOf 4 (codesOf t)).filter (fun r => nthD r 0 0 != 0xFFFFFFFF)).map (fun r =>
    { w0 := BitVec.ofNat 32 (nthD r 0 0), w1 := BitVec.ofNat 32 (nthD r 1 0), w2 := BitVec.ofNat 32 (nthD r 2 0),
      w3 := BitVec.ofNat 32 (nthD r 3 0) })

/-- A U32 tile of codes, 16 to a row. -/
def wordTile (codes : List Nat) (ctx rank : Nat) (epoch seq : BitVec 32) (tag : BitVec 24) (step aux : W64) : Tile :=
  { withCodes blankTile 8 (ceilDiv codes.length 16) 16 codes with
    hver := 1, ctx := BitVec.ofNat 16 ctx, rank := BitVec.ofNat 12 rank, epoch := epoch, seq := seq, tag := tag,
    step := step, aux := aux }

/-- The codes of records, padded to whole rows and to one row at least. -/
def recCodes (rs : List Rec) : List Nat :=
  let c := (rs.map (fun r => [r.w0.toNat, r.w1.toNat, r.w2.toNat, r.w3.toNat])).flatten
  let n := max 16 (ceilDiv c.length 16 * 16)
  c ++ List.replicate (n - c.length) 0xFFFFFFFF

/-- The pieces of a record list, 1,024 records to a tile, one piece at least. -/
def recPieces (rs : List Rec) : List (List Rec) := if rs.isEmpty then [[]] else chunksOf 1024 rs

/-- A tile sent by a book or ledger of group g; what the spec does not state of its frame is open
(Config.routingFrame). -/
def sendRouting (g l : Nat) (chip ch plane off : Nat) (t : Tile) (s : State) : State :=
  let f := Config.routingFrame l
  buildRet g
    { blankHdr with kind := 4, ch := BitVec.ofNat 4 ch, tc := BitVec.ofNat 3 (fld f 6 4), dst := BitVec.ofNat 16 chip,
                    src := BitVec.ofNat 16 (ownChip s), offset := BitVec.ofNat 48 off, td := true, tag := t.tag,
                    plane := BitVec.ofNat 3 plane }
    (tileBytes true t) s

def routingTag (l : Nat) : BitVec 24 := BitVec.ofNat 24 (fld (Config.routingFrame l) 30 7)

/-- A counts tile's payload to a ledger: the spec states none of its octets. -/
def countsPayload (l : Nat) : List Nat :=
  let f := (Config.routingFrame (256 + l)).toNat
  (List.range 16).map (fun i => if i % 2 = 0 then f % 2 ^ 32 else f / 2 ^ 32)

/-! ### Books: acceptance (R252, R258, R259) -/

/-- What a routing context is to its table (R252). -/
inductive RouteRole where
  | gate | ret | ledger
  deriving DecidableEq, Repr

/-- The table and the part of a routing context: the table of the tile's LTAB where that names the context, else the
lowest that does. -/
def routingOf (s : State) (c ltab : Nat) : Option (Nat × RouteRole) :=
  let part (l : Nat) : Option RouteRole :=
    if ltBookEn s l ∧ ltGateCtx s l = c then some .gate
    else if ltBookEn s l ∧ ltReturnCtx s l = c then some .ret
    else if ltLedgerEn s l ∧ ltLedgerCtx s l = c then some .ledger
    else none
  match part ltab with
  | some p => some (ltab, p)
  | none => (ltabs s).findSome? (fun l => (part l).map (fun p => (l, p)))

/-- Must a tile for the context wait at the head: a step just completed is not yet taken up by its book or ledger? -/
def routingBusy (s : State) (l : Nat) : RouteRole → Bool
  | .gate => (getBook s l).closed
  | .ret => (getBook s l).returned
  | .ledger => (getLedger s l).complete

/-- Is the tile an expert's output for the table; one of another role or LTAB is not expected in RETURN_CTX (R259)? -/
def isOutput (l : Nat) (t : Tile) : Bool := auxIsRouting t.aux && auxRole t.aux == 7 && auxLtab t.aux == l

/-- An expert output that matches no dispatch tile, or a second time, or has the wrong ROWS, or not the format and
COLS of the outputs before it (R258). -/
def returnBad (s : State) (g l : Nat) (t : Tile) : Bool :=
  let b := getBook s l
  let first : Option Tile := b.dispatches.findSome? (fun d => d.out.bind (fun h => tileAt s g h))
  match b.dispatches.find? (fun d => d.token0 == auxToken t.aux && d.expert == auxExpert t.aux) with
  | none => true
  | some d =>
    d.out.isSome || d.rowNos.length != t.rows ||
      (match first with
       | some f => f.format != t.format || f.cols != t.cols
       | none => false)

/-- A tile accepted and not expected is discarded and counted; it still counts in its round (R259). -/
def routeBad (g l h : Nat) (s : State) : State := count 9 6 l (freeBuf g h s)

def setTileStep (g h : Nat) (step : W64) (s : State) : State :=
  match tileAt s g h with
  | some t => setTile g h { t with step := step } s
  | none => s

/-- Offer a tile to a port for a book; a share is taken where the book keeps the tile (R253). Its tile stamp is the
present tick (DESIGN CHOICE, log entry 119: R143 gives none). -/
def bookOffer (g u : Nat) (portB : Bool) (h : Nat) (share : Bool) (step : W64) (s : State) : State :=
  let s1 := setTileStep g h step s
  let s2 := if share then (poolShare g h s1).2 else s1
  modGroup s2 g (fun gr => { gr with offers := gr.offers ++
    [{ unit := u, portB := portB, handle := h, stamp := now s2, cmd := none, fromIntake := false, share := share, cause := none,
       dense := none }] })

/-- Is a tile of GATE_CTX expected, and as what (R252, Table 11.5)? Score tiles may come before their activation tile;
both have its ROWS and TOKEN0. -/
def gateExpects (s : State) (l : Nat) (b : Book) (t : Tile) : Bool :=
  let role := auxRole t.aux
  let r := t.rank.toNat
  let tok := auxToken t.aux
  let e := auxExpert t.aux
  let sameRows : Bool := (b.acts ++ b.scores).all (fun x => x.token0 != tok || x.rows == t.rows)
  auxIsRouting t.aux && auxLtab t.aux == l &&
    (if role = 0 then r == 0 && decide (b.phase.toNat ≤ 2) && decide (b.acts.length < ltActTiles s l) &&
        sameRows && !b.acts.any (fun a => a.token0 == tok)
     else if role = 1 ∨ role = 2 then
       (if ltOwnerScores s l then role == 2 && r == 0 else role == 1 && r == 1) && decide (b.phase.toNat ≤ 2) &&
         sameRows && decide ((b.acts.filter (fun a => a.token0 != tok)).length < ltActTiles s l) &&
         e % max 1 (ltChunk s l) == 0 && decide (e < ltExperts s l) &&
         !b.scores.any (fun x => x.token0 == tok && x.expert == e)
     else if role = 3 ∨ role = 4 then
       (role == 4) == ltClassT s l && r == 1 && b.gated.contains tok &&
         b.scores.any (fun x => x.token0 == tok && x.expert == e) &&
         !b.gates.any (fun x => x.token0 == tok && x.expert == e)
     else role == 6 && b.phase == 3 && decide (2 ≤ r) && decide (r < 2 + ltNl s l) && !Map.has b.verdicts (r - 2))

/-- The round of GATE_CTX completes: with every verdict held the step applies; a round that a discarded tile brought
to its end leaves the step without them, and the step ends (R252, R259; log entry 90). -/
def bookClose (l : Nat) (s : State) : State :=
  let b := getBook s l
  if b.phase = 3 ∧ b.verdicts.length = ltNl s l then setBook l { b with phase := 4, closed := true } s
  else endGateStep l s

/-- The book takes a tile accepted into GATE_CTX (R252). -/
def bookTake (g l h : Nat) (t : Tile) (c : Nat) (s : State) : State :=
  let b0 := getBook s l
  let x := getCtx s c
  let closed : Bool := match x with
    | some x => !x.roundOpen
    | none => true
  let step : W64 := match x with
    | some x => x.step
    | none => 0
  let b : Book := if b0.phase = 0 then
      { b0 with
        phase := 1, step := step, acts := [], scores := [], gates := [], statsDone := [], gated := [], choices := [],
        verdicts := [] }
    else b0
  let shut (s : State) : State := if closed then bookClose l s else s
  let bt : BookTile := { handle := h, expert := auxExpert t.aux, token0 := auxToken t.aux, rows := t.rows }
  shut (if ¬ gateExpects s l b t then setBook l b (routeBad g l h s)
  else
    let role := auxRole t.aux
    if role = 0 then
      let s1 := setBook l { b with acts := insertBy (fun a c => decide (a.token0 < c.token0)) bt b.acts } s
      if ltOwnerScores s l then s1 else bookOffer g (ltProj s l) false h true b.step s1
    else if role = 1 ∨ role = 2 then
      setBook l { b with scores := insertBy (fun a c => decide (a.expert < c.expert)) bt b.scores } s
    else if role = 6 then
      setBook l { b with verdicts := Map.set b.verdicts (t.rank.toNat - 2) (recordsOf t) } (freeBuf g h s)
    else setBook l { b with gates := b.gates ++ [bt] } s)

/-- The book takes a tile accepted into RETURN_CTX (R258): a counts tile of the combine phase only counts. -/
def returnTake (g l h : Nat) (t : Tile) (c : Nat) (s : State) : State :=
  let b := getBook s l
  let closed : Bool := match getCtx s c with
    | some x => !x.roundOpen
    | none => true
  let shut (b : Book) : Book := if closed ∧ auxKind t ≠ 2 then { b with returned := true } else b
  if auxKind t ≠ 0 then
    setBook l (shut b) (if auxKind t = 1 ∧ b.combining then freeBuf g h s else routeBad g l h s)
  else if ¬ isOutput l t then setBook l (shut b) (routeBad g l h s)
  else
    setBook l (shut { b with dispatches := b.dispatches.map (fun d =>
      if d.token0 = auxToken t.aux ∧ d.expert = auxExpert t.aux then { d with out := some h } else d) }) s

/-- The ledger takes a tile accepted into LEDGER_CTX (R254, R255). -/
def ledgerTake (g l h : Nat) (t : Tile) (c : Nat) (s : State) : State :=
  let d := getLedger s l
  let closed : Bool := match getCtx s c with
    | some x => !x.roundOpen
    | none => true
  let shut (d : Ledger) : Ledger := if closed ∧ auxKind t ≠ 2 then { d with complete := true } else d
  if auxKind t ≠ 0 then setLedger l (shut d) (if auxKind t = 1 then freeBuf g h s else routeBad g l h s)
  else if ¬ (auxIsRouting t.aux ∧ auxRole t.aux = 5 ∧ auxLtab t.aux = l ∧ auxExpert t.aux = 1024 * ltLedgerIndex s l) then
    setLedger l (shut d) (routeBad g l h s)
  else
    let r := t.rank.toNat
    setLedger l (shut { d with recs := Map.set d.recs r (Map.getD d.recs r [] ++ recordsOf t),
                               reply := Map.set d.reply r (fld t.aux 31 18, fld t.aux 17 14) }) (freeBuf g h s)

/-- The eight words of a layer table are read in table SRAM (R122; log entry 125). -/
def readLayer (g l : Nat) (tag : BitVec 24) (s : State) : State :=
  foldOver (upTo 8) (fun s w => (readSram 5 (unitByte g 12) (some tag) (.table (Reg.layer l w)) 0 1 s).2) s

/-- A tile accepted into a routing context goes to its book or ledger. -/
def routingTake (g l h : Nat) (p : RouteRole) (t : Tile) (c : Nat) (s0 : State) : State :=
  let s := readLayer g l t.tag s0
  match p with
  | .gate => bookTake g l h t c s
  | .ret => returnTake g l h t c s
  | .ledger => ledgerTake g l h t c s

/-! ### Statistics and the gate (R249, R252) -/

/-- The score tiles of an activation tile, EXPERT ascending. -/
def scoresOf (b : Book) (tok : Nat) : List BookTile := b.scores.filter (fun x => x.token0 == tok)

/-- The first activation tile all of whose score tiles are held and whose statistics are not done. -/
def statsReady (s : State) (l : Nat) (b : Book) : Option BookTile :=
  b.acts.find? (fun a => !b.statsDone.contains a.token0 && (scoresOf b a.token0).length == ltNch s l)

/-- M and S of a whole row of logits: with an infinite or NaN logit S is NaN, so that every p of the row is (R249). -/
def logitStats (ys : List Val) : BitVec 32 × BitVec 32 :=
  let st := rowStats ys
  if ys.all isFinite then st else (st.1, BitVec.ofNat 32 (canonNan fp32))

/-- Whole-row statistics of the experts' columns, row by row, over the chunks. -/
def wholeRowStats (s : State) (g l : Nat) (ts : List BookTile) (rows : Nat) : List (BitVec 32 × BitVec 32) :=
  (upTo rows).map (fun r =>
    logitStats ((ts.map (fun x => match tileAt s g x.handle with
      | some t => (nthD (rowVals t) r []).take (ltExperts s l - x.expert)
      | none => [])).flatten))

/-- With NCH > 1 and SOURCE = 0 every chunk's side-band becomes the whole row's M and S (R252). -/
def bookStatistics (l : Nat) (s : State) : State :=
  let b := getBook s l
  let g := ltBookGroup s l
  if ¬ ltBookEn s l ∨ ¬ groupRuns s g then s
  else match statsReady s l b with
    | none => s
    | some a =>
      let ts := scoresOf b a.token0
      let b1 : Book := { b with phase := if b.phase = 1 then 2 else b.phase, statsDone := b.statsDone ++ [a.token0] }
      let s1 := if ltNch s l > 1 ∧ ¬ ltOwnerScores s l then
          let st := wholeRowStats s g l ts a.rows
          foldOver ts (fun s x => match tileAt s g x.handle with
            | some t => if t.stats then setTile g x.handle { t with rstats := st } s else s
            | none => s) s
        else s
      setBook l b1 s1

def execBookStatistics (l : LtabNo) (s : State) : Host.Outcome State Fault Refusal := .next (bookStatistics l.toNat s)

/-- The first activation tile ready for the gate: its score tiles go to SORT_UNIT port A, EXPERT ascending. -/
def bookGateDeliver (l : Nat) (s : State) : State :=
  let b := getBook s l
  let g := ltBookGroup s l
  if ¬ ltBookEn s l ∨ ¬ groupRuns s g then s
  else match b.acts.find? (fun a => b.statsDone.contains a.token0 && !b.gated.contains a.token0) with
    | none => s
    | some a =>
      foldOver (scoresOf b a.token0) (fun s x => bookOffer g (ltSort s l) false x.handle false b.step s)
        (setBook l { b with gated := b.gated ++ [a.token0] } s)

def execBookGateDeliver (l : LtabNo) (s : State) : Host.Outcome State Fault Refusal := .next (bookGateDeliver l.toNat s)

/-! ### Claims and candidates (R251, R252, R255) -/

def keyOf (v : BitVec 32) : Nat := keyRank 5 v.toNat

/-- Tokens of the step, ascending. -/
def bookTokens (acts : List BookTile) : List Nat := (acts.map (fun a => (upTo a.rows).map (fun r => a.token0 + r))).flatten

/-- The records of every gate output of class I. -/
def gateRecords (s : State) (g : Nat) (b : Book) : List Rec :=
  (b.gates.map (fun x => match tileAt s g x.handle with
    | some t => recordsOf t
    | none => [])).flatten

/-- Final choices of a token: the K largest z, equal z to the lower expert; none for a token that skips (R251). -/
def mergeChoices (k : Nat) (rs : List Rec) : List Rec :=
  if rs.any (fun r => r.w1.getLsbD 31) then []
  else
    let better (a b : Rec) : Bool :=
      decide (keyOf b.w2 < keyOf a.w2) ||
        (keyOf a.w2 == keyOf b.w2 && decide (bits a.w1.toNat 12 0 < bits b.w1.toNat 12 0))
    ((sortBy better rs).take k).zipIdx.map (fun e =>
      { e.1 with w1 := BitVec.ofNat 32 (e.2 * 65536 + bits e.1.w1.toNat 12 0) })

/-- Probabilities of a token by expert, from the class T gate outputs. -/
def tokenProbs (s : State) (g l : Nat) (b : Book) (tok : Nat) : List (Nat × BitVec 32) :=
  (b.gates.map (fun x =>
    if x.token0 ≤ tok ∧ tok < x.token0 + x.rows then
      match tileAt s g x.handle with
      | some t => (nthD (rowCodes t) (tok - x.token0) []).zipIdx.filterMap (fun e =>
          if x.expert + e.2 < ltExperts s l then some (x.expert + e.2, BitVec.ofNat 32 e.1) else none)
      | none => []
    else [])).flatten

def isNan32 (v : BitVec 32) : Bool := isNanVal (val32 v)

/-- The order of candidates of one expert: p descending under totalOrder, equal p to the lower token. -/
def candBefore (a b : Rec) : Bool :=
  decide (keyOf b.w2 < keyOf a.w2) || (keyOf a.w2 == keyOf b.w2 && decide (a.w0 < b.w0))

/-- The book's candidates for one expert (R255). -/
def candidatesOf (s : State) (l e : Nat) (ps : List (Nat × List (Nat × BitVec 32))) : List Rec :=
  let all := ps.filterMap (fun x => (x.2.find? (fun y => y.1 == e)).map (fun y =>
    { w0 := BitVec.ofNat 32 x.1, w1 := BitVec.ofNat 32 e, w2 := y.2, w3 := 0 }))
  (sortBy candBefore all).take (capOf s l e)

/-- Does a clinker gate output, every p of which reads as NaN, make the token skip (R136, R249)? -/
def lostToken (s : State) (g : Nat) (b : Book) (tok : Nat) : Bool :=
  b.gates.any (fun x => (match tileAt s g x.handle with
    | some t => t.clinker
    | none => false) && b.acts.any (fun a => a.token0 == x.token0 && decide (a.token0 ≤ tok) && decide (tok < a.token0 + a.rows)))

/-- What the book of table l puts forward, and its number of tokens skipped for NaN. -/
def bookChoices (s : State) (l : Nat) (b : Book) : List Rec × Nat :=
  let g := ltBookGroup s l
  if ltClassT s l then
    let ps := (bookTokens b.acts).map (fun t => (t, tokenProbs s g l b t))
    let good := ps.filter (fun x => !x.2.any (fun y => isNan32 y.2))
    (((upTo (ltExperts s l)).map (fun e => candidatesOf s l e good)).flatten, ps.length - good.length)
  else
    let rs := gateRecords s g b
    let all := bookTokens b.acts
    let per := (all.filter (fun t => !lostToken s g b t)).map (fun t => rs.filter (fun r => r.w0.toNat == t))
    let good := per.filter (fun q => !q.any (fun r => r.w1.getLsbD 31))
    ((per.map (mergeChoices (ltK s l))).flatten, all.length - good.length)

/-- The records for ledger j: claims by expert, or the candidates of its range. -/
def ledgerRecords (s : State) (l j : Nat) (cs : List Rec) : List Rec :=
  if ltClassT s l then cs.filter (fun r => r.w1.toNat / 1024 == j)
  else
    let es := (cs.map (fun r => bits r.w1.toNat 12 0)).filter (fun e => e / 1024 == j)
    ((upTo 1024).map (fun i => 1024 * j + i)).filterMap (fun e =>
      let n := (es.filter (fun x => x == e)).length
      if n = 0 then none else some { w0 := BitVec.ofNat 32 e, w1 := BitVec.ofNat 32 n, w2 := 0, w3 := 0 })

/-- The epoch of a context's member group. -/
def epochOfCtx (s : State) (c : Nat) : BitVec 32 :=
  match getCtx s c with
  | some x => (ctxMGroup s x).epoch
  | none => 0

/-- A counts tile and the claim or candidate tiles to ledger j (R252). -/
def sendClaims (l : Nat) (step : W64) (cs : List Rec) (s : State) (j : Nat) : State :=
  let g := ltBookGroup s l
  let at_ := ltLedgerAt s l j
  let b := getBook s l
  let seq := Map.getD b.ledgerSeq j 0
  let pieces := recPieces (ledgerRecords s l j cs)
  let epoch := epochOfCtx s (ltGateCtx s l)
  let rank := ltBookRank s l
  let ch := fld (Config.routingFrame l) 3 0
  let plane := (fwdPlane s).toNat
  let aux5 := routingAux l 5 (1024 * j) (ltGateCtx s l * 2 ^ 18 + g * 2 ^ 14)
  let counts := wordTile (countsPayload l) (ltLedgerCtx s l) rank epoch seq (routingTag l) step
    (bv64 (2 ^ 56 + pieces.length))
  let s1 := sendRouting g l at_.1 ch plane at_.2 counts s
  let s2 := foldOver pieces.zipIdx (fun s e => sendRouting g l at_.1 ch plane at_.2
    (wordTile (recCodes e.1) (ltLedgerCtx s l) rank epoch (seq + 1 + BitVec.ofNat 32 e.2) (routingTag l) step aux5) s) s1
  setBook l { getBook s2 l with
    ledgerSeq := Map.set (getBook s2 l).ledgerSeq j (seq + 1 + BitVec.ofNat 32 pieces.length) } s2

/-- All gate outputs held: final choices or candidates, and the claims to every ledger (Table 11.5). -/
def bookClaims (l : Nat) (s : State) : State :=
  let b := getBook s l
  let g := ltBookGroup s l
  if ¬ ltBookEn s l ∨ ¬ groupRuns s g ∨ ¬ (b.phase = 1 ∨ b.phase = 2) ∨ b.acts.length ≠ ltActTiles s l ∨
      b.gates.length ≠ ltActTiles s l * ltNch s l ∨ ¬ placesFree s l 0 (ltExperts s l) then s
  else
    let s := if ltClassT s l then readPlaces g l 0 (ltExperts s l) s else s
    let r := bookChoices s l b
    let s1 := foldOver b.gates (fun s x => freeBuf g x.handle s) s
    let s2 := countN 9 0 l r.2 (setBook l { b with phase := 3, choices := r.1, gates := [], scores := [] } s1)
    foldOver (upTo (ltNl s l)) (sendClaims l b.step r.1) s2

def execBookClaims (l : LtabNo) (s : State) : Host.Outcome State Fault Refusal := .next (bookClaims l.toNat s)

/-! ### The ledger (R254, R255, R259) -/

/-- Records in order and within the ledger's range (R259). -/
def ledgerGood (s : State) (l : Nat) (rs : List Rec) : Bool :=
  let e (r : Rec) : Nat := if ltClassT s l then r.w1.toNat else r.w0.toNat
  let j := ltLedgerIndex s l
  rs.all (fun r => e r / 1024 == j && decide (e r < ltExperts s l)) &&
    (rs.zip (rs.drop 1)).all (fun p =>
      decide (e p.1 < e p.2) || (ltClassT s l && e p.1 == e p.2 && candBefore p.1 p.2))

/-- Class I: budget(r, e) of each expert the rank claimed, the ranks before it served first. -/
def budgets (s : State) (l : Nat) (d : Ledger) (r : Nat) : List Rec :=
  (Map.getD d.recs r []).map (fun x =>
    let e := x.w0.toNat
    let before := ((d.recs.filter (fun y => decide (y.1 < r))).map (fun y =>
      ((y.2.filter (fun z => z.w0.toNat == e)).map (fun z => z.w1.toNat)).sum)).sum
    { w0 := x.w0, w1 := BitVec.ofNat 32 (min x.w1.toNat (capOf s l e - before)), w2 := 0, w3 := 0 })

/-- The next number above in totalOrder. -/
def nextAbove (v : BitVec 32) : BitVec 32 :=
  if v = 0x80000000#32 then 0 else if v.getLsbD 31 then v - 1 else v + 1

/-- The cutoff p and token as rank r is to read them: those of the last candidate within the capacity, which stands in
rank `c.1`. Only where the ranks' tokens are not ordered, so that a token of r would fall on the other side of the
cutoff token than r of the cutoff's rank, is the pair another that admits by rank (R242, R255; log entry 122). -/
def cutoffFor (r : Nat) (mine : List Rec) (c : Nat × Rec) : BitVec 32 × BitVec 32 :=
  let same := mine.filter (fun x => keyOf x.w2 == keyOf c.2.w2)
  if r < c.1 ∧ same.any (fun x => decide (c.2.w0 < x.w0)) then (c.2.w2, 0xFFFFFFFF)
  else if c.1 < r ∧ same.any (fun x => decide (x.w0 ≤ c.2.w0)) then (nextAbove c.2.w2, 0xFFFFFFFF)
  else (c.2.w2, c.2.w0)

/-- Class T: the cutoff of each expert that has a candidate: p descending, then rank, then token within the rank,
which is token order where the ranks' tokens are ordered; as rank r reads it (R242, R255). -/
def cutoffs (s : State) (l : Nat) (d : Ledger) (r : Nat) : List Rec :=
  let all : List (Nat × Rec) := (d.recs.map (fun e => e.2.map (fun x => (e.1, x)))).flatten
  ((upTo 1024).map (fun i => 1024 * ltLedgerIndex s l + i)).filterMap (fun e =>
    let mine := all.filter (fun x => x.2.w1.toNat == e)
    let cs := sortBy (fun a b => decide (keyOf b.2.w2 < keyOf a.2.w2)) mine
    if cs.isEmpty then none
    else
      let cap := capOf s l e
      let full := decide (cap ≤ cs.length)
      let none_ : Nat × Rec := (r, { w0 := 0, w1 := 0, w2 := 0x7FFFFFFF#32, w3 := 0 })
      let cut := if full ∧ 1 ≤ cap then nthD cs (cap - 1) none_ else none_
      let y := cutoffFor r ((mine.filter (fun x => x.1 == r)).map (·.2)) cut
      some { w0 := BitVec.ofNat 32 e, w1 := y.1, w2 := y.2, w3 := BitVec.ofNat 32 (bit1 full) })

/-- The round of LEDGER_CTX has completed: a verdict tile to every rank, or, on a bad record, none (R254, R255, R259).
RANK is the ledger's index in the member group of GATE_CTX, where ranks 0 and 1 are the owner and the book (R252).
DEDUCED (log entry 91). -/
def ledgerVerdict (l : Nat) (s : State) : State :=
  let d := getLedger s l
  let g := ltLedgerGroup s l
  if ¬ ltLedgerEn s l ∨ ¬ d.complete ∨ ¬ groupRuns s g ∨ ¬ placesFree s l 0 (ltExperts s l) then s
  else
    let s := readPlaces g l 0 (ltExperts s l) s
    let clear (s : State) : State := setLedger l { Ledger.reset with seqs := (getLedger s l).seqs } s
    if ¬ d.recs.all (fun e => ledgerGood s l e.2) then count 9 7 l (clear s)
    else
      let chips : List Chip := match getCtx s (ltLedgerCtx s l) with
        | some x => (ctxMGroup s x).chips
        | none => []
      let epoch := epochOfCtx s (ltLedgerCtx s l)
      clear (foldOver chips.zipIdx (fun s e =>
        match Map.get? d.reply e.2 with
        | none => s
        | some (rc, rg) =>
          let rs := if ltClassT s l then cutoffs s l d e.2 else budgets s l d e.2
          let seq := Map.getD (getLedger s l).seqs e.2 0
          let t := wordTile (recCodes rs) rc (2 + ltLedgerIndex s l) epoch seq (routingTag l) 0
            (routingAux l 6 (1024 * ltLedgerIndex s l) 0)
          let s1 := sendRouting g l e.1.toNat (fld (Config.routingFrame l) 3 0) (fwdPlane s).toNat rg t s
          setLedger l { getLedger s1 l with seqs := Map.set (getLedger s1 l).seqs e.2 (seq + 1) } s1) s)

def execLedgerVerdict (l : LtabNo) (s : State) : Host.Outcome State Fault Refusal := .next (ledgerVerdict l.toNat s)

/-! ### Apply: admission, weights, dispatch (R254-R257) -/

/-- The verdict budget of expert e; an expert not listed has none. -/
def budgetOf (vs : List Rec) (e : Nat) : Nat :=
  match vs.find? (fun r => r.w0.toNat == e) with
  | some r => r.w1.toNat
  | none => 0

/-- Admit choices in order while their expert's budget lasts: the admitted, what each expert used, and the dropped. -/
def admitStep (vs : List Rec) (acc : List Rec × Map Nat × Nat) (c : Rec) : List Rec × Map Nat × Nat :=
  let e := bits c.w1.toNat 12 0
  let used : Nat := Map.getD acc.2.1 e 0
  if used < budgetOf vs e then (acc.1 ++ [c], Map.set acc.2.1 e (used + 1), acc.2.2)
  else (acc.1, acc.2.1, acc.2.2 + 1)

/-- Class I: the first budget(e) choices of e in ascending token, and the number dropped. -/
def admitI (b : Book) : List Rec × Nat :=
  let r := b.choices.foldl (admitStep (b.verdicts.map (·.2)).flatten) ([], [], 0)
  (r.1, r.2.2)

/-- Class T: the candidates the cutoffs admit. -/
def admitT (b : Book) : List Rec :=
  let vs : List Rec := (b.verdicts.map (·.2)).flatten
  b.choices.filter (fun c => match vs.find? (fun r => r.w0 == c.w1) with
    | none => false
    | some v => v.w3 == 0 || decide (keyOf v.w1 < keyOf c.w2) || (keyOf v.w1 == keyOf c.w2 && decide (c.w0 ≤ v.w2)))

/-- RENORM: each surviving weight over the rounded sum of the token's weights (R256). -/
def renorm (on : Bool) (ws : List (BitVec 32)) : List (BitVec 32) :=
  let w := rne32 (sumVals (ws.map val32))
  if on ∧ ¬ isZero (val32 w) then ws.map (fun x => BitVec.ofNat 32 (convQuot 5 (val32 x) (val32 w)).1) else ws

/-- The pairs of one token with slots and weights: class I by choice rank, class T its SLOTS largest p in ascending
expert (R255, R256); and the number dropped for SLOTS. -/
def tokenPairs (s : State) (l tok : Nat) (adm : List Rec) : List Pair × Nat :=
  let mine := adm.filter (fun r => r.w0.toNat == tok)
  if ltClassT s l then
    let better (a b : Rec) : Bool :=
      decide (keyOf b.w2 < keyOf a.w2) || (keyOf a.w2 == keyOf b.w2 && decide (a.w1 < b.w1))
    let kept := sortBy (fun a b => decide (a.w1 < b.w1)) ((sortBy better mine).take (ltSlots s l))
    let ws := renorm (ltRenorm s l) (kept.map (·.w2))
    ((kept.zip ws).zipIdx.map (fun e => { token := tok, expert := e.1.1.w1.toNat, slot := e.2, w := e.1.2 }),
     mine.length - kept.length)
  else
    let ws := renorm (ltRenorm s l) (mine.map (·.w3))
    ((mine.zip ws).map (fun e =>
      { token := tok, expert := bits e.1.w1.toNat 12 0, slot := bits e.1.w1.toNat 17 16, w := e.2 }), 0)

/-- The dispatch tiles: for each activation tile and each expert, the admitted rows (R257). -/
def dispatchesOf (s : State) (l : Nat) (acts : List BookTile) (ps : List Pair) : List Dispatch :=
  (acts.map (fun a => (upTo (ltExperts s l)).filterMap (fun e =>
    let rows := (upTo a.rows).filter (fun r => ps.any (fun p => p.token == a.token0 + r && p.expert == e))
    if rows.isEmpty then none else some { token0 := a.token0, expert := e, rowNos := rows, out := none }))).flatten

/-- The chips that hold a valid expert of the bank in force, in the order of their first expert. -/
def expertChips (s : State) (l : Nat) : List Nat :=
  (upTo (ltExperts s l)).foldl (fun acc e =>
    if placeValid s l e ∧ ¬ acc.contains (placeChip s l e) then acc ++ [placeChip s l e] else acc) []

/-- A U32 tile of records: 16 codes to a row, and wider rows where 256 rows of 16 would not hold them all (log entry
92). -/
def countsTile (codes : List Nat) (ctx rank : Nat) (epoch seq : BitVec 32) (tag : BitVec 24) (step aux : W64) : Tile :=
  let t := wordTile codes ctx rank epoch seq tag step aux
  if codes.length ≤ 4096 then t
  else
    let cols := 16 * min 64 (ceilDiv codes.length 4096)
    let n := ceilDiv codes.length cols * cols
    withCodes t 8 (ceilDiv codes.length cols) cols (codes ++ List.replicate (n - codes.length) 0xFFFFFFFF)

/-- The counts tile to one chip (R257). -/
def sendCounts (l : Nat) (step : W64) (ds : List Dispatch) (s : State) (chip : Nat) : State :=
  let g := ltBookGroup s l
  let es := (upTo (ltExperts s l)).filter (fun e => placeValid s l e && placeChip s l e == chip)
  let mine := ds.filter (fun d => es.contains d.expert)
  let rs := es.map (fun e =>
    let de := ds.filter (fun d => d.expert == e)
    { w0 := BitVec.ofNat 32 e, w1 := BitVec.ofNat 32 de.length,
      w2 := BitVec.ofNat 32 ((de.map (fun d => d.rowNos.length)).sum), w3 := 0 : Rec })
  let b := getBook s l
  let seq := Map.getD b.streams chip 0
  let p := placeEntry s l (nthD es 0 0)
  let t := countsTile (recCodes rs) (ltDispatchCtx s l) (ltBookRank s l) (epochOfCtx s (ltGateCtx s l)) seq
    (routingTag l) step (bv64 (2 ^ 56 + mine.length))
  let s1 := sendRouting g l chip (fld p 59 56) (fld p 62 60) (fld (Config.routingFrame l) 34 31) t s
  setBook l { getBook s1 l with streams := Map.set (getBook s1 l).streams chip (seq + 1) } s1

/-- Deliver one dispatch: a share of the activation tile to port A, an index tile to port B; none when no buffer is
free. -/
def deliverDispatch (l : Nat) (step : W64) (acts : List BookTile) (acc : Option State) (d : Dispatch) : Option State :=
  acc.bind (fun s =>
    let g := ltBookGroup s l
    let n := ceilDiv d.rowNos.length 16 * 16
    let codes := d.rowNos ++ List.replicate (n - d.rowNos.length) 0xFFFFFFFF
    let c := ltGateCtx s l
    let t := wordTile codes c 1 (epochOfCtx s c) 0 (routingTag l) step (routingAux l 7 d.expert d.token0)
    match poolAlloc g (64 + payloadLen t) (ownerCtx c) s, acts.find? (fun a => a.token0 == d.token0) with
    | (some h, s1), some a =>
      some (bookOffer g (ltDispatch s l) true h false step
        (bookOffer g (ltDispatch s l) false a.handle true step (setTile g h t s1)))
    | _, _ => none)

/-- All verdicts held and the round complete: admit, weigh and dispatch. With no buffer free for an index tile, or
with the step before still in its combine phase, the book waits (Table 11.5). -/
def bookApply (l : Nat) (s : State) : State :=
  let b := getBook s l
  let g := ltBookGroup s l
  if ¬ ltBookEn s l ∨ ¬ groupRuns s g ∨ b.phase ≠ 4 ∨ ¬ b.closed ∨ b.combining ∨ ¬ placesFree s l 0 (ltExperts s l) then s
  else
    let s := readPlaces g l 0 (ltExperts s l) s
    let adm : List Rec × Nat := if ltClassT s l then (admitT b, 0) else admitI b
    let per := (bookTokens b.acts).map (fun t => tokenPairs s l t adm.1)
    let ps := (per.map (·.1)).flatten
    let skipped := (per.filter (fun x => x.1.isEmpty)).length
    let ds := dispatchesOf s l b.acts ps
    let b1 : Book :=
      { b with
        phase := 0, closed := false, combining := true, cStep := b.step, cActs := b.acts, pairs := ps, dispatches := ds,
        cSkipped := BitVec.ofNat 32 skipped, returned := false, acts := [], choices := [], verdicts := [],
        statsDone := [], gated := [] }
    let s1 := countN 9 1 l adm.2 (countN 9 2 l ((per.map (·.2)).sum) (countN 9 3 l skipped (setBook l b1 s)))
    let s2 := foldOver (expertChips s l) (sendCounts l b.step ds) s1
    match ds.foldl (deliverDispatch l b.step b.acts) (some s2) with
    | some s3 => s3
    | none => s

def execBookApply (l : LtabNo) (s : State) : Host.Outcome State Fault Refusal := .next (bookApply l.toNat s)

/-! ### Combine (R258) -/

/-- Row i of an output tile, as codes of its format. -/
def outRow (t : Tile) (i : Nat) : List Nat :=
  match operandRows t with
  | .ok rows => nthD rows i []
  | .error _ => List.replicate t.cols 0

/-- Slot j's operand for an activation tile: each token's slot-j output row at the token's row, +0 elsewhere. -/
def operandTile (s : State) (g l : Nat) (b : Book) (a : BookTile) (j : Nat) : Tile :=
  let outOf (d : Dispatch) : Option Tile := d.out.bind (fun h => tileAt s g h)
  let like : Tile := match b.dispatches.findSome? outOf with
    | some t => t
    | none => match tileAt s g a.handle with
      | some t => t
      | none => blankTile
  let src (r : Nat) : Option (Tile × Nat) :=
    match b.pairs.find? (fun p => p.token == a.token0 + r && p.slot == j) with
    | none => none
    | some p => match b.dispatches.find? (fun d => d.token0 == a.token0 && d.expert == p.expert) with
      | none => none
      | some d => match outOf d, d.rowNos.idxOf? r with
        | some t, some i => some (t, i)
        | _, _ => none
  let rows := (upTo a.rows).map (fun r => match src r with
    | some (t, i) => outRow t i
    | none => List.replicate like.cols 0)
  let scales := (upTo a.rows).map (fun r => match src r with
    | some (t, i) => if t.scaled then nthD t.scales i 0x3F800000#32 else 0x3F800000#32
    | none => 0x3F800000#32)
  let t0 := withCodes { like with clinker := false, fallback := false, stats := false, rstats := [], last := false }
    like.format.toNat a.rows like.cols rows.flatten
  let t1 : Tile := { t0 with
    scales := if like.scaled then scales else [], step := b.cStep, seq := BitVec.ofNat 32 j,
    aux := routingAux l 7 0 a.token0 }
  if (upTo a.rows).any (fun r => match src r with
    | some (t, _) => t.clinker
    | none => false) then makeClinker t1 else t1

/-- The weight tile of an activation tile: row j holds the slot-j weights. -/
def weightTile (s : State) (l : Nat) (b : Book) (a : BookTile) : Tile :=
  let cols := 16 * ceilDiv a.rows 16
  let row (j : Nat) : List Nat := (upTo cols).map (fun r =>
    match b.pairs.find? (fun p => p.token == a.token0 + r && p.slot == j && decide (r < a.rows)) with
    | some p => p.w.toNat
    | none => 0)
  let c := ltGateCtx s l
  { withCodes blankTile 5 (ltSlots s l) cols ((upTo (ltSlots s l)).map row).flatten with
    hver := 1, ctx := BitVec.ofNat 16 c, rank := 1, epoch := epochOfCtx s c, tag := routingTag l, step := b.cStep,
    aux := routingAux l 7 0 a.token0 }

/-- Put a tile of the book's into a new buffer and offer it; none when no buffer is free. -/
def offerNew (g u : Nat) (portB : Bool) (c : Nat) (t : Tile) (step : W64) (acc : Option State) : Option State :=
  acc.bind (fun s => match poolAlloc g (64 + payloadLen t) (ownerCtx c) s with
    | (some h, s1) => some (bookOffer g u portB h false step (setTile g h t s1))
    | _ => none)

/-- The operands of one activation tile to COMBINE_UNIT. -/
def combineOne (l : Nat) (b : Book) (acc : Option State) (a : BookTile) : Option State :=
  acc.bind (fun s =>
    let g := ltBookGroup s l
    let u := ltCombine s l
    let c := ltReturnCtx s l
    let s1 := if ltResidual s l then bookOffer g u false a.handle true b.cStep s else s
    let s2 := (upTo (ltSlots s l)).foldl (fun acc j => offerNew g u false c (operandTile s g l b a j) b.cStep acc) (some s1)
    offerNew g u true c (weightTile s l b a) b.cStep s2)

/-- The book is done with an activation tile: it is freed now, or when the units have dropped their shares. -/
def bookRelease (g l h : Nat) (s : State) : State :=
  match getBuf s g h with
  | some b =>
    if b.share ≤ 1 then freeBuf g h s
    else setBook l { getBook s l with done := (getBook s l).done ++ [h] } s
  | none => s

/-- The round of RETURN_CTX has completed: combine operands and weight tiles are delivered and the step ends. -/
def bookCombine (l : Nat) (s : State) : State :=
  let b := getBook s l
  let g := ltBookGroup s l
  if ¬ ltBookEn s l ∨ ¬ groupRuns s g ∨ ¬ b.combining ∨ ¬ b.returned then s
  else match b.cActs.foldl (combineOne l b) (some s) with
    | none => s
    | some s1 =>
      let s2 := foldOver b.dispatches (fun s d => match d.out with
        | some h => freeBuf g h s
        | none => s) s1
      let b2 : Book :=
        { getBook s2 l with
          combining := false, returned := false, cActs := [], pairs := [], dispatches := [], skipped := b.cSkipped }
      foldOver b.cActs (fun s a => bookRelease g l a.handle s) (setBook l b2 s2)

def execBookCombine (l : LtabNo) (s : State) : Host.Outcome State Fault Refusal := .next (bookCombine l.toNat s)

end Sys2Proof.Machine
end

