-- ==== Sys2Proof/Machine/Hearth.lean ====
section
/-! DEFINITION. The group sequencer: intake, station queues, steering, commands and the spare reduce station
(chapters 6, 12, 14). -/

namespace Sys2Proof.Machine

open Sys2Proof

/-! ### Pipelines (R149) -/

/-- The pipeline of a unit, from the cord. -/
def pipelineOf (s : State) (g u : Nat) : Option (Nat × List PipeStation) :=
  match s.cord.cfg with
  | none => none
  | some c => c.pipelines.find? (fun p => p.2.any (fun x => x.group == g && x.unit == u))

/-- A wide configuration: stations in more than one group. -/
def isWide (s : State) (g u : Nat) : Bool :=
  match pipelineOf s g u with
  | some p => p.2.any (fun x => x.group != g)
  | none => false

/-- The station after a unit in its pipeline. -/
def downstream (s : State) (g u : Nat) : Option PipeStation :=
  match pipelineOf s g u with
  | none => none
  | some p => match (p.2.dropWhile (fun x => !(x.group == g && x.unit == u))).drop 1 with
    | x :: _ => some x
    | [] => none

/-- The unit of the same group before a unit in its pipeline. -/
def upstreamUnit (s : State) (g u : Nat) : Option Nat :=
  (upTo 12).find? (fun v => match downstream s g v with
    | some d => d.group == g && d.unit == u
    | none => false)

/-! ### The intake (R138, R139) -/

/-- A sequencer that stalls on a full queue takes neither commands nor intake tiles (Table 6.5). -/
def seqStalled (gr : GroupSt) : Bool := gr.offers.any (fun o => o.cmd.isSome)

/-- Is a cord LOAD running (R298)? -/
def cordRunning (s : State) : Bool :=
  match s.cord.action with
  | .idle => false
  | .applying _ _ => true

/-- The frame leaves the intake and its cells return; paused priorities are judged again (R22, R73). -/
def leaveIntake (uid : Nat) (g : Nat) (s : State) : State :=
  pfcAll (modGroup (dropFrame uid s) g (fun gr => { gr with poolWait := none }))

/-- A tile discarded at the intake head and counted (R230, R258). -/
def intakeDrop (g blk ctr k : Nat) (uid : Nat) (s : State) : State :=
  leaveIntake uid g (count blk ctr k s)

/-- A tile discarded at the intake head, counted, and logged with its TAG (R83, R135, R138). -/
def intakeDiscard (g blk ctr k : Nat) (uid : Nat) (tag : BitVec 24) (s : State) : State :=
  intakeDrop g blk ctr k uid (logEv (codeCounter blk ctr) 0 (unitByte g 12) (some tag) [] s)

/-- The head waits for pool space, its numbers noted (R138, R139). -/
def intakeWait (g : Nat) (s : State) : State :=
  count 7 5 g (modGroup s g (fun gr => { gr with poolWait := some (gr.poolWait.getD (now s)) }))

/-- The tile as it is stored: through the compressor, clinker where a word of it in the output buffer is
uncorrectable, whose address is recorded (R122, R136, R265). A tile made clinker here or by OPERAND, no station's
output, has the sequencer, 12, as UNIT in its record (DESIGN CHOICE, log entry 121). -/
def intakeStore (g h uid : Nat) (f : Frame) (t : Tile) (s : State) : Tile × State :=
  let x := readSram 2 (unitByte g 12) (some t.tag) (.frame uid) 0 ((f.raw.length + 7) / 8) s
  match x.1, t.clinker with
  | a :: _, false =>
    let c := makeClinker { t with md := zeros t.md.length }
    (c, setTile g h c (logClinker g 12 t.tag 2 a x.2))
  | _, _ =>
    let r := compressTile g 12 t x.2
    (r.1, setTile g h r.1 r.2)

/-- The tile taken for a book or ledger goes to it, once it has taken up the step that was completed before (R252; log
entry 120). -/
def routeStored (g : Nat) (s : State) : State :=
  match (getGroup s g).routeWait with
  | none => s
  | some w =>
    let s1 := modGroup s g (fun gr => { gr with routeWait := none })
    match tileAt s g w.handle, routingOf s w.ctx w.ltab with
    | some t, some (l, p) => if routingBusy s l p then s else routingTake g l w.handle p t w.ctx s1
    | some _, none => freeBuf g w.handle s1
    | none, _ => s1

/-- An accepted tile: buffer, compressor, rounds and tally, then the entry port (for a tile of a link
between groups, the link's port, R150), or its book or ledger (R138, R252). -/
def intakeAccept (g c : Nat) (x : Ctx) (uid : Nat) (f : Frame) (t : Tile) (s : State) : State :=
  match poolAlloc g (64 + payloadLen t) (ownerCtx c) s with
  | (none, _) => intakeWait g s
  | (some h, s1) =>
    let s3 := leaveIntake uid g (intakeStore g h uid f t s1).2
    let s4 := acceptEffects c t f.stamp s3
    match routingOf s4 c (auxLtab t.aux) with
    | some (l, _) => routeStored g (modGroup s4 g (fun gr => { gr with routeWait := some { handle := h, ltab := l, ctx := c } }))
    | none =>
      let dest : Nat × Bool := f.link.getD (CtxArg.entryUnit x.arg0, CtxArg.entryPortB x.arg0)
      modGroup s4 g (fun gr => { gr with offers := gr.offers ++
        [{ unit := dest.1, portB := dest.2, handle := h, stamp := f.stamp, cmd := none, fromIntake := true,
           share := false, cause := none, dense := none }] })

/-- The tests of R83, R138, R223, R230 and R258 on the head tile of Gn, in order, and its acceptance. The d missing
numbers and the expected one are noted once, before the allocation, which a waiting head tries again (R138). -/
def intakeHead (g uid : Nat) (f : Frame) (s0 : State) : State :=
  let r := tileOfFrame (framePayload f) (frameHdr f).ep
  let t := r.1
  let c := t.ctx.toNat
  let s := if pcrcGood f ∧ r.2 then readMembers c (unitByte g 12) (some t.tag) (readCtx 2 (unitByte g 12) (some t.tag) c s0)
    else s0
  let discard (ctr : Nat) (s : State) : State := intakeDiscard g 7 ctr g uid t.tag s
  if ¬ pcrcGood f then intakeDiscard g 3 6 (srcPg f.ingress) uid (frameHdr f).tag s
  else if ¬ r.2 then discard 0 s
  else match getCtx s c with
    | none => discard 1 s
    | some x =>
      if CtxArg.group x.arg0 ≠ g ∨ (ctxMGroup s x).chips.length ≤ t.rank.toNat then discard 1 s
      else if ¬ x.onChip then count 7 5 g (needCtx c s)
      else if t.epoch ≠ (ctxMGroup s x).epoch then discard 2 s
      else if x.state = .timedOut then discard 3 s
      else if (getGroup s g).poolWait.isSome then intakeAccept g c x uid f t s
      else
        let d := (t.seq - Map.getD x.expSeq t.rank.toNat 0).toNat
        if 2 ^ 31 ≤ d then discard 3 s
        else
          let seen : State := countN 7 4 g d
            (modCtx c (fun x => { x with expSeq := Map.set x.expSeq t.rank.toNat (t.seq + 1) }) s)
          match countsTest s x t, routingOf s c (auxLtab t.aux) with
          | some ctr, _ => intakeDrop g 8 ctr g uid seen
          | none, some (l, p) =>
            if p = .ret ∧ auxKind t = 0 ∧ isOutput l t ∧ returnBad s g l t then intakeDrop g 9 5 l uid seen
            else intakeAccept g c x uid f t seen
          | none, none => intakeAccept g c x uid f t seen

/-- The group sequencer takes the head of its intake (R138): one tile at a time, while the one before is not yet
queued, or not yet with its book or ledger, the next waits (R139). Intake is off while no cord is loaded (R299). -/
def intakeTake (g : Nat) (s : State) : State :=
  let gr := getGroup s g
  if ¬ groupRuns s g ∨ s.twn.fenced ∨ s.cord.state ≠ 3 ∨ seqStalled gr ∨ gr.offers.any (fun o => o.fromIntake) ∨
      ¬ intakeStepFree s g then s
  else if gr.routeWait.isSome then routeStored g s
  else match Map.getD s.sw.intake g [] with
    | [] => s
    | uid :: _ => match getFrame s uid with
      | none => s
      | some f => if f.ended then intakeHead g uid f (takeIntakeStep g s) else s

def execSequencerIntakeTake (g : Grp) (s : State) : Host.Outcome State Fault Refusal :=
  .next (intakeTurn g.toNat (intakeTake g.toNat) s)

/-! ### Station queues (R143, R144, R151) -/

def portQueue (un : UnitSt) (portB : Bool) : List QTile := if portB then un.qb else un.qa

/-- Has a port's queue room (R151)? Every unit has both queues, also the sort unit a port B that Table 6.3 calls unused
(DESIGN CHOICE, log entry 119). -/
def hasRoom (s : State) (g u : Nat) (portB : Bool) : Bool := decide ((portQueue (getUnit s g u) portB).length < 8)

/-- The number of the paced step in which a tile that enters the port of a key now does so; 0 at natural tempo. -/
def nextPortStep (s : State) (g k : Nat) : Nat := portStep (takePortStep g k s) g k

def portFrozen (s : State) (g u : Nat) : Bool := bitAt (reg s (Reg.stnArb g)) (16 + u) && unitPresent s u

/-- The counts and records of a command's tile that wait until it is queued: UPSIZE, a tile read as clinker, and the
compressor's outcome (R118, R122, R151, R265). -/
def settleOffer (g : Nat) (o : Offer) (s : State) : State :=
  match o.cmd, tileAt s g o.handle with
  | some _, some t =>
    let s1 := countUpsize g (64 + payloadLen t) o.handle s
    let s2 := match o.cause with
      | some (k, a) => logClinker g 12 t.tag k a s1
      | none => s1
    noteDense g 12 t.tag o.dense s2
  | _, _ => s

/-- An offered tile has been queued: a command's OPERAND completes (R310). -/
def offerQueued (g : Nat) (o : Offer) (s : State) : State :=
  let s1 := modGroup s g (fun gr => { gr with offers := removeFirst o gr.offers })
  match o.cmd with
  | some (tag, quiet) => completeSeq g 4 tag quiet .ok 0 s1
  | none => s1

/-- A command's push into a full queue of a wide configuration fails with no side effects (Table 6.5). -/
def offerFails (g : Nat) (o : Offer) (tag : BitVec 24) (quiet : Bool) (s : State) : State :=
  let s1 := freeBuf g o.handle (modGroup s g (fun gr => { gr with offers := removeFirst o gr.offers }))
  completeSeq g 4 tag quiet .queueFull 0
    (logEv (codeStatus 7 .queueFull) 1 (unitByte g o.unit) (some tag) [] (count 7 7 g s1))

/-- Is a unit's run waiting to commit tiles to this port that has room for them, and with what stamp (requester 1 of
Table 6.4)? -/
def upstreamWaits (s : State) (g u : Nat) (portB : Bool) : Option Nat :=
  match upstreamUnit s g u with
  | none => none
  | some v => match (getUnit s g v).run, downstream s g v with
    | some r, some d =>
      let n := (nextsOf r).length
      if r.ended ∧ d.portB = portB ∧ 0 < n ∧ (portQueue (getUnit s g u) portB).length + n ≤ 8 then
        some (r.doneAt.getD (now s))
      else none
    | _, _ => none

/-- Steering takes the sequencer's deliveries to the sparse unit (R272). -/
def steerOn (s : State) (g : Nat) : Bool := bitAt (reg s (Reg.steer g)) 63

/-- The tile goes into the port's steering hold, while that holds fewer than 8; a full one is as a full queue (R272). -/
def steerHold (g : Nat) (o : Offer) (s : State) : State :=
  let gr := getGroup s g
  let q : QTile := { handle := o.handle, stamp := o.stamp }
  if 8 ≤ (if o.portB then gr.steerB else gr.steerA).length then
    match o.cmd with
    | some (tag, quiet) => if isWide s g 11 then offerFails g o tag quiet s else s
    | none => if o.fromIntake then count 7 5 g s else s
  else
    offerQueued g o (modGroup (settleOffer g o s) g (fun gr =>
      if o.portB then { gr with steerB := gr.steerB ++ [q] } else { gr with steerA := gr.steerA ++ [q] }))

/-- The key of a unit's port among those of its group. -/
def portKey (u : Nat) (portB : Bool) : Nat := 2 * u + bit1 portB

def setGrant (g u : Nat) (portB : Bool) (r : Option Nat) (s : State) : State :=
  modGroup s g (fun gr => { gr with portGrant := match r with
    | some x => Map.set gr.portGrant (portKey u portB) x
    | none => Map.erase gr.portGrant (portKey u portB) })

/-- One arbitration round of an input port between the sequencer's first offer and the upstream unit's commit (R144);
the winner's number, and a grant for it to take up (R102). A grant still to be taken up stands; one whose requester has
withdrawn leaves the port idle for this step. -/
def portArbitrate (g u : Nat) (portB : Bool) (offer up : Option Nat) (s : State) : Option Nat × State :=
  let un := getUnit s g u
  let there (r : Nat) : Bool := if r = 0 then offer.isSome else up.isSome
  match Map.get? (getGroup s g).portGrant (portKey u portB) with
  | some r => if there r then (some r, s) else (none, setGrant g u portB none s)
  | none =>
    let pref (r : Nat) : Nat := if r = 0 then offer.getD 0 else up.getD 0
    let limit := max 1 (fld (reg s (Reg.stnArb g)) 7 0)
    let w := arbRound limit pref ((upTo 2).filter there) (if portB then un.arbB else un.arbA)
    (w.1, setGrant g u portB w.1
      (modUnit s g u (fun x => if portB then { x with arbB := w.2 } else { x with arbA := w.2 })))

/-- The sequencer's first offer to a port, in its turn: the tile enters the queue (R144). -/
def portRound (g u : Nat) (portB : Bool) (o : Offer) (s : State) : State :=
  let w := portArbitrate g u portB (some o.stamp) (upstreamWaits s g u portB) s
  if w.1 = some 0 then
    offerQueued g o (takePortStep g (portKey u portB)
      (deliverTile g u portB { handle := o.handle, stamp := o.stamp } (!o.share) (nextPortStep w.2 g (portKey u portB))
        (settleOffer g o (setGrant g u portB none w.2))))
  else w.2

/-- May the requester enter the port: it is not frozen, or its grant was given before (R102, R144)? -/
def portOpen (s : State) (g u : Nat) (portB : Bool) (r : Nat) : Bool :=
  !portFrozen s g u || Map.get? (getGroup s g).portGrant (portKey u portB) == some r

/-- A tile is pushed into a station's input queue (Table 6.5), one a group step (R34). A step in which the tile at the
intake head waits for room counts as waiting (R139, R155). -/
def stationDeliver (g u : Nat) (portB : Bool) (s : State) : State :=
  if ¬ groupRuns s g ∨ ¬ unitPresent s u ∨ ¬ portOpen s g u portB 0 ∨ ¬ portStepFree s g (portKey u portB) then s
  else match (getGroup s g).offers.find? (fun o => o.unit == u && o.portB == portB) with
    | none => s
    | some o =>
      if u = 11 ∧ steerOn s g then steerHold g o (takePortStep g (portKey u portB) s)
      else if hasRoom s g u portB then portRound g u portB o s
      else
        let s1 := takePortStep g (portKey u portB) s
        match o.cmd with
        | some (tag, quiet) => if isWide s g u then offerFails g o tag quiet s1 else s1
        | none => if o.fromIntake then count 7 5 g s1 else s1

def execStationQueueDeliver (g : Grp) (u : UnitNo) (portB : Bool) (s : State) : Host.Outcome State Fault Refusal :=
  if u.toNat < 12 then .next (stationDeliver g.toNat u.toNat portB s) else .refused .illFormedCommand

/-- A complete pair of the steering holds is delivered whole: to the sparse unit where the port-A tile is in a sparse
layout, otherwise to the partner (R272). -/
def steerPair (g : Nat) (s : State) : State :=
  let gr := getGroup s g
  match gr.steerA, gr.steerB with
  | a :: as_, b :: bs =>
    let sparse : Bool := match tileAt s g a.handle with
      | some t => t.layout == 1 || t.layout == 2
      | none => false
    let u := if sparse then 11 else fld (reg s (Reg.steer g)) 3 0
    if ¬ groupRuns s g ∨ portFrozen s g u ∨ ¬ hasRoom s g u false ∨ ¬ hasRoom s g u true ∨ ¬ portStepFree s g 32 then s
    else
      let s1 := modGroup (takePortStep g 32 s) g (fun gr => { gr with steerA := as_, steerB := bs, pairs := gr.pairs + 1 })
      let n := portStep s1 g 32
      let s2 := deliverTile g u true b true n (deliverTile g u false a true n s1)
      if sparse then s2 else count 10 4 g s2
  | _, _ => s

def execSteerPairDeliver (g : Grp) (s : State) : Host.Outcome State Fault Refusal := .next (steerPair g.toNat s)

/-! ### Reading a tile from memory (R118, R122, R135) -/

/-- Octets of the payload a header in memory names, as it is stored. -/
def payloadAt (off : Nat) (s : State) : Nat := payloadLen (parseTile false (Memory.readBytes s.mem.cells off 64) [])

/-- Are the memory arbiters a tile at this offset is read through free to grant it (R127)? -/
def readFree (off : Nat) (s : State) : Bool :=
  !rangeOk s off 64 ||
    (memFree s off 64 && (!rangeOk s off (64 + payloadAt off s) || memFree s off (64 + payloadAt off s)))

/-- A tile read from memory, its header first, with the cause where it is clinker. None: a header out of reach,
uncorrectable or ill-formed. A payload out of reach or with an uncorrectable word gives a clinker tile. -/
def fetchTile (reader g u : Nat) (tag : BitVec 24) (off : Nat) (s : State) : Option (Tile × Option (Nat × Nat)) × State :=
  let range (s : State) : State := logEv (codeCounter 5 2) 0 (unitByte g u) (some tag) [] (count 5 2 0 s)
  if ¬ rangeOk s off 64 then (none, range s)
  else
    let h := readMem reader (unitByte g u) (some tag) off 64 (memGrant (hearthReq g) (sitesOf off 64) s)
    let hdr := parseTile false h.1 []
    let n := payloadLen hdr
    let asClinker := parseTile false h.1 (zeros n)
    let shell : Tile := makeClinker { asClinker with clinker := true }
    if ¬ h.2.1.isEmpty ∨ 65536 < n then (none, h.2.2)
    else if ¬ rangeOk s (off + 64) n then
      let bad := ((upTo n).find? (fun i => !rangeOk s (off + 64 + i) 1)).getD 0
      (if tileOk shell n then some (shell, some (1, (off + 64 + bad) / 8 * 8)) else none, range h.2.2)
    else
      let p := readMem reader (unitByte g u) (some tag) (off + 64) n (memGrant (hearthReq g) (sitesOf (off + 64) n) h.2.2)
      match p.2.1 with
      | w :: _ => (if tileOk shell n then some (shell, some (2, w)) else none, p.2.2)
      | [] =>
        let t := parseTile false h.1 p.1
        (if tileOk t n then some (t, none) else none, p.2.2)

/-! ### Commands (R147, R148, R309-R311) -/

/-- A field of a command record, most significant octet first. -/
def recFld (r : List Byte) (i n : Nat) : Nat := fromBe (slice r i n)
def recTag (r : List Byte) : BitVec 24 := BitVec.ofNat 24 (recFld r 2 3)
def recQuiet (r : List Byte) : Bool := (nthD r 5 0).getLsbD 0

/-- May the sequencer take a command (R147, R237, R298, R312)? -/
def seqReady (s : State) (g : Nat) : Bool :=
  let gr := getGroup s g
  groupRuns s g && gr.hold.isNone && gr.seqCpl.isNone && !seqStalled gr && !cordRunning s

/-- Take the record at the head of the FIFO if it is of this kind; a fenced device completes it with TWIN_FENCED
(R362). -/
def takeCmd (g : Nat) (want : List Byte → Bool) (op : List Byte → State → State) (s : State) : State :=
  match (getGroup s g).fifo with
  | [] => s
  | r :: rest =>
    if ¬ seqReady s g ∨ ¬ want r ∨ ¬ seqStepFree s g then s
    else
      let s1 := takeSeqStep g (modGroup (useStore .fifo g 4 (unitByte g 12) (some (recTag r)) s) g (fun gr =>
        { gr with fifo := rest }))
      if s.twn.fenced then completeSeq g (nthD r 0 0).toNat (recTag r) (recQuiet r) .twinFenced 0 s1 else op r s1

def isOp (n : Nat) (r : List Byte) : Bool := (nthD r 0 0).toNat == n

/-- A command to a fused-off station (R4): no side effects; logged with the tag. -/
def stationAbsent (g opc : Nat) (r : List Byte) (s : State) : State :=
  completeSeq g opc (recTag r) (recQuiet r) .stationAbsent 0
    (logEv (codeStatus 7 .stationAbsent) 1 (unitByte g 12) (some (recTag r)) [] (count 7 8 g s))

/-- A command's invocation goes before those that tiles of the same step triggered, behind all others (R167). -/
def beforeTriggers (n : Nat) (inv : Invoc) (order : List Invoc) : List Invoc :=
  let same (x : Invoc) : Bool := x.triggered && n != 0 && x.atStep == n
  let last := (order.reverse.takeWhile same).reverse
  order.take (order.length - last.length) ++ inv :: last

/-- INVOKE (Table 14.6): the invocation joins its unit's order. -/
def invokeCmd (g : Nat) (r : List Byte) (s : State) : State :=
  let u := bits (recFld r 8 1) 3 0
  if ¬ (u < 12 ∧ unitPresent s u) then stationAbsent g 1 r s
  else
    let inv : Invoc :=
      { unit := u, prog := BitVec.ofNat 6 (recFld r 9 1), replaySel := (nthD r 10 0).getLsbD 0,
        count := BitVec.ofNat 32 (recFld r 12 4), tag := recTag r, context := BitVec.ofNat 15 (recFld r 16 2),
        doneTally := BitVec.ofNat 14 (recFld r 18 2), startTick := bv64 (recFld r 24 8), reached := now s,
        triggered := false, quiet := recQuiet r, atStep := 0 }
    let n := if s.time.active then (getGroup s g).seqStep else 0
    modUnit s g u (fun x => { x with order := beforeTriggers n inv x.order })

def execInvoke (g : Grp) (s : State) : Host.Outcome State Fault Refusal :=
  .next (takeCmd g.toNat (isOp 1) (invokeCmd g.toNat) s)

/-- Is the context a HOLD names timed out (R232 step 4)? -/
def holdTimedOut (s : State) (ctx : Option Nat) : Bool :=
  match ctx.bind (getCtx s) with
  | some x => x.state == .timedOut
  | none => false

/-- HOLD (R237): the sequencer takes no further command until released; one that names a context timed out completes. -/
def holdCmd (g : Nat) (r : List Byte) (s : State) : State :=
  let f := nthD r 12 0
  let ctx : Option Nat := if f.getLsbD 1 then some (bits (recFld r 14 2) 14 0) else none
  let h : HoldSt :=
    { tally := bits (recFld r 8 2) 12 0, gen := BitVec.ofNat 16 (recFld r 10 2), timed := f.getLsbD 0, ctx := ctx,
      tag := recTag r, quiet := recQuiet r, metAt := none }
  if holdTimedOut s ctx then completeSeq g 2 h.tag h.quiet .contextTimedOut 0 s
  else modGroup s g (fun gr => { gr with hold := some h })

def execHold (g : Grp) (s : State) : Host.Outcome State Fault Refusal :=
  .next (takeCmd g.toNat (isOp 2) (holdCmd g.toNat) s)

/-- The generation asked for has been reached, counted modulo 2^16 (R237). -/
def holdMet (s : State) (h : HoldSt) : Bool :=
  decide (((getTally s h.tally).gen - h.gen).toNat < 2 ^ 15)

/-- A held sequencer is released: at once, or under R44 at the tally's START where TIMED = 1; a start already past is
logged as late. -/
def holdRelease (g : Nat) (s0 : State) : State :=
  let gr := getGroup s0 g
  match gr.hold with
  | none => s0
  | some h =>
    if ¬ groupRuns s0 g ∨ gr.seqCpl.isSome then s0
    else
      let s := readTally h.tally s0
      if ¬ holdMet s h then s
      else
      let start := (getTally s h.tally).start.toNat
      if h.timed ∧ now s < start then
        let m : Nat := h.metAt.getD (now s)
        modGroup s g (fun gr => { gr with hold := some { h with metAt := some m } })
      else
        let late : Bool := h.timed && start != 0 && h.metAt.isNone && decide (start < now s)
        let s1 := if late then logEv 0x000F 2 (unitByte g 12) (some h.tag) [g, now s - start, start] s else s
        completeSeq g 2 h.tag h.quiet .ok (bv64 (getTally s h.tally).gen.toNat)
          (modGroup s1 g (fun gr => { gr with hold := none }))

def execHoldRelease (g : Grp) (s : State) : Host.Outcome State Fault Refusal := .next (holdRelease g.toNat s)

/-- A POOL record of one operation. -/
def isPool (n : Nat) (r : List Byte) : Bool := isOp 3 r && (nthD r 8 0).toNat == n

/-- The issuer a POOL record names, where it is an owner ID at all (R129, R130). -/
def poolIssuer (r : List Byte) : BitVec 16 := BitVec.ofNat 16 (recFld r 10 2)

/-- The owner ID the record at the head of a command FIFO issues its pool operation as. -/
def headIssuer (s : State) (g : Nat) : Nat :=
  match (getGroup s g).fifo with
  | [] => 0
  | r :: _ =>
    if isOp 4 r then
      let c := bits (recFld r 14 2) 14 0
      if c = 0x7FFF then ownerHost.toNat else (ownerCtx c).toNat
    else (poolIssuer r).toNat

def poolCmd (g : Nat) (op : BitVec 16 → List Byte → State → Status × W64 × State) (r : List Byte) (s : State) : State :=
  if ownerValid (poolIssuer r) then
    let x := op (poolIssuer r) r s
    completeSeq g 3 (recTag r) (recQuiet r) x.1 x.2.1 x.2.2
  else completeSeq g 3 (recTag r) (recQuiet r) .malformedTile 0 s

/-- POOL ALLOC (Table 5.1): a zero tile header; the rest of the buffer is never read as a tile. -/
def poolAllocOp (g : Nat) (o : BitVec 16) (r : List Byte) (s : State) : Status × W64 × State :=
  match poolAlloc g (recFld r 12 4) o s with
  | (some h, s1) => (.ok, bv64 h, s1)
  | (none, s1) => (.poolExhausted, 0, s1)

def poolShareOp (g : Nat) (_ : BitVec 16) (r : List Byte) (s : State) : Status × W64 × State :=
  let x := poolShare g (recFld r 12 4) s
  (x.1, 0, x.2)

def poolHandoffOp (g : Nat) (o : BitVec 16) (r : List Byte) (s : State) : Status × W64 × State :=
  let x := poolHandoff g (recFld r 12 4) o (BitVec.ofNat 16 (recFld r 16 2)) s
  (x.1, 0, x.2)

def poolDropOp (g : Nat) (o : BitVec 16) (r : List Byte) (s : State) : Status × W64 × State :=
  let x := poolDrop g (recFld r 12 4) o s
  (x.1, 0, x.2)

def poolFreeOp (g : Nat) (o : BitVec 16) (r : List Byte) (s : State) : Status × W64 × State :=
  let x := poolFree g (recFld r 12 4) o s
  (x.1, 0, x.2)

def execPoolAlloc (g : Grp) (s : State) : Host.Outcome State Fault Refusal :=
  .next (seqTurn g.toNat (headIssuer s g.toNat) (takeCmd g.toNat (isPool 1) (poolCmd g.toNat (poolAllocOp g.toNat))) s)

def execPoolShare (g : Grp) (s : State) : Host.Outcome State Fault Refusal :=
  .next (seqTurn g.toNat (headIssuer s g.toNat) (takeCmd g.toNat (isPool 2) (poolCmd g.toNat (poolShareOp g.toNat))) s)

def execPoolHandoff (g : Grp) (s : State) : Host.Outcome State Fault Refusal :=
  .next (seqTurn g.toNat (headIssuer s g.toNat) (takeCmd g.toNat (isPool 3) (poolCmd g.toNat (poolHandoffOp g.toNat))) s)

def execPoolDrop (g : Grp) (s : State) : Host.Outcome State Fault Refusal :=
  .next (seqTurn g.toNat (headIssuer s g.toNat) (takeCmd g.toNat (isPool 4) (poolCmd g.toNat (poolDropOp g.toNat))) s)

def execPoolFree (g : Grp) (s : State) : Host.Outcome State Fault Refusal :=
  .next (seqTurn g.toNat (headIssuer s g.toNat) (takeCmd g.toNat (isPool 5) (poolCmd g.toNat (poolFreeOp g.toNat))) s)

/-- Is there room for a command's push: in the queue, or with steering in the port's hold (R151, R272)? -/
def pushRoom (s : State) (g u : Nat) (portB : Bool) : Bool :=
  if u = 11 ∧ steerOn s g then
    decide ((if portB then (getGroup s g).steerB else (getGroup s g).steerA).length < 8)
  else hasRoom s g u portB

/-- OPERAND (R311): a tile read from memory, through the compressor into scratch (R265), and offered to a port; a full
queue or hold of a wide configuration turns it away before anything is read (R151). Its tile stamp is the present tick
(log entry 119). -/
def operandCmd (g : Nat) (r : List Byte) (s : State) : State :=
  let u := bits (recFld r 8 1) 3 0
  let portB := (nthD r 9 0).getLsbD 0
  let c := bits (recFld r 14 2) 14 0
  let owner := if c = 0x7FFF then ownerHost else ownerCtx c
  let done (st : Status) (s : State) : State :=
    completeSeq g 4 (recTag r) (recQuiet r) st 0
      (logEv (codeStatus 7 st) 1 (unitByte g 12) (some (recTag r)) [] s)
  if ¬ (u < 12 ∧ unitPresent s u) then stationAbsent g 4 r s
  else if isWide s g u ∧ ¬ pushRoom s g u portB then done .queueFull (count 7 7 g s)
  else
    let x := fetchTile 3 g 12 (recTag r) (recFld r 18 6) s
    match x.1 with
    | none => done .malformedTile x.2
    | some (t, cause) =>
      match freeHandle g (64 + payloadLen t) x.2 with
      | none => done .poolExhausted x.2
      | some h =>
        let z := compressForm g t x.2
        modGroup (setTile g h z.1 (takeBuffer g h owner x.2)) g (fun gr => { gr with offers := gr.offers ++
          [{ unit := u, portB := portB, handle := h, stamp := now s, cmd := some (recTag r, recQuiet r),
             fromIntake := false, share := false, cause := cause, dense := z.2 }] })

/-- An OPERAND whose memory arbiters can grant it; with one frozen it stays in the FIFO (R102, R127). -/
def isOperand (s : State) (r : List Byte) : Bool := isOp 4 r && readFree (recFld r 18 6) s

def execOperand (g : Grp) (s : State) : Host.Outcome State Fault Refusal :=
  .next (seqTurn g.toNat (headIssuer s g.toNat) (takeCmd g.toNat (isOperand s) (operandCmd g.toNat)) s)

/-- NOP completes when taken. -/
def nopCmd (g : Nat) (r : List Byte) (s : State) : State := completeSeq g 5 (recTag r) (recQuiet r) .ok 0 s

def execNop (g : Grp) (s : State) : Host.Outcome State Fault Refusal :=
  .next (takeCmd g.toNat (isOp 5) (nopCmd g.toNat) s)

/-! ### The spare reduce station (R152, R153) -/

/-- STN_SPARE_CTRL (R152). A takeover that has begun covers its unit for a repeated write. -/
def spareCtrlWrite (g : Nat) (v : W64) (s : State) : Status × State :=
  let gr := getGroup s g
  let k := fld v 1 0
  let e : BitVec 32 := BitVec.ofNat 32 (fld v 63 32)
  let covers : Option Nat := if gr.covering then some gr.coverUnit.toNat else gr.taking
  let st : Status :=
    if e < gr.spareEpoch then .epochStale
    else match covers with
      | some j => if j = k then .ok else .resourceBound
      | none => .ok
  let ok := st = .ok
  let s1 := modGroup s g (fun gr => { gr with
    spareStatus := st, spareEpoch := if ok then e else gr.spareEpoch,
    taking := if ok ∧ covers.isNone then some k else gr.taking })
  (st, if ok ∧ e ≠ gr.spareEpoch then mirrorEpochs s1 else s1)

def execStnSpareCtrlWrite (g : Grp) (v : W64) (s : State) : Host.Outcome State Fault Refusal :=
  hostCmd (unfenced (spareCtrlWrite g.toNat v)) s

/-- The takeover (R153): the invocation running on reduce k is abandoned and put first in the order, to run again from
its start; the spare acts as unit k from here on, so queues, local store and programs stay under k. -/
def spareTakeover (g : Nat) (s : State) : State :=
  match (getGroup s g).taking with
  | none => s
  | some k =>
    if (getUnit s g 4).run.isSome then s
    else
      let s1 := match (getUnit s g k).run with
        | some r => modUnit (abandonRun g k r s) g k (fun x => { x with order := r.inv :: x.order })
        | none => s
      let s2 := modGroup s1 g (fun gr => { gr with covering := true, coverUnit := BitVec.ofNat 2 k, taking := none })
      count 7 10 g (logEv (codeCounter 7 10) 2 (unitByte g 4) none [k, (getGroup s g).spareEpoch.toNat] s2)

def execSpareTakeover (g : Grp) (s : State) : Host.Outcome State Fault Refusal := .next (spareTakeover g.toNat s)

end Sys2Proof.Machine
end

