-- ==== Sys2Proof/Machine/SlotCore.lean ====
section
/-! DEFINITION. What every slot of a bundle is built from: its outcome, the tiles and parameters it reads, the outputs
and accumulators it writes (chapters 7 and 8). -/

namespace Sys2Proof.Machine

open Sys2Proof

/-- What a slot did: the failure of the invocation, if any (R173), its step cost, and the run and the state after it. -/
structure SlotRes where
  err : Option Status
  cost : Nat
  run : Run
  st : State

def slotOk (cost : Nat) (r : Run) (s : State) : SlotRes := { err := none, cost := cost, run := r, st := s }

def slotFail (e : Status) (r : Run) (s : State) : SlotRes := { err := some e, cost := 0, run := r, st := s }

/-- PARAMi of the run's snapshot (R168). -/
def paramOf (r : Run) (i : Nat) : W64 := Map.getD r.params i 0

/-- The tile of a buffer as this run sees it: its own META slots first (R172). -/
def runTile (g h : Nat) (r : Run) (s : State) : Option Tile :=
  match Map.get? r.overlay h with
  | some t => some t
  | none => tileAt s g h

/-- The buffer and the tile a register names. -/
def tregTile (g i : Nat) (r : Run) (s : State) : Option (Nat × Tile) :=
  match Map.get? r.treg i with
  | some (.tile h) => (runTile g h r s).map (fun t => (h, t))
  | _ => none

/-- A station loads a tile from scratch: with an uncorrectable word it is clinker, found under the command tag (R122).
-/
def loadTile (g u h : Nat) (tag : BitVec 24) (t : Tile) (s : State) : Tile × State :=
  let x := readSram 1 (unitByte g u) (some tag) (.tile h) 0 (tileWords t) s
  match x.1, t.clinker with
  | a :: _, false => ({ makeClinker { t with md := zeros t.md.length } with ue := some a }, x.2)
  | _, _ => (t, x.2)

/-- An operation on one tile; an empty register has no tile whose shape could agree (R161). -/
def with1 (g i : Nat) (r : Run) (s : State) (k : Nat → Tile → State → SlotRes) : SlotRes :=
  match tregTile g i r s with
  | some (h, t) =>
    let x := loadTile g r.inv.unit h r.inv.tag t s
    k h x.1 x.2
  | none => slotFail .malformedTile r s

/-- An operation on two tiles. -/
def with2 (g i j : Nat) (r : Run) (s : State) (k : Tile → Tile → State → SlotRes) : SlotRes :=
  with1 g i r s (fun _ t s => with1 g j r s (fun _ u s => k t u s))

def isDense (t : Tile) : Bool := t.layout == 0

/-- A format 0x01-0x08: an element with a value (R182). -/
def isNumeric (t : Tile) : Bool := decide (1 ≤ t.format.toNat) && decide (t.format.toNat ≤ 8)

/-- A dense FP32 tile with SCALED = 0, as weights and scales must be. -/
def isPlainFp32 (t : Tile) : Bool := isDense t && t.format == 5 && !t.scaled

/-- A dense U32 tile, as indices and masks must be. -/
def isIndexTile (t : Tile) : Bool := isDense t && t.format == 8

def elemCount (t : Tile) : Nat := t.rows * t.cols

/-- The cause of a clinker output: the first clinker tile read, or the address of the scratch word that made it so
(R136). -/
def clinkIn (ts : List Tile) : Option (Nat × Nat) :=
  (ts.find? (fun t => t.clinker)).map (fun t => match t.ue with
    | some a => (2, a)
    | none => (0, t.tag.toNat))

/-- B's header for an output made of it: TAG is the command tag, CLINKER is judged anew (R161, R176). -/
def fromB (r : Run) (t : Tile) : Tile := { t with tag := r.inv.tag, clinker := false, ue := none }

/-- A header as ALLOC gives it (Table 7.5). -/
def allocHdr (r : Run) : Tile := { blankTile with hver := 1, tag := r.inv.tag }

def noStats (t : Tile) : Tile := { t with stats := false, rstats := [] }

def noScales (t : Tile) : Tile := { t with scaled := false, scales := [] }

/-- Some of a tile's rows of codes, with their scales and statistics, as a dense tile. -/
def withRows (t : Tile) (cols : Nat) (rows : List (List Nat × BitVec 32 × (BitVec 32 × BitVec 32))) : Tile :=
  let t1 := withCodes t t.format.toNat rows.length cols (rows.map (·.1)).flatten
  { t1 with scales := if t.scaled then rows.map (·.2.1) else [], rstats := if t.stats then rows.map (·.2.2) else [] }

/-- The rows of a dense tile with their scales and statistics. -/
def rowsOf (t : Tile) : List (List Nat × BitVec 32 × (BitVec 32 × BitVec 32)) :=
  (rowCodes t).zipIdx.map (fun e => (e.1, nthD t.scales e.2 0, nthD t.rstats e.2 (0, 0)))

/-- Write an output: it must be well formed and within R134, and a buffer must be free. `cl` makes it clinker and is
its record (R136); `post` counts what the operation did. -/
def newOut (g u a cost : Nat) (cl : Option (Nat × Nat)) (t : Tile) (post : State → State) (r : Run) (s : State) :
    SlotRes :=
  let t1 : Tile := match cl with
    | some _ => makeClinker t
    | none => t
  if ¬ tileOk t1 (payloadLen t1) then slotFail .malformedTile r s
  else match poolAlloc g (64 + payloadLen t1) (ownerUnit g u) s with
    | (none, s1) => slotFail .poolExhausted r s1
    | (some h, s1) =>
      let s2 := setTile g h t1 s1
      let s3 : State := match cl with
        | some (k, x) => logClinker g u t1.tag k x s2
        | none => post s2
      slotOk cost { r with treg := Map.set r.treg a (.tile h), outs := r.outs ++ [h] } s3

/-- Change a tile this run made, in place; newly clinker, also by a bad word of its own, it is logged (R136). -/
def changeOut (g u h cost : Nat) (cl : Option (Nat × Nat)) (old t : Tile) (r : Run) (s : State) : SlotRes :=
  match cl with
  | none => slotOk cost r (setTile g h { t with ue := none } s)
  | some (k, x) =>
    let s1 := setTile g h (makeClinker { t with ue := none }) s
    slotOk cost r (if old.clinker ∧ old.ue = none then s1 else logClinker g u t.tag k x s1)

/-! ### Accumulators (R145, R160, R195, R270) -/

def emptyAcc : Acc := { rows := 0, cols := 0, clinker := false, cause := (0, 0), val := .none }

def getAcc (m : Map Acc) (a : Nat) : Acc := Map.getD m a emptyAcc

/-- Octets of local store of an accumulator (Table 8.5). -/
def accBytes (x : Acc) : Nat :=
  match x.val with
  | .none => 0
  | .long l => 96 * l.length
  | .fp l => 4 * l.length

/-- An accumulator of a unit among the things of its store. -/
def accPlace (g u a : Nat) : SramObj := .store .accumulator (4 * (16 * g + u) + a)

/-- An accumulator is read from the local store: a word found uncorrectable makes it clinker, as a station load (R122;
DEDUCED, log entry 125). -/
def readAcc (g u : Nat) (tag : BitVec 24) (e : Nat × Acc) (s : State) : Acc × State :=
  let x := readSram 1 (unitByte g u) (some tag) (accPlace g u e.1) 0 ((accBytes e.2 + 7) / 8) s
  match x.1, e.2.clinker with
  | a :: _, false => ({ e.2 with clinker := true, cause := (2, a) }, x.2)
  | _, _ => (e.2, x.2)

/-- The committed local store of a unit, as an invocation that starts takes it over (R122, R168). -/
def readLocal (g u : Nat) (tag : BitVec 24) (s : State) : Map Acc × State :=
  (getUnit s g u).acc.foldl (fun m e =>
    let x := readAcc g u tag e m.2
    (Map.set m.1 e.1 x.1, x.2)) ([], s)

/-- The accumulators of a commit are written to the local store (R171). -/
def writeLocal (g u : Nat) (m : Map Acc) (s : State) : State :=
  foldOver m (fun s e => writeSram (accPlace g u e.1) 0 ((accBytes e.2 + 7) / 8) s) s

/-- LOCAL_KIB of a unit, in octets (R290). -/
def localBytes (s : State) (g u : Nat) : Nat :=
  match s.cord.cfg with
  | some c => (nthD c.unitRecs (13 * g + u) (0, 0, 0)).1 * 1024
  | none => 0

/-- The accumulator an addition goes into: its first one gives it shape and kind, every later one must agree. -/
def accOpen (g u a : Nat) (long : Bool) (rows cols : Nat) (r : Run) (s : State) : Except Status Acc :=
  let x := getAcc r.acc a
  match x.val with
  | .none =>
    let n := rows * cols
    let x1 : Acc := { x with
      rows := rows, cols := cols,
      val := if long then .long (List.replicate n LongAcc.zero) else .fp (List.replicate n 0) }
    let used := ((Map.erase r.acc a).map (fun e => accBytes e.2)).sum + accBytes x1
    if localBytes s g u < used then .error .poolExhausted else .ok x1
  | .long _ => if long ∧ x.rows = rows ∧ x.cols = cols then .ok x else .error .malformedTile
  | .fp _ => if ¬ long ∧ x.rows = rows ∧ x.cols = cols then .ok x else .error .malformedTile

def setAcc (a : Nat) (x : Acc) (r : Run) : Run := { r with acc := Map.set r.acc a x }

/-- Mark an accumulator (R270); the first cause stands. -/
def markAcc (cl : Nat × Nat) (x : Acc) : Acc := if x.clinker then x else { x with clinker := true, cause := cl }

/-- Add values, element by element; how many FP32 elements became infinite. -/
def accAdd (x : Acc) (vs : List Val) : Acc × Nat :=
  match x.val with
  | .long l => ({ x with val := .long (List.zipWith longAdd l vs) }, 0)
  | .fp l =>
    let rs := List.zipWith fpAdd l vs
    ({ x with val := .fp (rs.map (·.1)) }, (rs.map (fun e => bit1 e.2)).sum)
  | .none => (x, 0)

/-- One operation into an accumulator: with a clinker operand it is only marked, and a marked one takes nothing
further (R270). -/
def accOp (g u a cost : Nat) (long : Bool) (rows cols : Nat) (cl : Option (Nat × Nat)) (f : Acc → Acc × Nat)
    (r : Run) (s : State) : SlotRes :=
  match accOpen g u a long rows cols r s with
  | .error e => slotFail e r s
  | .ok x =>
    match cl with
    | some c => slotOk cost (setAcc a (markAcc c x) r) s
    | none =>
      if x.clinker then slotOk cost (setAcc a x r) s
      else
        let y := f x
        slotOk cost (setAcc a y.1 r) (countN 6 4 g y.2 s)

end Sys2Proof.Machine
end

