-- ==== Sys2Proof/Machine/SlotMath.lean ====
section
/-! DEFINITION. The slots that add, round, multiply, predict and scale (Table 7.5; chapters 8, 9 and 12). -/

namespace Sys2Proof.Machine

open Sys2Proof

/-! ### Reduce station (R194-R197, R200, R206, R207) -/

/-- ZERO: cleared, its flags cleared, its shape released. -/
def slotZero (a : Nat) (r : Run) (s : State) : SlotRes := slotOk 1 { r with acc := Map.erase r.acc a } s

/-- Do RADD and RWADD add exactly: no context, or one that is not fast (R200)? -/
def exactMode (s : State) (r : Run) : Bool :=
  match getCtx s r.inv.context.toNat with
  | some x => !CtxArg.fast x.arg0
  | none => true

def slotRadd (g u a b : Nat) (r : Run) (s : State) : SlotRes :=
  with1 g b r s (fun _ t s =>
    if ¬ isDense t ∨ ¬ isNumeric t then slotFail .malformedTile r s
    else accOp g u a (ceilDiv (elemCount t) 64) (exactMode s r) t.rows t.cols (clinkIn [t])
      (fun x => accAdd x (rowVals t).flatten) r s)

/-- RWADD: row r of B times element r of C, each product exact. -/
def slotRwadd (g u a b c : Nat) (r : Run) (s : State) : SlotRes :=
  with2 g b c r s (fun t w s =>
    if ¬ isDense t ∨ ¬ isNumeric t ∨ ¬ isPlainFp32 w ∨ elemCount w < t.rows then slotFail .malformedTile r s
    else
      let ws := codesOf w
      let vs := ((rowVals t).zipIdx.map (fun e => e.1.map (fun v => mulVal v (elemVal 5 (nthD ws e.2 0))))).flatten
      accOp g u a (ceilDiv (elemCount t) 64) (exactMode s r) t.rows t.cols (clinkIn [t, w]) (fun x => accAdd x vs) r s)

/-- Merge partials into long elements; none where one is defective (R206). -/
def mergeList (ext : Bool) : List LongAcc → List Nat → Option (List LongAcc)
  | l :: ls, c :: cs => match partMerge ext l c, mergeList ext ls cs with
    | some x, some xs => some (x :: xs)
    | _, _ => none
  | _, _ => some []

def slotRmerge (g u a b : Nat) (r : Run) (s : State) : SlotRes :=
  with1 g b r s (fun _ t s =>
    if ¬ isDense t ∨ ¬ isPartial t.format.toNat then slotFail .malformedTile r s
    else
      let ext := t.format == 17
      let cost := ceilDiv (elemCount t) (if ext then 4 else 16)
      match accOpen g u a true t.rows t.cols r s with
      | .error e => slotFail e r s
      | .ok x =>
        match clinkIn [t], x.val with
        | some c, _ => slotOk cost (setAcc a (markAcc c x) r) s
        | none, .long l =>
          match mergeList ext l (codesOf t) with
          | none => slotFail .malformedTile r (count 6 8 g s)
          | some l' => slotOk cost (setAcc a (if x.clinker then x else { x with val := .long l' }) r) s
        | none, _ => slotFail .malformedTile r s)

/-- An output of the accumulator's shape; from a marked one a clinker tile (R270). -/
def accOut (g u a cost : Nat) (x : Acc) (t : Tile) (post : State → State) (r : Run) (s : State) : SlotRes :=
  newOut g u a cost (if x.clinker then some x.cause else none) t post r s

/-- Elements of an accumulator rounded into a format (R183, R196). -/
def accRound (format : Nat) (x : Acc) : List (Nat × ConvFlag) :=
  match x.val with
  | .long l => l.map (longRound format)
  | .fp l => l.map (fun c => convVal format (val32 c))
  | .none => []

def accTile (r : Run) (x : Acc) (format : Nat) (codes : List Nat) : Tile :=
  withCodes (allocHdr r) format x.rows x.cols codes

/-- ROUND, and MMOUT with its row statistics (R192, R196). -/
def slotRound (g u a b imm : Nat) (stats : Bool) (r : Run) (s : State) : SlotRes :=
  let x := getAcc r.acc b
  match x.val with
  | .none => slotFail .malformedTile r s
  | _ =>
    let f := imm % 32
    let cs := accRound f x
    let t := accTile r x f (cs.map (·.1))
    let t1 : Tile := if stats then
        { t with stats := true, rstats := (chunksOf x.cols (cs.map (fun c => elemVal f c.1))).map rowStats }
      else t
    accOut g u a (ceilDiv (x.rows * x.cols) 64) x t1 (fun s => foldOver cs (fun s c => countConv g c.2 s) s) r s

/-- PARTOUT: one form for the whole tile; a marked accumulator goes out compact (R207, R270). -/
def slotPartout (g u a b : Nat) (r : Run) (s : State) : SlotRes :=
  let x := getAcc r.acc b
  match x.val with
  | .long l =>
    let n := l.length
    let fits (ext : Bool) : Bool := l.all (fun e => partFits ext e.i.toInt)
    let compact := x.clinker || fits false
    if ¬ compact ∧ ¬ fits true then slotFail .malformedTile r (count 6 7 g s)
    else if 65536 < n * (if compact then 16 else 48) then slotFail .malformedTile r (count 6 7 g s)
    else
      let f := if compact then 16 else 17
      let t := accTile r x f (l.map (partEncode (!compact)))
      let y := accOut g u a (ceilDiv n 16) x t id r s
      match y.err with
      | some _ => y
      | none => { y with st := count 6 (if compact then 5 else 6) g y.st }
  | _ => slotFail .malformedTile r s

/-- XORP and GFMUL: A = A XOR g·B over BYTE tiles of equal length (R211). -/
def slotParity (g u a b coef : Nat) (r : Run) (s : State) : SlotRes :=
  with1 g a r s (fun h t s =>
    if ¬ r.outs.contains h then slotFail .freeDenied r s
    else with1 g b r s (fun _ x s =>
      if ¬ (t.format = 9 ∧ x.format = 9 ∧ isDense t ∧ isDense x ∧ t.dataLen = x.dataLen) then slotFail .malformedTile r s
      else
        let d := List.zipWith (fun p q => p ^^^ BitVec.ofNat 8 (gf256Mul coef q.toNat)) t.data x.data
        changeOut g u h (ceilDiv x.dataLen 256) (clinkIn [t, x]) t { t with data := d } r s))

/-! ### Dense and sparse stations (R187-R191, R261, R269-R271) -/

/-- The operand pairs of Table 8.4. -/
def pairAllowed (b c : Nat) : Bool :=
  ((b == 1 || b == 2) && (c == 1 || c == 2)) || (b == c && (b == 3 || b == 4 || b == 6))

/-- May B and C enter a product: a right operand is dense, and a sparse left one goes to a sparse station only? -/
def operandsOk (u : Nat) (t w : Tile) : Bool :=
  (isDense t || unitKind u == 5) && isDense w && pairAllowed t.format.toNat w.format.toNat && t.cols == w.rows

/-- Cost of a product on a dense array (Table 7.5). -/
def denseCost (m k n : Nat) : Nat := ceilDiv m 64 * (k / 16) * ceilDiv n 8

/-- Cost of MATMUL by the layout of B (R271). -/
def matmulCost (t w : Tile) : Nat :=
  if t.layout = 1 then ceilDiv t.rows 64 * ceilDiv t.cols 32 * ceilDiv w.cols 8
  else if t.layout = 2 then
    ((blockCounts t).map (fun n => if n = 0 then 0 else 1 + n * ceilDiv w.cols 20)).sum
  else denseCost t.rows t.cols w.cols

/-- Columns of a dense tile's rows, as values of its codes. -/
def columnsOf (w : Tile) : List (List Val) :=
  transposeCols w.cols ((rowCodes w).map (fun row => row.map (elemVal w.format.toNat)))
where
  transposeCols (n : Nat) (rows : List (List Val)) : List (List Val) :=
    (upTo n).map (fun c => rows.map (fun row => nthD row c .nan))

/-- Add B × C into FP32 elements, those a test of (row, column) picks; how many became infinite (R189). -/
def productInto (t : Tile) (rows : List (List Nat)) (w : Tile) (pick : Nat → Nat → Bool) (l : List (BitVec 32)) :
    List (BitVec 32) × Nat :=
  let cols := columnsOf w
  let vals := rows.map (fun row => row.map (elemVal t.format.toNat))
  let rs := l.zipIdx.map (fun e =>
    let m := e.2 / w.cols
    let n := e.2 % w.cols
    if pick m n then dotInto e.1 (scaleOf t m) (nthD vals m []) (nthD cols n []) else (e.1, 0))
  (rs.map (·.1), (rs.map (·.2)).sum)

/-- A metadata fault is counted and logged with the tile's TAG (R269). -/
def logMetadata (g u : Nat) (t : Tile) (s : State) : State :=
  logEv (codeCounter 10 3) 0 (unitByte g u) (some t.tag) [] (count 10 3 g s)

/-- Why a product with B marks or makes clinker: a clinker operand, or a metadata fault of B (R269, R270). -/
def productCause (ts : List Tile) (rows : Except Nat (List (List Nat))) : Option (Nat × Nat) :=
  match clinkIn ts, rows with
  | some c, _ => some c
  | none, .error j => some (3, j)
  | none, .ok _ => none

/-- MATMUL and MASKMM after their operands agree. -/
def productOp (g u a cost : Nat) (t w : Tile) (ins : List Tile) (pick : Nat → Nat → Bool) (r : Run) (s : State) :
    SlotRes :=
  let rows := operandRows t
  let cl := productCause ins rows
  let s1 : State := match cl with
    | some (3, _) => logMetadata g u t s
    | _ => s
  accOp g u a cost false t.rows w.cols cl (fun x =>
    match rows, x.val with
    | .ok rs, .fp l =>
      let y := productInto t rs w pick l
      ({ x with val := .fp y.1 }, y.2)
    | _, _ => (x, 0)) r s1

def slotMatmul (g u a b c : Nat) (r : Run) (s : State) : SlotRes :=
  with2 g b c r s (fun t w s =>
    if ¬ operandsOk u t w ∨ w.scaled then slotFail .malformedTile r s
    else productOp g u a (if unitKind u = 5 then matmulCost t w else denseCost t.rows t.cols w.cols) t w [t, w]
      (fun _ _ => true) r s)

/-- Columns of a kindling mask for N outputs (R276). -/
def maskCols (n : Nat) : Nat := 16 * ceilDiv n 512

/-- Is output (m, n) marked in a mask? -/
def maskBit (mask : List (List Nat)) (m n : Nat) : Bool := (nthD (nthD mask m []) (n / 32) 0).testBit (n % 32)

/-- Cost of MASKMM: 64-row stripes with a marked output (R277). -/
def maskCost (t w : Tile) (mask : List (List Nat)) : Nat :=
  let kc := if t.layout = 1 then ceilDiv t.cols 32 else t.cols / 16
  let marked (m : Nat) : Nat := ((upTo w.cols).filter (fun n => maskBit mask m n)).length
  ((chunksOf 64 (upTo t.rows)).map (fun st =>
    let n := (st.map marked).sum
    if n = 0 then 0 else kc * (1 + ceilDiv n 256))).sum

/-- MASKMM: B × C for the outputs marked in T (R277). -/
def slotMaskmm (g u a b c imm : Nat) (r : Run) (s : State) : SlotRes :=
  with2 g b c r s (fun t w s =>
    with1 g (imm % 8) r s (fun _ k s =>
      if ¬ operandsOk u t w ∨ w.scaled ∨ ¬ isIndexTile k ∨ k.rows ≠ t.rows ∨ k.cols ≠ maskCols w.cols then
        slotFail .malformedTile r s
      else
        let mask := rowCodes k
        productOp g u a (maskCost t w mask) t w [t, w, k] (maskBit mask) r s))

/-! ### The kindling pass (R274-R276) -/

/-- fmax × |x| / s in halves, rounded: FP4 to its grid, ties to the even code; INT4 to the nearest integer. -/
def quantHalf (int4 : Bool) (num den : Nat) (e : Int) : Nat :=
  let f := if int4 then 7 else 6
  let n := num * f
  if int4 then 2 * rneScaled n den e
  else
    let lg : Int := if n = 0 then 0 else floorLog2 n den e
    if n = 0 ∨ lg < 1 then rneScaled n den (e + 1)
    else if lg < 2 then 2 * rneScaled n den e
    else 4 * rneScaled n den (e - 1)

/-- The 4-bit copy of a row or column, in signed halves, and its largest magnitude; none where that is not finite. -/
def kindleCopy (int4 : Bool) (vs : List Val) : Option (List Int × Val) :=
  if vs.any (fun v => !isFinite v) then none
  else
    let mx := vs.foldl (fun a v => maxVal a (absVal v)) (.fin false 0 0)
    some (vs.map (fun v => match v, mx with
      | .fin neg n x, .fin _ m y =>
        if m = 0 then 0
        else
          let h : Int := (quantHalf int4 n m (x - y) : Nat)
          if neg then -h else h
      | _, _ => 0), mx)

/-- est(m, n) (R275): p comes in quarters. -/
def kindleEst (int4 : Bool) (b c : List Int × Val) : Val :=
  let p : Int := (List.zipWith (· * ·) b.1 c.1).foldl (· + ·) 0
  let f2 : Val := .fin false (if int4 then 49 else 36) 0
  elemVal 5 (convQuot 5 (mulVal (mulVal (.fin false p.natAbs (-2)) b.2) c.2) f2).1

/-- Is est at or above a threshold (a NaN threshold marks nothing)? -/
def atLeast (x t : Val) : Bool := ltVal t x || eqVal x t

/-- The marks of one row: its estimates, none for an output of a nonfinite row or column (R275). -/
def kindleRow (p : W64) (es : List (Option Val)) : List Bool :=
  let tau := elemVal 5 (fld p 31 0)
  let mode := fld p 63 62
  let fin := es.filterMap id
  let top := fin.foldl maxVal (.fin false 0 0)
  let cut := elemVal 5 (rne32 (mulVal tau top)).toNat
  let ranked := sortBy (fun (x y : Val × Nat) => ltVal y.1 x.1) (es.zipIdx.filterMap (fun e => e.1.map (fun v => (v, e.2))))
  let best := (ranked.take (fld p 47 32)).map (·.2)
  es.zipIdx.map (fun e => match e.1 with
    | none => true
    | some v =>
      if mode = 0 then atLeast v tau
      else if mode = 1 then !isZero v && atLeast v cut
      else best.contains e.2)

/-- A mask's words of one row. -/
def maskWords (n : Nat) (marks : List Bool) : List Nat :=
  (upTo (maskCols n)).map (fun w =>
    ((upTo 32).map (fun b => if nthD marks (32 * w + b) false then 2 ^ b else 0)).sum)

/-- The marks of every row, and the nonfinite rows and columns. -/
def kindleMarks (t : Tile) (rows : List (List Nat)) (w : Tile) (p : W64) : List (List Bool) × Nat :=
  let int4 := t.format == 6
  let bs := rows.zipIdx.map (fun e =>
    kindleCopy int4 (e.1.map (fun c => mulVal (elemVal t.format.toNat c) (scaleOf t e.2))))
  let wv := rowVals w
  let cs := (upTo w.cols).map (fun n => kindleCopy int4 (wv.map (fun row => nthD row n .nan)))
  let marks := bs.map (fun b => kindleRow p (cs.map (fun c => match b, c with
    | some x, some y => some (kindleEst int4 x y)
    | _, _ => none)))
  (marks, ((bs ++ cs).filter (fun x => x.isNone)).length)

/-- KINDLE: the mask of the outputs predicted to matter (R274-R276). -/
def slotKindle (g u a b c imm : Nat) (r : Run) (s : State) : SlotRes :=
  with2 g b c r s (fun t w s =>
    let p := paramOf r (imm % 64)
    if ¬ operandsOk u t w ∨ fld p 63 62 = 3 ∨ fld p 61 48 ≠ 0 then
      slotFail .malformedTile r s
    else
      let rows := operandRows t
      let cl := productCause [t, w] rows
      let s1 : State := match cl with
        | some (3, _) => logMetadata g u t s
        | _ => s
      let hdr := noScales (noStats (fromB r t))
      let cost := ceilDiv (denseCost t.rows t.cols w.cols) 8
      match cl, rows with
      | none, .ok rs =>
        let k := kindleMarks t rs w p
        let kept := (k.1.flatten.filter id).length
        let words := (k.1.map (maskWords w.cols)).flatten
        newOut g u a cost none (withCodes hdr 8 t.rows (maskCols w.cols) words)
          (fun s => countN 10 7 g k.2 (countN 10 6 g (t.rows * w.cols - kept) (countN 10 5 g kept s))) r s1
      | _, _ =>
        newOut g u a cost cl
          (withCodes hdr 8 t.rows (maskCols w.cols) (List.replicate (t.rows * maskCols w.cols) 0)) id r s1)

/-! ### SCALE (R161, R185, R186) -/

/-- ROWSCALE: new row scales; in place in a tile this run made where they fit its buffer, else a new output. -/
def slotRowscale (g u a b : Nat) (r : Run) (s : State) : SlotRes :=
  with1 g a r s (fun h t s =>
    with1 g b r s (fun _ w s =>
      if ¬ isDense t ∨ ¬ allowsScaled t.format.toNat ∨ ¬ isPlainFp32 w ∨ elemCount w < t.rows then
        slotFail .malformedTile r s
      else
        let t1 : Tile := { noStats t with
          scaled := true, scales := ((codesOf w).take t.rows).map (BitVec.ofNat 32) }
        let cl := clinkIn [t, w]
        if r.outs.contains h ∧ 64 + payloadLen t1 ≤ bufSize (handlePool h) ∧ tileOk t1 (payloadLen t1) then
          changeOut g u h (ceilDiv t.rows 64) cl t t1 r s
        else newOut g u a (ceilDiv t.dataLen 256 + ceilDiv t.rows 64) cl (fromB r t1) id r s))

/-- One row under QUANT: its scale, its codes, and whether it is a NaN row (R186). -/
def quantRow (format : Nat) (vs : List Val) : BitVec 32 × List (Nat × ConvFlag) × Bool :=
  if vs.any (fun v => !isFinite v) then
    (BitVec.ofNat 32 (canonNan fp32), vs.map (fun _ => (0, .none)), true)
  else
    let fmax : Nat := if format = 1 then 448 else if format = 2 then 57344 else 127
    let mx := vs.foldl (fun a v => maxVal a (absVal v)) (.fin false 0 0)
    let sc : Nat :=
      if isZero mx then 0x3F800000
      else
        let q := (convQuot 5 mx (.fin false fmax 0)).1
        if q = 0 then 1 else q
    (BitVec.ofNat 32 sc, vs.map (fun v => convQuot format v (elemVal 5 sc)), false)

/-- QUANT. -/
def slotQuant (g u a b imm : Nat) (r : Run) (s : State) : SlotRes :=
  with1 g b r s (fun _ t s =>
    if ¬ isDense t ∨ ¬ isNumeric t then slotFail .malformedTile r s
    else
      let qs := (rowVals t).map (quantRow imm)
      let cs := (qs.map (·.2.1)).flatten
      let t1 := withCodes (noStats (fromB r t)) imm t.rows t.cols (cs.map (·.1))
      newOut g u a (ceilDiv (elemCount t) 64) (clinkIn [t]) { t1 with scaled := true, scales := qs.map (·.1) }
        (fun s => countN 6 3 g (qs.filter (·.2.2)).length (foldOver cs (fun s c => countConv g c.2 s) s)) r s)

end Sys2Proof.Machine
end

