-- ==== Sys2Proof/Machine/SlotMove.lean ====
section
/-! DEFINITION. The slots that load, move, order, filter, head and emit tiles (Table 7.5; chapters 7, 11 and 12). -/

namespace Sys2Proof.Machine

open Sys2Proof

/-! ### LOAD -/

/-- TAKE: the next tile of the port not yet taken; it stays in the queue (R170). -/
def slotTake (g u a : Nat) (portB : Bool) (r : Run) (s : State) : SlotRes :=
  let n := if portB then r.takenB else r.takenA
  if 8 ≤ n then slotFail .queueFull r s
  else match (portQueue (getUnit s g u) portB)[n]? with
    | none => slotFail .queueFull r s
    | some q =>
      let r1 : Run := if portB then { r with takenB := n + 1 } else { r with takenA := n + 1 }
      slotOk 0 { r1 with treg := Map.set r1.treg a (.tile q.handle) } s

/-- ALLOC: zero data; row scales +1.0; row maximum +0 and row sum COLS. -/
def slotAlloc (g u a b : Nat) (r : Run) (s : State) : SlotRes :=
  let p := paramOf r b
  let rows := fld p 40 32
  let cols := fld p 26 16
  let fmt := fld p 63 56
  let t0 := withCodes (allocHdr r) fmt rows cols []
  let d := zeros (rows * cols * elemSize fmt)
  let sum := rne32 (.fin false cols 0)
  newOut g u a 1 none
    { t0 with
      scaled := bitAt p 51, stats := bitAt p 50, dataLen := d.length, data := d,
      scales := if bitAt p 51 then List.replicate rows 0x3F800000#32 else [],
      rstats := if bitAt p 50 then List.replicate rows (0, sum) else [] } id r s

/-- PARAM[b] + PASS × PARAM[c], modulo 2^48. -/
def strided (r : Run) (b c : Nat) : Nat := ((paramOf r b).toNat + r.pass * (paramOf r c).toNat) % 2 ^ 48

/-- READ: a tile from memory, through the compressor into a buffer for its full length (R118, R122, R265). -/
def slotRead (g u a b c : Nat) (r : Run) (s : State) : SlotRes :=
  let x := fetchTile 1 g u r.inv.tag (strided r b c) s
  match x.1 with
  | none => slotFail .malformedTile r x.2
  | some (t, cause) =>
    match poolAlloc g (64 + payloadLen t) (ownerUnit g u) x.2 with
    | (none, s1) => slotFail .poolExhausted r s1
    | (some h, s1) =>
      let s2 := match cause with
        | some (k, w) => logClinker g u t.tag k w s1
        | none => s1
      let z := compressTile g u t s2
      slotOk 1 { r with treg := Map.set r.treg a (.tile h), outs := r.outs ++ [h] } (setTile g h z.1 z.2)

/-- HOLD: a buffer allocated in this group, its counts unchanged; a header that breaks R135 fails here. -/
def slotHold (g a b : Nat) (r : Run) (s : State) : SlotRes :=
  let h := fld (paramOf r b) 31 0
  match handleOk s g h, getBuf s g h with
  | true, some _ => match runTile g h r s with
    | some t =>
      if tileOk t (payloadLen t) then slotOk 0 { r with treg := Map.set r.treg a (.tile h) } s
      else slotFail .malformedTile r s
    | none => slotFail .malformedTile r s
  | _, _ => slotFail .freeDenied r s

/-! ### PERM -/

/-- Rows made columns. -/
def transposeRows (cols : Nat) (rows : List (List Nat)) : List (List Nat) :=
  (upTo cols).map (fun c => rows.map (fun row => nthD row c 0))

def slotTrans (g u a b : Nat) (r : Run) (s : State) : SlotRes :=
  with1 g b r s (fun _ t s =>
    if ¬ isDense t ∨ t.scaled ∨ t.rows % 16 ≠ 0 ∨ 256 < t.cols then slotFail .malformedTile r s
    else newOut g u a (ceilDiv t.dataLen 256) (clinkIn [t])
      (noStats (withCodes (fromB r t) t.format.toNat t.cols t.rows (transposeRows t.cols (rowCodes t)).flatten)) id r s)

def slotSlice (g u a b c : Nat) (r : Run) (s : State) : SlotRes :=
  with1 g b r s (fun _ t s =>
    let p := paramOf r c
    let row0 := fld p 57 48
    let n := fld p 41 32
    let col0 := fld p 25 16
    let m := fld p 10 0
    if ¬ isDense t ∨ col0 % 16 ≠ 0 ∨ m % 16 ≠ 0 ∨ t.rows < row0 + n ∨ t.cols < col0 + m then slotFail .malformedTile r s
    else
      let kept := ((rowsOf t).drop row0).take n
      let t1 := withRows (fromB r t) m (kept.map (fun e => ((e.1.drop col0).take m, e.2)))
      let t2 := if col0 = 0 ∧ m = t.cols then t1 else noStats t1
      newOut g u a (ceilDiv t2.dataLen 256) (clinkIn [t]) t2 id r s)

/-- REFMT (R183, R185): the scale stays beside the codes where the destination allows SCALED, else it enters them. -/
def slotRefmt (g u a b imm : Nat) (r : Run) (s : State) : SlotRes :=
  with1 g b r s (fun _ t s =>
    if ¬ isDense t ∨ ¬ isNumeric t then slotFail .malformedTile r s
    else
      let keep := allowsScaled imm
      let vs := if keep then (codesOf t).map (elemVal t.format.toNat) else (rowVals t).flatten
      let t1 := noStats (withCodes (fromB r t) imm t.rows t.cols (vs.map (fun v => (convVal imm v).1)))
      newOut g u a (ceilDiv (elemCount t) 64) (clinkIn [t]) (if keep then t1 else noScales t1)
        (fun s => (convList g imm vs s).2) r s)

/-! ### Gather station -/

/-- GATHER (R161, R257): one row of B for each index of C; in routing work an index of all ones yields none. -/
def slotGather (g u a b c : Nat) (r : Run) (s : State) : SlotRes :=
  with2 g b c r s (fun t ix s =>
    if ¬ isDense t ∨ ¬ isIndexTile ix then slotFail .malformedTile r s
    else
      let routing := auxIsRouting ix.aux
      let all := codesOf ix
      let is := if routing ∧ ¬ ix.clinker then all.filter (fun i => i != 0xFFFFFFFF) else all
      let rows := rowsOf t
      let bad : Option (Nat × Nat) := (is.find? (fun i => decide (t.rows ≤ i))).map (fun i => (4, i))
      let cl : Option (Nat × Nat) := match clinkIn [t, ix] with
        | some x => some x
        | none => bad
      let t1 := withRows (fromB r t) t.cols (is.map (fun i => nthD rows i (List.replicate t.cols 0, 0, (0, 0))))
      let t2 : Tile := if routing then { t1 with aux := ix.aux } else t1
      newOut g u a (ceilDiv t2.dataLen 256) cl t2 id r s)

/-- Put row e.1 at place e.2, later rows winning. -/
def scatterRows {α : Type} (base : List α) (l : List (α × Nat)) : List α := l.foldl (fun acc e => acc.set e.2 e.1) base

/-- SCATTER: row C[i] of A becomes row i of B (R161). -/
def slotScatter (g u a b c : Nat) (r : Run) (s : State) : SlotRes :=
  with1 g a r s (fun h t s =>
    if ¬ r.outs.contains h then slotFail .freeDenied r s
    else with2 g b c r s (fun x ix s =>
      if ¬ isDense t ∨ ¬ isDense x ∨ ¬ isIndexTile ix ∨ t.format ≠ x.format ∨ t.cols ≠ x.cols ∨ t.scaled ≠ x.scaled ∨
          elemCount ix < x.rows then slotFail .malformedTile r s
      else
        let is := (codesOf ix).take x.rows
        let bad : Option (Nat × Nat) := (is.find? (fun i => decide (t.rows ≤ i))).map (fun i => (4, i))
        let cl : Option (Nat × Nat) := match clinkIn [t, x, ix] with
          | some y => some y
          | none => bad
        let t0 := if t.stats ∧ ¬ x.stats then noStats t else t
        let new_ := scatterRows (rowsOf t0) ((rowsOf x).zip is)
        changeOut g u h (ceilDiv x.dataLen 256) cl t (withRows t0 t0.cols new_) r s))

/-- COPY moves a tile whole, whatever its layout (R181, R261, R268). -/
def slotCopy (g u a b : Nat) (r : Run) (s : State) : SlotRes :=
  with1 g b r s (fun _ t s => newOut g u a (ceilDiv t.dataLen 256) (clinkIn [t]) (fromB r t) id r s)

/-! ### Sort station (R278-R280) -/

/-- A row's keys with their source index, stably sorted. -/
def sortKeys (format : Nat) (desc : Bool) (keys : List Nat) : List (Nat × Nat) :=
  sortBy (fun x y =>
    if desc then decide (keyRank format y.1 < keyRank format x.1) else decide (keyRank format x.1 < keyRank format y.1))
    keys.zipIdx

/-- The element of padding: all its octets 0xFF. -/
def padCode (format : Nat) : Nat := 256 ^ elemSize format - 1

def padTo (n p : Nat) (l : List Nat) : List Nat := l.take n ++ List.replicate (n - l.length) p

/-- One sorted output row: the first k entries of nk keys, in kc columns; then their values in as many. -/
def sortedRow (format : Nat) (desc pairs index : Bool) (cols k kc : Nat) (row : List Nat) : List Nat :=
  let nk := if pairs then cols / 2 else cols
  let es := (sortKeys format desc (row.take nk)).take k
  let pad := if index then 0xFFFFFFFF else padCode format
  if index then padTo kc pad (es.map (·.2))
  else if pairs then padTo kc pad (es.map (·.1)) ++ padTo kc 0xFFFFFFFF (es.map (fun e => nthD row (nk + e.2) 0))
  else padTo kc pad (es.map (·.1))

def sortAllows (t : Tile) (pairs : Bool) : Bool :=
  isDense t && isNumeric t &&
    (!pairs || ((t.format == 5 || t.format == 7 || t.format == 8) && t.cols % 32 == 0))

def sortTile (r : Run) (t : Tile) (desc pairs index : Bool) (k kc : Nat) : Tile :=
  let f := t.format.toNat
  let cols := if pairs then 2 * kc else kc
  noScales (noStats (withCodes (fromB r t) (if index then 8 else f) t.rows cols
    ((rowCodes t).map (sortedRow f desc pairs index t.cols k kc)).flatten))

/-- SORT. -/
def slotSort (g u a b imm : Nat) (r : Run) (s : State) : SlotRes :=
  with1 g b r s (fun _ t s =>
    let pairs := imm.testBit 2
    if ¬ sortAllows t pairs then slotFail .malformedTile r s
    else
      let nk := if pairs then t.cols / 2 else t.cols
      newOut g u a (ceilDiv (elemCount t) 16) (clinkIn [t])
        (sortTile r t (imm.testBit 0) pairs (imm.testBit 3) nk nk) id r s)

/-! ### The gate (R249-R251) -/

/-- Has a row of logits an infinite or NaN logit, which makes every p of it NaN (R249)? -/
def badLogits (role : Nat) (row : List Nat) : Bool := role != 2 && row.any (fun x => !isFinite (elemVal 5 x))

/-- p of a score: the owner's, or from the logit by the row's M and S. -/
def gateP (role : Nat) (x : Nat) (st : BitVec 32 × BitVec 32) : BitVec 32 :=
  if role = 2 then BitVec.ofNat 32 x
  else
    let d := rne32 (addVal (elemVal 5 x) (negVal (val32 st.1)))
    BitVec.ofNat 32 (convQuot 5 (val32 (exp32 (val32 d))) (val32 st.2)).1

/-- p within its row. -/
def rowP (role : Nat) (row : List Nat) (x : Nat) (st : BitVec 32 × BitVec 32) : BitVec 32 :=
  if badLogits role row then BitVec.ofNat 32 (canonNan fp32) else gateP role x st

/-- z of p under the layer's noise (R250). -/
def gateZ (s : State) (l : Nat) (step : W64) (tok e : Nat) (p : BitVec 32) : BitVec 32 :=
  let ns := ltField s l 2 63 32
  if ns = 0 then p
  else
    let seed := reg s (Reg.layer l 1)
    let x0 := philox0 (fld seed 31 0, fld seed 63 32)
      (fld step 31 0, fld step 63 32, tok % 2 ^ 32, ltField s l 0 15 0 * 65536 + e)
    -- 2u - 1 = (2 (x0 >> 8) - 2^24) × 2^-24
    let i : Int := 2 * ((x0 / 256 : Nat) : Int) - 16777216
    let n := rne32 (mulVal (elemVal 5 ns) (.fin (decide (i < 0)) i.natAbs (-24)))
    rne32 (addVal (val32 p) (val32 n))

/-- The choice records of one row (R251): k of the largest z, or one SKIP record where some p is a NaN. -/
def gateRow (s : State) (l k tok : Nat) (t : Tile) (row : List Nat) (st : BitVec 32 × BitVec 32) : List Rec :=
  let e0 := auxExpert t.aux
  let own := row.take (ltExperts s l - e0)
  let cs := own.zipIdx.map (fun x =>
    let p := rowP (auxRole t.aux) own x.1 st
    (e0 + x.2, p, gateZ s l t.step tok (e0 + x.2) p))
  if cs.any (fun c => isNan32 c.2.1) then
    [{ w0 := BitVec.ofNat 32 tok, w1 := 0x80000000#32 ||| (Config.skipWord (4 * tok + 1) &&& 0x31FFF#32),
       w2 := Config.skipWord (4 * tok + 2), w3 := Config.skipWord (4 * tok + 3) }]
  else
    ((sortBy (fun x y => decide (keyOf y.2.2 < keyOf x.2.2)) cs).take k).zipIdx.map (fun x =>
      { w0 := BitVec.ofNat 32 tok, w1 := BitVec.ofNat 32 (x.2 * 65536 + x.1.1), w2 := x.1.2.2, w3 := x.1.2.1 })

/-- AUX with another ROLE. -/
def withRole (a : W64) (role : Nat) : W64 := (a &&& ~~~(maskOf 47 45)) ||| at_ role 45

/-- A choice tile, which keeps B's STATS (R251, R280) with a side-band the spec gives no values, or a probability tile
of B's shape. -/
def gateTile (s : State) (r : Run) (k : Nat) (t : Tile) : Tile :=
  let l := auxLtab t.aux
  let rows := (rowCodes t).zip (if t.stats then t.rstats else List.replicate t.rows (0, 0))
  if ltClassT s l then
    { fromB r t with
      aux := withRole t.aux 4,
      data := packCodes 5 (rows.map (fun x =>
        let own := x.1.take (ltExperts s l - auxExpert t.aux)
        x.1.map (fun c => (rowP (auxRole t.aux) own c x.2).toNat))).flatten }
  else
    let recs : List Rec := (rows.zipIdx.map (fun x => gateRow s l k (auxToken t.aux + x.2) t x.1.1 x.1.2)).flatten
    let codes := recCodes recs
    { withCodes (fromB r t) 8 (codes.length / 16) 16 codes with
      aux := withRole t.aux 3, rstats := if t.stats then (upTo (codes.length / 16)).map Config.choiceBand else [] }

/-- May a tile pass the gate? -/
def gateAllows (t : Tile) : Bool :=
  auxIsRouting t.aux && isPlainFp32 t &&
    ((auxRole t.aux == 1 && t.stats) || (auxRole t.aux == 2 && !t.stats))

/-- TOPK, and with IMM[1] = 1 the gate. -/
def slotTopk (g u a b c imm : Nat) (r : Run) (s : State) : SlotRes :=
  with1 g b r s (fun _ t s =>
    let k := fld (paramOf r c) 6 0
    let pairs := imm.testBit 2
    let gate := imm.testBit 1
    if k = 0 ∨ 64 < k ∨ ¬ sortAllows t pairs ∨ (gate ∧ ¬ gateAllows t) then slotFail .malformedTile r s
    else
      let kc := 16 * ceilDiv k 16
      newOut g u a (ceilDiv (elemCount t) 64) (clinkIn [t])
        (if gate then gateTile s r k t else sortTile r t (imm.testBit 0) pairs (imm.testBit 3) k kc) id r s)

/-! ### Filter station (R281, R282) -/

/-- SELECT: the rows whose mask element (r, 0) is not zero; none kept leaves A empty. -/
def slotSelect (g u a b c : Nat) (r : Run) (s : State) : SlotRes :=
  with2 g b c r s (fun t m s =>
    if ¬ isDense t ∨ ¬ isIndexTile m ∨ m.rows ≠ t.rows then slotFail .malformedTile r s
    else
      let keep (i : Nat) : Bool := m.clinker || nthD (nthD (rowCodes m) i []) 0 0 != 0
      let rows := ((rowsOf t).zipIdx.filter (fun e => keep e.2)).map (·.1)
      if rows.isEmpty then slotOk (ceilDiv t.dataLen 256) { r with treg := Map.set r.treg a .emptySelect } s
      else newOut g u a (ceilDiv t.dataLen 256) (clinkIn [t, m]) (withRows (fromB r t) t.cols rows) id r s)

/-- The comparison of IMM[1:0]; one with a NaN is false. -/
def threshTest (mode : Nat) (x tau : Val) : Bool :=
  if mode = 0 then ltVal tau x || eqVal x tau else if mode = 1 then ltVal tau x
  else if mode = 2 then ltVal x tau || eqVal x tau else ltVal x tau

/-- THRESH: a U32 mask of the elements that compare true with τ. -/
def slotThresh (g u a b c imm : Nat) (r : Run) (s : State) : SlotRes :=
  with1 g b r s (fun _ t s =>
    if ¬ isDense t ∨ ¬ isNumeric t ∨ 65536 < 4 * elemCount t then slotFail .malformedTile r s
    else
      let tau := elemVal 5 (fld (paramOf r c) 31 0)
      let codes := (rowVals t).flatten.map (fun v => bit1 (threshTest (imm % 4) v tau))
      newOut g u a (ceilDiv t.dataLen 256) (clinkIn [t])
        (noScales (noStats (withCodes (fromB r t) 8 t.rows t.cols codes))) id r s)

/-! ### META (R161, R172) -/

/-- Change the header of the tile A names: its buffer where this run made it, else the run's own copy until commit. No
META slot takes a tile in a sparse layout (R261). -/
def slotMeta (g a : Nat) (f : Tile → Tile) (r : Run) (s : State) : SlotRes :=
  match tregTile g a r s with
  | none => slotFail .malformedTile r s
  | some (h, t) =>
    if ¬ isDense t then slotFail .malformedTile r s
    else if r.outs.contains h then slotOk 0 r (setTileHdr g r.inv.unit r.inv.tag h (f t) s)
    else slotOk 0 { r with overlay := Map.set r.overlay h (f t) } s

def slotSetCtx (g a b : Nat) (r : Run) (s : State) : SlotRes :=
  let p := paramOf r b
  slotMeta g a (fun t => { t with
    ctx := BitVec.ofNat 16 (fld p 63 48), rank := BitVec.ofNat 12 (fld p 43 32), epoch := BitVec.ofNat 32 (fld p 31 0) }) r s

def slotSetSeq (g a b : Nat) (r : Run) (s : State) : SlotRes :=
  slotMeta g a (fun t => { t with seq := BitVec.ofNat 32 (fld (paramOf r b) 31 0 + r.pass) }) r s

/-- NEXTSEQ: SCs + j, j the NEXTSEQ slots on the counter that ran before in this invocation. -/
def slotNextSeq (g a imm : Nat) (r : Run) (s : State) : SlotRes :=
  let c := imm % 8
  let j : Nat := Map.getD r.nextSeqs c 0
  let v := Map.getD r.sctr c 0 + BitVec.ofNat 32 j
  let x := slotMeta g a (fun t => { t with seq := v }) r s
  match x.err with
  | some _ => x
  | none => { x with run := { x.run with nextSeqs := Map.set x.run.nextSeqs c (j + 1) } }

def slotSetAux (g a b : Nat) (r : Run) (s : State) : SlotRes := slotMeta g a (fun t => { t with aux := paramOf r b }) r s

def slotMark (g a imm : Nat) (r : Run) (s : State) : SlotRes :=
  slotMeta g a (fun t => { t with last := imm.testBit 0 }) r s

/-- STEP: the step counter of the invocation's context, 0 where it names none that is defined. -/
def slotStep (g a : Nat) (r : Run) (s : State) : SlotRes :=
  let v : W64 := match getCtx s r.inv.context.toNat with
    | some x => x.step
    | none => 0
  slotMeta g a (fun t => { t with step := v }) r s

/-! ### EMIT (R172, R282) -/

def addEmit (e : Emit) (r : Run) : Run := { r with emits := r.emits ++ [(r.bundle, e)] }

/-- An EMIT slot records the buffer its register names; an empty SELECT result has no effect; an empty register
fails (Table 7.7). -/
def slotEmit (a : Nat) (f : Nat → Emit) (r : Run) (s : State) : SlotRes :=
  match Map.get? r.treg a with
  | some (.tile h) => slotOk 0 (addEmit (f h) r) s
  | some .emptySelect => slotOk 0 (addEmit .nothing r) s
  | none => slotFail .malformedTile r s

/-- NEXT: to the downstream station, at the port the cord names (R291). -/
def slotNext (g u a imm : Nat) (r : Run) (s : State) : SlotRes :=
  match downstream s g u with
  | some d => if d.portB = imm.testBit 0 then slotEmit a Emit.next r s else slotFail .resourceBound r s
  | none => slotFail .resourceBound r s

def slotSend (a b : Nat) (r : Run) (s : State) : SlotRes := slotEmit a (fun h => .send h (paramOf r b)) r s

/-- PUT takes no tile in a sparse layout (R261). -/
def slotPut (g a b c : Nat) (r : Run) (s : State) : SlotRes :=
  match tregTile g a r s with
  | some (_, t) =>
    if isDense t then slotEmit a (fun h => .put h (paramOf r b) (paramOf r c)) r s else slotFail .malformedTile r s
  | none => slotEmit a (fun h => .put h (paramOf r b) (paramOf r c)) r s

def slotWrite (a b c : Nat) (r : Run) (s : State) : SlotRes :=
  slotEmit a (fun h => .write h (BitVec.ofNat 48 (strided r b c))) r s

/-- DISCARD empties the register; an output named by nothing else is freed at commit with the rest. -/
def slotDiscard (a : Nat) (r : Run) (s : State) : SlotRes :=
  let r1 : Run := match Map.get? r.treg a with
    | some (.tile h) => addEmit (.discard h) r
    | some .emptySelect => addEmit .nothing r
    | none => r
  slotOk 0 { r1 with treg := Map.erase r1.treg a } s

/-- SIGNAL (R171): recorded for the commit. -/
def slotSignal (a imm : Nat) (r : Run) (s : State) : SlotRes :=
  slotOk 0 { r with signals := r.signals ++ [(r.bundle, fld (paramOf r a) 12 0, imm)] } s

end Sys2Proof.Machine
end

