-- ==== Sys2Proof/Machine/Programs.lean ====
section
/-! DEFINITION. Station programs: loading, invocations, bundles, commit, parameters, and the view of the accumulators
(chapters 7 and 8). -/

namespace Sys2Proof.Machine

open Sys2Proof

/-! ### The program store (R163-R165) -/

/-- Octets of a group's program store; an unwritten one is 0. -/
def storeByte (gr : GroupSt) (a : Nat) : Byte := Map.getD gr.pstore a 0

def storeBytes (gr : GroupSt) (a n : Nat) : List Byte := (upTo n).map (fun i => storeByte gr (a + i))

def setStore (m : Map Byte) (a : Nat) (b : Byte) : Map Byte := if b = 0 then Map.erase m a else Map.set m a b

def imageBytes (p : Prog) : Nat := 16 + 4 * p.words.length

/-- Does a range of the store meet the image of a valid program? -/
def imageMeets (gr : GroupSt) (lo hi : Nat) : Bool :=
  gr.progs.any (fun e => decide (e.2.addr < hi) && decide (lo < e.2.addr + imageBytes e.2))

/-- A unit's share: first octet and size (R290, Table 7.11). -/
def shareOf (s : State) (g u : Nat) : Nat × Nat :=
  match s.cord.cfg with
  | some c =>
    let r := nthD c.unitRecs (13 * g + u) (0, 0, 0)
    (r.2.1 * 1024, r.2.2 * 1024)
  | none => (0, 0)

/-- STN_PSTORE: eight octets; an octet of a valid program's image is not written (R165). -/
def pstoreWrite (g off : Nat) (v : W64) (s : State) : Status × State :=
  let a := off / 8 * 8
  if imageMeets (getGroup s g) a (a + 8) then (.resourceBound, s)
  else (.ok, modGroup s g (fun gr =>
    { gr with pstore := (leBytes 8 v.toNat).zipIdx.foldl (fun m e => setStore m (a + e.2) e.1) gr.pstore }))

def execPstoreWrite (g : Grp) (off : BitVec 21) (v : W64) (s : State) : Host.Outcome State Fault Refusal :=
  hostCmd (unfenced (pstoreWrite g.toNat off.toNat v)) s

/-! ### The load checks (R157, R159, R164, Table 7.5, R279) -/

/-- A row of Table 7.5: the station kinds, how many values the fields A, B and C may take, and the IMM test. -/
structure OpRow where
  kinds : List Nat
  a : Nat
  b : Nat
  c : Nat
  imm : Nat → Bool

/-- The opcodes valid in a slot, by mask bit. -/
def opRow (bit op : Nat) : Option OpRow :=
  let all : List Nat := [0, 1, 2, 3, 4, 5]
  let row (ks : List Nat) (a b c : Nat) (i : Nat → Bool) : Option OpRow :=
    some { kinds := ks, a := a, b := b, c := c, imm := i }
  let z : Nat → Bool := fun i => i == 0
  let bit0 : Nat → Bool := fun i => decide (i < 2)
  match bit, op with
  | 0, 1 => row all 8 1 1 bit0
  | 0, 2 => row all 8 64 1 z
  | 0, 3 => row all 8 64 64 z
  | 0, 4 => row all 8 64 1 z
  | 4, 1 => row [1, 4, 5] 8 8 1 z
  | 4, 2 => row all 8 8 64 z
  | 4, 3 => row all 8 8 1 (fun i => decide (1 ≤ i) && decide (i ≤ 8))
  | 5, 1 => row [0, 4, 5] 8 8 1 z
  | 5, 2 => row [0, 4, 5] 8 8 1 (fun i => i == 1 || i == 2 || i == 6)
  | 7, 1 => row all 8 64 1 z
  | 7, 2 => row all 8 64 1 z
  | 7, 3 => row all 8 1 1 (fun i => decide (i < 8))
  | 7, 4 => row all 8 64 1 z
  | 7, 5 => row all 8 1 1 bit0
  | 7, 6 => row all 8 1 1 z
  | 1, 1 => row all 8 1 1 bit0
  | 1, 2 => row all 8 64 1 z
  | 1, 3 => row all 8 64 64 z
  | 1, 4 => row all 8 64 64 z
  | 1, 5 => row all 8 1 1 z
  | 6, 1 => row all 64 1 1 (fun i => decide (1 ≤ i))
  | 6, 2 => row all 64 64 1 z
  | b, o =>
    if b = 2 ∨ b = 3 then
      match o with
      | 0x01 => row [0, 4, 5] 4 1 1 z
      | 0x08 => row [0] 4 8 1 z
      | 0x09 => row [0] 4 8 8 z
      | 0x0A => row [0] 4 8 1 z
      | 0x0B => row [0] 8 4 1 (fun i => decide (1 ≤ i) && decide (i ≤ 5))
      | 0x0C => row [0] 8 4 1 z
      | 0x0D => row [0] 8 8 1 z
      | 0x0E => row [0] 8 8 1 (fun _ => true)
      | 0x10 => row [1] 8 8 8 z
      | 0x11 => row [1] 8 8 8 z
      | 0x12 => row [1] 8 8 1 z
      | 0x18 => row [2] 8 8 1 (fun i => decide (i < 16) && !i.testBit 1 && !(i.testBit 2 && i.testBit 3))
      | 0x19 => row [2] 8 8 64 (fun i => decide (i < 16) && !(i.testBit 2 && i.testBit 3))
      | 0x20 => row [3] 8 8 8 z
      | 0x21 => row [3] 8 8 64 (fun i => decide (i < 4))
      | 0x28 => row [4, 5] 4 8 8 z
      | 0x29 => row [4, 5] 8 4 1
          (fun i => bits i 6 5 == 0 && decide (1 ≤ i % 32) && decide (i % 32 ≤ 5))
      | 0x30 => row [5] 8 8 8 (fun i => decide (i < 64))
      | 0x31 => row [5] 4 8 8 (fun i => decide (i < 8))
      | _ => none
    else none

/-- Is a slot valid for a station kind (R159)? -/
def slotValid (kind : Nat) (x : Nat × BitVec 32) : Bool :=
  match opRow x.1 (slotOp x.2) with
  | some r => r.kinds.contains kind && decide (slotA x.2 < r.a) && decide (slotB x.2 < r.b) &&
      decide (slotC x.2 < r.c) && r.imm (slotImm x.2)
  | none => false

/-- Where each bundle's header stands; the index of the first bundle that runs past the words, or BUNDLES for words
left over (check 6). -/
def bundleStarts (words : List (BitVec 32)) (n : Nat) : Nat → Nat → List Nat → Except Nat (List Nat)
  | 0, pos, acc => if pos = words.length then .ok acc else .error n
  | f + 1, pos, acc =>
    if words.length ≤ pos ∨ words.length < pos + bundleLen words pos then .error (n - (f + 1))
    else bundleStarts words n f (pos + bundleLen words pos) (acc ++ [pos])

/-- A bundle's flags and slots (check 7). -/
def bundleValid (kind n i pos : Nat) (words : List (BitVec 32)) : Bool :=
  let h := (nthD words pos 0).toNat
  bits h 6 1 == 0 && h.testBit 7 == (i + 1 == n) && (bundleSlots words pos).all (slotValid kind)

/-- The checks of R164 in order: the program, or status, detail and bundle index. -/
def loadCheck (s : State) (g p u addr : Nat) : Except (Status × Nat × Nat) Prog :=
  let gr := getGroup s g
  let sh := shareOf s g u
  let img := storeBytes gr addr 16
  let nw := fromLe (slice img 8 4)
  let n := fromLe (slice img 4 2)
  let inside := addr % 16 = 0 ∧ sh.1 ≤ addr ∧ addr + 16 ≤ sh.1 + sh.2 ∧ addr + 16 + 4 * nw ≤ sh.1 + sh.2
  if ¬ (u < 12 ∧ unitPresent s u) then .error (.stationAbsent, 1, 0)
  else if Map.has gr.progs p then .error (.resourceBound, 2, 0)
  else if ¬ inside ∨ imageMeets gr addr (addr + 16 + 4 * nw) then .error (.resourceBound, 3, 0)
  else if fromLe (img.take 2) ≠ 1 then .error (.versionUnsupported, 4, 0)
  else if (nthD img 2 0).toNat ≠ unitKind u then .error (.malformedTile, 5, 0)
  else if ¬ (allZero (slice img 6 2) ∧ allZero (slice img 12 4) ∧ 1 ≤ n ∧ n ≤ 4096) then .error (.malformedTile, 6, 0)
  else
    let words := (chunksOf 4 (storeBytes gr (addr + 16) (4 * nw))).map (fun b => BitVec.ofNat 32 (fromLe b))
    match bundleStarts words n n 0 [] with
    | .error i => .error (.malformedTile, 6, i)
    | .ok starts =>
      match starts.zipIdx.find? (fun e => !bundleValid (unitKind u) n e.2 e.1 words) with
      | some e => .error (.malformedTile, 7, e.2)
      | none => .ok { unit := u, tagHi := nthD img 3 0, addr := addr, bundles := n, words := words }

/-- Key of STN_PARAM_p_i. -/
def paramKey (p i : Nat) : Nat := 64 * p + i

/-- A program's parameters and replay count that are no longer kept. -/
def forgetParams (p : Nat) (gr : GroupSt) : GroupSt :=
  { gr with params := Map.keep gr.params (fun k _ => k / 64 != p), replay := Map.erase gr.replay p }

/-- STN_PROG_STATUS (Table 7.10). -/
def progStatus (g p : Nat) (st : Status) (detail bundle : Nat) (s : State) : State :=
  modGroup s g (fun gr => { gr with
    progStatus := st, progDetail := BitVec.ofNat 8 detail, progBundle := bundle, progNo := BitVec.ofNat 6 p })

/-- LOAD (R164). -/
def programLoad (g : Nat) (v : W64) (s : State) : Status × State :=
  let p := fld v 5 0
  match loadCheck s g p (fld v 19 16) (fld v 44 24) with
  | .error e => (e.1, progStatus g p e.1 e.2.1 e.2.2 s)
  | .ok pr =>
    (.ok, progStatus g p .ok 0 0 (modGroup
      (writeSram (.store .program (64 * g + p)) 0 ((pr.words.length + 1) / 2) s) g (fun gr =>
      { forgetParams p gr with progs := Map.set gr.progs p pr, replay := Map.set gr.replay p 1 })
))

def execProgramLoad (g : Grp) (v : W64) (s : State) : Host.Outcome State Fault Refusal :=
  hostCmd (unfenced (programLoad g.toNat v)) s

/-- Is an invocation of p waiting or running in the group, or does an enabled trigger of its unit name it (R165)? -/
def programBusy (s : State) (g p u : Nat) : Bool :=
  let is (i : Invoc) : Bool := i.prog.toNat == p
  (upTo 12).any (fun k =>
    let un := getUnit s g k
    un.order.any is || (match un.run with
      | some r => is r.inv
      | none => false)) ||
  (getGroup s g).abandoned.any (fun e => is e.2.inv) ||
  (bitAt (reg s (Reg.trigger g u)) 63 && fld (reg s (Reg.trigger g u)) 53 48 == p)

/-- UNLOAD (R165). -/
def programUnload (g : Nat) (v : W64) (s : State) : Status × State :=
  let p := fld v 5 0
  if 12 ≤ fld v 19 16 then (.fieldInvalid, s)
  else match Map.get? (getGroup s g).progs p with
    | none => (.ok, progStatus g p .ok 0 0 s)
    | some pr =>
      if programBusy s g p pr.unit then (.resourceBound, progStatus g p .resourceBound 0 0 s)
      else (.ok, progStatus g p .ok 0 0
        (modGroup s g (fun gr => { forgetParams p gr with progs := Map.erase gr.progs p })))

def execProgramUnload (g : Grp) (v : W64) (s : State) : Host.Outcome State Fault Refusal :=
  hostCmd (unfenced (programUnload g.toNat v)) s

/-- STN_PROG_CTRL (Table 7.9); the reset value 0b00 of ACTION is accepted and starts nothing (R12). -/
def progCtrlWrite (g : Nat) (v : W64) (s : State) : Status × State :=
  let a := fld v 63 62
  if a = 1 then programLoad g v s
  else if a = 2 then programUnload g v s
  else if a = 0 ∧ fld v 19 16 < 12 then (.ok, s)
  else (.fieldInvalid, s)

/-! ### Parameters, replay counts and MAINT (R174, R175, R198) -/

def patch (g p : Nat) (f : GroupSt → GroupSt) (s : State) : Status × State :=
  let gr := getGroup s g
  if ¬ Map.has gr.progs p then (.resourceBound, s)
  else if ¬ gr.maint then (.paramLocked, s)
  else (.ok, modGroup s g f)

def paramWrite (g p i : Nat) (v : W64) : State → Status × State :=
  patch g p (fun gr => { gr with
    params := if v = 0 then Map.erase gr.params (paramKey p i) else Map.set gr.params (paramKey p i) v })

def execParamWrite (g : Grp) (p i : BitVec 6) (v : W64) (s : State) : Host.Outcome State Fault Refusal :=
  hostCmd (unfenced (paramWrite g.toNat p.toNat i.toNat v)) s

def replayCountWrite (g p : Nat) (v : W64) : State → Status × State :=
  patch g p (fun gr => { gr with replay := Map.set gr.replay p (BitVec.ofNat 32 (fld v 31 0)) })

def execReplayCountWrite (g : Grp) (p : BitVec 6) (v : W64) (s : State) : Host.Outcome State Fault Refusal :=
  hostCmd (unfenced (replayCountWrite g.toNat p.toNat v)) s

/-- STN_MODE: clearing MAINT also clears the group's debug bit. -/
def maintWrite (g : Nat) (v : W64) (s : State) : Status × State :=
  let s1 := modGroup s g (fun gr => { gr with maint := bitAt v 0 })
  (.ok, if bitAt v 0 then s1 else setReg s1 Reg.arithDebug (reg s1 Reg.arithDebug &&& ~~~(maskOf g g)))

def execMaintWrite (g : Grp) (v : W64) (s : State) : Host.Outcome State Fault Refusal :=
  hostCmd (unfenced (maintWrite g.toNat v)) s

/-- HTH_ARITH_DEBUG (R198). -/
def arithDebugWrite (v : W64) (s : State) : Status × State :=
  if (upTo 16).any (fun g => bitAt v g && !(getGroup s g).maint) then (.paramLocked, s)
  else (.ok, setReg s Reg.arithDebug (v &&& maskOf 15 0))

def execArithDebugWrite (v : W64) (s : State) : Host.Outcome State Fault Refusal := hostCmd (arithDebugWrite v) s

/-- HTH_ACC_PEEK_CTRL: each write starts one peek and clears DONE. -/
def accPeek (v : W64) (s : State) : Status × State :=
  let u := fld v 43 40
  if ¬ (u ≤ 3 ∨ u = 9 ∨ u = 10 ∨ u = 11) then (.fieldInvalid, s)
  else
    let s1 := setReg s Reg.peekCtrl (v &&& (maskOf 51 48 ||| maskOf 43 40 ||| maskOf 33 32 ||| maskOf 17 0))
    (.ok, { s1 with dbg := { s1.dbg with peekPending := true, peekDone := false } })

def execAccPeek (v : W64) (s : State) : Host.Outcome State Fault Refusal := hostCmd (accPeek v) s

/-- One element as the peek shows it: kind, flags and data words (Tables 8.9, 8.10). -/
def peekElem (x : Acc) (i : Nat) : BitVec 2 × BitVec 3 × List W64 :=
  match x.val with
  | .long l => match l[i]? with
    | some e => (1, BitVec.ofNat 3 (4 * bit1 e.nan + 2 * bit1 e.pinf + bit1 e.ninf),
        (upTo 10).map (fun w => (e.i >>> (64 * w)).setWidth 64))
    | none => (0, 0, [])
  | .fp l => match l[i]? with
    | some e => (2, 0, [e.setWidth 64])
    | none => (0, 0, [])
  | .none => (0, 0, [])

/-- A peek finishes: from the committed local store (R198). A group not in debug mode shows PARAM_LOCKED, also where
the unit is fused off (DESIGN CHOICE, log entry 123: Table 8.9 gives no precedence). -/
def accPeekComplete (s : State) : State :=
  if ¬ s.dbg.peekPending then s
  else
    let v := reg s Reg.peekCtrl
    let g := fld v 51 48
    let u := fld v 43 40
    let st : Status :=
      if ¬ bitAt (reg s Reg.arithDebug) g then .paramLocked else if unitPresent s u then .ok else .stationAbsent
    let x : Acc := if st = .ok then getAcc (getUnit s g u).acc (fld v 33 32) else emptyAcc
    let e := peekElem x (fld v 17 0)
    let s1 := if st = .ok ∧ e.1 ≠ 0 then
        (readSram 1 (unitByte g u) none (accPlace g u (fld v 33 32)) (12 * fld v 17 0) 12 s).2
      else s
    { s1 with dbg := { s1.dbg with
      peekPending := false, peekDone := true, peekStatus := st, peekKind := e.1, peekFlags := e.2.1,
      peekData := e.2.2, peekRows := BitVec.ofNat 9 x.rows, peekCols := BitVec.ofNat 11 x.cols } }

def execAccPeekComplete (s : State) : Host.Outcome State Fault Refusal := .next (accPeekComplete s)

/-- SPR_STEER_n (R273). -/
def steerWrite (g : Nat) (v : W64) (s : State) : Status × State :=
  let gr := getGroup s g
  let p := fld v 3 0
  let inPipe : Bool := (pipelineOf s g p).isSome
  let st : Status :=
    if ¬ (gr.steerA.isEmpty ∧ gr.steerB.isEmpty) then .resourceBound
    else if bitAt v 63 ∧ ¬ (unitPresent s 11 ∧ unitPresent s p) then .stationAbsent
    else if bitAt v 63 ∧ (inPipe ∨ ¬ entryOk s g 11) then .resourceBound
    else .ok
  if ¬ (p = 9 ∨ p = 10) then (.fieldInvalid, s)
  else
    let s1 := modGroup s g (fun gr => { gr with steerStatus := st, pairs := if st = .ok then 0 else gr.pairs })
    (st, if st = .ok then setReg s1 (Reg.steer g) (v &&& (maskOf 63 63 ||| maskOf 3 0)) else s1)

def execSteerWrite (g : Grp) (v : W64) (s : State) : Host.Outcome State Fault Refusal :=
  hostCmd (unfenced (steerWrite g.toNat v)) s

/-! ### Invocations start (R44, R168, R169, R225) -/

/-- A run as it stands at its start: the snapshot of parameters, counters and committed local store; one that names a
context then timed out is doomed (R168, R232). -/
def startRun (gr : GroupSt) (un : UnitSt) (inv : Invoc) (no : BitVec 48) (doomed : Bool) : Run :=
  let p := inv.prog.toNat
  let n : Nat := if inv.replaySel then inv.count.toNat else (Map.getD gr.replay p 1).toNat
  { inv := inv, passes := n, pass := 0, bundle := 0, word := 0,
    params := (gr.params.filter (fun e => e.1 / 64 == p)).map (fun e => (e.1 % 64, e.2)), treg := [], acc := un.acc,
    emits := [], signals := [], overlay := [], outs := [], takenA := 0, takenB := 0, nextSeqs := [], sctr := un.sctr,
    invocNo := no, btag := 0, cost := 0, ended := n == 0, doneAt := none, doomed := doomed }

/-- The fields of an invocation that its start checks (R168 step 2). -/
def invocOk (gr : GroupSt) (inv : Invoc) : Bool :=
  (match Map.get? gr.progs inv.prog.toNat with
   | some p => p.unit == inv.unit
   | none => false) &&
  (decide (inv.context.toNat < 16384) || inv.context == 0x7FFF) &&
  (decide (inv.doneTally.toNat < 8192) || inv.doneTally == 0x3FFF)

/-- Has the round of a context timed out (R232)? -/
def ctxDead (s : State) (c : Nat) : Bool :=
  match getCtx s c with
  | some x => x.state == .timedOut
  | none => false

/-- The unit begins the next invocation of its order: counted, checked, its snapshot taken. A named context in the
bank is needed from here on. -/
def beginInvoc (g u : Nat) (inv : Invoc) (rest : List Invoc) (s : State) : State :=
  let start := inv.startTick.toNat
  let late := start != 0 && decide (start < inv.reached)
  let s1 := if late then logEv 0x000F 2 (unitByte g u) (some inv.tag) [g, now s - start, start] s else s
  let no := (getUnit s1 g u).invoc + 1
  let s2 := count 7 11 g (modUnit s1 g u (fun x => { x with order := rest, invoc := no }))
  let x := readLocal g u inv.tag s2
  let r : Run :=
    { startRun (getGroup s2 g) (getUnit s2 g u) inv no (ctxDead s2 inv.context.toNat) with acc := x.1 }
  let s3 := traceGroup 2 g u inv.tag 0 no.toNat 0 0 x.2
  if ¬ invocOk (getGroup s3 g) inv then failRun g u r .resourceBound s3
  else
    let s4 := modUnit s3 g u (fun x => { x with run := some r })
    let s5 := if r.passes = 0 then count 7 13 g s4 else s4
    let c := inv.context.toNat
    needCtx c (readCtx 1 (unitByte g u) (some inv.tag) c s5)

/-- A unit that may not begin: one runs, a completion is held (R312), the device is fenced (R362), or a takeover has
the unit or its spare (R153). What is addressed to unit 4 itself while it covers another unit stays in unit 4's order
and never starts (DESIGN CHOICE, log entry 124: R153 names no outcome). -/
def unitStopped (s : State) (g u : Nat) : Bool :=
  let gr := getGroup s g
  let un := getUnit s g u
  un.run.isSome || un.heldCpl.isSome || s.twn.fenced || gr.taking == some u ||
    (u == 4 && (gr.covering || gr.taking.isSome))

def invocationStart (g u : Nat) (s : State) : State :=
  if ¬ groupRuns s g ∨ unitStopped s g u ∨ ¬ stepFree s g (getUnit s g u).lastStep then s
  else match (getUnit s g u).order with
    | [] => s
    | inv :: rest =>
      if inv.startTick ≠ 0 ∧ now s < inv.startTick.toNat then s else beginInvoc g u inv rest s

def execInvocationStart (g : Grp) (u : UnitNo) (s : State) : Host.Outcome State Fault Refusal :=
  if u.toNat < 12 then .next (invocationStart g.toNat u.toNat s) else .refused .illFormedCommand

/-! ### Bundles (R157, R158, R162) -/

def loadSlot (g u op a b c imm : Nat) (r : Run) (s : State) : SlotRes :=
  match op with
  | 1 => slotTake g u a (imm.testBit 0) r s
  | 2 => slotAlloc g u a b r s
  | 3 => slotRead g u a b c r s
  | 4 => slotHold g a b r s
  | _ => slotFail .malformedTile r s

def permSlot (g u op a b c imm : Nat) (r : Run) (s : State) : SlotRes :=
  match op with
  | 1 => slotTrans g u a b r s
  | 2 => slotSlice g u a b c r s
  | 3 => slotRefmt g u a b imm r s
  | _ => slotFail .malformedTile r s

def mathSlot (g u op a b c imm : Nat) (r : Run) (s : State) : SlotRes :=
  match op with
  | 0x01 => slotZero a r s
  | 0x08 => slotRadd g u a b r s
  | 0x09 => slotRwadd g u a b c r s
  | 0x0A => slotRmerge g u a b r s
  | 0x0B => slotRound g u a b imm false r s
  | 0x0C => slotPartout g u a b r s
  | 0x0D => slotParity g u a b 1 r s
  | 0x0E => slotParity g u a b imm r s
  | 0x10 => slotGather g u a b c r s
  | 0x11 => slotScatter g u a b c r s
  | 0x12 => slotCopy g u a b r s
  | 0x18 => slotSort g u a b imm r s
  | 0x19 => slotTopk g u a b c imm r s
  | 0x20 => slotSelect g u a b c r s
  | 0x21 => slotThresh g u a b c imm r s
  | 0x28 => slotMatmul g u a b c r s
  | 0x29 => slotRound g u a b imm (imm.testBit 7) r s
  | 0x30 => slotKindle g u a b c imm r s
  | 0x31 => slotMaskmm g u a b c imm r s
  | _ => slotFail .malformedTile r s

def scaleSlot (g u op a b imm : Nat) (r : Run) (s : State) : SlotRes :=
  match op with
  | 1 => slotRowscale g u a b r s
  | 2 => slotQuant g u a b imm r s
  | _ => slotFail .malformedTile r s

def metaSlot (g op a b imm : Nat) (r : Run) (s : State) : SlotRes :=
  match op with
  | 1 => slotSetCtx g a b r s
  | 2 => slotSetSeq g a b r s
  | 3 => slotNextSeq g a imm r s
  | 4 => slotSetAux g a b r s
  | 5 => slotMark g a imm r s
  | 6 => slotStep g a r s
  | _ => slotFail .malformedTile r s

def emitSlot (g u op a b c imm : Nat) (r : Run) (s : State) : SlotRes :=
  match op with
  | 1 => slotNext g u a imm r s
  | 2 => slotSend a b r s
  | 3 => slotPut g a b c r s
  | 4 => slotWrite a b c r s
  | 5 => slotDiscard a r s
  | _ => slotFail .malformedTile r s

/-- A TALLY slot; WAIT was judged before the bundle began. -/
def tallySlot (op a imm : Nat) (r : Run) (s : State) : SlotRes :=
  match op with
  | 1 => slotSignal a imm r s
  | 2 => slotOk 0 r s
  | _ => slotFail .malformedTile r s

/-- One slot, by its mask bit. -/
def runSlot (g u : Nat) (x : Nat × BitVec 32) (r : Run) (s : State) : SlotRes :=
  let op := slotOp x.2
  let a := slotA x.2
  let b := slotB x.2
  let c := slotC x.2
  let imm := slotImm x.2
  match x.1 with
  | 0 => loadSlot g u op a b c imm r s
  | 1 => emitSlot g u op a b c imm r s
  | 2 => mathSlot g u op a b c imm r s
  | 3 => mathSlot g u op a b c imm r s
  | 4 => permSlot g u op a b c imm r s
  | 5 => scaleSlot g u op a b imm r s
  | 6 => tallySlot op a imm r s
  | _ => metaSlot g op a b imm r s

/-- The slots in execution order (Table 7.3), to the first failure; the cost is the largest. -/
def runSlots (g u : Nat) : List (Nat × BitVec 32) → Nat → Run → State → SlotRes
  | [], cost, r, s => slotOk cost r s
  | x :: xs, cost, r, s =>
    let y := runSlot g u x r s
    match y.err with
    | some _ => y
    | none => runSlots g u xs (max cost y.cost) y.run y.st

def execOrder (slots : List (Nat × BitVec 32)) : List (Nat × BitVec 32) :=
  [0, 4, 2, 3, 5, 7, 1, 6].filterMap (fun n => slots.find? (fun x => x.1 == n))

/-- The tallies a bundle's WAIT slots name are read in table SRAM (R122). -/
def readWaits (r : Run) (slots : List (Nat × BitVec 32)) (s : State) : State :=
  foldOver (slots.filter (fun x => x.1 == 6 && slotOp x.2 == 2)) (fun s x =>
    readTally (fld (paramOf r (slotA x.2)) 12 0) s) s

/-- Is a wait slot satisfied: a tally that holds enough, a tile queued (a ninth TAKE does not wait, R170), a READ whose
memory arbiters can grant it (R127)? -/
def waitMet (s : State) (g u : Nat) (r : Run) (x : Nat × BitVec 32) : Bool :=
  if x.1 = 6 ∧ slotOp x.2 = 2 then
    decide (fld (paramOf r (slotB x.2)) 47 0 ≤ (getTally s (fld (paramOf r (slotA x.2)) 12 0)).value.toNat)
  else if x.1 = 0 ∧ slotOp x.2 = 1 then
    let portB := (slotImm x.2).testBit 0
    let n := if portB then r.takenB else r.takenA
    decide (8 ≤ n) || decide (n < (portQueue (getUnit s g u) portB).length)
  else if x.1 = 0 ∧ slotOp x.2 = 3 then readFree (strided r (slotB x.2) (slotC x.2)) s
  else true

/-- Has the context of a run timed out, now or since its start (R232)? -/
def runDead (s : State) (r : Run) : Bool := r.doomed || ctxDead s r.inv.context.toNat

/-- Is the context of a run on chip, so that its start is over (R225)? -/
def ctxReady (s : State) (r : Run) : Bool :=
  match getCtx s r.inv.context.toNat with
  | some x => x.onChip
  | none => true

/-- After a bundle that ends at a tick: the next one, the next pass with empty tile registers, or the end (R160,
R168). -/
def nextBundle (p : Prog) (cost : Nat) (done : Option Nat) (r : Run) : Run :=
  let r1 : Run := { r with cost := r.cost + 1 + cost }
  if r.bundle + 1 < p.bundles then { r1 with bundle := r.bundle + 1, word := r.word + bundleLen p.words r.word }
  else if r.pass + 1 < r.passes then { r1 with pass := r.pass + 1, bundle := 0, word := 0, treg := [] }
  else { r1 with ended := true, doneAt := done }

/-- A group step in which a run waits is added to its cost (R162). -/
def waitStep (g u : Nat) (r : Run) (s : State) : State :=
  modUnit (takeSteps g u 1 s) g u (fun x => { x with run := some { r with cost := r.cost + 1 } })

/-- A bundle runs once its waits are over. -/
def bundle (g u : Nat) (s0 : State) : State :=
  match (getUnit s0 g u).run with
  | none => s0
  | some r =>
    match Map.get? (getGroup s0 g).progs r.inv.prog.toNat with
    | none => s0
    | some p =>
      let slots := bundleSlots p.words r.word
      let r0 : Run := { r with btag := runTag (getGroup s0 g) r }
      if r.ended ∨ ¬ groupRuns s0 g ∨ ¬ stepFree s0 g (getUnit s0 g u).lastStep then s0
      else if ¬ ctxReady s0 r then waitStep g u r s0
      else if runDead s0 r ∧ slots.any slotWaits then failRun g u r0 .contextTimedOut s0
      else
      let s := readStore 1 .program (64 * g + r.inv.prog.toNat) (r.word / 2) ((bundleLen p.words r.word + 2) / 2)
        (unitByte g u) (some r.inv.tag) (readWaits r slots s0)
      if ¬ slots.all (waitMet s g u r) then waitStep g u r s
      else
        let s2 := if (nthD p.words r.word 0).getLsbD 0 then
            traceGroup 1 g u r.inv.tag 0 r.invocNo.toNat r.pass r0.btag.toNat s else s
        let y := runSlots g u (execOrder slots) 0 r0 s2
        match y.err with
        | some e => failRun g u y.run e (takeSteps g u 1 y.st)
        | none =>
          -- under the governor the last bundle ends when its last paced step has come (R143)
          let last := lastOf (getGroup y.st g) (getUnit y.st g u).lastStep (1 + y.cost)
          let done := if s.time.active ∧ (getGroup y.st g).stepLimit < last then none else some (now s)
          takeSteps g u (1 + y.cost) (modUnit y.st g u (fun x => { x with run := some (nextBundle p y.cost done y.run) }))

def execBundle (g : Grp) (u : UnitNo) (s : State) : Host.Outcome State Fault Refusal :=
  if u.toNat < 12 then .next (unitTurn g.toNat u.toNat (bundle g.toNat u.toNat) s) else .refused .illFormedCommand

/-! ### Commit (R140, R150, R171, R172, R257) -/

def hasDup : List Nat → Bool
  | [] => false
  | h :: t => t.contains h || hasDup t

/-- The route of a SEND or PUT as a header (Table 7.5). -/
def routeHdr (s : State) (route : W64) (tag : BitVec 24) : Hdr :=
  { blankHdr with
    dst := BitVec.ofNat 16 (fld route 63 48), ch := BitVec.ofNat 4 (fld route 47 44),
    tc := BitVec.ofNat 3 (fld route 43 41), plane := BitVec.ofNat 3 (fld route 40 38),
    src := BitVec.ofNat 16 (ownChip s), tag := tag }

/-- A tile as a rev 2 MSG frame. -/
def sendTile (g : Nat) (h : Hdr) (off : Nat) (t : Tile) (s : State) : State :=
  buildRet g
    { h with kind := 4, td := true, ep := isPartial t.format.toNat, offset := BitVec.ofNat 48 off }
    (tileBytes true t) s

/-- A placed SEND (R257): route and SEQ from the placement of (LTAB, EXPERT) and the book's stream counter. -/
def sendPlaced (g u : Nat) (route : W64) (t : Tile) (s0 : State) : State :=
  let l := auxLtab t.aux
  let e := auxExpert t.aux
  let s := readPlaces g l e 1 s0
  if ¬ placeValid s l e then logEv (codeCounter 9 4) 0 (unitByte g u) (some t.tag) [] (count 9 4 l s)
  else
    let p := placeEntry s l e
    let chip := placeChip s l e
    let seq := Map.getD (getBook s l).streams chip 0
    let h : Hdr := { routeHdr s route t.tag with
      dst := BitVec.ofNat 16 chip, ch := BitVec.ofNat 4 (fld p 59 56), plane := BitVec.ofNat 3 (fld p 62 60) }
    let s1 := sendTile g h (fld route 3 0) { t with seq := seq } s
    setBook l { getBook s1 l with streams := Map.set (getBook s1 l).streams chip (seq + 1) } s1

/-- A Hearth write of a whole tile (R118). -/
def writeTile (g u : Nat) (tag : BitVec 24) (off : Nat) (t : Tile) (s : State) : State :=
  let b := tileBytes false t
  if rangeOk s off b.length then
    writeMem 1 (unitByte g u) (some tag) off b (memGrant (hearthReq g) (sitesOf off b.length) s)
  else logEv (codeCounter 5 2) 0 (unitByte g u) (some tag) [] (count 5 2 0 s)

/-- Issue what one EMIT slot recorded, with the headers as they stand now; NEXT is handed off after. A bad word of
scratch makes the tile clinker as it is sent (R122, R136). -/
def issueEmit (g u : Nat) (tag : BitVec 24) (s : State) (e : Emit) : State :=
  let with_ (h : Nat) (f : Tile → State → State) : State := match tileAt s g h with
    | some t =>
      let x := loadTile g u h tag t s
      f { x.1 with ue := none } (match x.1.ue with
        | some a => logClinker g u t.tag 2 a x.2
        | none => x.2)
    | none => s
  match e with
  | .send h route => with_ h (fun t s =>
      if bitAt route 37 then sendPlaced g u route t s
      else sendTile g (routeHdr s route t.tag) (fld route 3 0) t s)
  | .put h route off => with_ h (fun t s =>
      buildRet g { routeHdr s route t.tag with kind := 1, offset := BitVec.ofNat 48 (fld off 47 0) }
        (swapEach (elemSize t.format.toNat) t.data) s)
  | .write h off => with_ h (fun t s => writeTile g u tag off.toNat t s)
  | .nothing => count 10 8 g s
  | _ => s

/-- The stamps of the tiles a run gives to NEXT (R143): the tick at which it finished them; a tile it took and hands
on as it was keeps its own. -/
def nextStamp (un : UnitSt) (r : Run) (t h : Nat) : Nat :=
  match (un.qa.take r.takenA ++ un.qb.take r.takenB).find? (fun q => q.handle == h) with
  | some q => q.stamp
  | none => r.doneAt.getD t

/-- Hand a tile with its stamp to the downstream station: into its queue in a step, or through the return port to
another group (R140, R150). -/
def handNext (g u : Nat) (stamp : Nat → Nat) (step : Nat) (d : PipeStation) (s : State) (h : Nat) : State :=
  if d.group = g then deliverTile g d.unit d.portB { handle := h, stamp := stamp h } true step s
  else match tileAt s g h with
    | none => s
    | some t =>
      let f := Config.linkFrame (unitByte g u)
      let own : Chip := BitVec.ofNat 16 (ownChip s)
      let hd : Hdr := { blankHdr with
        dst := own, src := own, ch := BitVec.ofNat 4 (fld f 3 0), tc := BitVec.ofNat 3 (fld f 6 4),
        plane := BitVec.ofNat 3 (fld f 9 7), tag := t.tag }
      let s1 := sendTile g hd d.group t s
      freeBuf g h (modFrame s.sw.nextUid (fun x => { x with link := some (d.unit, d.portB) }) s1)

/-- Taken tiles leave their queues; those not given to NEXT are released (R171 action 5). -/
def releaseTaken (g u : Nat) (r : Run) (nexts : List Nat) (s : State) : State :=
  let un := getUnit s g u
  let out := ((un.qa.take r.takenA) ++ (un.qb.take r.takenB)).map (·.handle)
  let s1 := modUnit s g u (fun x => { x with qa := x.qa.drop r.takenA, qb := x.qb.drop r.takenB })
  foldOver (out.filter (fun h => !nexts.contains h))
    (fun s h => releaseTile g h (ownerUnit g u) (heirOf r.inv.context) s) s1

/-- The actions of a commit, one act (R171). -/
def commitRun (g u : Nat) (r : Run) (s : State) : State :=
  let nexts := nextsOf r
  let s1 := foldOver r.overlay (fun s e => setTileHdr g u r.inv.tag e.1 e.2 s) (takeSteps g u 1 s)
  let s2 := modUnit (writeLocal g u r.acc s1) g u (fun x => { x with
    acc := r.acc, run := none,
    sctr := r.nextSeqs.foldl (fun m e => Map.set m e.1 (Map.getD m e.1 0 + BitVec.ofNat 32 e.2)) x.sctr })
  let s3 := foldOver (inBundleOrder r.emits) (issueEmit g u r.inv.tag) s2
  let s4 := match downstream s3 g u with
    | some d => foldOver nexts (handNext g u (nextStamp (getUnit s g u) r (now s)) (portStep s g (portKey d.unit d.portB)) d) s3
    | none => s3
  let s5 := releaseTaken g u r nexts s4
  let s6 := foldOver (r.outs.filter (fun h => !nexts.contains h)) (fun s h => freeBuf g h s) s5
  let s7 := foldOver (inBundleOrder r.signals) (fun s e => tallyAdd e.1 e.2 s) s6
  let s8 := if r.inv.doneTally.toNat < 8192 then tallyAdd r.inv.doneTally.toNat 1 s7 else s7
  completeUnit g u r.inv .ok r.pass r.btag (traceGroup 3 g u r.inv.tag 0 r.invocNo.toNat r.pass r.btag.toNat s8)

/-- The checks of R171 on the tiles given to NEXT, but for room. -/
def commitFault (s : State) (g u : Nat) (nexts : List Nat) : Option Status :=
  let owned (h : Nat) : Bool := match getBuf s g h with
    | some b => b.owner == ownerUnit g u && b.share == 1
    | none => false
  if hasDup nexts ∨ ¬ nexts.all owned then some .freeDenied
  else if 8 < nexts.length then some .queueFull
  else none

/-- Can the memory arbiters grant every WRITE and every placement look-up the run recorded (R127, R246)? -/
def writesFree (g : Nat) (r : Run) (s : State) : Bool :=
  r.emits.all (fun e => match e.2 with
    | .write h off => (match runTile g h r s with
      | some t => !rangeOk s off.toNat (64 + payloadLen t) || memFree s off.toNat (64 + payloadLen t)
      | none => true)
    | .send h route => !bitAt route 37 || (match runTile g h r s with
      | some t => placesFree s (auxLtab t.aux) (auxExpert t.aux) 1
      | none => true)
    | _ => true)

/-- Does the commit win its round at the downstream port against the sequencer's first offer (Table 6.4)? -/
def commitRound (g stamp : Nat) (d : PipeStation) (s : State) : Bool × State :=
  let offer := (getGroup s g).offers.find? (fun o => o.unit == d.unit && o.portB == d.portB)
  let w := portArbitrate g d.unit d.portB (if hasRoom s g d.unit d.portB then offer.map (·.stamp) else none) (some stamp) s
  (w.1 == some 1, if w.1 = some 1 then setGrant g d.unit d.portB none w.2 else w.2)

/-- Commit into a queue of the own group. Without room a small configuration waits, a step of waiting counted (R177),
and a wide one fails (R171 check 3); with room the commit waits for the memory arbiters and for its turn at the port,
each wait a step of its cost (R162). -/
def commitInto (g u : Nat) (r : Run) (d : PipeStation) (n : Nat) (s : State) : State :=
  if 8 < (portQueue (getUnit s g d.unit) d.portB).length + n then
    if isWide s g u then failRun g u r .queueFull (count 7 7 g s) else count 7 14 g (waitStep g u r s)
  else if ¬ writesFree g r s ∨ ¬ portOpen s g d.unit d.portB 1 ∨ ¬ portStepFree s g (portKey d.unit d.portB) then
    waitStep g u r s
  else
    let w := commitRound g (r.doneAt.getD (now s)) d s
    if w.1 then commitRun g u r (takePortStep g (portKey d.unit d.portB) w.2) else waitStep g u r w.2

/-- A commit that needs no queue of the own group: once the memory arbiters can grant its writes. -/
def commitOut (g u : Nat) (r : Run) (s : State) : State :=
  if writesFree g r s then commitRun g u r s else waitStep g u r s

/-- After the last bundle the unit commits everything or, at a failed check, nothing. -/
def invocationCommit (g u : Nat) (s : State) : State :=
  match (getUnit s g u).run with
  | none => s
  | some r =>
    let nexts := nextsOf r
    if ¬ r.ended ∨ ¬ groupRuns s g ∨ ¬ stepFree s g (getUnit s g u).lastStep then s
    else if runDead s r then failRun g u r .contextTimedOut s
    else if ¬ ctxReady s r then waitStep g u r s
    else match commitFault s g u nexts with
      | some e => failRun g u r e s
      | none => match nexts, downstream s g u with
        | _ :: _, some d =>
          if d.group = g then commitInto g u r d nexts.length s else commitOut g u r s
        | _, _ => commitOut g u r s

def execInvocationCommit (g : Grp) (u : UnitNo) (s : State) : Host.Outcome State Fault Refusal :=
  if u.toNat < 12 then .next (unitTurn g.toNat u.toNat (invocationCommit g.toNat u.toNat) s) else .refused .illFormedCommand

end Sys2Proof.Machine
end

