-- ==== Sys2Proof/Machine/Cord.lean ====
section
/-! DEFINITION. The cord: staging, checks, load, apply, run-time bindings and the floor (chapter 13). -/

namespace Sys2Proof.Machine

open Sys2Proof

/-! ### The image (R284-R286) -/

/-- Number in n octets from position i, least significant first. -/
def leAt (img : List Byte) (i n : Nat) : Nat := fromLe (slice img i n)

/-- The staged image, TOTAL_LEN octets of it (at most 4 MiB). -/
def stagedImage (s : State) : List Byte :=
  let at_ (i : Nat) : Byte := Map.getD s.cord.staged i 0
  let total := fromLe ((upTo 4).map (fun i => at_ (8 + i)))
  (upTo (min (max total 64) 4194304)).map at_

/-- A directory entry (Table 13.2). -/
structure CordDir where
  ty : Nat
  flags : Nat
  zero : Nat
  off : Nat
  len : Nat
  crc : Nat
  deriving DecidableEq, Repr

def cordSections (img : List Byte) : Nat := leAt img 6 2
def cordSigned (img : List Byte) : Nat := leAt img 12 4
def cordSerialOf (img : List Byte) : W64 := bv64 (leAt img 24 8)

def cordDir (img : List Byte) : List CordDir :=
  (upTo (cordSections img)).map (fun k =>
    let b := 64 + 16 * k
    { ty := leAt img b 2, flags := leAt img (b + 2) 1, zero := leAt img (b + 3) 1, off := leAt img (b + 4) 4,
      len := leAt img (b + 8) 4, crc := leAt img (b + 12) 4 })

/-- The body of a section type; empty when the section is absent (R286). -/
def cordBody (img : List Byte) (ty : Nat) : List Byte :=
  match (cordDir img).find? (fun d => d.ty == ty) with
  | some d => slice img d.off d.len
  | none => []

def hasSection (img : List Byte) (ty : Nat) : Bool := (cordDir img).any (fun d => d.ty == ty)

/-- D: SHA-512 of the signed octets (R295). -/
def cordDigest (img : List Byte) : List Byte := sha512 (img.take (cordSigned img))

/-! ### What a failed check shows (Table 13.7) -/

structure CordFail where
  status : Status
  detail : Nat
  section_ : Nat
  resource : Nat
  claimA : Nat
  claimB : Nat
  deriving DecidableEq, Repr

def cordFail (st : Status) (detail section_ : Nat) : CordFail :=
  { status := st, detail := detail, section_ := section_, resource := 0, claimA := 0, claimB := 0 }

/-- A check of Table 13.5: its failure unless the condition holds. -/
def cordCheck (ok : Bool) (e : CordFail) : Option CordFail := if ok then none else some e

/-! ### Section bodies (R287-R292) -/

/-- PORTS (R287). -/
def portsOk (b : List Byte) : Bool :=
  b.length == 512 && (upTo 128).all (fun k =>
    let w := leAt b (4 * k) 1 % 4
    let ports := 8 / 2 ^ w
    decide (leAt b (4 * k + 1) 1 < 2 ^ ports) && leAt b (4 * k + 2) 2 == 0)

/-- SRAM (R111, R288). -/
def sramOk (b : List Byte) : Bool :=
  let o := leAt b 0 2
  let h := leAt b 2 2
  let t := leAt b 4 2
  let slot := leAt b 6 2
  let pins := leAt b 8 4
  let win := leAt b 12 4
  let spray := leAt b 16 4
  let place := leAt b 20 4
  b.length == 32 && leAt b 24 8 == 0 && 4 * o + 4 * h + t == 384 && o % 2 == 0 && h % 2 == 0 && t % 2 == 0 &&
    decide (16 ≤ o ∧ o ≤ 80 ∧ 8 ≤ h ∧ h ≤ 64 ∧ 32 ≤ t ∧ t ≤ 192) &&
    decide (slot ≤ 64 ∧ pins ≤ 1048576 ∧ win ≤ 1048576 ∧ 1024 ≤ spray ∧ spray ≤ 4194304 ∧ place ≤ 4194304) &&
    decide (512 * slot + 16 * pins + 576 * win + 16 * spray + 16 * place ≤ (t - 24) * 2 ^ 20)

/-- COUNT_p of group n in a POOLS body. -/
def poolsCount (b : List Byte) (n p : Nat) : Nat := leAt b (32 * n + 4 * p) 4

/-- Octets the pools of group n take (R128). -/
def poolsBytes (b : List Byte) (n : Nat) : Nat := ((upTo 6).map (fun p => poolsCount b n p * bufSize p)).foldl (· + ·) 0

/-- POOLS (R289, R128), with H in MB. -/
def poolsOk (b : List Byte) (h : Nat) : Bool :=
  b.length == 512 && (upTo 16).all (fun n =>
    (upTo 6).all (fun p => decide (poolsCount b n p ≤ 1048575)) && leAt b (32 * n + 24) 8 == 0 &&
      decide (poolsBytes b n ≤ h * 2 ^ 20))

/-- LOCAL_KIB, SHARE_BASE and SHARE_KIB of a unit in a UNITS body. -/
def unitsRec (b : List Byte) (n u : Nat) : Nat × Nat × Nat :=
  let o := 8 * (13 * n + u)
  (leAt b o 4, leAt b (o + 4) 2, leAt b (o + 6) 2)

/-- Smallest local store of a present unit, in KiB (R145). -/
def localMin (u : Nat) : Nat :=
  let k := unitKind u
  if k = 0 ∨ k = 4 ∨ k = 5 then 256 else 64

/-- Do two program-store shares overlap? An empty share meets none. -/
def sharesMeet (a b : Nat × Nat) : Bool :=
  a.2 != 0 && b.2 != 0 && decide (a.1 < b.1 + b.2) && decide (b.1 < a.1 + a.2)

/-- The rules of R290 on one group, but for fused-off units (order 14). -/
def unitsGroupOk (s : State) (b pools : List Byte) (h n : Nat) : Bool :=
  let us := (upTo 13).filter (unitPresent s)
  let share (u : Nat) : Nat × Nat := (unitsRec b n u).2
  let loc := (us.map (fun u => (unitsRec b n u).1)).foldl (· + ·) 0
  us.all (fun u =>
    decide (localMin u ≤ (unitsRec b n u).1) &&
      (if u = 4 ∨ u = 12 then share u == (0, 0) else decide ((share u).1 + (share u).2 ≤ 2048)) &&
      us.all (fun v => u == v || !sharesMeet (share u) (share v))) &&
    decide (loc * 1024 + poolsBytes pools n ≤ h * 2 ^ 20)

/-- UNITS (R290). -/
def unitsOk (s : State) (b pools : List Byte) (h : Nat) : Bool :=
  b.length == 1664 && (upTo 16).all (unitsGroupOk s b pools h)

/-- One station entry of a pipeline record. -/
def pipeEntry (v : Nat) : PipeStation := { group := v / 4096, unit := v / 256 % 16, portB := v / 128 % 2 == 1 }

/-- Parse the pipeline records from a position; none where a record breaks the layout of R291. -/
def pipeRecords (b : List Byte) : Nat → Nat → Option (List (Nat × List PipeStation) × Nat)
  | 0, pos => some ([], pos)
  | k + 1, pos =>
    let id := leAt b pos 1
    let n := leAt b (pos + 1) 1
    let body := 8 + 2 * n
    let padded := (body + 7) / 8 * 8
    let vs := (upTo n).map (fun i => leAt b (pos + 8 + 2 * i) 2)
    if b.length < pos + padded ∨ 254 < id ∨ n < 1 ∨ 64 < n ∨ leAt b (pos + 2) 6 ≠ 0 ∨
        leAt b (pos + body) (padded - body) ≠ 0 ∨ vs.any (fun v => v % 128 != 0) then none
    else (pipeRecords b k (pos + padded)).map (fun r => ((id, vs.map pipeEntry) :: r.1, r.2))

/-- The pipelines of a PIPELINES body, when its layout holds (R291); an absent section gives none. -/
def pipeParse (b : List Byte) : Option (List (Nat × List PipeStation)) :=
  if b.length < 8 ∨ leAt b 2 6 ≠ 0 then none
  else match pipeRecords b (leAt b 0 2) 8 with
    | some (l, pos) => if pos = b.length then some l else none
    | none => none

/-- R149 on one pipeline: in one group at most 8 stations, otherwise at most 64; the first IN_PORT is zero; no unit 4
or 12, none above 12. -/
def pipeOk (p : Nat × List PipeStation) : Bool :=
  let oneGroup := p.2.all (fun x => some x.group == p.2.head?.map (·.group))
  (!oneGroup || decide (p.2.length ≤ 8)) && (p.2.head?.map (·.portB)) == some false &&
    p.2.all (fun x => decide (x.unit ≤ 11) && x.unit != 4)

/-- PIPELINES (R291, R149): numbers unique, each station in at most one pipeline. -/
def pipesOk (b : List Byte) : Bool :=
  match pipeParse b with
  | none => false
  | some l =>
    let ids := l.map (·.1)
    let sts : List (Nat × Nat) := (l.map (fun p => p.2.map (fun x => (x.group, x.unit)))).flatten
    l.all pipeOk && decide ids.Nodup && decide sts.Nodup

/-- The record list of a BINDINGS body (R292). -/
def bindRecords (b : List Byte) : List Binding :=
  (upTo (b.length / 16)).map (fun k =>
    { claimant := BitVec.ofNat 8 (leAt b (16 * k) 1), resource := BitVec.ofNat 8 (leAt b (16 * k + 1) 1),
      base := leAt b (16 * k + 8) 4, len := leAt b (16 * k + 12) 4 })

/-- May the claimant be paired with the resource and range (R292, Table 13.4)? -/
def pairOk (x : Binding) : Bool :=
  let c := x.claimant.toNat
  let r := x.resource.toNat
  if c = 0x01 ∨ c = 0x02 then r == 0x01 && x.base == 0 && x.len == 0
  else if 0x10 ≤ c ∧ c ≤ 0x13 then decide (0x10 ≤ r ∧ r ≤ 0x13) && x.base == 0 && x.len == 0
  else if c = 0x20 ∨ c = 0x21 then
    r == 0x20 && decide ((if c = 0x20 then 64 else 32) ≤ x.len) && decide ((x.base + x.len) * 2 ^ 20 ≤ hbmSize)
  else false

def bindsOk (b : List Byte) : Bool :=
  let l := bindRecords b
  b.length % 16 == 0 && decide (1 ≤ l.length ∧ l.length ≤ 32) &&
    (upTo l.length).all (fun k => leAt b (16 * k + 2) 6 == 0) && l.all pairOk && decide (l.map (·.claimant)).Nodup

/-- Do two bindings name the same resource (R293)? -/
def sameResource (a b : Binding) : Bool :=
  a.resource == b.resource &&
    (a.resource != 0x20#8 || (decide (a.base < b.base + b.len) && decide (b.base < a.base + a.len)))

/-- The first conflicting pair in record order (order 15): the later record first met, with the earliest it meets. -/
def firstConflict (l : List Binding) : Option (Binding × Binding) :=
  (upTo l.length).findSome? (fun j =>
    match l[j]? with
    | none => none
    | some b => ((l.take j).find? (fun a => sameResource a b)).map (fun a => (a, b)))

/-- ENABLES: octets 8-63 zero. -/
def enablesOk (b : List Byte) : Bool := b.length == 64 && allZero (b.drop 8)

/-- H of an image's SRAM section. -/
def cordH (img : List Byte) : Nat := leAt (cordBody img 2) 2 2

/-- Order 13 for one known section. -/
def sectionOk (s : State) (img : List Byte) (ty : Nat) : Bool :=
  let b := cordBody img ty
  if ty = 1 then portsOk b else if ty = 2 then sramOk b else if ty = 3 then poolsOk b (cordH img)
  else if ty = 4 then unitsOk s b (cordBody img 3) (cordH img) else if ty = 5 then pipesOk b
  else if ty = 6 then bindsOk b else enablesOk b

/-! ### The checks of Table 13.5 -/

/-- A directory entry against those before it (order 10). -/
def dirOk (img : List Byte) (ds : List CordDir) (k : Nat) : Bool :=
  match ds[k]? with
  | none => true
  | some d =>
    d.zero == 0 && decide (d.flags ≤ 1) && decide (64 + 16 * ds.length ≤ d.off) && decide (d.off + d.len ≤ cordSigned img) &&
      d.off % 8 == 0 && (crc32c (slice img d.off d.len)).toNat == d.crc &&
      (ds.take k).all (fun e => e.ty != d.ty && !(decide (e.off < d.off + d.len) && decide (d.off < e.off + e.len)))

/-- Orders 1 to 12: the image as a signed container. -/
def containerChecks (s : State) (img : List Byte) : List (Option CordFail) :=
  let n := cordSections img
  let sl := cordSigned img
  let sig := img.drop sl
  let d := cordDigest img
  let ed := slice sig 4 32
  let ml := slice sig 100 1952
  let ds := cordDir img
  let grade := 2 ^ s.mss.grade.toNat
  [ cordCheck (decide (leAt img 8 4 ≤ 4194304) && decide (64 + 16 * n ≤ sl) && sl % 8 == 0 && leAt img 8 4 == sl + 5368 &&
      decide (4 ≤ n ∧ n ≤ 32) && decide (leAt img 16 1 < 8) && leAt img 18 6 == 0 && leAt img 32 32 == 0)
      (cordFail .cordRejected 0x02 0),
    cordCheck (img.take 4 == [0x56#8, 0x43#8, 0x52#8, 0x44#8]) (cordFail .cordRejected 0x03 0),
    cordCheck (leAt img 4 1 == 1) (cordFail .versionUnsupported 0x04 0),
    cordCheck (leAt sig 0 2 == 1) (cordFail .versionUnsupported 0x05 0),
    cordCheck (s.mss.fw.cordKeys.contains (sha512 (ed ++ ml))) (cordFail .signatureFail 0x06 0),
    cordCheck (ed25519Verify ed d (slice sig 36 64)) (cordFail .signatureFail 0x07 0),
    cordCheck (mldsaVerify ml d (slice sig 2052 3309)) (cordFail .signatureFail 0x08 0),
    cordCheck (decide (s.cord.floor.toNat ≤ (cordSerialOf img).toNat)) (cordFail .cordRejected 0x09 0),
    cordCheck (leAt img 16 1 / grade % 2 == 1 && leAt img 17 1 == 0xB1) (cordFail .cordRejected 0x0A 0),
    ((upTo n).find? (fun k => !dirOk img ds k)).map (fun k =>
      cordFail .cordRejected 0x0B ((ds[k]?.map (fun d => d.ty % 256)).getD 0)),
    (ds.find? (fun d => !decide (1 ≤ d.ty ∧ d.ty ≤ 7) && d.flags == 1)).map (fun d =>
      cordFail .versionUnsupported 0x0C (d.ty % 256)),
    ([1, 2, 3, 4].find? (fun t => !hasSection img t)).map (fun t => cordFail .cordRejected 0x0D t) ]

/-- Orders 13 to 15: the structure the cord states. -/
def structureChecks (s : State) (img : List Byte) : List (Option CordFail) :=
  let units := cordBody img 4
  let pipes := (pipeParse (cordBody img 5)).getD []
  let absent (u : Nat) : Bool := !unitPresent s u
  [ ([1, 2, 3, 4, 5, 6, 7].find? (fun t => hasSection img t && !sectionOk s img t)).map (fun t =>
      cordFail .cordRejected 0x0E t),
    cordCheck ((upTo 16).all (fun n => (upTo 13).all (fun u => !absent u || unitsRec units n u == (0, 0, 0))))
      (cordFail .cordRejected 0x0F 4),
    cordCheck (pipes.all (fun p => p.2.all (fun x => !absent x.unit))) (cordFail .cordRejected 0x0F 5),
    (firstConflict (bindRecords (cordBody img 6))).map (fun p =>
      { status := .cordConflict, detail := 0x10, section_ := 6, resource := p.2.resource.toNat,
        claimA := p.1.claimant.toNat, claimB := p.2.claimant.toNat }) ]

/-- Does any unit have an invocation started or waiting in its order? Those a damper abandoned and a trigger made count
as waiting. -/
def groupBusy (s : State) (g : Nat) : Bool :=
  !(getGroup s g).abandoned.isEmpty ||
    (upTo 12).any (fun u => (getUnit s g u).run.isSome || !(getUnit s g u).order.isEmpty)

def anyBusy (s : State) : Bool := (upTo 16).any (groupBusy s)

/-- The reload conditions (R298). -/
def reloadOk (s : State) : Bool :=
  !bitAt (reg s Reg.fwdCfg) 0 && s.ctx.table.isEmpty && !anyBusy s &&
    (upTo 256).all (fun l => !bitAt (reg s (Reg.layer l 0)) 63) && s.bpm.copy.isNone && s.pwr.state != .blaze

/-- Order 0 of a LOAD. -/
def reloadCheck (s : State) : Option CordFail :=
  cordCheck (s.cord.cfg.isNone || reloadOk s) (cordFail .resourceBound 0x01 0)

/-- The first failure of a VERIFY's checks, if any. -/
def cordVerdict (s : State) (img : List Byte) : Option CordFail :=
  (containerChecks s img ++ structureChecks s img).findSome? id

/-! ### The structure a checked image states -/

def cordCfgOf (img : List Byte) : CordCfg :=
  let p := cordBody img 1
  let r := cordBody img 2
  let q := cordBody img 3
  let u := cordBody img 4
  { serial := cordSerialOf img,
    widths := (upTo 128).map (fun k => BitVec.ofNat 2 (leAt p (4 * k) 1)),
    ethMaps := (upTo 128).map (fun k => BitVec.ofNat 8 (leAt p (4 * k + 1) 1)),
    oMb := leAt r 0 2, hMb := leAt r 2 2, tMb := leAt r 4 2, slotTables := leAt r 6 2, pinEntries := leAt r 8 4,
    windows := leAt r 12 4, sprayCounters := leAt r 16 4, placeCache := leAt r 20 4,
    pools := (upTo 96).map (fun i => poolsCount q (i / 6) (i % 6)),
    unitRecs := (upTo 208).map (fun i => unitsRec u (i / 13) (i % 13)),
    pipelines := (pipeParse (cordBody img 5)).getD [], bindings := bindRecords (cordBody img 6),
    enables := bv64 (leAt (cordBody img 7) 0 8) }

/-! ### CRD_STAGE and CRD_CTRL (R284, R296) -/

/-- Eight octets of the staged copy. -/
def cordStage (off : Nat) (v : W64) (s : State) : Status × State :=
  if cordRunning s then (.resourceBound, s)
  else
    let a := off / 8 * 8
    (.ok, { s with cord := { s.cord with
      staged := (leBytes 8 v.toNat).zipIdx.foldl (fun m e => setStore m (a + e.2) e.1) s.cord.staged } })

def execCordStageWrite (off : BitVec 22) (v : W64) (s : State) : Host.Outcome State Fault Refusal :=
  hostCmd (cordStage off.toNat v) s

/-- CRD_STATUS after an action, but for STATE. -/
def showFail (e : CordFail) (s : State) : State :=
  { s with cord := { s.cord with
    status := e.status, detail := BitVec.ofNat 8 e.detail, section_ := BitVec.ofNat 8 e.section_,
    resource := BitVec.ofNat 8 e.resource, claimA := BitVec.ofNat 8 e.claimA, claimB := BitVec.ofNat 8 e.claimB } }

def showOk (s : State) : State := showFail (cordFail .ok 0 0) s

/-- VERIFY: the checks from order 1, nothing applied. -/
def cordVerify (s : State) : Status × State :=
  if cordRunning s then (.resourceBound, s)
  else match cordVerdict s (stagedImage s) with
    | some e => (.ok, showFail e s)
    | none => (.ok, showOk s)

def execCordVerify (s : State) : Host.Outcome State Fault Refusal := hostCmd cordVerify s

/-- LOAD: every check; a cord that passes is being applied (STATE 2) until the apply ends (CORD_APPLY). -/
def cordLoad (s : State) : Status × State :=
  if cordRunning s then (.resourceBound, s)
  else
    let img := stagedImage s
    match reloadCheck s with
    | some e => (.ok, showFail e s)
    | none => match cordVerdict s img with
      | some e => (.ok, showFail e s)
      | none =>
        let s1 := showOk s
        (.ok, { s1 with cord := { s1.cord with
          state := 2, activeImg := img, action := .applying img (cordCfgOf img) } })

def execCordLoad (s : State) : Host.Outcome State Fault Refusal := hostCmd cordLoad s

/-- CRD_CTRL; the reset value 0b00 of ACTION is accepted and starts nothing (R12). -/
def cordCtrlWrite (v : W64) (s : State) : Status × State :=
  let a := fld v 63 62
  if a = 1 then cordVerify s
  else if a = 2 then cordLoad s
  else if a = 0 then (.ok, s)
  else (.fieldInvalid, s)

/-! ### What a load empties (R112, R299) -/

/-- Frames in output buffers and intake queues, held ones and those in transmission included. -/
def bufferedFrames (s : State) : List Nat :=
  (s.sw.egress.map (·.2)).flatten ++ (s.sw.memq.map (·.2)).flatten ++ (s.sw.intake.map (·.2)).flatten ++
    (s.sw.windows.map (fun w => w.2.held.map (·.uid))).flatten ++
    (s.ports.map (fun p => p.2.cur.map (fun e => e.2.uid))).flatten

/-- Every output buffer, intake queue, reorder window and the pin table emptied. -/
def emptyOutputs (s : State) : State :=
  let s1 := foldOver (bufferedFrames s) (fun s uid => dropFrame uid s) s
  { s1 with
    sw := { s1.sw with windows := [], pins := [] },
    ports := Map.each s1.ports (fun _ p => { p with cur := [], tags := [] }) }

/-- Every pool buffer freed, and with the buffers the queues and places that hold them (R128). -/
def freeAllBuffers (s : State) : State :=
  let s1 := foldOver (upTo 16) (fun s g => modGroup s g (fun gr =>
    { gr with
      bufs := [], offers := [], steerA := [], steerB := [], poolWait := none, units := Map.each gr.units (fun _ un =>
        { un with qa := [], qb := [], arbA := Arb.reset, arbB := Arb.reset }) })) s
  { s1 with moe := { s1.moe with books := [], ledgers := [] } }

/-- Every local store of a group zeroed: its accumulators (R145). -/
def zeroLocal (g : Nat) (s : State) : State :=
  modGroup s g (fun gr => { gr with units := Map.each gr.units (fun _ un => { un with acc := [] }) })

/-- Slot-table entries cleared. -/
def clearSlots (s : State) : State :=
  { s with regs := Map.keep s.regs (fun a _ => !(decide (Reg.rtSlot 0 0 ≤ a) && decide (a < Reg.rtSet 0 0))) }

/-- Table SRAM rebuilt from the cord, which gives it its size and no contents: rack table and next-hop sets, member
groups, tallies and layer tables at their reset values (R112, R288; DEDUCED, log entry 98). -/
def clearTables (s : State) : State :=
  { s with
    regs := Map.keep s.regs (fun a _ =>
      !((isRouteAddr a && a != Reg.fwdCfg) || isLayerAddr a ||
        (decide (Reg.tallyCfg 0 ≤ a) && decide (a < Reg.tallyCfg 8192)))),
    ctx := { s.ctx with groups := [], tallies := [] }, sw := { s.sw with setLast := [] } }

/-- O, H and T in force: the default 48, 32 and 64 before a first cord (R111, Table 5.2). -/
def splitOf (c : Option CordCfg) : List Nat := (c.map (fun x => [x.oMb, x.hMb, x.tMb])).getD [48, 32, 64]

/-- Tables sized by the cord's counts: emptied where the split or their count changes (R299 step 2). -/
def resizeTables (old : Option CordCfg) (new_ : CordCfg) (s : State) : State :=
  let split := splitOf old != splitOf (some new_)
  let ch (f : CordCfg → Nat) : Bool := split || (old.map f) != some (f new_)
  let s1 := if split then emptyOutputs s else s
  let s2 := if split then foldOver (upTo 16) (fun s g => zeroLocal g s) s1 else s1
  let s2' := if split then clearTables s2 else s2
  let s3 := if ch (·.slotTables) then clearSlots s2' else s2'
  let s4 := if ch (·.pinEntries) then { s3 with sw := { s3.sw with pins := [] } } else s3
  let s5 := if ch (·.windows) then
      let held := (s4.sw.windows.map (fun w => w.2.held.map (·.uid))).flatten
      let s5 := foldOver held (fun s uid => dropFrame uid s) s4
      { s5 with sw := { s5.sw with windows := [] } }
    else s4
  if ch (·.sprayCounters) then { s5 with sw := { s5.sw with spray := [] } } else s5

/-- Ports whose width or mode changes, or that cease to be ports: ADMIN = 0 (R299 step 1). -/
def resetPorts (new_ : CordCfg) (s : State) : State :=
  let t : State := { s with cord := { s.cord with cfg := some new_ } }
  foldOver (upTo 1024) (fun s' l =>
    if bitAt (reg s (Reg.lnkCfg l)) 0 ∧
        (¬ isFirst t l ∨ lanesOf s l ≠ lanesOf t l ∨ ethMode s l ≠ ethMode t l) then
      adminFall l (setReg s' (Reg.lnkCfg l) (reg s' (Reg.lnkCfg l) &&& 0xE#64))
    else s') s

/-- The part of a cord's UNITS and PIPELINES that concerns one group. -/
def groupShape (c : CordCfg) (g : Nat) : List (Nat × Nat × Nat) × List (Nat × List PipeStation) :=
  ((c.unitRecs.drop (13 * g)).take 13, c.pipelines.filter (fun p => p.2.any (fun x => x.group == g)))

/-- A group whose UNITS or PIPELINES content changes: programs, triggers and local stores go (R299 step 4). -/
def resetShape (old : Option CordCfg) (new_ : CordCfg) (s : State) (g : Nat) : State :=
  if (old.map (fun c => groupShape c g)) = some (groupShape new_ g) then s
  else
    let s1 := modGroup (zeroLocal g s) g (fun gr => { gr with progs := [], params := [], replay := [] })
    foldOver (upTo 12) (fun s u => setReg s (Reg.trigger g u) (Reg.resetValue (Reg.trigger g u))) s1

/-! ### Bindings (R294, R299, R300, R332) -/

def claimOfBinding (runtime : Bool) (x : Binding) : Claim :=
  { runtime := runtime, resource := x.resource, base := x.base, len := x.len }

/-- A timer stops and reads zero when its binding is replaced (R332). -/
def stopTimer (r : Byte) (s : State) : State :=
  match timerOf r with
  | some t => { s with mss := { s.mss with timers := Map.erase s.mss.timers t } }
  | none => s

/-- Is the feature of a claimant enabled? -/
def featureOn (s : State) (c : Nat) : Bool :=
  if c = 0x01 then fld (reg s Reg.discCtrl) 3 2 == 2
  else if c = 0x10 then s.pwr.state == .blaze
  else if c = 0x11 then engaged s
  else if c = 0x12 then bitAt (reg s Reg.snapCtrl) 63
  else if c = 0x13 then bitAt (reg s Reg.wdCfg) 63
  else if c = 0x20 then s.ctx.table.any (fun e => !e.2.onChip) || decide (1024 < s.ctx.table.length)
  else if c = 0x21 then (upTo 256).any (fun l => bitAt (reg s (Reg.layer l 0)) 63)
  else false

/-- A timer whose claimant's feature runs is started; the Blaze budget runs whenever it holds one (R332). -/
def timerOn (c : Nat) (s : State) : State := if c = 0x10 ∨ featureOn s c then startTimer c s else s

/-- Every binding replaced by the cord's; a discipline source no longer bound is dropped and logged (R299 step 5). -/
def replaceBindings (c : CordCfg) (s : State) : State :=
  let claims := c.bindings.foldl (fun m x => Map.set m x.claimant.toNat (claimOfBinding false x)) []
  let s0 : State := { s with cord := { s.cord with claims := claims }, mss := { s.mss with timers := [] } }
  let s1 := foldOver [0x10, 0x11, 0x12, 0x13] (fun s c => timerOn c s) s0
  let d := reg s1 Reg.discCtrl
  if fld d 3 2 = 2 ∧ ¬ claimHeld s1 0x01 then
    logEv (codeOther 2) 0 0xFF none [] (setReg s1 Reg.discCtrl (d &&& ~~~(maskOf 3 2)))
  else s1

/-! ### Applying (R299) -/

/-- Unknown optional sections are logged as they are skipped (R286). -/
def logUnknown (img : List Byte) (s : State) : State :=
  foldOver ((cordDir img).filter (fun d => !decide (1 ≤ d.ty ∧ d.ty ≤ 7))) (fun s d =>
    logEv (codeOther 11) 0 0xFF none [d.ty] s) s

/-- Steps 1 to 7. -/
def applyCord (img : List Byte) (c : CordCfg) (s : State) : State :=
  let old := s.cord.cfg
  let s1 := resizeTables old c (resetPorts c s)
  let s2 := freeAllBuffers s1
  let s3 := foldOver (upTo 16) (resetShape old c) s2
  let s4 := setEnable c.enables (replaceBindings c s3)
  let d := cordDigest img
  let s5 := { s4 with
    cord := { s4.cord with
      cfg := some c, digest := d, serial := c.serial, state := 3, action := .idle } }
  let s6 := sealStore (fun x => { x with cordDigest := d, cordSerial := c.serial }) s5
  logEv (codeStatus 11 .ok) 0 0xFF none [c.serial.toNat] (logUnknown img s6)

/-- Step 8 of a banked restart applies the active copy again: its structure, its bindings beside those made at run
time, and its enables; no table, local store, program store or member group is emptied (R318). -/
def reapplyCord (s : State) : State :=
  let c := cordCfgOf s.cord.activeImg
  let claims := c.bindings.foldl (fun m x => Map.set m x.claimant.toNat (claimOfBinding false x)) s.cord.claims
  setEnable c.enables { s with cord := { s.cord with cfg := some c, claims := claims } }

/-- A LOAD whose checks passed ends its apply; a cold start waiting in step 8 goes on to step 9 (R318). HELLO goes out
again with the new digest (R355). -/
def cordApply (s : State) : State :=
  match s.cord.action with
  | .idle => s
  | .applying img c =>
    let s1 := helloNow (applyCord img c s)
    if s1.pwr.state = .coldStarting ∧ s1.pwr.startStep = 8 then { s1 with pwr := { s1.pwr with startStep := 9 } } else s1

def execCordApply (s : State) : Host.Outcome State Fault Refusal := .next (mssRuns cordApply s)

/-! ### Run-time bindings (R300) -/

/-- The binding a CRD_BIND write asks for (Table 13.10). -/
def bindOf (v : W64) : Binding :=
  { claimant := BitVec.ofNat 8 (fld v 55 48), resource := BitVec.ofNat 8 (fld v 47 40), base := fld v 39 20,
    len := fld v 19 0 }

/-- Is the resource bound already (R293)? -/
def resourceTaken (s : State) (x : Binding) : Bool :=
  s.cord.claims.any (fun e =>
    sameResource { claimant := 0, resource := e.2.resource, base := e.2.base, len := e.2.len } x)

def bindReq (v : W64) (s : State) : Status × State :=
  let x := bindOf v
  if cordRunning s ∨ s.cord.cfg.isNone then (.resourceBound, s)
  else if ¬ pairOk x then (.cordRejected, s)
  else if claimHeld s x.claimant.toNat ∨ resourceTaken s x then (.resourceBound, s)
  else
    let s1 := stopTimer x.resource (noteAux s)
    (.ok, timerOn x.claimant.toNat
      { s1 with cord := { s1.cord with claims := Map.set s1.cord.claims x.claimant.toNat (claimOfBinding true x) } })

def execBind (v : W64) (s : State) : Host.Outcome State Fault Refusal := hostCmd (bindReq v) s

/-- Do CLAIMANT and RESOURCE hold codes of Table 13.4, or their reset value (R12)? Where a bind is asked for, R300
gives the outcome. -/
def bindFieldsOk (v : W64) : Bool :=
  [0, 0x01, 0x02, 0x10, 0x11, 0x12, 0x13, 0x20, 0x21].contains (fld v 55 48) &&
    [0, 0x01, 0x10, 0x11, 0x12, 0x13, 0x20].contains (fld v 47 40)

def unbindReq (v : W64) (s : State) : Status × State :=
  let c := fld v 55 48
  if ¬ bindFieldsOk v then (.fieldInvalid, s)
  else if cordRunning s ∨ s.cord.cfg.isNone then (.resourceBound, s)
  else match claimOf s c with
    | none => (.ok, s)
    | some x =>
      if ¬ x.runtime ∨ featureOn s c then (.resourceBound, s)
      else
        let s1 := stopTimer x.resource (noteAux s)
        (.ok, { s1 with cord := { s1.cord with claims := Map.erase s1.cord.claims c } })

def execUnbind (v : W64) (s : State) : Host.Outcome State Fault Refusal := hostCmd (unbindReq v) s

/-- CRD_BIND; the reset value 0b00 of ACTION is accepted and starts nothing (R12). -/
def cordBindWrite (v : W64) (s : State) : Status × State :=
  let a := fld v 63 62
  if a = 1 then bindReq v s
  else if a = 2 then unbindReq v s
  else if a = 0 ∧ bindFieldsOk v then (.ok, s)
  else (.fieldInvalid, s)

/-- CRD_FLOOR: raised and sealed, never lowered (R301). -/
def floorWrite (v : W64) (s : State) : Status × State :=
  if v.toNat < s.cord.floor.toNat then (.resourceBound, s)
  else (.ok, sealStore (fun x => { x with floor := v }) { s with cord := { s.cord with floor := v } })

def execFloorWrite (v : W64) (s : State) : Host.Outcome State Fault Refusal := hostCmd (floorWrite v) s

end Sys2Proof.Machine
end

