-- ==== Sys2Proof/Machine/Power.lean ====
section
/-! DEFINITION. Starting, power states, Blaze, heat and the board rails (chapters 15, 19), and the checks on a firmware
image that a start and an update share (R341, R342). -/

namespace Sys2Proof.Machine

open Sys2Proof

/-! ### Firmware images (Tables 16.6, 16.7) -/

/-- Octets of the firmware region, as far as an image reaches. -/
def flashImage (s : State) : List Byte :=
  let at_ (i : Nat) : Byte := Map.getD s.mss.flash i 0
  let total := fromLe ((upTo 4).map (fun i => at_ (16 + i)))
  (upTo (min (max total 64) 12582912)).map at_

def fwSigned (img : List Byte) : Nat := leAt img 20 4

/-- The image's digest: SHA-512 of its signed octets (R341). -/
def fwDigest (img : List Byte) : List Byte := sha512 (img.take (fwSigned img))

/-- The fused slot whose digest matches the image's key pair and is not revoked (R342). -/
def fwSlot (s : State) (img : List Byte) : Option Nat :=
  let sig := img.drop (fwSigned img)
  let k := sha512 (slice sig 4 32 ++ slice sig 100 1952)
  (upTo 4).find? (fun i => !s.mss.revoked.getLsbD i && s.mss.keyDigests[i]? == some k)

/-- Checks 2 to 9 of Table 16.7 on an image whose length is known; the first failure's status and DETAIL. -/
def fwChecks (s : State) (img : List Byte) (length : Nat) : Option (Status × Nat) :=
  let sl := fwSigned img
  let sig := img.drop sl
  let d := fwDigest img
  let ed := slice sig 4 32
  let ml := slice sig 100 1952
  let keys := leAt img 13 1
  let check (ok : Bool) (st : Status) (n : Nat) : Option (Status × Nat) := if ok then none else some (st, n)
  [ check (img.take 4 == [0x56#8, 0x46#8, 0x46#8, 0x57#8] && leAt img 14 2 == 0 && leAt img 24 40 == 0 &&
      decide (leAt img 6 1 < 8) && leAt img 16 4 == length && leAt img 16 4 == sl + 5368 &&
      decide (leAt img 16 4 ≤ 12582912) && sl % 8 == 0 && decide (1 ≤ keys ∧ keys ≤ 4) && decide (64 + 64 * keys ≤ sl) &&
      decide (leAt img 12 1 ≤ 64)) .malformedTile 2,
    check (leAt img 4 1 == 1) .versionUnsupported 3,
    check (leAt sig 0 2 == 1) .versionUnsupported 4,
    check (fwSlot s img).isSome .signatureFail 5,
    check (ed25519Verify ed d (slice sig 36 64)) .signatureFail 6,
    check (mldsaVerify ml d (slice sig 2052 3309)) .signatureFail 7,
    check (decide (s.mss.svnFloor ≤ leAt img 12 1)) .versionUnsupported 8,
    check (leAt img 6 1 / 2 ^ s.mss.grade.toNat % 2 == 1 && leAt img 7 1 == 0xB1) .malformedTile 9 ].findSome? id

/-- The firmware a checked image is. -/
def fwOf (s : State) (img : List Byte) : Firmware :=
  { version := BitVec.ofNat 32 (leAt img 8 4), svn := BitVec.ofNat 8 (leAt img 12 1),
    slot := BitVec.ofNat 2 ((fwSlot s img).getD 0),
    cordKeys := (upTo (leAt img 13 1)).map (fun i => slice img (64 + 64 * i) 64), digest := fwDigest img }

/-! ### What the removal of rails loses -/

/-- The core, SRAM, memories and SerDes are off: their contents are lost, every link is down, TWIN_HB_TX is low (Table
15.1, R353). The registers of the dies' blocks 3 to 10 go with them (log entry 34). The rows' counts of corrected
errors go too, and the marks stay (DESIGN CHOICE: R125 keeps marks, and names no store for a count below 8, log entry
118). -/
def coreOff (s : State) : State :=
  judgePartner { s with
    ports := [], sw := { SwitchSt.reset with nextUid := s.sw.nextUid }, mem := { cells := [], chk := [] }, groups := [],
    ctx := State.reset.ctx, moe := State.reset.moe,
    bpm := { s.bpm with
      copy := none, spareState := if s.bpm.copy.isSome then 3 else s.bpm.spareState, scrubPos := [], sramScrubPos := 0,
      pcArb := [], sramChk := [], rowErrors := [] },
    regs := Map.keep s.regs (fun a _ => decide (a / 0x100000000 < 3 ∨ 10 < a / 0x100000000)),
    cord := { s.cord with action := .idle, state := if cordRunning s then 4 else s.cord.state },
    time := { s.time with measure := [], pacerK := [] },
    twn := { s.twn with hbTx := false }, dbg := { s.dbg with frozen := none } }

/-- What a cold start begins from: every register of the device at its reset value but those of the MSS, the host link
and the power block; no cord; fabric time 0. A damper in force stays (R316); the spared map and the marked rows, kept by
the MSS, stay (Table 15.3). -/
def coldReset (s : State) : State :=
  let s1 := coreOff s
  { s1 with
    regs := Map.keep s1.regs (fun a _ => decide (a / 0x100000000 < 2 ∨ a / 0x100000000 = 14)),
    time := TimeSt.reset, twn := { TwinSt.reset with hbAlive := s.twn.hbAlive },
    cord := { CordSt.reset with staged := s1.cord.staged, floor := s1.cord.floor },
    bpm := { BpmSt.reset with
      spared := s1.bpm.spared, spareEpoch := s1.bpm.spareEpoch, sramMarks := s1.bpm.sramMarks,
      sramRepairs := s1.bpm.sramRepairs },
    mss := { s1.mss with timers := [] },
    dbg := { DbgSt.reset with
      dampered := s1.dbg.dampered, source := if s1.dbg.dampered then s1.dbg.source else 0, serial := s1.dbg.serial,
      origin := s1.dbg.origin, td := s1.dbg.td, originTime := s1.dbg.originTime, serials := s1.dbg.serials } }

/-! ### Rails (R388-R390) -/

def railsUp : BitVec 6 := 0x3F#6

/-- The highest rail of a set of enables, order 6 first. -/
def topRail (e : BitVec 6) : Option Nat := [5, 4, 3, 2, 1, 0].find? (fun i => e.getLsbD i)

def dropTop (e : BitVec 6) : BitVec 6 :=
  match topRail e with
  | some i => e &&& ~~~(BitVec.ofNat 6 (2 ^ i))
  | none => e

/-- Enables drop to `e`: the power-good input of a rail whose enable drops falls at a time the board sets, so its level
is open from then on (R389, R394). -/
def dropTo (e : BitVec 6) (p : PowerSt) : PowerSt :=
  { p with en := e, pg := p.pg &&& e, pgOpen := p.pgOpen ||| (p.en &&& ~~~e) }

/-- A removal in reverse order begins: the first enable drops at once; one under way goes on (R389). -/
def beginRemoval (s : State) : State :=
  if s.pwr.dropping then s
  else { s with pwr := { dropTo (dropTop s.pwr.en) s.pwr with dropping := s.pwr.en != 0 } }

/-- VID CODE of a setpoint in mV (R385). -/
def vidCodeOf (mv : Nat) : Byte := BitVec.ofNat 8 ((mv - 500) / 5)

def vsetCode (s : State) : Byte := vidCodeOf (fld (reg s Reg.vset) 15 0)

/-- A VID frame: 0b1010, CODE, XOR of CODE's nibbles (R385). -/
def vidFrame (c : Byte) : BitVec 16 :=
  BitVec.ofNat 16 (0xA000 + 16 * c.toNat + Nat.xor (c.toNat / 16) (c.toNat % 16))

/-- Send one CODE to the regulator. -/
def sendVid (c : Byte) (s : State) : State :=
  emit { s with pwr := { s.pwr with vidCode := c } } (.vid (vidFrame c))

/-- SMB_ALERT_N asserted: THERM_WARN is up or a protective halt is in force (chapter 19's pins). -/
def smbAlert (s : State) : Bool := s.pwr.thermWarn || s.pwr.state == .halted

def starting (s : State) : Bool :=
  s.pwr.porst && (s.pwr.state == .coldStarting || s.pwr.state == .bankedRestarting)

/-- 100 µs after the power good of the last rail enabled, which is therefore high: the next enable is asserted, and its
own power good rises at a time the board sets (R388, R394). Before EN_CORE the
regulator is given CODE for PWR_VSET (R385). -/
def railEnableNext (s : State) : State :=
  if starting s ∧ s.pwr.startStep = 1 ∧ ¬ s.pwr.dropping then
    match (upTo 6).find? (fun i => !s.pwr.en.getLsbD i) with
    | none => s
    | some i =>
      let s1 := if i = 0 then
          let v := sendVid (vsetCode s) s
          { v with pwr := { v.pwr with vidTarget := vsetCode s } }
        else s
      { s1 with pwr := { s1.pwr with
          pg := s1.pwr.en, en := s1.pwr.en ||| BitVec.ofNat 6 (2 ^ i),
          pgOpen := (s1.pwr.pgOpen &&& ~~~s1.pwr.en) ||| BitVec.ofNat 6 (2 ^ i) } }
  else s

def execRailEnableNext (s : State) : Host.Outcome State Fault Refusal := .next (railEnableNext s)

/-- Is an entry into Banked at the removal of its rails: every port closed and gone (R320)? -/
def bankRemoving (s : State) : Bool :=
  s.pwr.porst && s.pwr.state == .idle && s.pwr.bankEntry && s.ports.all (fun e => e.2.state != .closing)

/-- The next rail an entry into Banked removes: VDD_SDT, VDD_SDA, VDD_CORE (Table 19.4). -/
def bankDrop (e : BitVec 6) : BitVec 6 :=
  match [2, 1, 0].find? (fun i => e.getLsbD i) with
  | some i => e &&& ~~~(BitVec.ofNat 6 (2 ^ i))
  | none => e

/-- During a removal: the power good of the rail dropped last has fallen, or 1 ms has passed (R389). An entry into
Banked removes its three rails one by one too. -/
def railDisableNext (s : State) : State :=
  if s.pwr.dropping then
    { s with pwr := { dropTo (dropTop s.pwr.en) s.pwr with dropping := s.pwr.en != 0 } }
  else if bankRemoving s then
    { s with pwr := dropTo (bankDrop s.pwr.en) s.pwr }
  else s

def execRailDisableNext (s : State) : Host.Outcome State Fault Refusal := .next (railDisableNext s)

/-! ### Ends of a start (R318, R319, R321) -/

/-- A start that fails for good: logged, its step kept (R319). -/
def logStartFail (cause : Nat) (s : State) : State :=
  logEv 0x0002 3 0xFF none [s.pwr.startStep.toNat, cause]
    { s with pwr := { s.pwr with failStep := s.pwr.startStep } }

/-- A failed cold start leaves the device in Off; its rails are removed (R319, R388). -/
def startFails (cause : Nat) (s : State) : State :=
  let s1 := coreOff (logStartFail cause s)
  beginRemoval { s1 with pwr := { s1.pwr with state := .off, startStep := 0 } }

/-- A cold start from step 1 (R318). The ticks are numbered from 0 again, so a fall of power good of an earlier tick is
forgotten. -/
def coldFrom (fallback : Bool) (s : State) : State :=
  let s1 := coldReset s
  { s1 with
    mss := { s1.mss with storeLost := s1.mss.storeLost && s1.mss.store.coldStarts == 0 },
    pwr := { s1.pwr with
      state := .coldStarting, startStep := 1, fallback := fallback, bankEntry := false, restartKind := false,
      lost := none },
    freeCtr := s1.freeCtr + 1 }

/-- A banked restart falls back to a cold start (R321). -/
def fallBack (cause : Nat) (s : State) : State :=
  coldFrom true (logEv 0x0003 2 0xFF none [s.pwr.startStep.toNat, cause] s)

/-- A step fails: a cold start ends, a banked restart falls back. -/
def stepFails (cause : Nat) (s : State) : State :=
  if s.pwr.state = .bankedRestarting then fallBack cause s else startFails cause s

def execRailPgTimeout (s : State) : Host.Outcome State Fault Refusal :=
  .next (if starting s ∧ s.pwr.startStep = 1 ∧ s.pwr.en ≠ s.pwr.pg ∧ ¬ s.pwr.dropping then
      let s1 := stepFails 0x0A s
      if s1.pwr.dropping then s1 else beginRemoval s1
    else s)

/-- Every port with ADMIN = 1, and every twin sublink, begins bring-up (R52, R75). -/
def bringUpAll (s : State) : State :=
  let s1 := foldOver (upTo 1024) (fun s l => if bitAt (reg s (Reg.lnkCfg l)) 0 then adminRise l s else s) s
  foldOver (upTo 8) (fun s n => if (getPort s (1024 + n)).state = .down then toTraining (1024 + n) s else s) s1

/-- Counters are zero after every start (R379). -/
def zeroCounters (s : State) : State := { s with dbg := { s.dbg with counters := [], recent := [] } }

/-- A start completes: Idle, at PWR_VSET (R323), logged with its duration. A banked restart leaves the Banked state
behind at this tick (R320). -/
def startEnds (kind ms : Nat) (s : State) : State :=
  let s1 := zeroCounters { s with pwr := { s.pwr with
    state := .idle, startStep := 0, failStep := 0, vidTarget := vsetCode s,
    resumedAt := if s.pwr.restartKind then now s else s.pwr.resumedAt } }
  bringUpAll (logEv 0x0001 0 0xFF none [kind, ms] s1)

/-! ### The steps (Table 15.3) -/

/-- The cause that a failed check of an image gives a start. -/
def imageCause : Option (Status × Nat) → Nat
  | none => 0
  | some (st, _) => if st = .signatureFail then 0x03 else 0x02

/-- Step 2 of a cold start: the cause of a failure, if the flash image fails a check. -/
def romVerdict (s : State) : Nat := imageCause (fwChecks s (flashImage s) (leAt (flashImage s) 16 4))

/-- The firmware is taken into service and its digest sealed. -/
def runFirmware (s : State) : State :=
  let fw := fwOf s (flashImage s)
  sealStore (fun x => { x with valid := true, fwDigest := fw.digest, coldStarts := x.coldStarts + 1 })
    { s with mss := { s.mss with
      fw := fw, romOnly := false, recovery := false, cosig := zeros 3309, spdmStage := 0, large := none, spdmCtx := [] } }

/-- The ROM loader goes into recovery (R345). -/
def enterRecovery (s : State) : State :=
  { s with mss := { s.mss with recovery := true, romOnly := true, fw := Firmware.reset } }

/-- Rows that the repair fuses, BIST and the MSS name, without repeats; a row is numbered 2^16 × macro + row (DEDUCED:
the fuses' rows are mapped with the others, log entry 106). -/
def repairRows (bist marks : List Nat) : List Nat := (bist ++ marks).eraseDups

/-- Does a macro need more than 16 spare rows (R125)? -/
def tooManyRows (rows : List Nat) : Bool :=
  rows.any (fun r => decide (16 < (rows.filter (fun q => q / 65536 == r / 65536)).length))

/-- The channels that are usable: a DIMM answers, has trained, and has a supported capacity (R115). -/
def usableChannels (r : StepResult) : Byte :=
  BitVec.ofNat 8 (((upTo 8).filter (fun k =>
    r.ddrPresent.getLsbD k && r.ddrUsable.getLsbD k &&
      [32, 48, 64, 96, 128, 192, 256].contains (nthD r.ddrGb k 0))).map (fun k => 2 ^ k)).sum

/-- Step 6: the DIMMs found, and whether the window is in service (R115, R116); logged. -/
def ddrTrained (r : StepResult) (s : State) : State :=
  let c := nthD r.ddrGb 0 0
  let use := usableChannels r
  let ok := use == 0xFF#8 && (upTo 8).all (fun k => nthD r.ddrGb k 0 == c)
  let s1 := { s with bpm := { s.bpm with
    ddrPresent := r.ddrPresent, ddrUsable := use, ddrWindow := ok,
    ddrGb := if ok then BitVec.ofNat 16 c else 0 } }
  logEv (codeOther 5) 0 0xFF none
    [r.ddrPresent.toNat, use.toNat, bit1 ok, if ok then c else 0] s1

/-- Step 7 of a banked restart on the host lanes: those whose channel has changed are calibrated in full (R322). -/
def hostLanesTested (r : StepResult) (s : State) : State :=
  { s with host := { s.host with
    fullCal := (upTo 8).filter (fun i => needsCal (Map.get? s.host.signature i) (nthD r.hostLoss i none)) } }

def nextStep (s : State) : State := { s with pwr := { s.pwr with startStep := s.pwr.startStep + 1 } }

/-- A step of a cold start finishes (R318). Step 8 ends only with the host's LOAD. -/
def coldStep (r : StepResult) (s : State) : State :=
  let c := r.cause.toNat
  let n := s.pwr.startStep.toNat
  if n = 1 then
    if s.pwr.en ≠ railsUp then s
    else
      let s1 := { s with pwr := { s.pwr with pg := railsUp, pgOpen := 0 } }
      if c ≠ 0 then stepFails c s1
      else if ¬ s1.mss.flashValid then enterRecovery (stepFails 0x02 s1)
      else nextStep s1
  else if n = 2 then
    let v := if romVerdict s ≠ 0 then romVerdict s else c
    if v ≠ 0 then enterRecovery (stepFails v s) else nextStep (runFirmware s)
  else if n = 3 then
    (if c ≠ 0 then stepFails c s else nextStep { s with bpm := { s.bpm with fusedRows := s.mss.repairFuses } })
  else if n = 4 then
    let rows := repairRows (s.bpm.fusedRows ++ r.bistRows) s.bpm.sramMarks
    if tooManyRows rows then stepFails 0x06 s
    else if c ≠ 0 then stepFails c s
    else nextStep { s with bpm := { s.bpm with sramRepairs := rows } }
  else if n = 6 then (if c ≠ 0 then stepFails c s else nextStep (ddrTrained r s))
  else if n = 7 then
    (if c ≠ 0 then stepFails c s else nextStep { s with host := { s.host with fullCal := upTo 8 } })
  else if n = 8 then s
  else if n = 9 then
    (if c ≠ 0 then stepFails c s else startEnds 0 r.durationMs { s with mem := { cells := [], chk := [] } })
  else if c ≠ 0 then stepFails c s
  else nextStep s

/-- A step of a banked restart finishes (R321). -/
def restartStep (r : StepResult) (s : State) : State :=
  let c := r.cause.toNat
  let n := s.pwr.startStep.toNat
  if n = 1 then
    if s.pwr.en ≠ railsUp then s
    else
      let s1 := { s with pwr := { s.pwr with pg := railsUp, pgOpen := 0 } }
      if c ≠ 0 then stepFails c s1
      else if ¬ s1.mss.flashValid then stepFails 0x02 s1
      else nextStep s1
  else if n = 2 then
    if ¬ s.mss.store.valid ∨ fwDigest (flashImage s) ≠ s.mss.store.fwDigest then stepFails 0x04 s
    else if c ≠ 0 then stepFails c s
    else nextStep s
  else if n = 3 then
    (if c ≠ 0 then stepFails c s else nextStep { s with bpm := { s.bpm with fusedRows := s.mss.repairFuses } })
  else if n = 6 then (if c ≠ 0 then stepFails c s else bringUpAll (nextStep s))
  else if n = 7 then (if c ≠ 0 then stepFails c s else nextStep (hostLanesTested r s))
  else if n = 8 then
    if ¬ s.mss.store.valid ∨ cordDigest s.cord.activeImg ≠ s.mss.store.cordDigest then stepFails 0x09 s
    else if c ≠ 0 then stepFails c s
    else startEnds 1 r.durationMs (reapplyCord s)
  else if c ≠ 0 then stepFails c s
  else nextStep s

def startStepComplete (r : StepResult) (s : State) : State :=
  if ¬ starting s then s
  else if s.pwr.state = .coldStarting then coldStep r s
  else restartStep r s

def execStartStepComplete (r : StepResult) (s : State) : Host.Outcome State Fault Refusal := .next (startStepComplete r s)

/-! ### State commands (R316, Table 15.2) -/

/-- LAST_STATUS and LAST_CMD take the command's outcome. -/
def powerCmd (n : Nat) (op : State → Status × State) (s : State) : Status × State :=
  let r := op s
  (r.1, { r.2 with pwr := { r.2.pwr with lastStatus := r.1, lastCmd := BitVec.ofNat 4 n } })

/-- A state command: Table 15.2 answers it in a start too, while the ROM loader still runs in its steps 1 and 2; in Off
the loader discards all but COLD (R316, R345). -/
def stateCmd (op : State → Status × State) (s : State) : Host.Outcome State Fault Refusal :=
  if starting s then loaderCmd op s else hostCmd op s

/-- OFF. -/
def cmdOff (s : State) : Status × State :=
  if s.pwr.state = .off then (.ok, s)
  else
    let s1 := if starting s then logStartFail 0x0C s else s
    let s2 := coreOff s1
    (.ok, beginRemoval { s2 with pwr := { s2.pwr with
      state := .off, startStep := 0, bankEntry := false, haltN := true } })

def execOff (s : State) : Host.Outcome State Fault Refusal := stateCmd (powerCmd 1 cmdOff) s

/-- COLD; HALT_CAUSE is cleared. -/
def cmdCold (s : State) : Status × State :=
  if programming s then (.resourceBound, s)
  else if s.pwr.state = .coldStarting then (.ok, s)
  else if (s.pwr.state = .off ∨ s.pwr.state = .halted) ∧ s.pwr.porst then
    let s1 := coldFrom false s
    (.ok, { s1 with pwr := { s1.pwr with haltCause := 0, haltN := true } })
  else (.resourceBound, s)

def execCold (s : State) : Host.Outcome State Fault Refusal := loaderCmd (powerCmd 2 cmdCold) s

/-- Every up link begins its orderly close; bring-up under way stops (R320, R54). -/
def closeAll (s : State) : State :=
  { s with ports := Map.each s.ports (fun _ p =>
    if p.state = .up then { p with state := .closing }
    else if p.state = .down ∨ p.state = .closing then p
    else { freshLink p with state := .down, rev := 0, cause := 0x01#8, lanesUp := 0, retryWait := false }) }

/-- BANK (R320). -/
def cmdBank (s : State) : Status × State :=
  if s.pwr.state = .banked then (.ok, s)
  else if s.pwr.state = .idle ∧ s.pwr.bankEntry then (.ok, s)
  else if s.pwr.state = .idle ∧ ¬ bitAt (reg s Reg.fwdCfg) 0 ∧ ¬ anyBusy s ∧ ¬ cordRunning s ∧ s.bpm.copy = none then
    let s1 := closeAll s
    (.ok, { s1 with pwr := { s1.pwr with bankEntry := true } })
  else (.resourceBound, s)

def execPowerBank (s : State) : Host.Outcome State Fault Refusal := stateCmd (powerCmd 3 cmdBank) s

/-- The links of a device entering Banked: none is left up. -/
def portBanked (p : Port) : Port :=
  { freshLink p with
    state := .down, rev := 0, cause := if p.state = .down then p.cause else 0x01#8, lanesUp := 0, retryWait := false,
    cur := [] }

/-- The link a port's key names. -/
def linkOf (k : Nat) : LinkId := if k < 1024 then .port (BitVec.ofNat 10 k) else .sub (BitVec.ofNat 3 (k - 1024))

/-- The orderly closes of an entry into Banked end: each port that has nothing left in transmission sends CLOSE and goes
down (R54, R320). -/
def bankCloses (s : State) : State :=
  foldOver (s.ports.filter (fun e => e.2.state == .closing)) (fun s e => orderlyClose (linkOf e.1) s) s

/-- The entry into Banked ends, once every port has closed: the rails of core and SerDes still up go in their order, the
other three are kept (Table 19.4). -/
def bankedEntry (s : State) : State :=
  if s.pwr.porst ∧ s.pwr.state = .idle ∧ s.pwr.bankEntry then
    let s1 := bankCloses s
    if ¬ bankRemoving s1 then s1
    else
      let e := bankDrop (bankDrop (bankDrop s1.pwr.en))
      judgePartner { s1 with
        ports := Map.each s1.ports (fun _ p => portBanked p), twn := { s1.twn with hbTx := false },
        pwr := { dropTo e s1.pwr with state := .banked, bankEntry := false } }
  else s

def execBankedEntryComplete (s : State) : Host.Outcome State Fault Refusal := .next (bankedEntry s)

/-- What a banked restart empties or resets (Table 15.4). No copy has run since this start (Table 5.6). -/
def restartEmpties (s : State) : State :=
  let s1 := freeAllBuffers s
  let s2 := foldOver (upTo 16) (fun s g => modGroup s g (fun gr => { gr with maint := true })) s1
  { s2 with
    sw := { SwitchSt.reset with nextUid := s.sw.nextUid, setLast := s.sw.setLast, sgenCtr := s.sw.sgenCtr },
    ports := Map.each s2.ports (fun _ p =>
      { Port.reset with cause := p.cause, downed := p.downed, signature := p.signature, peerCheck := true }),
    bpm := { s2.bpm with pcArb := [], spareState := 0 }, time := { s2.time with measure := [] } }

/-- RESTART (R321). -/
def cmdRestart (s : State) : Status × State :=
  if programming s then (.resourceBound, s)
  else if s.pwr.state = .bankedRestarting then (.ok, s)
  else if s.pwr.state = .banked then
    let s1 := restartEmpties s
    (.ok, { s1 with pwr := { s1.pwr with state := .bankedRestarting, startStep := 1, fallback := false, restartKind := true } })
  else (.resourceBound, s)

def execRestart (s : State) : Host.Outcome State Fault Refusal := stateCmd (powerCmd 4 cmdRestart) s

/-- IDLE: from Active or Blaze with no work. -/
def cmdIdle (s : State) : Status × State :=
  match s.pwr.state with
  | .idle => (.ok, s)
  | .active => if anyBusy s then (.resourceBound, s) else (.ok, { s with pwr := { s.pwr with state := .idle } })
  | .blaze =>
    if anyBusy s then (.resourceBound, s)
    else (.ok, { s with pwr := { s.pwr with state := .idle, vidTarget := vsetCode s } })
  | _ => (.resourceBound, s)

def execIdle (s : State) : Host.Outcome State Fault Refusal := stateCmd (powerCmd 5 cmdIdle) s

/-- ACTIVE: from Idle, or from Blaze, where it is never refused. -/
def cmdActive (s : State) : Status × State :=
  match s.pwr.state with
  | .active => (.ok, s)
  | .idle => if s.pwr.bankEntry then (.resourceBound, s) else (.ok, { s with pwr := { s.pwr with state := .active } })
  | .blaze => (.ok, { s with pwr := { s.pwr with state := .active, vidTarget := vsetCode s } })
  | _ => (.resourceBound, s)

def execActive (s : State) : Host.Outcome State Fault Refusal := stateCmd (powerCmd 6 cmdActive) s

/-- BLAZE (R325): CODE 60 is 0.80 V. -/
def cmdBlaze (s : State) : Status × State :=
  match s.pwr.state with
  | .blaze => (.ok, s)
  | .active =>
    if claimHeld s 0x10 ∧ s.pwr.blazeU < 120000 ∧ ¬ cordRunning s then
      (.ok, { s with pwr := { s.pwr with state := .blaze, vidTarget := 0x3C#8 } })
    else (.resourceBound, s)
  | _ => (.resourceBound, s)

def execBlaze (s : State) : Host.Outcome State Fault Refusal := stateCmd (powerCmd 7 cmdBlaze) s

/-- PWR_STATE_CMD; the reset value 0 of CMD is accepted and commands nothing (R12). -/
def stateCmdWrite (v : W64) (s : State) : Status × State :=
  match fld v 3 0 with
  | 0 => powerCmd 0 (fun s => (.ok, s)) s
  | 1 => powerCmd 1 cmdOff s
  | 2 => powerCmd 2 cmdCold s
  | 3 => powerCmd 3 cmdBank s
  | 4 => powerCmd 4 cmdRestart s
  | 5 => powerCmd 5 cmdIdle s
  | 6 => powerCmd 6 cmdActive s
  | 7 => powerCmd 7 cmdBlaze s
  | n => powerCmd n (fun s => (.fieldInvalid, s)) s

/-! ### Voltage and gates (R323, R324, R385) -/

/-- PWR_VSET: stored, and applied in Idle and Active. -/
def vsetWrite (v : W64) (s : State) : Status × State :=
  let mv := fld v 15 0
  if mv < 660 ∨ 760 < mv ∨ mv % 5 ≠ 0 then (.fieldInvalid, s)
  else
    let s1 := setReg s Reg.vset (bv64 mv)
    if s1.pwr.state = .idle ∨ s1.pwr.state = .active then
      (.ok, { s1 with pwr := { s1.pwr with vidTarget := vidCodeOf mv } })
    else (.ok, s1)

def execVsetWrite (v : W64) (s : State) : Host.Outcome State Fault Refusal := hostCmd (vsetWrite v) s

/-- Every 5 µs of a ramp: one step of 5 mV (R385). -/
def vidStep (s : State) : State :=
  let c := s.pwr.vidCode
  let t := s.pwr.vidTarget
  if ¬ s.pwr.en.getLsbD 0 ∨ c = t then s
  else sendVid (if c.toNat < t.toNat then c + 1 else c - 1) s

def execVidFrameSend (s : State) : Host.Outcome State Fault Refusal := .next (mssRuns vidStep s)

/-- PWR_GROUP_GATE (R324). -/
def groupGateWrite (v : W64) (s : State) : Status × State :=
  let old := reg s Reg.groupGate
  if (upTo 16).any (fun g => bitAt v g && !bitAt old g && groupBusy s g) then (.resourceBound, s)
  else (.ok, pfcAll (setReg s Reg.groupGate (v &&& maskOf 15 0)))

def execGroupGateWrite (v : W64) (s : State) : Host.Outcome State Fault Refusal := hostCmd (groupGateWrite v) s

/-! ### Protective halt (R328) -/

/-- The state in which this tick began, where a power good has fallen in it (R390). -/
def tickState (s : State) : PowerState :=
  match s.pwr.lost with
  | some x => if x.at_ = s.time.raw then x.state else s.pwr.state
  | none => s.pwr.state

/-- The records of a fall of power good in this tick: the rail lost, and the start it ended. -/
def lossRecord (s : State) (r : LogRec) : Bool :=
  r.ftime == s.time.ftc && (r.code == 0x000E#16 || (r.code == 0x0002#16 && r.args[1]? == some 0x0B#64))

/-- A halt takes effect in place of a fall of power good of its own tick, which is not logged (R390). -/
def undoLoss (s : State) : State :=
  match s.pwr.lost with
  | some x =>
    if x.at_ = s.time.raw then
      { s with
        mss := { s.mss with logFifo := s.mss.logFifo.filter (fun r => !lossRecord s r) },
        pwr := { s.pwr with
          state := x.state, startStep := x.startStep, failStep := x.failStep, lastLost := x.lastLost, lost := none } }
    else s
  | none => s

/-- The damper, the rails' removal in one tick, and Halted; a scan-out under way ends, and none follows. -/
def protectiveHalt (cause : Nat) (s0 : State) : State :=
  let s := undoLoss s0
  let s1 := raiseOwn 4 0 s
  let s2 := if starting s1 then logStartFail 0x0D s1 else s1
  let s3 := coreOff s2
  logEv 0x0004 3 0xFF none [cause, s.pwr.blazeU, s.pwr.tj.toNat]
    { s3 with
      dbg := { s3.dbg with scan := { s3.dbg.scan with
        state := if s3.dbg.scan.state = 1 then 0 else s3.dbg.scan.state } },
      pwr := { dropTo 0 s3.pwr with
        state := .halted, haltCause := BitVec.ofNat 8 cause, startStep := 0, bankEntry := false,
        dropping := false, haltN := false } }

/-! ### Blaze (R326, R327, R330) -/

/-- U at a 1 ms tick, in quarter milliseconds. -/
def blazeNext (blaze : Bool) (u : Nat) : Nat := if blaze then u + 4 else u - 1

/-- Lifetime count: each whole second of Blaze; RATED_EXCEEDED once past 10,800,000 s. -/
def blazeLife (s : State) : State :=
  if s.pwr.lifeMs + 1 < 1000 then { s with pwr := { s.pwr with lifeMs := s.pwr.lifeMs + 1 } }
  else
    let n := s.pwr.lifeSeconds + 1
    let s1 := { s with pwr := { s.pwr with lifeMs := 0, lifeSeconds := n } }
    if 10800000 < n ∧ ¬ s1.pwr.ratedExceeded then
      logEv 0x0008 2 0xFF none [n] { s1 with pwr := { s1.pwr with ratedExceeded := true } }
    else s1

/-- Marks passed in Blaze: WARN at 30,000 ms, EXHAUSTED at 40,000 ms. -/
def blazeMarks (old u : Nat) (s : State) : State :=
  let s1 := if old < 120000 ∧ 120000 ≤ u then
      logEv 0x0005 2 0xFF none [u] { s with pwr := { s.pwr with warn := true } }
    else s
  if old < 160000 ∧ 160000 ≤ u then
    logEv 0x0006 2 0xFF none [u] { s1 with pwr := { s1.pwr with exhausted := true } }
  else s1

def blazeTick (s : State) : State :=
  let blaze := tickState s == .blaze
  let old := s.pwr.blazeU
  let u := blazeNext blaze old
  let s1 := { s with pwr := { s.pwr with blazeU := u } }
  if blaze then
    let s2 := blazeMarks old u (blazeLife s1)
    if 168000 < u then protectiveHalt 1 s2 else s2
  else s1

def execBlazeBudgetTick (s : State) : Host.Outcome State Fault Refusal := .next (mssRuns blazeTick s)

/-- The lifetime seconds go to the digest store. -/
def blazePersist (s : State) : State :=
  sealStore (fun x => { x with blazeSeconds := s.pwr.lifeSeconds, rated := s.pwr.ratedExceeded }) s

def execBlazeLifePersist (s : State) : Host.Outcome State Fault Refusal := .next (mssRuns blazePersist s)

/-! ### Sensors and heat (R329, R333) -/

/-- Sensors that exist (Table 16.2). -/
def sensorExists (i : Nat) : Bool := i != 47 && decide (i < 54)

/-- The highest valid junction reading of the four dies, in 1/8 °C. -/
def hottest (samples : List (Option (BitVec 16))) : Option Int :=
  ((samples.take 32).filterMap (fun x => x.map (·.toInt))).foldl (fun m x =>
    match m with
    | none => some x
    | some y => some (max x y)) none

/-- Is a die without one valid junction reading (R333)? -/
def dieBlind (samples : List (Option (BitVec 16))) : Bool :=
  (upTo 4).any (fun d => ((samples.drop (8 * d)).take 8).all (fun x => x.isNone))

/-- First failures are logged with their index. -/
def logSensors (samples : List (Option (BitVec 16))) (s : State) : State :=
  foldOver ((upTo 54).filter (fun i => sensorExists i && (nthD samples i none).isNone)) (fun s i =>
    if s.mss.sensorFailed.contains i then s
    else logEv 0x000B 2 0xFF none [i] { s with mss := { s.mss with sensorFailed := s.mss.sensorFailed ++ [i] } }) s

/-- THERM_WARN at 105 °C, raised again only after Tj fell below 100 °C (R329). -/
def thermWarn (tj : Int) (s : State) : State :=
  let s1 := { s with pwr := { s.pwr with tj := BitVec.ofInt 16 tj } }
  if 840 ≤ tj then
    if s1.pwr.thermArmed then
      logEv 0x0007 2 0xFF none [s1.pwr.tj.toNat]
        { s1 with pwr := { s1.pwr with thermWarn := true, thermArmed := false } }
    else s1
  else if tj < 800 then { s1 with pwr := { s1.pwr with thermArmed := true } }
  else s1

/-- The states of a halt: every powered state, starts and Banked included (R328). -/
def canHalt : PowerState → Bool
  | .off => false
  | .halted => false
  | _ => true

/-- Are the dies powered, so that their junction sensors can give readings (Table 15.1)? -/
def diesPowered : PowerState → Bool
  | .banked => false
  | p => canHalt p

def sensorSample (samples : List (Option (BitVec 16))) (s : State) : State :=
  let m := foldOver ((upTo 54).filter sensorExists) (fun m i => Map.set m i (nthD samples i none)) s.mss.sensors
  let s1 := logSensors samples { s with mss := { s.mss with sensors := m } }
  let tj := hottest samples
  let s2 := match tj with
    | some t => thermWarn t s1
    | none => s1
  let trip : Bool := match tj with
    | some t => decide (920 ≤ t)
    | none => false
  let p := tickState s2
  if canHalt p ∧ (trip ∨ (diesPowered p ∧ dieBlind samples)) then protectiveHalt 2 s2 else s2

def execSensorSample (samples : List (Option (BitVec 16))) (s : State) : Host.Outcome State Fault Refusal :=
  if samples.length = 64 then .next (mssRuns (sensorSample samples) s) else .refused .illFormedCommand

/-! ### Loss of power (R387, R390) -/

/-- A power-good input falls while its enable is asserted, outside a removal: every enable drops, Off. -/
def powerGoodLost (r : Nat) (s : State) : State :=
  if s.pwr.en.getLsbD (r - 1) ∧ ¬ s.pwr.dropping then
    let mark : LostAt :=
      { at_ := s.time.raw, state := s.pwr.state, startStep := s.pwr.startStep, failStep := s.pwr.failStep,
        lastLost := s.pwr.lastLost }
    let s1 := if starting s then logStartFail 0x0B s else s
    let s2 := coreOff s1
    logEv 0x000E 3 0xFF none [r]
      { s2 with pwr := { dropTo 0 s2.pwr with
        state := .off, startStep := 0, bankEntry := false, lastLost := BitVec.ofNat 3 r, lost := some mark,
        pgOpen := (s2.pwr.pgOpen ||| s2.pwr.en) &&& ~~~(BitVec.ofNat 6 (2 ^ (r - 1))) } }
  else s

def execPowerGoodLost (rail : BitVec 3) (s : State) : Host.Outcome State Fault Refusal :=
  if 1 ≤ rail.toNat ∧ rail.toNat ≤ 6 then .next (powerGoodLost rail.toNat s) else .refused .illFormedCommand

/-- PORST_N taken low: loss of power; every enable drops at once, and the MSS is in reset, its host link down. The state
becomes Off once PORST_N rises (POWER_APPLIED). -/
def porstLow (s : State) : State :=
  let s1 := coreOff s
  { s1 with
    host := { s1.host with hopUp := HopSt.reset, hopDn := HopSt.reset },
    pwr := { dropTo 0 s1.pwr with dropping := false, porst := false } }

def execPorstAssert (s : State) : Host.Outcome State Fault Refusal := .next (porstLow s)

/-- The log number to go on with: the sealed mark, or the highest persisted number plus 1 if later (R340). -/
def resumeLseq (mark : BitVec 32) (logStore : List LogRec) : BitVec 32 :=
  logStore.foldl (fun n r => if (r.lseq + 1 - n).toNat < 2 ^ 31 then r.lseq + 1 else n) mark

/-- When the next number comes within 16,384 of the sealed mark, or has reached or passed it, a mark of the next
number + 65,536 is to be sealed. -/
def sealDue (next mark : BitVec 32) : Option (BitVec 32) :=
  if (mark - next).toInt ≤ 16384 then some (next + 0x10000#32) else none

/-- PORST_N rises: the ROM loader runs, in Off, with what fuses and SPI NOR hold (R317, R336, R340). -/
def powerApplied (s : State) : State :=
  let m := s.mss
  let st := (storeInForce m).getD DigestStore.reset
  let s1 : State := { State.reset with
    mss := { MssSt.reset with
      deviceId := m.deviceId, grade := m.grade, svnFloor := m.svnFloor, revoked := m.revoked, keyDigests := m.keyDigests,
      repairFuses := m.repairFuses, secret := m.secret, flash := m.flash, flashValid := m.flashValid && !programming s,
      store := st, storeA := m.storeA, storeB := m.storeB, storeLost := (storeInForce m).isNone, logStore := m.logStore,
      nextLseq := resumeLseq st.logMark m.logStore, sealing := sealDue (resumeLseq st.logMark m.logStore) st.logMark },
    cord := { CordSt.reset with floor := st.floor },
    pwr := { PowerSt.reset with lifeSeconds := st.blazeSeconds, ratedExceeded := st.rated },
    freeCtr := s.freeCtr, wire := s.wire, pending := s.pending, lastStatus := s.lastStatus }
  if (storeInForce m).isNone then logEv 0x000C 3 0xFF none [] s1 else s1

def execPowerApplied (s : State) : Host.Outcome State Fault Refusal := .next (powerApplied s)

end Sys2Proof.Machine
end

