-- ==== Sys2Proof/Machine/Mss.lean ====
section
/-! DEFINITION. The management subsystem: SMBus, the event log, and the firmware update (chapter 16). -/

namespace Sys2Proof.Machine

open Sys2Proof

/-! ### Registers the SMBus can name (Tables 16.10, 16.11, 16.14, 15.6, 15.11) -/

def mssInfoReg (s : State) : W64 := bv64 (0xB1 * 256 + 2 ^ s.mss.grade.toNat)

def sensorReg (s : State) (i : Nat) : W64 :=
  match Map.getD s.mss.sensors i none with
  | some v => at_ 1 63 ||| bv64 v.toNat
  | none => 0

def powerCode : PowerState → Nat
  | .off => 0 | .coldStarting => 1 | .bankedRestarting => 2 | .banked => 3 | .idle => 4 | .active => 5 | .blaze => 6
  | .halted => 7

def pwrStateReg (s : State) : W64 :=
  let p := s.pwr
  at_ p.lastStatus.code 56 ||| at_ p.lastCmd.toNat 52 ||| at_ p.haltCause.toNat 40 ||| at_ p.startStep.toNat 32 |||
    at_ p.failStep.toNat 28 ||| at_ (bit1 p.fallback) 8 ||| bv64 (powerCode p.state)

def pwrThermalReg (s : State) : W64 := at_ s.pwr.tj.toNat 32 ||| bv64 (bit1 s.pwr.thermWarn)

/-- The value of the register an SMBus selection word names, where it may be selected (R334). -/
def smbusReg (s : State) (w : Nat) : Option W64 :=
  if w = 0 then some s.mss.deviceId
  else if w = 8 then some (mssInfoReg s)
  else if 0x200 ≤ w ∧ w < 0x400 ∧ w % 8 = 0 then some (sensorReg s ((w - 0x200) / 8))
  else if w = 0x8008 then some (pwrStateReg s)
  else if w = 0x8030 then some (pwrThermalReg s)
  else none

/-- The octets of a Write Word to command 0x01 that its PEC covers: the address 0x5C with the write bit, the command
and the word (SMBus 3.1; PRESUMED, log entry 100). -/
def smbusWord (w : BitVec 16) : List Byte := [0xB8#8, 0x01#8] ++ leBytes 2 w.toNat

/-- Write Word to command 0x01: NACK for a register that cannot be selected, and for a transfer without a right PEC. -/
def smbusSelect (w : BitVec 16) (pec : Option Byte) (s : State) : State :=
  if pec = some (smbusPec (smbusWord w)) ∧ (smbusReg s w.toNat).isSome then
    { s with mss := { s.mss with smbusSel := some w } }
  else emit s .smbusNack

def execSmbusSelect (w : SmbusWrite) (s : State) : Host.Outcome State Fault Refusal :=
  .next (mssRuns (smbusSelect w.word w.pec) s)

/-- The answer to a Block Read: the count, the octets and the PEC over the transfer (SMBus 3.1; PRESUMED, log entry
100). -/
def smbusBlock (data : List Byte) : List Byte :=
  let b := BitVec.ofNat 8 data.length :: data
  b ++ [smbusPec ([0xB8#8, 0x02#8, 0xB9#8] ++ b)]

/-- Block Read from command 0x02: the selected register's octets; before any selection they are open (a free value). -/
def smbusRead (s : State) : State :=
  match s.mss.smbusSel.bind (fun w => smbusReg s w.toNat) with
  | some v => emit s (.smbus (smbusBlock (leBytes 8 v.toNat)))
  | none =>
    let f := takeFree s
    emit f.2 (.smbus (smbusBlock (leBytes 8 f.1.toNat)))

def execSmbusBlockRead (s : State) : Host.Outcome State Fault Refusal := .next (mssRuns smbusRead s)

/-! ### The event log (R337-R340) -/

def persistMin (s : State) : Nat := fld (reg s Reg.logCfg) 1 0

/-- Records go into the log store, a ring of 131,072: the oldest page of 64 is erased when it wraps. -/
def storeAppend (recs st : List LogRec) : List LogRec :=
  (if st.length + recs.length ≤ 131072 then st else st.drop 64) ++ recs

/-- Into the persist queue, or in RAM only when it is full; the record of a protective halt goes to the store at once.
-/
def logPersist (r : LogRec) (s : State) : LogRec × State :=
  if r.sev.toNat < persistMin s then (r, s)
  else if r.code = 0x0004#16 then
    let q := { r with persist := true }
    (q, { s with mss := { s.mss with logStore := storeAppend [q] s.mss.logStore } })
  else if s.mss.persistQ.length < 4096 then
    let q := { r with persist := true }
    (q, { s with mss := { s.mss with persistQ := s.mss.persistQ ++ [q] } })
  else (r, count 0 1 0 s)

/-- The ring of 65,536 records: the oldest is overwritten. -/
def ringPush (r : LogRec) (ring : List LogRec) : List LogRec :=
  (if ring.length < 65536 then ring else ring.drop 1) ++ [r]

/-- May a number be given out: does it lie below the sealed mark (R340)? -/
def belowMark (next mark : BitVec 32) : Bool := decide (0 < (mark - next).toInt)

/-- The next entry is numbered and moves into the ring. Entries of the present tick wait for its end, since those
still to come may precede them (R337; DEDUCED, log entry 101); an entry that would take a number not below the sealed
mark waits for the new seal. -/
def logMove (s : State) : State :=
  match s.mss.logFifo with
  | [] => s
  | e :: rest =>
    if e.ftime = s.time.ftc ∨ ¬ belowMark s.mss.nextLseq s.mss.store.logMark then s
    else
      let p := logPersist { e with lseq := s.mss.nextLseq, lost := s.mss.logLost } s
      let next := s.mss.nextLseq + 1
      let m := p.2.mss
      { p.2 with mss := { m with
        logFifo := rest, logLost := false, ring := ringPush p.1 m.ring, nextLseq := next,
        sealing := if m.sealing.isSome then m.sealing else sealDue next m.store.logMark } }

def execLogEngineMove (s : State) : Host.Outcome State Fault Refusal := .next (mssRuns logMove s)

/-- The new mark is sealed; a digest-store write waits while an image is being programmed (R344). -/
def logSealed (s : State) : State :=
  match s.mss.sealing with
  | none => s
  | some m =>
    if programming s then s
    else sealStore (fun x => { x with logMark := m }) { s with mss := { s.mss with sealing := none } }

def execLogMarkSealComplete (s : State) : Host.Outcome State Fault Refusal := .next (mssRuns logSealed s)

/-- One page program: up to four records in LSEQ order; the oldest 64 are erased when the ring of 131,072 wraps. -/
def logPersistWrite (s : State) : State :=
  if programming s then s
  else
    let recs := s.mss.persistQ.take 4
    { s with mss := { s.mss with
      logStore := storeAppend recs s.mss.logStore, persistQ := s.mss.persistQ.drop 4 } }

def execLogPersistWrite (s : State) : Host.Outcome State Fault Refusal := .next (mssRuns logPersistWrite s)

/-- The 64 octets of a record (Table 16.4). -/
def logBytes (r : LogRec) : List Byte :=
  leBytes 4 r.lseq.toNat ++ leBytes 2 r.code.toNat ++ [BitVec.ofNat 8 r.sev.toNat, r.unit,
    BitVec.ofNat 8 (bit1 r.tag.isSome + 2 * bit1 r.lost + 4 * bit1 r.persist), BitVec.ofNat 8 r.args.length] ++
    leBytes 3 (r.tag.getD 0).toNat ++ zeros 3 ++ leBytes 8 r.ftime.toNat ++
    ((upTo 5).map (fun i => leBytes 8 (nthD r.args i 0).toNat)).flatten

def logWords (r : LogRec) : List W64 := (upTo 8).map (fun w => bv64 (fromLe (slice (logBytes r) (8 * w) 8)))

/-- MSS_LOG_SEL: the record is looked up in the ring, then in the log store. -/
def logSelect (v : W64) (s : State) : Status × State :=
  let n : BitVec 32 := BitVec.ofNat 32 (fld v 31 0)
  match (s.mss.ring ++ s.mss.logStore).find? (fun r => r.lseq == n) with
  | some r => (.ok, { s with mss := { s.mss with logSel := n, logHeld := true, logData := logWords r } })
  | none => (.ok, { s with mss := { s.mss with logSel := n, logHeld := false, logData := [] } })

def execLogSelect (v : W64) (s : State) : Host.Outcome State Fault Refusal := loaderCmd (logSelect v) s

/-! ### Update (R343, R344, Table 16.7) -/

/-- The status of the last action or check (Table 16.20). -/
def updShow (st : Status) (detail : Nat) (s : State) : Status × State :=
  (st, { s with mss := { s.mss with updStatus := st, updDetail := BitVec.ofNat 8 detail } })

/-- Verifying or programming? -/
def updBusy (s : State) : Bool := s.mss.updState == 2 || s.mss.updState == 3

/-- BEGIN. -/
def updBegin (v : W64) (s : State) : Status × State :=
  let n := fld v 23 0
  if updBusy s then updShow .resourceBound 0 s
  else if n % 8 ≠ 0 ∨ n < 5496 ∨ 12582912 < n then updShow .malformedTile 0 s
  else updShow .ok 0 { s with mss := { s.mss with staging := [], stagedLen := n, words := [], updState := 1 } }

def execUpdateBegin (v : W64) (s : State) : Host.Outcome State Fault Refusal := loaderCmd (updBegin v) s

def stagedFw (s : State) : List Byte := (upTo s.mss.stagedLen).map (fun i => Map.getD s.mss.staging i 0)

/-- Every 8-byte word below LENGTH has been written. -/
def allReceived (s : State) : Bool := s.mss.words.length * 8 == s.mss.stagedLen

/-- A failed update: STATE failed, logged with DETAIL. -/
def updFail (st : Status) (detail : Nat) (s : State) : Status × State :=
  updShow st detail (logEv 0x000A 3 0xFF none [detail] { s with mss := { s.mss with updState := 5 } })

/-- COMMIT: the checks, then programming begins with the erasure of the region, its MAGIC first. -/
def updCommit (s : State) : Status × State :=
  if s.mss.updState = 4 then updShow .ok 0 s
  else if ¬ (s.mss.updState = 1 ∨ s.mss.updState = 5) then updShow .malformedTile 1 s
  else if ¬ allReceived s then updFail .malformedTile 1 s
  else match fwChecks s (stagedFw s) s.mss.stagedLen with
    | some e => updFail e.1 e.2 s
    | none => updShow .ok 0 { s with mss := { s.mss with updState := 3, flash := [], flashValid := false } }

def execUpdateCommit (s : State) : Host.Outcome State Fault Refusal := loaderCmd updCommit s

/-- A digest-store write that waited for programming to end is made. -/
def sealWaiting (s : State) : State :=
  if s.mss.sealWait then { s with mss := writeCopy { s.mss with sealWait := false } } else s

/-- Programming and read-back end: the header goes in last, and only after a good read-back. What waited for the flash
goes on. -/
def updProgrammed (ok : Bool) (s : State) : State :=
  if ¬ programming s then s
  else if ok then
    let img := stagedFw s
    sealWaiting (logEv 0x0009 0 0xFF none [leAt img 8 4, leAt img 12 1]
      { s with mss := { s.mss with flash := s.mss.staging, flashValid := true, updState := 4 } })
  else
    sealWaiting (updFail .resourceBound 0x0A
      { s with mss := { s.mss with flash := Map.keep s.mss.staging (fun a _ => decide (64 ≤ a)) } }).2

def execUpdateProgramComplete (readBackOk : Bool) (s : State) : Host.Outcome State Fault Refusal :=
  .next (mssRuns (updProgrammed readBackOk) s)

/-- ABORT. -/
def updAbort (s : State) : Status × State :=
  if updBusy s then updShow .resourceBound 0 s
  else updShow .ok 0 { s with mss := { s.mss with staging := [], stagedLen := 0, words := [], updState := 0 } }

def execUpdateAbort (s : State) : Host.Outcome State Fault Refusal := loaderCmd updAbort s

/-- SVN_COMMIT; the ROM loader refuses it (R345). -/
def svnCommit (s : State) : Status × State :=
  if s.mss.romOnly then updShow .resourceBound 0 s
  else updShow .ok 0 { s with mss := { s.mss with svnFloor := max s.mss.svnFloor s.mss.fw.svn.toNat } }

def execSvnCommit (s : State) : Host.Outcome State Fault Refusal := loaderCmd svnCommit s

/-- REVOKE; the ROM loader refuses it (R345). -/
def revokeSlot (k : Nat) (s : State) : Status × State :=
  let others := (upTo 4).any (fun i => i != k && !s.mss.revoked.getLsbD i)
  if s.mss.romOnly then updShow .resourceBound 0 s
  else if s.mss.revoked.getLsbD k then updShow .ok 0 s
  else if s.mss.fw.slot.toNat = k ∨ ¬ others then updShow .resourceBound 0 s
  else updShow .ok 0 { s with mss := { s.mss with revoked := s.mss.revoked ||| BitVec.ofNat 4 (2 ^ k) } }

def execRevoke (slot : BitVec 2) (s : State) : Host.Outcome State Fault Refusal := loaderCmd (revokeSlot slot.toNat) s

/-- MSS_UPD_CTRL; the reset value 0b000 of ACTION is accepted and starts nothing (R12). -/
def updCtrlWrite (v : W64) (s : State) : Status × State :=
  match fld v 63 61 with
  | 0 => (.ok, s)
  | 1 => updBegin v s
  | 2 => updCommit s
  | 3 => updAbort s
  | 4 => svnCommit s
  | 5 => revokeSlot (fld v 25 24) s
  | _ => (.fieldInvalid, s)

/-- A BULK payload for the update: stream, offset, data. A packet that breaks R343 is discarded and counted. -/
def bulkStore (stream off : Nat) (data : List Byte) (s : State) : State :=
  if stream = 0 ∧ s.mss.updState = 1 ∧ off % 8 = 0 ∧ data.length % 8 = 0 ∧ off + data.length ≤ s.mss.stagedLen then
    let ws := (upTo (data.length / 8)).map (fun i => off / 8 + i)
    { s with mss := { s.mss with
      staging := data.zipIdx.foldl (fun m e => setStore m (off + e.2) e.1) s.mss.staging,
      words := s.mss.words ++ ws.filter (fun w => !s.mss.words.contains w) } }
  else count 0 2 0 s

end Sys2Proof.Machine
end

