-- ==== Sys2Proof/Machine/Hop.lean ====
section
/-! DEFINITION. The hops of the host link (R302-R307, R312): the form of its packets, bring-up, sequence numbers,
acknowledgement and retry, the order of outgoing packets, and where a received packet goes. -/

namespace Sys2Proof.Machine

open Sys2Proof

def getHop (s : State) : Hop → HopSt
  | .up => s.host.hopUp
  | .dn => s.host.hopDn

def setHop (h : Hop) (x : HopSt) (s : State) : State :=
  match h with
  | .up => { s with host := { s.host with hopUp := x } }
  | .dn => { s with host := { s.host with hopDn := x } }

def modHop (h : Hop) (f : HopSt → HopSt) (s : State) : State := setHop h (f (getHop s h)) s

/-! ### The octets of a packet (R9, R306, Table 14.3) -/

/-- The octets of a packet: header, payload and CRC-32C, most significant byte first. -/
def pktOctets (p : HostPkt) : List Byte :=
  let b := [p.ty, p.dst, p.src, p.hseq] ++ beBytes 2 p.len.toNat ++ p.zero.take 2 ++ beBytes 4 p.reqId.toNat ++
    p.zero.drop 2 ++ p.payload
  b ++ beBytes 4 (crc32c b).toNat

/-- Is the CRC of a received packet right? One too short to hold a header and a CRC has none. -/
def pktCrcOk (b : List Byte) : Bool :=
  let n := b.length - 4
  decide (20 ≤ b.length) && (crc32c (b.take n)).toNat == fromBe (b.drop n)

/-- The packet that received octets hold. -/
def pktOf (b : List Byte) : HostPkt :=
  { ty := nthD b 0 0, dst := nthD b 1 0, src := nthD b 2 0, hseq := nthD b 3 0,
    len := BitVec.ofNat 16 (fromBe (slice b 4 2)), reqId := BitVec.ofNat 32 (fromBe (slice b 8 4)),
    zero := slice b 6 2 ++ slice b 12 4, payload := slice b 16 (b.length - 20) }

/-- A packet goes out on a hop. -/
def emitPkt (h : Hop) (p : HostPkt) (s : State) : State := emit s (.packet h (pktOctets p))

/-! ### Going down (R303, R304) -/

/-- HL_DN goes down: whatever that hop held is lost. Packets accepted from it for the adapter stay on HL_UP. -/
def dnDown (s : State) : State := { s with host := { s.host with hopDn := HopSt.reset } }

/-- HL_UP goes down: it takes HL_DN with it, clears the chain address and discards every packet held for forwarding. -/
def upDown (s : State) : State :=
  { s with host := { s.host with hopUp := HopSt.reset, hopDn := HopSt.reset, chainAddr := 0xFF#8 } }

def hopDown (h : Hop) (s : State) : State :=
  match h with
  | .up => upDown s
  | .dn => dnDown s

def execHostLinkDown (s : State) : Host.Outcome State Fault Refusal := .next (mssRuns upDown s)

def execHlDnDown (s : State) : Host.Outcome State Fault Refusal := .next (mssRuns dnDown s)

/-! ### Bring-up (R303) -/

/-- May a hop be brought up: the MSS out of reset; HL_DN only while HL_UP is up. -/
def hopMayTrain (s : State) (h : Hop) : Bool :=
  match h with
  | .up => s.pwr.porst
  | .dn => s.pwr.porst && s.host.hopUp.up

/-- Versions offered: 1.0 and 1.1 on HL_UP; on HL_DN only those at or below the version HL_UP speaks. -/
def hopOffers (s : State) (h : Hop) : Byte :=
  match h with
  | .up => 3
  | .dn => if s.host.hopUp.version = 2 then 3 else 1

/-- The highest version both sides offer: 0 none, 1: 1.0, 2: 1.1. -/
def commonVersion (a b : Byte) : BitVec 4 :=
  if (a &&& b).getLsbD 1 then 2 else if (a &&& b).getLsbD 0 then 1 else 0

/-- A one-hop packet, LINK or HELLO, not sequenced; the spec gives its DST and HSEQ no value (DESIGN CHOICE 0, log entry
102). -/
def hopControl (s : State) (ty : Byte) (payload : List Byte) : HostPkt :=
  { ty := ty, dst := 0, src := s.host.chainAddr, hseq := 0, len := 8, reqId := 0, zero := zeros 6, payload := payload }

/-- The lane numbers of a hop among the host lanes: HL_UP's four, then HL_DN's. -/
def hopLanes (h : Hop) : List Nat :=
  match h with
  | .up => upTo 4
  | .dn => (upTo 4).map (· + 4)

/-- A hop comes up: its lanes record their signatures, and all of them were calibrated in full (R322). -/
def hopSigned (h : Hop) (loss : List Nat) (s : State) : State :=
  let lanes := hopLanes h
  { s with host := { s.host with
    signature := lanes.foldl (fun m k => Map.set m k (nthD loss (k % 4) 0)) s.host.signature,
    fullCal := (s.host.fullCal.filter (fun k => !lanes.contains k)) ++ lanes } }

/-- The exchange is complete once the peer's HELLO has come and one with SEEN = 1 has gone: a version is selected, or
the hop goes down and VERSION_UNSUPPORTED is logged. -/
def helloDone (h : Hop) (s : State) : State :=
  let x := getHop s h
  match x.helloRx with
  | none => s
  | some offers =>
    if ¬ x.seenSent ∨ x.up then s
    else
      let v := commonVersion (hopOffers s h) offers
      if v = 0 then hopDown h (logEv (codeStatus 1 .versionUnsupported) 1 0xFF none [] s)
      else hopSigned h x.loss (setHop h { HopSt.reset with trained := true, up := true, version := v } s)

/-- Send HELLO, SEEN = 1 once the peer's has been received. -/
def sendHello (h : Hop) (s : State) : State :=
  let x := getHop s h
  if x.trained ∧ ¬ x.up ∧ hopMayTrain s h then
    let seen := x.helloRx.isSome
    helloDone h (modHop h (fun y => { y with seenSent := y.seenSent || seen })
      (emitPkt h (hopControl s 0x0B#8 ([hopOffers s h, BitVec.ofNat 8 (bit1 seen)] ++ zeros 6)) s))
  else s

/-- Lane training of a hop completes, with the loss estimated on each of its four lanes: the HELLO exchange begins. -/
def hopTrained (h : Hop) (loss : List Nat) (s : State) : State :=
  if hopMayTrain s h ∧ ¬ (getHop s h).up then
    sendHello h (setHop h { HopSt.reset with trained := true, loss := loss } s)
  else s

def execHostLinkTrained (r : HopTraining) (s : State) : Host.Outcome State Fault Refusal :=
  .next (hopTrained r.hop r.loss s)

/-- Every 1 ms of the exchange. -/
def execHostHelloTimer (h : Hop) (s : State) : Host.Outcome State Fault Refusal := .next (mssRuns (sendHello h) s)

/-! ### Sending (R304, R306) -/

/-- Send a packet with the next HSEQ, and keep it until it is acknowledged. -/
def hopSend (h : Hop) (p : HostPkt) (s : State) : State :=
  let x := getHop s h
  let q := { p with hseq := x.txSeq }
  emitPkt h q (setHop h { x with txSeq := x.txSeq + 1, unacked := x.unacked ++ [(x.txSeq, q)] } s)

/-- A packet of the device's own: DST 0, SRC its chain address. -/
def ownPkt (s : State) (ty : Byte) (reqId : BitVec 32) (payload : List Byte) : HostPkt :=
  { ty := ty, dst := 0, src := s.host.chainAddr, hseq := 0, len := BitVec.ofNat 16 payload.length, reqId := reqId,
    zero := zeros 6, payload := payload }

def version11 (s : State) : Bool := s.host.hopUp.version == 2

/-- Words of one RD or WR, records of one CMD and of one CPL. -/
def wordLimit (s : State) : Nat := if version11 s then 64 else 1
def cmdLimit (s : State) : Nat := if version11 s then 16 else 1
def cplLimit (s : State) : Nat := if version11 s then 8 else 1


/-! ### Completions (R312, Table 14.7) -/

/-- The 32 octets of a completion record. -/
def cplBytes (c : Cpl) : List Byte :=
  [c.kind, BitVec.ofNat 8 c.status.code, c.group.setWidth 8, c.opcode] ++ beBytes 3 c.tag.toNat ++ [0] ++
    beBytes 4 c.pass.toNat ++ beBytes 3 c.btag.toNat ++ [0] ++ beBytes 8 c.result.toNat ++ beBytes 8 c.ftime.toNat

/-- Pending tally notifications go into the queue, in ascending tally number, while there is room. -/
def refillTallies (s : State) : State :=
  foldOver s.host.pendTally (fun s e =>
    let c : Cpl :=
      { kind := 2, status := .ok, group := 0, opcode := 0, tag := 0, pass := 0, btag := 0,
        result := at_ e.2.1.toNat 48 ||| at_ e.2.2 16 ||| bv64 e.1, ftime := 0 }
    let r := pushCpl c s
    if r.1 then { r.2 with host := { r.2.host with pendTally := Map.erase r.2.host.pendTally e.1 } } else s) s

/-- Held completions of sequencers and units, group by group, then of records that entered no FIFO. -/
def refillHeld (s : State) : State :=
  let s1 := foldOver (upTo 16) (fun s g =>
    let s' := match (getGroup s g).seqCpl with
      | some c =>
        let r := pushCpl c s
        if r.1 then modGroup r.2 g (fun gr => { gr with seqCpl := none }) else s
      | none => s
    foldOver (upTo 12) (fun s u =>
      match (getUnit s g u).heldCpl with
      | some c =>
        let r := pushCpl c s
        if r.1 then modUnit r.2 g u (fun un => { un with heldCpl := none }) else s
      | none => s) s') s
  foldOver s1.host.entryCpl (fun s c =>
    let r := pushCpl c s
    if r.1 then { r.2 with host := { r.2.host with entryCpl := r.2.host.entryCpl.drop 1 } } else s) s1

/-- A CPL packet with every record waiting now, up to the limit of the chain's version, is handed to HL_UP. The space it
leaves in the queue is taken by what waited. -/
def handCpl (s : State) : State :=
  if s.host.cplq.isEmpty then s
  else
    let n := cplLimit s
    let s1 := { s with host := { s.host with cplq := s.host.cplq.drop n } }
    refillHeld (refillTallies (hopSend .up (ownPkt s 0x06#8 0 ((s.host.cplq.take n).flatMap cplBytes)) s1))

/-! ### The order of outgoing packets (R304, R312) -/

/-- What goes next on a hop: a packet of the device's own, a CPL packet, or a forwarded packet. -/
inductive HopTurn where
  | own (p : HostPkt)
  | cpl
  | fwd (p : HostPkt)
  deriving DecidableEq, Repr

def HopTurn.ofOwn : Option HostPkt → HopTurn
  | some p => .own p
  | none => .cpl

/-- The packet whose turn it is: own and forwarded ones take turns where both wait. -/
def hopNext (x : HopSt) : Option HopTurn :=
  match x.own, x.fwd with
  | [], [] => none
  | p :: _, [] => some (.ofOwn p)
  | [], q :: _ => some (.fwd q)
  | p :: _, q :: _ => if x.turnFwd then some (.fwd q) else some (.ofOwn p)

/-- The turn is taken. -/
def hopTurn (h : Hop) (t : HopTurn) (s : State) : State :=
  let ownGone := modHop h (fun x => { x with own := x.own.drop 1, turnFwd := true }) s
  match t with
  | .own p => hopSend h p ownGone
  | .cpl => handCpl ownGone
  | .fwd p => hopSend h p (modHop h (fun x => { x with fwd := x.fwd.drop 1, turnFwd := false }) s)

/-- Send waiting packets while fewer than 128 are unacknowledged (fuel: packets waiting). -/
def hopDrain (h : Hop) : Nat → State → State
  | 0, s => s
  | f + 1, s =>
    if 128 ≤ (getHop s h).unacked.length ∨ ¬ (getHop s h).up then s
    else match hopNext (getHop s h) with
      | none => s
      | some t => hopDrain h f (hopTurn h t s)

def hopFlush (h : Hop) (s : State) : State :=
  hopDrain h ((getHop s h).own.length + (getHop s h).fwd.length) s

/-- A packet of the device's own for the adapter. With HL_UP down there is nowhere to send it. -/
def sendOwn (p : HostPkt) (s : State) : State :=
  if s.host.hopUp.up then hopFlush .up (modHop .up (fun x => { x with own := x.own ++ [some p] }) s) else s

/-- A CPL packet takes its place among the device's own packets, unless one has a place or no record waits. -/
def sendCpl (s : State) : State :=
  if s.host.hopUp.up ∧ s.host.cplq ≠ [] ∧ ¬ s.host.hopUp.own.contains none then
    hopFlush .up (modHop .up (fun x => { x with own := x.own ++ [none] }) s)
  else s

def execCompletionSend (s : State) : Host.Outcome State Fault Refusal := .next (mssRuns sendCpl s)

/-- A packet passed on. -/
def forwardOn (h : Hop) (p : HostPkt) (s : State) : State :=
  if (getHop s h).up then hopFlush h (modHop h (fun x => { x with fwd := x.fwd ++ [p] }) s) else s

/-! ### Acknowledgement and retry (R62, R306) -/

/-- Packets after the one numbered `q`; none if it is not among them. -/
def afterHseq (q : Byte) : List (Byte × HostPkt) → Option (List (Byte × HostPkt))
  | [] => none
  | e :: r => if e.1 = q then some r else afterHseq q r

/-- ACK: every packet up to the one named is released; waiting packets go on. -/
def hopAck (h : Hop) (q : Byte) (s : State) : State :=
  if ¬ (getHop s h).up then s
  else match afterHseq q (getHop s h).unacked with
    | none => s
    | some rest => hopFlush h (modHop h (fun x => { x with unacked := rest, resends := 0 }) s)

/-- Resend packets; after 16 resends of the same oldest packet the hop goes down. -/
def hopResend (h : Hop) (l : List (Byte × HostPkt)) (s : State) : State :=
  let x := getHop s h
  let oldest := decide (l ≠ [] ∧ l.head? = x.unacked.head?)
  if oldest ∧ 16 ≤ x.resends then hopDown h s
  else foldOver l (fun s e => emitPkt h e.2 s) (setHop h { x with resends := x.resends + bit1 oldest } s)

/-- NAK: every unacknowledged packet from the one named onward. -/
def hopNak (h : Hop) (q : Byte) (s : State) : State :=
  if (getHop s h).up then
    match (getHop s h).unacked.dropWhile (fun e => e.1 != q) with
    | [] => s
    | l => hopResend h l s
  else s

/-- 20 µs without an acknowledgement of the oldest packet. -/
def hopTimeout (h : Hop) (s : State) : State :=
  if (getHop s h).up ∧ (getHop s h).unacked ≠ [] then hopResend h (getHop s h).unacked s else s

def execHostHopRetryTimeout (h : Hop) (s : State) : Host.Outcome State Fault Refusal := .next (mssRuns (hopTimeout h) s)

/-! ### Form of a packet (Tables 14.1, 14.4, R307) -/

/-- DataTransferSize: the largest payload of the chain's version (R347, Table 14.1). -/
def transferSize (s : State) : Nat := if s.host.hopUp.version = 2 then 4104 else 1032

def pktAddr (p : HostPkt) : Nat := fromBe (slice p.payload 0 6)
def pktCount (p : HostPkt) : Nat := fromBe (slice p.payload 6 1)
def payloadByte (p : HostPkt) (i : Nat) : Byte := nthD p.payload i 0

/-- The form of an RD's or a WR's first eight octets. -/
def accessOk (s : State) (p : HostPkt) : Bool :=
  pktAddr p % 8 == 0 && decide (1 ≤ pktCount p) && decide (pktCount p ≤ wordLimit s) && payloadByte p 7 == 0

/-- Is a packet's TYPE one sent to a device, and do its LENGTH and zero fields keep its type's rule? -/
def pktOk (s : State) (p : HostPkt) : Bool :=
  let n := p.payload.length
  allZero p.zero && p.len.toNat == n && decide (n ≤ transferSize s) &&
    (match p.ty.toNat with
     | 0x01 => n == 8 && accessOk s p
     | 0x03 => n == 8 + 8 * pktCount p && accessOk s p
     | 0x05 => n % 32 == 0 && decide (32 ≤ n) && decide (n ≤ 32 * cmdLimit s)
     | 0x07 => n == 8 && allZero (p.payload.drop 1)
     | 0x09 => decide (1 ≤ n)
     | 0x0A => decide (8 ≤ n)
     | _ => false)

/-- A malformed packet: discarded, counted, its REQ_ID logged; no reply. -/
def pktMalformed (p : HostPkt) (s : State) : State :=
  logEv (codeCounter 1 1) 0 0xFF none [p.reqId.toNat] (count 1 1 0 s)

/-- Is the packet a LINK or a HELLO, which go one hop? -/
def oneHop (p : HostPkt) : Bool := p.ty == 0x0B#8 || p.ty == 0x0C#8

/-- Do LENGTH and the zero fields of a LINK or HELLO keep its type's rule? -/
def oneHopOk (p : HostPkt) : Bool :=
  allZero p.zero && p.len == 8 && p.payload.length == 8 && allZero (p.payload.drop 2) &&
    (p.ty == 0x0C#8 || decide ((payloadByte p 1).toNat < 2))

/-! ### Receiving (R61, R306, R314) -/

/-- A packet came on a hop: on HL_UP the keep-alive watch starts again while it is enabled (R314). -/
def hopHeard (h : Hop) (s : State) : State :=
  match h with
  | .up => if bitAt (reg s Reg.wdCfg) 63 then startTimer 0x13 s else s
  | .dn => s

def sendLinkAck (h : Hop) (s : State) : State :=
  emitPkt h (hopControl s 0x0C#8 ([1#8, (getHop s h).rxExp - 1] ++ zeros 6)) s

/-- NAK with the HSEQ wanted, unless one is pending. -/
def sendLinkNak (h : Hop) (s : State) : State :=
  if (getHop s h).nakPending then s
  else modHop h (fun x => { x with nakPending := true })
    (emitPkt h (hopControl s 0x0C#8 ([2#8, (getHop s h).rxExp] ++ zeros 6)) s)

/-- Octets came on a hop: discarded with a NAK where their CRC is bad and the hop is up, else the packet they hold. -/
def received (h : Hop) (b : List Byte) (op : HostPkt → State → State) (s : State) : State :=
  if pktCrcOk b then op (pktOf b) s
  else if (getHop s h).up then sendLinkNak h s
  else s

/-- A LINK or HELLO received on a hop whose lanes are trained: malformed, or its effect. -/
def oneHopPacket (h : Hop) (p : HostPkt) (op : State → State) (s : State) : State :=
  if (getHop s h).trained then
    (if oneHopOk p then op (hopHeard h s) else pktMalformed p (hopHeard h s))
  else s

/-- A received HELLO; the hop answers with its next one. The exchange does not depend on the peer's SEEN (R303). -/
def helloPkt (h : Hop) (p : HostPkt) (s : State) : State :=
  if p.ty = 0x0B#8 then
    oneHopPacket h p (fun s =>
      let x := getHop s h
      if ¬ x.up ∧ hopMayTrain s h then helloDone h (setHop h { x with helloRx := some (payloadByte p 0) } s) else s) s
  else s

/-- The operands are the octets received: those of the header, and the rest. -/
def execHostHello (h : Hop) (header rest : List Byte) (s : State) : Host.Outcome State Fault Refusal :=
  .next (mssRuns (received h (header ++ rest) (helloPkt h)) s)

/-- A received LINK packet of a kind: 1 ACK, 2 NAK. -/
def linkPkt (h : Hop) (kind : Byte) (op : Hop → Byte → State → State) (p : HostPkt) (s : State) : State :=
  if p.ty = 0x0C#8 ∧ (payloadByte p 0 = kind ∨ ¬ oneHopOk p) then
    oneHopPacket h p (op h (payloadByte p 1)) s
  else s

def execHostLinkAck (h : Hop) (b : List Byte) (s : State) : Host.Outcome State Fault Refusal :=
  .next (mssRuns (received h b (linkPkt h 1 hopAck)) s)

def execHostLinkNak (h : Hop) (b : List Byte) (s : State) : Host.Outcome State Fault Refusal :=
  .next (mssRuns (received h b (linkPkt h 2 hopNak)) s)

/-- A packet out of sequence: a repeat of one of the last 128 is acknowledged again, anything else is a gap. -/
def hopOutOfTurn (h : Hop) (hseq : Byte) (s : State) : State :=
  let d := ((getHop s h).rxExp - hseq).toNat
  if 1 ≤ d ∧ d ≤ 128 then sendLinkAck h s else sendLinkNak h s

/-- A packet in sequence is accepted and acknowledged. -/
def hopAccept (h : Hop) (s : State) : State :=
  sendLinkAck h (modHop h (fun x => { x with rxExp := x.rxExp + 1, nakPending := false }) s)

/-- A sequenced packet that arrived with a good CRC: in turn, `op` handles it. -/
def hopReceive (h : Hop) (hseq : Byte) (op : State → State) (s : State) : State :=
  if ¬ (getHop s h).up then s
  else
    let s1 := hopHeard h s
    if hseq = (getHop s1 h).rxExp then op (hopAccept h s1) else hopOutOfTurn h hseq s1

/-- A sequenced packet out of sequence; one in sequence, a LINK or a HELLO is not this case. -/
def hopAstray (h : Hop) (p : HostPkt) (s : State) : State :=
  if (getHop s h).up ∧ ¬ oneHop p ∧ p.hseq ≠ (getHop s h).rxExp then hopOutOfTurn h p.hseq (hopHeard h s) else s

/-- The operands are the octets received: those of the header, and the rest. -/
def execHostPacketCorrupt (h : Hop) (header rest : List Byte) (s : State) : Host.Outcome State Fault Refusal :=
  .next (mssRuns (received h (header ++ rest) (hopAstray h)) s)

/-! ### Routing (R304, R305) -/

/-- ENUM_RESP (Table 14.2). -/
def enumResp (s : State) : List Byte :=
  [s.host.chainAddr, BitVec.ofNat 8 (2 ^ s.mss.grade.toNat), 0xB1#8, s.host.hopUp.version.setWidth 8,
    BitVec.ofNat 8 (bit1 s.host.hopDn.up + 2 * bit1 (s.pwr.state == .banked)), 0, 0, 0] ++ beBytes 8 s.mss.deviceId.toNat

def enumReply (p : HostPkt) (s : State) : State := sendOwn (ownPkt s 0x08#8 p.reqId (enumResp s)) s

/-- ENUM (R305). -/
def enumPkt (p : HostPkt) (s : State) : State :=
  let next := payloadByte p 0
  let own := s.host.chainAddr
  if next = 0 ∨ 32 < next.toNat then s
  else if own = 0xFF#8 then enumReply p { s with host := { s.host with chainAddr := next } }
  else if own = next then enumReply p s
  else if own.toNat < next.toNat then forwardOn .dn p s
  else s

/-- Is a packet from HL_UP handled here: addressed to this device, or an ENUM to 0xFF? -/
def forHere (s : State) (p : HostPkt) : Bool :=
  p.dst == s.host.chainAddr || (p.dst == 0xFF#8 && p.ty == 0x07#8)

/-- A packet from HL_UP that is not handled here: on down the chain, or discarded. -/
def routeDown (p : HostPkt) (s : State) : State :=
  let own := s.host.chainAddr
  if own ≠ 0xFF#8 ∧ own.toNat < p.dst.toNat ∧ p.dst.toNat ≤ 32 then
    (if s.host.hopDn.up then forwardOn .dn p s else badDst s)
  else badDst s

/-- A packet from HL_DN: up the chain to the adapter, or discarded. -/
def routeUp (p : HostPkt) (s : State) : State := if p.dst = 0 then forwardOn .up p s else badDst s

/-- May the ROM loader handle the packet: ENUM, RD and WR within the MSS_ block, a firmware image, and COLD (R345),
and in a start any state command (R316)? -/
def romHandles (s : State) (p : HostPkt) : Bool :=
  let a := pktAddr p
  let n := pktCount p
  match p.ty.toNat with
  | 0x01 => decide (a + 8 * n ≤ blockBase 1)
  | 0x03 => decide (a + 8 * n ≤ blockBase 1) ||
      (a == blockBase 14 && n == 1 && (starting s || bits (fromBe (slice p.payload 8 8)) 3 0 == 2))
  | 0x07 => true
  | 0x0A => fromBe (slice p.payload 0 2) == 0
  | _ => false

/-- A packet handled here: malformed, beyond the ROM loader, or its own effect. -/
def handleHere (p : HostPkt) (op : State → State) (s : State) : State :=
  if ¬ pktOk s p then pktMalformed p s
  else if s.mss.romOnly ∧ ¬ romHandles s p then badDst s
  else op s

/-- A packet of one type received in turn on HL_UP. -/
def upPacket (ty : Byte) (op : HostPkt → State → State) (p : HostPkt) (s : State) : State :=
  if p.ty ≠ ty then s
  else hopReceive .up p.hseq (fun s => if forHere s p then handleHere p (op p) s else routeDown p s) s

/-- Octets received on HL_UP, whose packet is of one type. -/
def upRow (ty : Byte) (b : List Byte) (op : HostPkt → State → State) (s : State) : Host.Outcome State Fault Refusal :=
  .next (mssRuns (received .up b (upPacket ty op)) s)

/-- A packet that is not for this device; one that is, is not this case. -/
def forwardPkt (h : Hop) (p : HostPkt) (s : State) : State :=
  if oneHop p then s
  else match h with
    | .up => if forHere s p then s else hopReceive .up p.hseq (routeDown p) s
    | .dn => hopReceive .dn p.hseq (routeUp p) s

def execHostPacketForward (h : Hop) (b : List Byte) (s : State) : Host.Outcome State Fault Refusal :=
  .next (mssRuns (received h b (forwardPkt h)) s)

/-- Is a well-formed LINK or HELLO one that another row handles: a HELLO, an ACK or a NAK? -/
def oneHopKnown (p : HostPkt) : Bool := p.ty == 0x0B#8 || [1#8, 2#8].contains (payloadByte p 0)

/-- A malformed packet at its destination, which is either end of the hop for a LINK or HELLO; any other packet is not
this case. A LINK whose byte 0 is neither ACK nor NAK comes here: it has no effect of its own, and is a packet received
(R314). -/
def malformedPkt (h : Hop) (p : HostPkt) (s : State) : State :=
  if oneHop p then (if oneHopOk p ∧ oneHopKnown p then s else oneHopPacket h p id s)
  else match h with
    | .up => if forHere s p ∧ ¬ pktOk s p then hopReceive .up p.hseq (pktMalformed p) s else s
    | .dn => s

def execHostPacketMalformed (h : Hop) (b : List Byte) (s : State) : Host.Outcome State Fault Refusal :=
  .next (mssRuns (received h b (malformedPkt h)) s)

def execEnum (b : List Byte) (s : State) : Host.Outcome State Fault Refusal := upRow 0x07#8 b enumPkt s

end Sys2Proof.Machine
end

