-- ==== Sys2Proof/Machine/Twin.lean ====
section
/-! DEFINITION. The twin pair: engagement, heartbeat, pairing, the receiving side of the mirror, takeover, fencing and
the recovery actions (chapter 17). -/

namespace Sys2Proof.Machine

open Sys2Proof

/-! ### TWN_CFG (Table 17.6, R350, R351) -/

/-- The bits of TWN_CFG that are no reserved bits. -/
def twnCfgMask : W64 := maskOf 63 61 ||| maskOf 47 0

/-- HB_MISS and HB_HALF in their ranges; HB_MISS's reset value is always accepted (R12). -/
def twnCfgOk (v : W64) : Bool :=
  let miss := fld v 31 16
  let half := fld v 15 0
  decide (1 ≤ half ∧ half ≤ 100 ∧ (miss = 4 ∨ (2 ≤ miss ∧ miss ≤ 1000 ∧ 2 * half ≤ miss)))

/-- A claimant's HBM4 range has at least so many MiB. -/
def rangeAtLeast (s : State) (claimant mib : Nat) : Bool :=
  match claimOf s claimant with
  | some c => decide (mib ≤ c.len)
  | none => false

/-- Is the half of SIDE's partner empty (R351, check 4)? -/
def partnerHalfEmpty (s : State) (side : Bool) : Bool :=
  let theirs (kind n : Nat) : Bool := halfBit kind n != side
  !(s.ctx.table.any (fun e => theirs 3 e.1)) &&
    !(s.ctx.groups.any (fun e => theirs 5 e.1 && !e.2.chips.isEmpty)) &&
    (upTo 8192).all (fun t => !theirs 6 t ||
      (fld (reg s (Reg.tallyCfg t)) 47 0 == 0 && (getTally s t).value == 0)) &&
    (upTo 256).all (fun l => !theirs 9 l || !ltValid s l)

/-- The checks of a write that sets ENGAGE. -/
def engageOk (s : State) (v : W64) : Bool :=
  claimHeld s 0x11 && rangeAtLeast s 0x20 160 && rangeAtLeast s 0x21 64 &&
    decide (fld (reg s Reg.redCfg) 6 0 ≤ 32) && fld v 47 32 != 0 && fld v 47 32 != ownChip s &&
    partnerHalfEmpty s (bitAt v 61)

/-- A write that sets ENGAGE from 0 to 1: heartbeat, pairing and halving start, and the partner is judged (R360). -/
def twinEngage (v : W64) (s : State) : Status × State :=
  if ¬ engageOk s v then (.resourceBound, s)
  else
    let s1 := setReg s Reg.twnCfg (v &&& twnCfgMask)
    (.ok, judgePartner (helloNow (startTimer 0x11 { s1 with twn := { s1.twn with state := 1, cause := 0, version := 0 } })))

/-- SIDE or PARTNER_CHIP changed by a write? -/
def twnFixedChanged (old v : W64) : Bool := bitAt old 61 != bitAt v 61 || fld old 47 32 != fld v 47 32

/-- A write that clears ENGAGE: heartbeat, mirroring and pairing stop; refused while the partner half is adopted.
Objects being fetched stay absent. -/
def twinDisengage (v : W64) (s : State) : Status × State :=
  if s.twn.tookOver ∨ twnFixedChanged (reg s Reg.twnCfg) v then (.resourceBound, s)
  else
    let s1 := foldOver s.twn.fetching (fun s x => fetchFailed x.1 x.2 s)
      (haltTimer 0x11 (setReg s Reg.twnCfg (v &&& twnCfgMask)))
    (.ok, { s1 with twn := { s1.twn with
      hbTx := false, state := 0, cause := 0, version := 0, partnerHello := none, txq := [], early := [], recopy := false,
      inCopy := false, giveback := false, resyncing := false, fetching := [], out := [] } })

/-- A write to TWN_CFG. -/
def twnCfgWrite (v : W64) (s : State) : Status × State :=
  let old := reg s Reg.twnCfg
  if ¬ twnCfgOk v then (.fieldInvalid, s)
  else if ¬ bitAt old 63 ∧ bitAt v 63 then twinEngage v s
  else if bitAt old 63 ∧ ¬ bitAt v 63 then twinDisengage v s
  else if bitAt old 63 ∧ twnFixedChanged old v then (.resourceBound, s)
  else (.ok, setReg s Reg.twnCfg (v &&& twnCfgMask))

/-- A TWN_CFG write with ENGAGE = 1. -/
def execTwinEngage (v : W64) (s : State) : Host.Outcome State Fault Refusal := hostCmd (twnCfgWrite (v ||| at_ 1 63)) s

/-- A TWN_CFG write with ENGAGE = 0. -/
def execTwinDisengage (v : W64) (s : State) : Host.Outcome State Fault Refusal :=
  hostCmd (twnCfgWrite (v &&& ~~~(at_ 1 63))) s

/-! ### Heartbeat (R353, R360, R392) -/

/-- Every HB_HALF µs while engaged in Idle, Active or Blaze. -/
def hbToggle (s : State) : State :=
  if engaged s ∧ claimHeld s 0x11 ∧ powered s then
    startTimer 0x11 { s with twn := { s.twn with hbTx := !s.twn.hbTx } }
  else s

def execHeartbeatToggle (s : State) : Host.Outcome State Fault Refusal := .next (mssRuns hbToggle s)

/-- Has TWIN_HB_RX shown an edge less than 200 ns ago? The reference ticks once a nanosecond whatever the fabric time
counter is set to (R392). -/
def edgeTooSoon (s : State) : Bool :=
  match s.twn.lastEdge with
  | some t => decide (s.time.raw - t < 200)
  | none => false

/-- An edge on TWIN_HB_RX; one less than 200 ns after the previous is ignored, and is itself the previous edge of the
next (R392). -/
def hbEdge (s : State) : State :=
  let s1 := { s with twn := { s.twn with lastEdge := some s.time.raw } }
  if ¬ claimHeld s 0x11 ∨ edgeTooSoon s then s1
  else judgePartner { s1 with twn := { s1.twn with hbAlive := true } }

def execHeartbeatEdge (s : State) : Host.Outcome State Fault Refusal := .next (mssRuns hbEdge s)

/-- HB_MISS µs without an edge: HB_ALIVE clears; with a sublink up this is counted and logged, otherwise the partner is
judged (R360). -/
def hbMiss (s : State) : State :=
  if ¬ s.twn.hbAlive then s
  else
    let s1 := { s with twn := { s.twn with hbAlive := false } }
    if ¬ engaged s1 then s1
    else if (upSublinks s1).isEmpty then judgePartner s1
    else logEv (codeCounter 12 3) 0 0xFF none [] (count 12 3 0 s1)

def execHeartbeatMiss (s : State) : Host.Outcome State Fault Refusal := .next (mssRuns hbMiss s)

/-! ### Fencing (R362) -/

/-- Every up fabric or Ethernet port begins its orderly close; bring-up under way stops. -/
def closePorts (s : State) : State :=
  { s with ports := Map.each s.ports (fun k p =>
    if 1024 ≤ k then p
    else if p.state = .up then { p with state := .closing }
    else if p.state = .down ∨ p.state = .closing then p
    else { freshLink p with state := .down, rev := 0, cause := 0x01#8, lanesUp := 0, retryWait := false }) }

/-- The device is fenced; an engaged one only. A field of HELLO changes with it (R355). -/
def fenceSelf (s : State) : State :=
  if ¬ engaged s ∨ s.twn.fenced then s
  else
    let s1 := closePorts s
    helloNow { s1 with twn := { s1.twn with fenced := true, resynced := false } }

/-! ### Pairing (R355, R356) -/

/-- Every 100 µs until the pair is paired. -/
def helloTimer (s : State) : State := if s.twn.state = 2 then s else helloNow s

def execTwinHelloTimer (s : State) : Host.Outcome State Fault Refusal := .next (mssRuns helloTimer s)

/-- The oldest message received is acted on, if it is of a type and the one the row names. -/
def takeMsg (mtype : Byte) (named : Nat × List Byte → Bool) (op : Nat → TwinMsg → State → State) (s : State) : State :=
  match s.twn.inbox with
  | [] => s
  | e :: rest =>
    if named e ∧ (twinMsgOf e.2).mtype = mtype then op e.1 (twinMsgOf e.2) { s with twn := { s.twn with inbox := rest } } else s

/-- A row of the table that receives a type of message. -/
def twinRow (mtype : Byte) (named : Nat × List Byte → Bool) (op : Nat → TwinMsg → State → State) (s : State) :
    Host.Outcome State Fault Refusal :=
  .next (mssRuns (takeMsg mtype named op) s)

/-- HELLO's fields (Table 17.3). -/
def helloOf (m : TwinMsg) : TwinHelloMsg :=
  { vmin := nthD m.body 0 0, vmax := nthD m.body 1 0, side := (nthD m.body 2 0).getLsbD 0,
    tookOver := (nthD m.body 2 0).getLsbD 1, fenced := (nthD m.body 2 0).getLsbD 2,
    chip := BitVec.ofNat 16 (bodyAt m.body 4 2), digest := slice m.body 8 64, epoch := m.epoch }

/-- The mismatch cause of a received HELLO, if any (R355). -/
def helloCause (s : State) (m : TwinHelloMsg) : Option (BitVec 4) :=
  let c := reg s Reg.twnCfg
  let d := s.cord.digest
  if m.chip.toNat ≠ fld c 47 32 ∨ m.side = bitAt c 61 then some 1
  else if d = [] ∨ allZero m.digest ∨ m.digest ≠ d then some 2
  else if 1 < m.vmin.toNat ∨ m.vmax.toNat < 1 then some 3
  else none

/-- Which device fences itself before copying (R356)? -/
def mustFence (s : State) (m : TwinHelloMsg) : Bool :=
  if ¬ m.tookOver then false
  else if ¬ s.twn.tookOver then true
  else if s.twn.epoch.toNat < m.epoch.toNat then true
  else s.twn.epoch == m.epoch && bitAt (reg s Reg.twnCfg) 61

/-- The pair epoch becomes one that is larger. -/
def raiseEpoch (e : BitVec 32) (s : State) : State := if s.twn.epoch.toNat < e.toNat then setPairEpoch e s else s

/-- A pairing completes: numbering afresh, the larger pair epoch, fencing where due, then a full copy, and FETCH again
for the objects that are absent. -/
def pairUp (m : TwinHelloMsg) (s : State) : State :=
  let f := mustFence s m
  let s1 := { s with twn := { s.twn with
    state := 2, cause := 0, version := 1, sentMseq := 0, ackedMseq := 0, txq := [], recopy := false, rxNext := 1,
    early := [], sinceAck := 0, inCopy := false, copyResync := false } }
  let s2 := if f then fenceSelf s1 else s1
  foldOver s.twn.fetching (fun s x => fetchOne x.1 x.2 s) (fullCopy (raiseEpoch m.epoch s2))

/-- A HELLO received on a sublink (R355). -/
def helloRx (n : Nat) (m : TwinHelloMsg) (s : State) : State :=
  if ¬ engaged s ∨ ¬ (upSublinks s).contains n then s
  else
    let s1 := { s with twn := { s.twn with partnerHello := some m } }
    match helloCause s1 m with
    | some c =>
      let s2 := { s1 with twn := { s1.twn with state := 3, cause := c, version := 0, txq := [], recopy := false } }
      if c = 3 ∧ ¬ (s.twn.state = 3 ∧ s.twn.cause = 3) then
        logEv (codeStatus 12 .versionUnsupported) 1 0xFF none [] s2
      else s2
    | none => if s1.twn.state = 2 then s1 else pairUp m s1

/-- HELLO: the sublink it came on, and its octets. -/
def execTwinHello (sub : BitVec 3) (m : List Byte) (s : State) : Host.Outcome State Fault Refusal :=
  twinRow 1 (fun e => e == (sub.toNat, m)) (fun n m => helloRx n (helloOf m)) s

/-! ### The sending side's acknowledgements (R358) -/

/-- An ACK: every message up to its MSEQ is done; a copy put off goes out once fewer than 4,096 of the messages sent are
unacknowledged. -/
def twinAckRx (q : Nat) (s : State) : State :=
  if s.twn.state ≠ 2 ∨ s.twn.sentMseq < q ∨ q ≤ s.twn.ackedMseq then s
  else
    let s1 := { s with twn := { s.twn with
      ackedMseq := q, txq := s.twn.txq.filter (fun m => decide (q < m.mseq)) } }
    if s1.twn.recopy ∧ s1.twn.sentMseq - q < 4096 then fullCopy s1 else s1

/-- ACK: the sublink it came on, and the MSEQ it acknowledges. -/
def execTwinAck (sub : BitVec 3) (mseq : W64) (s : State) : Host.Outcome State Fault Refusal :=
  twinRow 2 (fun e => e.1 == sub.toNat && bodyAt (twinMsgOf e.2).body 0 8 == mseq.toNat) (fun _ _ => twinAckRx mseq.toNat) s

/-- Send ACK with the highest MSEQ applied, on the first sublink that is up. -/
def sendTwinAck (s : State) : State :=
  match (upSublinks s).head? with
  | some n => twinEmit n 2 0 (beBytes 8 (s.twn.rxNext - 1)) { s with twn := { s.twn with sinceAck := 0 } }
  | none => s

/-- At least every 1 µs while a message applied is unacknowledged. -/
def twinAckTick (s : State) : State := if s.twn.state = 2 ∧ s.twn.sinceAck ≠ 0 then sendTwinAck s else s

def execTwinAckTimer (s : State) : Host.Outcome State Fault Refusal := .next (mssRuns twinAckTick s)

/-! ### Applying mirror messages (R352, R356, R357, R359, R363) -/

def modMirror (f : Mirror → Mirror) (s : State) : State := { s with twn := { s.twn with mirror := f s.twn.mirror } }

/-- Is an object one of the own half, so that a message about it installs it here? -/
def ownHalf (s : State) (kind n : Nat) : Bool := halfBit kind n == twinSide s

/-- A context record placed in the bank, Timed out (R359, R361, R363). -/
def installCtx (c : Nat) (arg0 : W64) (timeout : BitVec 32) (step : W64) (s : State) : State :=
  let s1 := eraseCtx c s
  storeBank c (setCtx c { newCtx arg0 timeout step false s1 with state := .timedOut } s1)

def installTally (t : Nat) (x : MirTally) (s : State) : State :=
  writeSram (.tally t) 0 4 (setTally t { value := x.value, gen := x.gen, start := x.start, relSeq := 0 }
    (setReg (setReg s (Reg.tallyCfg t) x.cfg) (Reg.tallyRelease t) x.release))

/-- Where a mirrored context record and a mirrored placement entry lie (R352; the places within the areas are the
model's, log entry 104). -/
def mirrorCtxAt (s : State) (c : Nat) : Option Nat := (regionBase s 0x20).map (fun b => b + 2 ^ 26 + 4096 * (c % 8192))
def mirrorPlaceAt (s : State) (b l e : Nat) : Option Nat := (placeOffset s b l e).map (fun o => o + 2 ^ 25)

/-- Where an entry of the mirrored tables lies: 128 MiB into the range (R352; log entry 104). -/
def mirrorTableAt (s : State) (o : Nat) : Option Nat := (regionBase s 0x20).map (fun b => b + 2 ^ 27 + o)
def mirrorMgrpAt (s : State) (n : Nat) : Option Nat := mirrorTableAt s (2 ^ 14 * (n % 512))
def mirrorTallyAt (s : State) (t : Nat) : Option Nat := mirrorTableAt s (2 ^ 23 + 64 * (t % 4096))
def mirrorLayerAt (s : State) (l : Nat) : Option Nat := mirrorTableAt s (2 ^ 23 + 2 ^ 20 + 64 * (l % 128))
def mirrorRouteAt (s : State) (a : Nat) : Option Nat :=
  if isRouteAddr a then mirrorTableAt s (2 ^ 24 + (if a = Reg.fwdCfg then 2 ^ 22 else a - Reg.rtRack 0)) else none

/-- The octets of a mirrored entry: its fields one after another, each least significant octet first (R9; log entry
104). -/
def mirrorCtxOctets (x : MirCtx) : List Byte :=
  storedRecord 32 [bit1 x.timedOut, x.arg0.toNat, x.timeout.toNat, x.step.toNat] []
def mirrorMgrpOctets (x : MGroup) : List Byte :=
  leBytes 4 x.epoch.toNat ++ leBytes 4 x.chips.length ++ x.chips.flatMap (fun c => leBytes 2 c.toNat)
def mirrorTallyOctets (x : MirTally) : List Byte :=
  [x.value.toNat, x.gen.toNat, x.cfg.toNat, x.release.toNat, x.start.toNat].flatMap (leBytes 8)
def mirrorLayerOctets (ws : List W64) : List Byte := (upTo 8).flatMap (fun w => leBytes 8 (nthD ws w 0).toNat)

/-- Octets go into a mirror area. -/
def mirrorWrite (o : Option Nat) (b : List Byte) (s : State) : State :=
  match o with
  | some o => writeMem 5 0xFF none o b s
  | none => s

/-- n octets of a mirror area are read: are all their words good? -/
def mirrorRead (o : Option Nat) (n : Nat) (s : State) : Bool × State :=
  match o with
  | some o =>
    let r := scanWords 5 0xFF none (wordsOf o n) s
    (r.1.isEmpty, r.2)
  | none => (true, s)

def installLayer (l : Nat) (ws : List W64) (s : State) : State :=
  foldOver (upTo 8) (fun s w => setReg s (Reg.layer l w) (nthD ws w 0)) s

def tallyOfBody (b : List Byte) : MirTally :=
  { value := BitVec.ofNat 48 (bodyAt b 2 6), gen := BitVec.ofNat 16 (bodyAt b 8 2),
    cfg := at_ (bodyAt b 16 1 % 8) 61 ||| bv64 (bodyAt b 10 6), release := bv64 (bodyAt b 24 8),
    start := bv64 (bodyAt b 32 8) }

def mgroupOfBody (b : List Byte) : MGroup :=
  { chips := (upTo (bodyAt b 2 2)).map (fun i => BitVec.ofNat 16 (bodyAt b (8 + 2 * i) 2)),
    epoch := BitVec.ofNat 32 (bodyAt b 4 4) }

/-- CTX: mirrored, or an object of the own half installed Timed out; where it answers a FETCH, its entry into that
state is mirrored in turn (Table 17.4). -/
def applyCtx (b : List Byte) (s : State) : State :=
  let c := bodyAt b 0 2
  let a := bv64 (bodyAt b 4 8)
  let t : BitVec 32 := BitVec.ofNat 32 (bodyAt b 12 4)
  let st := bv64 (bodyAt b 16 8)
  if ownHalf s 3 c then
    (if s.twn.fetching.contains (3, c) then mirrorCtx c (fetched 3 c (installCtx c a t st s)) else installCtx c a t st s)
  else
    let r : MirCtx := { timedOut := bodyAt b 2 1 == 1, arg0 := a, timeout := t, step := st }
    mirrorWrite (mirrorCtxAt s c) (mirrorCtxOctets r)
      (modMirror (fun m => { m with ctxs := Map.set m.ctxs c r }) s)

/-- CTX_GONE; about a context being fetched it says that the partner has none: it stays absent (R359). -/
def applyGone (b : List Byte) (s : State) : State :=
  let c := bodyAt b 0 2
  if s.twn.fetching.contains (3, c) then fetchFailed 3 c (fetched 3 c s)
  else if ownHalf s 3 c then eraseCtx c s
  else modMirror (fun m => { m with ctxs := Map.erase m.ctxs c }) s

/-- MGRP. -/
def applyMgrp (b : List Byte) (s : State) : State :=
  let n := bodyAt b 0 2
  if ownHalf s 5 n then { s with ctx := { s.ctx with groups := Map.set s.ctx.groups n (mgroupOfBody b) } }
  else mirrorWrite (mirrorMgrpAt s n) (mirrorMgrpOctets (mgroupOfBody b))
    (modMirror (fun m => { m with mgroups := Map.set m.mgroups n (mgroupOfBody b) }) s)

/-- TALLY; a fetched one that comes at its reset value, which an answer without the tally shows, stays absent (R359; log
entry 104). -/
def applyTally (b : List Byte) (s : State) : State :=
  let t := bodyAt b 0 2
  if ownHalf s 6 t then
    (if s.twn.fetching.contains (6, t) ∧ allZero (b.drop 2) then fetchFailed 6 t (fetched 6 t s)
     else fetched 6 t (installTally t (tallyOfBody b) s))
  else mirrorWrite (mirrorTallyAt s t) (mirrorTallyOctets (tallyOfBody b))
    (modMirror (fun m => { m with tallies := Map.set m.tallies t (tallyOfBody b) }) s)

/-- ROUTE: kept as the partner's, or in a copy a RESYNC asked for installed as the own routing state. -/
def applyRoute (b : List Byte) (s : State) : State :=
  let a := bodyAt b 0 8
  let v := bv64 (bodyAt b 8 8)
  if s.twn.inCopy ∧ s.twn.copyResync then (if isRouteAddr a then routeStore a v s else s)
  else mirrorWrite (mirrorRouteAt s a) (leBytes 8 v.toNat) (modMirror (fun m => { m with routes := Map.set m.routes a v }) s)

/-- The entries of a table that are still being fetched stay absent: the answer to the FETCH has ended (R359). -/
def placesFail (l : Nat) (s : State) : State :=
  foldOver (s.twn.fetching.filter (fun x => x.1 == 8 && placeTable x.2 == l)) (fun s x =>
    fetchFailed 8 x.2 (fetched 8 x.2 s)) s

/-- PLACE. The answer to a FETCH ends with the entry of bank 0 and expert 0 (log entry 104). -/
def applyPlace (b : List Byte) (s : State) : State :=
  let l := bodyAt b 1 1
  let e := bodyAt b 2 2
  let v := bv64 (bodyAt b 4 8)
  if ownHalf s 8 l then
    let s1 := fetched 8 (placeKey (bodyAt b 0 1) l e) (placeStore (bodyAt b 0 1) l e v s)
    if bodyAt b 0 1 = 0 ∧ e = 0 then placesFail l s1 else s1
  else mirrorWrite (mirrorPlaceAt s (bodyAt b 0 1) l e) (leBytes 8 v.toNat)
    (modMirror (fun m => { m with places := Map.set m.places (placeKey (bodyAt b 0 1) l e) v }) s)

def layerOfBody (b : List Byte) : List W64 := (upTo 8).map (fun w => bv64 (bodyAt b (8 + 8 * w) 8))

/-- LAYER. -/
def applyLayer (b : List Byte) (s : State) : State :=
  let l := bodyAt b 0 1
  if ownHalf s 9 l then installLayer l (layerOfBody b) s
  else mirrorWrite (mirrorLayerAt s l) (mirrorLayerOctets (layerOfBody b))
    (modMirror (fun m => { m with layers := Map.set m.layers l (layerOfBody b) }) s)

/-- The larger of two epochs. -/
def maxEpoch (a b : BitVec 32) : BitVec 32 := if a.toNat < b.toNat then b else a

/-- EPOCHS: the pair epoch never falls; in a copy a RESYNC asked for, the spare epochs are the device's own. -/
def applyEpochs (b : List Byte) (s : State) : State :=
  let e : BitVec 32 := BitVec.ofNat 32 (bodyAt b 0 4)
  let sp (g : Nat) : BitVec 32 := BitVec.ofNat 32 (bodyAt b (4 + 4 * g) 4)
  let me : BitVec 32 := BitVec.ofNat 32 (bodyAt b 68 4)
  let s1 := raiseEpoch e s
  if s.twn.inCopy ∧ s.twn.copyResync then
    let s2 := foldOver (upTo 16) (fun s g => modGroup s g (fun gr =>
      { gr with spareEpoch := maxEpoch gr.spareEpoch (sp g) })) s1
    { s2 with bpm := { s2.bpm with spareEpoch := maxEpoch s2.bpm.spareEpoch me } }
  else modMirror (fun m => { m with
    pairEpoch := e, spareEpochs := (upTo 16).map (fun g => (g, sp g)), memEpoch := me }) s1

/-- The objects of the partner's half as this device holds them: its own, adopted ones, or those of the mirror. -/
def partnerObjects (s : State) : List (Byte × List Byte) :=
  if s.twn.tookOver then copyObjects s false
  else
    let m := s.twn.mirror
    (m.ctxs.map (fun e => (3#8, beBytes 2 e.1 ++ [if e.2.timedOut then 1#8 else 0#8, 0] ++ beBytes 8 e.2.arg0.toNat ++
      beBytes 4 e.2.timeout.toNat ++ beBytes 8 e.2.step.toNat ++ zeros 8))) ++
    (m.mgroups.map (fun e => (5#8, mgrpBody e.1 e.2))) ++
    (m.tallies.map (fun e => (6#8, beBytes 2 e.1 ++ beBytes 6 e.2.value.toNat ++ beBytes 2 e.2.gen.toNat ++
      beBytes 6 (fld e.2.cfg 47 0) ++ [BitVec.ofNat 8 (fld e.2.cfg 63 61)] ++ zeros 7 ++
      beBytes 8 e.2.release.toNat ++ beBytes 8 e.2.start.toNat))) ++
    (m.layers.map (fun e => (9#8, [BitVec.ofNat 8 e.1] ++ zeros 7 ++
      ((upTo 8).map (fun w => beBytes 8 (nthD e.2 w 0).toNat)).flatten))) ++
    (m.places.map (fun e => (8#8, placeBody (e.1 / 2 ^ 21) (e.1 / 2 ^ 13 % 256) (e.1 % 2 ^ 13) e.2)))

/-- Entries of the mirror, of n octets each, are read in their areas; one that is uncorrectable drops out of it. -/
def mirrorSift (keys : List Nat) (place : Nat → Option Nat) (n : Nat) (drop : Nat → Mirror → Mirror) (s : State) : State :=
  foldOver keys (fun s k =>
    let r := mirrorRead (place k) n s
    if r.1 then r.2 else modMirror (drop k) r.2) s

/-- The mirror is read before it is used: contexts, placement entries, tallies, layer tables, member groups and routing
words (R122, R352, R359). -/
def mirrorCheck (s0 : State) : State :=
  let m := s0.twn.mirror
  let s1 := mirrorSift (m.ctxs.map (·.1)) (mirrorCtxAt s0) 32 (fun k m => { m with ctxs := Map.erase m.ctxs k }) s0
  let s2 := mirrorSift (m.places.map (·.1)) (fun k => mirrorPlaceAt s0 (k / 2 ^ 21) (k / 2 ^ 13 % 256) (k % 2 ^ 13)) 8
    (fun k m => { m with places := Map.erase m.places k }) s1
  let s3 := mirrorSift (m.tallies.map (·.1)) (mirrorTallyAt s0) 64 (fun k m => { m with tallies := Map.erase m.tallies k }) s2
  let s4 := mirrorSift (m.layers.map (·.1)) (mirrorLayerAt s0) 64 (fun k m => { m with layers := Map.erase m.layers k }) s3
  let s5 := mirrorSift (m.mgroups.map (·.1)) (mirrorMgrpAt s0) 8200 (fun k m => { m with mgroups := Map.erase m.mgroups k }) s4
  mirrorSift (m.routes.map (·.1)) (mirrorRouteAt s0) 8 (fun k m => { m with routes := Map.erase m.routes k }) s5

/-- What answers a FETCH for an object that is not held: CTX_GONE, or the object at its reset value. -/
def absentObject (kind n : Nat) : List (Byte × List Byte) :=
  if kind = 3 then [(4#8, beBytes 2 n)]
  else if kind = 5 then [(5#8, mgrpBody n MGroup.reset)]
  else if kind = 6 then [(6#8, beBytes 2 n ++ zeros 38)]
  else if kind = 9 then [(9#8, [BitVec.ofNat 8 n] ++ zeros 71)]
  else []

/-- The number of the object a message body is about, by kind: the layer table for a placement entry. -/
def bodyNumber (kind : Byte) (b : List Byte) : Nat :=
  if kind = 8 then bodyAt b 1 1 else if kind = 9 then bodyAt b 0 1 else bodyAt b 0 2

/-- FETCH: one object, or everything: a copy of the partner's half, its routing state and its epochs (R363). -/
def applyFetch (epoch : BitVec 32) (b : List Byte) (s0 : State) : State :=
  let kind : Byte := nthD b 0 0
  let s := if s0.twn.tookOver then s0 else mirrorCheck s0
  if kind = 0xFF#8 then
    let m := s.twn.mirror
    let ep : List Byte := beBytes 4 s.twn.epoch.toNat ++
      ((upTo 16).map (fun g => beBytes 4 (Map.getD m.spareEpochs g 0).toNat)).flatten ++ beBytes 4 m.memEpoch.toNat
    sendCopy true (partnerObjects s ++ m.routes.map (fun e => (7#8, routeBody e.1 e.2)) ++ [(10#8, ep)])
      { s with twn := { s.twn with partnerResync := some epoch } }
  else
    let n := bodyAt b 2 2
    let held := (partnerObjects s).filter (fun m => m.1 == kind && bodyNumber kind m.2 == n)
    let first (m : Byte × List Byte) : Bool := bodyAt m.2 0 1 == 0 && bodyAt m.2 2 2 == 0
    let answer :=
      if kind = 8 then
        held.filter (fun m => !first m) ++ [(8#8, (((held.find? first).map (·.2)).getD (placeBody 0 n 0 0)))]
      else if held.isEmpty then absentObject kind.toNat n else held
    foldOver answer (fun s m => mirrorPush m.1 m.2 s) s

/-- One half's member groups, tallies and layer tables go back to their reset values, and its placement entries too
where asked. -/
def clearHalf (own places : Bool) (s : State) : State :=
  let gone (kind n : Nat) : Bool := (halfBit kind n == twinSide s) == own
  let s1 := { s with ctx := { s.ctx with
    groups := Map.keep s.ctx.groups (fun n _ => !gone 5 n), tallies := Map.keep s.ctx.tallies (fun n _ => !gone 6 n) } }
  let s2 := foldOver ((upTo 8192).filter (gone 6)) (fun s t =>
    setReg (setReg s (Reg.tallyCfg t) 0) (Reg.tallyRelease t) 0) s1
  let s3 := foldOver ((upTo 256).filter (gone 9)) (fun s l => installLayer l [] s) s2
  if places then
    foldOver ((s.regs.filter (fun e => isPlaceAddr e.1)).filter (fun e => gone 8 (placeOf e.1).2.1)) (fun s e =>
      placeStore (placeOf e.1).1 (placeOf e.1).2.1 (placeOf e.1).2.2 0 s) s3
  else s3

/-- One half's contexts are undefined: tiles for them go, and their buffers. -/
def dropHalfCtxs (own : Bool) (s : State) : State :=
  foldOver (s.ctx.table.filter (fun e => (halfBit 3 e.1 == twinSide s) == own)) (fun s e =>
    let p (t : Tile) : Bool := t.ctx.toNat == e.1
    eraseCtx e.1 (freeOwned e.1 (foldOver (upTo 16) (fun s g => purgeQueued g p id (purgeGroup g p s)) s))) s

/-- The routing tables are cleared; SWC_FWD_CFG, which every copy carries unless it is at its reset value, stays. -/
def clearRoutes (s : State) : State :=
  { s with regs := Map.keep s.regs (fun a _ => !(isRouteAddr a && a != Reg.fwdCfg)) }

/-- COPY_BEGIN: a copy of the partner's own half replaces the mirror. One a RESYNC asked for replaces the own half and
the own routing tables: what the partner does not hold is not in the copy (R363). -/
def applyCopyBegin (b : List Byte) (s : State) : State :=
  let re : Bool := (nthD b 0 0).getLsbD 0
  let s1 := { s with twn := { s.twn with inCopy := true, copyResync := re } }
  if re then clearRoutes (clearHalf true true (dropHalfCtxs true s1)) else modMirror (fun m => { Mirror.reset with pairEpoch := m.pairEpoch }) s1

/-- COPY_END: once a copy asked for by RESYNC is in, the fenced device sends its own (R356). -/
def applyCopyEnd (s : State) : State :=
  let re := s.twn.inCopy && s.twn.copyResync
  let s1 := { s with twn := { s.twn with inCopy := false, copyResync := false, resynced := s.twn.resynced || re } }
  if re ∧ s1.twn.resyncing then
    sendCopy false (copyObjects s1 true ++ copyRoutes s1 ++ [(10#8, epochsBody s1)])
      { s1 with twn := { s1.twn with resyncing := false } }
  else s1

/-- One message in its turn. -/
def applyMirror (mtype : Byte) (epoch : BitVec 32) (b : List Byte) (s : State) : State :=
  match mtype.toNat with
  | 3 => applyCtx b s
  | 4 => applyGone b s
  | 5 => applyMgrp b s
  | 6 => applyTally b s
  | 7 => applyRoute b s
  | 8 => applyPlace b s
  | 9 => applyLayer b s
  | 10 => applyEpochs b s
  | 11 => fenceSelf s
  | 12 => applyFetch epoch b s
  | 13 => applyCopyBegin b s
  | 14 => applyCopyEnd s
  | _ => s

/-- A message applied in its turn: the next number is wanted, and an ACK is due after every 32 (R358). -/
def applyInTurn (mtype : Byte) (epoch : BitVec 32) (b : List Byte) (s : State) : State :=
  let s1 := applyMirror mtype epoch b
    { s with twn := { s.twn with rxNext := s.twn.rxNext + 1, sinceAck := s.twn.sinceAck + 1 } }
  if 32 ≤ s1.twn.sinceAck then sendTwinAck s1 else s1

/-- Messages that arrived early follow while they are next (fuel: their number). -/
def drainEarly : Nat → State → State
  | 0, s => s
  | n + 1, s =>
    match Map.get? s.twn.early s.twn.rxNext with
    | none => s
    | some m =>
      drainEarly n (applyInTurn m.mtype m.epoch m.body
        { s with twn := { s.twn with early := Map.erase s.twn.early s.twn.rxNext } })

/-- A mirror message (R358): in MSEQ order only; up to 4,096 that arrive early are held. One applied already is
discarded, and since its sender has no ACK of it an ACK is due again. -/
def mirrorRx (_ : Nat) (m : TwinMsg) (s : State) : State :=
  let q := m.mseq.toNat
  if s.twn.state ≠ 2 then s
  else if q < s.twn.rxNext then { s with twn := { s.twn with sinceAck := max 1 s.twn.sinceAck } }
  else if q = s.twn.rxNext then
    let s1 := applyInTurn m.mtype m.epoch m.body s
    drainEarly s1.twn.early.length s1
  else if s.twn.early.length < 4096 then { s with twn := { s.twn with early := Map.set s.twn.early q m } }
  else s

/-- A row that receives a mirror message of a type: the message's octets, header first. -/
def mirrorRow (mtype : Byte) (m : List Byte) (s : State) : Host.Outcome State Fault Refusal :=
  twinRow mtype (fun e => e.2 == m) mirrorRx s

def execCtx (m : List Byte) (s : State) : Host.Outcome State Fault Refusal := mirrorRow 3 m s
def execCtxGone (m : List Byte) (s : State) : Host.Outcome State Fault Refusal := mirrorRow 4 m s
def execMgrp (m : List Byte) (s : State) : Host.Outcome State Fault Refusal := mirrorRow 5 m s
def execTally (m : List Byte) (s : State) : Host.Outcome State Fault Refusal := mirrorRow 6 m s
def execRoute (m : List Byte) (s : State) : Host.Outcome State Fault Refusal := mirrorRow 7 m s
def execPlace (m : List Byte) (s : State) : Host.Outcome State Fault Refusal := mirrorRow 8 m s
def execLayer (m : List Byte) (s : State) : Host.Outcome State Fault Refusal := mirrorRow 9 m s
def execEpochs (m : List Byte) (s : State) : Host.Outcome State Fault Refusal := mirrorRow 10 m s
def execFence (m : List Byte) (s : State) : Host.Outcome State Fault Refusal := mirrorRow 11 m s
def execFetch (m : List Byte) (s : State) : Host.Outcome State Fault Refusal := mirrorRow 12 m s
def execCopyBegin (m : List Byte) (s : State) : Host.Outcome State Fault Refusal := mirrorRow 13 m s
def execCopyEnd (m : List Byte) (s : State) : Host.Outcome State Fault Refusal := mirrorRow 14 m s

/-! ### Takeover (R361) -/

/-- Step 3 for one context: RESIDENT is kept while fewer than 768 contexts are resident; its loss is logged. Its entry
into Timed out is mirrored while the device is paired (Table 17.4). -/
def adoptCtx (s : State) (e : Nat × MirCtx) : State :=
  let lose := CtxArg.resident e.2.arg0 && decide (768 ≤ residentCount s)
  let a := if lose then e.2.arg0 &&& ~~~(at_ 1 63) else e.2.arg0
  let s1 := installCtx e.1 a e.2.timeout e.2.step s
  mirrorCtx e.1 (if lose then logEv (codeOther 8) 0 0xFF none [e.1] s1 else s1)

/-- Steps 3 to 5: the mirror's contexts, member groups, tallies, layer tables (VALID = 0) and placement banks become the
device's own, in place of what it held of that half; logged with the pair epoch; HELLO. -/
def takeoverFinish (s0 : State) : State :=
  if ¬ s0.twn.taking then s0
  else
    let s := mirrorCheck s0
    let m := s.twn.mirror
    let s1 := m.ctxs.foldl adoptCtx (clearHalf false true (dropHalfCtxs false s))
    let s2 := m.mgroups.foldl (fun s e => { s with ctx := { s.ctx with groups := Map.set s.ctx.groups e.1 e.2 } }) s1
    let s3 := m.tallies.foldl (fun s e => installTally e.1 e.2 s) s2
    let s4 := m.layers.foldl (fun s e =>
      let s' := installLayer e.1 e.2 s
      setReg s' (Reg.layer e.1 0) (reg s' (Reg.layer e.1 0) &&& ~~~(at_ 1 63))) s3
    let s5 := m.places.foldl (fun s e =>
      placeStore (e.1 / 2 ^ 21) (e.1 / 2 ^ 13 % 256) (e.1 % 2 ^ 13) e.2 s) s4
    helloNow (logEv (codeOther 12) 2 0xFF none [s.twn.epoch.toNat] { s5 with twn := { s5.twn with taking := false } })

def execTakeoverComplete (s : State) : Host.Outcome State Fault Refusal := .next (mssRuns takeoverFinish s)

/-! ### Recovery actions (R363, Table 17.5) -/

/-- The frame of an action: stale, repeated, refused, or performed at its epoch. TWN_ACTION_STATUS keeps the outcome. -/
def twinAct (code : BitVec 4) (e : BitVec 32) (cond : Bool) (perform : State → State) (s : State) : Status × State :=
  let r : Status × State :=
    if e.toNat < s.twn.epoch.toNat then (.epochStale, s)
    else if e = s.twn.epoch ∧ s.twn.recorded.contains code then (.ok, s)
    else if ¬ cond then (.resourceBound, s)
    else
      let s1 := setPairEpoch e s
      (.ok, perform { s1 with twn := { s1.twn with recorded := s1.twn.recorded ++ [code] } })
  (r.1, { r.2 with twn := { r.2.twn with actStatus := r.1, actCode := code, actEpoch := e } })

def partnerFenced (s : State) : Bool :=
  match s.twn.partnerHello with
  | some m => m.fenced
  | none => false

def partnerTook (s : State) : Option Bool := s.twn.partnerHello.map (fun m => m.tookOver)

/-- May TAKEOVER be carried out: the condition of Table 17.5; or R364's, that a fenced device holds the copy a RESYNC
brought and its partner is lost, which the table's "not fenced" does not undo (DEDUCED, log entry 105)? -/
def mayTakeOver (s : State) : Bool :=
  engaged s && !s.twn.tookOver &&
    (if s.twn.fenced then s.twn.resynced && partnerGone s else partnerGone s || partnerFenced s)

/-- TAKEOVER. -/
def actTakeover (e : BitVec 32) (s : State) : Status × State :=
  twinAct 1 e (mayTakeOver s)
    (fun s => helloNow (takeoverBegin s)) s

def execTakeover (e : BitVec 32) (s : State) : Host.Outcome State Fault Refusal := hostCmd (actTakeover e) s

/-- GIVEBACK: accepted, it waits until ACKED = SENT. -/
def actGiveback (e : BitVec 32) (s : State) : Status × State :=
  twinAct 2 e (s.twn.tookOver && s.twn.state == 2 && partnerFenced s && s.twn.partnerResync == some e)
    (fun s => { s with twn := { s.twn with giveback := true } }) s

def execGiveback (e : BitVec 32) (s : State) : Host.Outcome State Fault Refusal := hostCmd (actGiveback e) s

/-- The adopted half goes: contexts undefined, member groups, tallies and layer tables cleared; TOOK_OVER = 0. These
changes are the partner's again and are not mirrored. -/
def dropAdopted (s : State) : State :=
  let s1 := clearHalf false false (dropHalfCtxs false s)
  helloNow { s1 with twn := { s1.twn with tookOver := false, giveback := false } }

/-- GIVEBACK goes on once ACKED = SENT. -/
def givebackDone (s : State) : State :=
  if s.twn.giveback ∧ s.twn.ackedMseq = s.twn.sentMseq then dropAdopted s else s

def execGivebackComplete (s : State) : Host.Outcome State Fault Refusal :=
  .next (mssRuns givebackDone s)

/-- RESYNC: FETCH for everything. -/
def actResync (e : BitVec 32) (s : State) : Status × State :=
  twinAct 3 e (s.twn.fenced && s.twn.state == 2 && partnerTook s == some true)
    (fun s => mirrorPush 12 ([0xFF#8] ++ zeros 7) { s with twn := { s.twn with resyncing := true } }) s

def execResync (e : BitVec 32) (s : State) : Host.Outcome State Fault Refusal := hostCmd (actResync e) s

/-- FENCE on every sublink that is up: one message, under one number. -/
def sendFence (s : State) : State :=
  match upSublinks s with
  | [] => s
  | n :: _ =>
    let q := s.twn.sentMseq + 1
    foldOver (upSublinks s) (fun s k => twinEmit k 11 q [] s)
      { s with twn := { s.twn with
        sentMseq := q, txq := s.twn.txq ++ [{ mseq := q, mtype := 11, body := [], sub := n }] } }

/-- FENCE_PARTNER. -/
def actFencePartner (e : BitVec 32) (s : State) : Status × State := twinAct 4 e (s.twn.state == 2) sendFence s

def execFencePartner (e : BitVec 32) (s : State) : Host.Outcome State Fault Refusal := hostCmd (actFencePartner e) s

/-- UNFENCE: ports with ADMIN = 1 are brought up. -/
def actUnfence (e : BitVec 32) (s : State) : Status × State :=
  twinAct 5 e (s.twn.fenced && partnerTook s == some false)
    (fun s => helloNow (bringUpAll { s with twn := { s.twn with fenced := false } })) s

def execUnfence (e : BitVec 32) (s : State) : Host.Outcome State Fault Refusal := hostCmd (actUnfence e) s

/-- SET_EPOCH. -/
def actSetEpoch (e : BitVec 32) (s : State) : Status × State := twinAct 6 e true (fun s => s) s

def execSetEpoch (e : BitVec 32) (s : State) : Host.Outcome State Fault Refusal := hostCmd (actSetEpoch e) s

/-- TWN_ACTION; the reset value 0 of ACTION is accepted and starts nothing (R12). -/
def twnActionWrite (v : W64) (s : State) : Status × State :=
  let e : BitVec 32 := BitVec.ofNat 32 (fld v 31 0)
  match fld v 63 60 with
  | 0 => (.ok, s)
  | 1 => actTakeover e s
  | 2 => actGiveback e s
  | 3 => actResync e s
  | 4 => actFencePartner e s
  | 5 => actUnfence e s
  | 6 => actSetEpoch e s
  | _ => (.fieldInvalid, s)

end Sys2Proof.Machine
end

