-- ==== Sys2Proof/Machine/RegRead.lean ====
section
/-! DEFINITION. What a read of each register of the control space gives, block by block (Table 14.12 and the register
tables of chapters 2 to 19). A write-only field and a reserved bit read 0; so do unused addresses (R11, R308). -/

namespace Sys2Proof.Machine

open Sys2Proof

/-- Index of a register in an array of n registers `step` bytes apart from offset `base`, if offset o names one. -/
def arrayIx (o base step n : Nat) : Option Nat :=
  if base ≤ o ∧ (o - base) % step = 0 ∧ (o - base) / step < n then some ((o - base) / step) else none

/-- The value an array register reads as, or what the rest of the block gives. -/
def arrayReg (o base step n : Nat) (f : Nat → W64) (rest : W64) : W64 :=
  match arrayIx o base step n with
  | some i => f i
  | none => rest

/-! ### MSS_ (Tables 16.10-16.20) -/

def mssFwReg (s : State) : W64 :=
  let m := s.mss
  at_ m.fw.version.toNat 32 ||| at_ m.fw.svn.toNat 24 ||| at_ m.svnFloor 16 ||| at_ m.revoked.toNat 4 |||
    bv64 m.fw.slot.toNat

/-- The claimant that holds timer t, 0 for none. -/
def timerClaimant (s : State) (t : Nat) : Nat :=
  match s.cord.claims.find? (fun c => timerOf c.2.resource == some t) with
  | some c => c.1
  | none => 0

def timerReg (s : State) (t : Nat) : W64 :=
  let c := timerClaimant s t
  let x : Bool × BitVec 32 := Map.getD s.mss.timers t (false, 0)
  if c = 0 then 0 else at_ c 56 ||| at_ (bit1 x.1) 32 ||| bv64 x.2.toNat

/-- OLDEST_LSEQ: the oldest record of the ring; with the ring empty, the next number. -/
def oldestLseq (s : State) : BitVec 32 :=
  match s.mss.ring with
  | r :: _ => r.lseq
  | [] => s.mss.nextLseq

def updStatusReg (s : State) : W64 :=
  let m := s.mss
  at_ m.updStatus.code 56 ||| at_ m.updDetail.toNat 48 ||| at_ m.updState.toNat 45 ||| at_ (bit1 m.recovery) 44 |||
    bv64 (8 * m.words.length)

def readMss (s : State) (o : Nat) : W64 :=
  if o = 0x0 then s.mss.deviceId
  else if o = 0x8 then mssInfoReg s
  else if o = 0x10 then mssFwReg s
  else if o = 0x400 then at_ s.mss.nextLseq.toNat 32 ||| bv64 (oldestLseq s).toNat
  else if o = 0x408 then reg s Reg.logCfg
  else if o = 0x410 then at_ (bit1 s.mss.logHeld) 32 ||| bv64 s.mss.logSel.toNat
  else if o = 0x608 then updStatusReg s
  else arrayReg o 0x100 8 4 (timerReg s) (arrayReg o 0x200 8 64 (sensorReg s)
    (arrayReg o 0x440 8 8 (fun w => nthD s.mss.logData w 0) 0))

/-! ### HLK_ (Tables 14.9-14.11) -/

def hlkStatusReg (s : State) : W64 :=
  let h := s.host
  at_ h.chainAddr.toNat 40 ||| at_ h.hopUp.version.toNat 36 ||| at_ h.hopDn.version.toNat 32 |||
    bv64 (4 * bit1 h.wdExpired + 2 * bit1 h.hopDn.up + bit1 h.hopUp.up)

def queueReg (cap high depth : Nat) : W64 := at_ cap 32 ||| at_ high 16 ||| bv64 depth

def readHlk (s : State) (o : Nat) : W64 :=
  if o = 0x0 then hlkStatusReg s
  else if o = 0x10 then reg s Reg.wdCfg
  else if o = 0x200 then queueReg 0x1000 s.host.cplHigh s.host.cplq.length
  else arrayReg o 0x100 8 16 (fun n => queueReg 0x100 (getGroup s n).fifoHigh (getGroup s n).fifo.length) 0

/-! ### FTC_ and TMP_ (Tables 2.2-2.9) -/

def discStatusReg (s : State) : W64 :=
  let t := s.time
  at_ t.offset.toNat 32 |||
    bv64 (8 * bit1 t.setRefused + 4 * bit1 t.stepped + 2 * bit1 t.locked + bit1 t.upstreamLost)

/-- TMP_GOV_CTRL reads the last value accepted. -/
def govCtrlReg (s : State) : W64 :=
  match s.time.govPending with
  | some v => v
  | none => s.time.govCtrl

def measureReg (s : State) (n : Nat) : W64 := bv64 (Map.getD s.time.measure n 0).toNat

def readFtc (s : State) (o : Nat) : W64 :=
  if o = 0x0 then s.time.ftc
  else if o = 0x10 then reg s Reg.discCtrl
  else if o = 0x18 then discStatusReg s
  else if o = 0x1000 then govCtrlReg s
  else if o = 0x1008 then at_ s.time.underrun.toNat 32 ||| bv64 (bit1 s.time.active)
  else if o = 0x1010 then reg s Reg.ctGuard
  else arrayReg o 0x1100 8 17 (measureReg s) 0

/-! ### SWC_ and SCH_ (chapters 3 and 4) -/

def linkStateCode : LinkState → Nat
  | .down => 0 | .training => 1 | .aligning => 2 | .negotiating => 3 | .up => 4 | .closing => 5

def lnkCfgReg (s : State) (l : Nat) : W64 :=
  at_ (widthCode s (.port (BitVec.ofNat 10 l))).toNat 10 ||| at_ (bit1 (ethMode s l)) 9 ||| reg s (Reg.lnkCfg l)

def lnkStatusReg (s : State) (l : Nat) : W64 :=
  let p := getPort s l
  at_ (if ethMode s l then 0 else p.peerChip.toNat) 48 ||| at_ p.lanesUp.toNat 32 ||| at_ p.rev.toNat 20 |||
    at_ p.cause.toNat 8 ||| bv64 (8 * bit1 p.downed + linkStateCode p.state)

/-- A register of the window of lane l; the window of a lane that is no first lane reads 0, and so do the Ethernet
registers of a fabric-mode port (R77). -/
def readPort (s : State) (l w : Nat) : W64 :=
  if ¬ isFirst s l then 0
  else if w = 0x0 then lnkCfgReg s l
  else if w = 0x8 then lnkStatusReg s l
  else if w = 0x20 ∨ w = 0x28 ∨ w = 0x30 ∨ w = 0x40 ∨ w = 0x48 ∨ w = 0x50 ∨ w = 0x58 then
    if ethMode s l then reg s (Reg.portBase l + w) else 0
  else arrayReg w 0x80 8 8 (fun t => reg s (Reg.police l t)) 0

def obUsedReg (s : State) (n : Nat) : W64 :=
  at_ (intakeCells s n) 24 ||| bv64 (usedCells s n)

def readSwc (s : State) (o : Nat) : W64 :=
  if o = 0x0 ∨ o = 0x08 ∨ o = 0x10 ∨ o = 0x18 ∨ o = 0x20 ∨ o = 0x28 then reg s (blockBase 3 + o)
  else if 0x01000000 ≤ o ∧ o < 0x01040000 then readPort s ((o - 0x01000000) / 0x100) (o % 0x100)
  else arrayReg o 0x40 8 8 (fun t => reg s (Reg.tcCfg t))
    (arrayReg o 0x80 8 16 (fun n => reg s (Reg.obCfg n) ||| bv64 (obSize s))
    (arrayReg o 0x100 8 16 (obUsedReg s)
    (arrayReg o 0x02000000 8 1024 (fun r => reg s (Reg.rtRack r))
    (arrayReg o 0x02010000 8 4096 (fun i => if i / 64 < slotTables s then reg s (Reg.rtSlot (i / 64) (i % 64)) else 0)
    (arrayReg o 0x02100000 8 65536 (fun i => reg s (Reg.rtSet (i / 16) (i % 16))) 0)))))

/-- A register of a queue of port l, or SCH_PORT_VT. -/
def readSchPort (s : State) (l w : Nat) : W64 :=
  let t := w / 0x40
  let p := getPort s l
  let d : Nat × Nat := Map.getD p.sampleDepth t (0, 0)
  let y : Nat × Nat := Map.getD p.sampleDelay t (0, 0)
  if ¬ isFirst s l then 0
  else if w = 0x200 then bv64 p.vt.toNat
  else if 0x200 ≤ w then 0
  else if w % 0x40 = 0 then reg s (Reg.qCfg l t)
  else if w % 0x40 = 8 then reg s (Reg.qShape l t)
  else if w % 0x40 = 0x10 then at_ d.1 32 ||| bv64 d.2
  else if w % 0x40 = 0x18 then at_ y.1 32 ||| bv64 y.2
  else 0

def readSch (s : State) (o : Nat) : W64 :=
  if o = 0x0 then reg s Reg.sampleCtrl
  else if 0x00100000 ≤ o ∧ o < 0x00200000 then readSchPort s ((o - 0x00100000) / 0x400) (o % 0x400)
  else 0

/-! ### BPM_ (Tables 5.2-5.9) -/

def splitReg (s : State) : W64 :=
  match s.cord.cfg with
  | some c => at_ c.oMb 32 ||| at_ c.hMb 16 ||| bv64 c.tMb
  | none => 0x0000003000200040#64

def spareStatusReg (s : State) : W64 :=
  let b := s.bpm
  at_ b.spareEpoch.toNat 32 ||| at_ b.spareStatus.code 24 ||| at_ b.spareState.toNat 16 ||| at_ b.spareStack.toNat 8 |||
    bv64 b.sparePc.toNat

def ddrStatusReg (s : State) : W64 :=
  let b := s.bpm
  at_ b.ddrPresent.toNat 48 ||| at_ b.ddrUsable.toNat 40 ||| at_ (bit1 b.ddrWindow) 16 |||
    bv64 (if b.ddrWindow then b.ddrGb.toNat else 0)

/-- Buffers taken from pool p of group g. -/
def poolTaken (s : State) (g p : Nat) : Nat := ((getGroup s g).bufs.filter (fun e => handlePool e.1 == p)).length

def poolReg (s : State) (g p : Nat) : W64 :=
  let n := poolCount s g p
  if p < 6 then at_ n 36 ||| bv64 (n - poolTaken s g p) else 0

def readBpm (s : State) (o : Nat) : W64 :=
  if o = 0x0 then splitReg s
  else if o = 0x08 ∨ o = 0x10 then reg s (blockBase 5 + o)
  else if o = 0x20 then spareStatusReg s
  else if o = 0x28 then ddrStatusReg s
  else arrayReg o 0x100 8 6 (fun st => Map.getD s.bpm.spared st 0)
    (arrayReg o 0x140 8 6 (fun st => reg s (Reg.hbmFreeze st))
    (if 0x10000 ≤ o ∧ o < 0x11000 ∧ o % 0x100 < 0x30 then poolReg s ((o - 0x10000) / 0x100) (o % 0x100 / 8) else 0))

/-! ### HTH_ (Tables 8.7-8.10, 9.8, 9.9) -/

def peekInfoReg (s : State) : W64 :=
  let d := s.dbg
  at_ d.peekStatus.code 56 ||| at_ (bit1 d.peekDone) 52 ||| at_ d.peekKind.toNat 48 ||| at_ d.peekCols.toNat 32 |||
    at_ d.peekRows.toNat 16 ||| bv64 d.peekFlags.toNat

def readHth (s : State) (o : Nat) : W64 :=
  if o = 0x100 ∨ o = 0x108 ∨ o = 0x200 then reg s (blockBase 6 + o)
  else if o = 0x110 then peekInfoReg s
  else if o = 0x208 then bv64 (fastUsed s)
  else arrayReg o 0x140 8 10 (fun w => nthD s.dbg.peekData w 0) 0

/-! ### STN_ (chapters 6 and 7) -/

def stnSpareReg (s : State) (g : Nat) : W64 :=
  let gr := getGroup s g
  at_ gr.spareEpoch.toNat 32 ||| at_ gr.spareStatus.code 24 ||| bv64 (4 * bit1 gr.covering + gr.coverUnit.toNat)

/-- The unit whose state a unit number shows: while the spare covers unit k, unit 4 shows what acts as unit k, and
unit k, unpowered, shows nothing (R153). -/
def shownUnit (s : State) (g u : Nat) : Option Nat :=
  let gr := getGroup s g
  if gr.covering ∧ u = 4 then some gr.coverUnit.toNat
  else if gr.covering ∧ u = gr.coverUnit.toNat then none
  else some u

/-- STN_UNIT_u; a fused-off unit reads 0 (R154), and sort has no port B (Table 6.3). -/
def stnUnitReg (s : State) (g u : Nat) : W64 :=
  if ¬ unitPresent s u then 0
  else
    let pipe : Nat := match pipelineOf s g u with
      | some p => p.1
      | none => 0xFF
    let un : UnitSt := match shownUnit s g u with
      | some k => getUnit s g k
      | none => UnitSt.reset
    let b : Nat := if unitKind u = 2 then 0 else 8
    at_ pipe 56 ||| at_ (bit1 (isWide s g u)) 48 ||| at_ b 24 ||| at_ un.qb.length 16 ||| at_ 8 8 ||| bv64 un.qa.length

def progStatusReg (s : State) (g : Nat) : W64 :=
  let gr := getGroup s g
  at_ gr.progStatus.code 56 ||| at_ gr.progDetail.toNat 48 ||| at_ gr.progBundle 32 ||| bv64 gr.progNo.toNat

def pshareReg (s : State) (g u : Nat) : W64 :=
  if unitPresent s u then at_ (shareOf s g u).1 32 ||| bv64 (shareOf s g u).2 else 0

def progReg (s : State) (g p : Nat) : W64 :=
  match Map.get? (getGroup s g).progs p with
  | some x => at_ 1 63 ||| at_ x.unit 56 ||| at_ x.tagHi.toNat 48 ||| at_ x.addr 24 ||| bv64 x.bundles
  | none => 0

/-- The registers of a program that is not valid read zero (R174). -/
def replayReg (s : State) (g p : Nat) : W64 :=
  if Map.has (getGroup s g).progs p then bv64 (Map.getD (getGroup s g).replay p 0).toNat else 0

def paramReg (s : State) (g p i : Nat) : W64 :=
  if Map.has (getGroup s g).progs p then Map.getD (getGroup s g).params (paramKey p i) 0 else 0

def pstoreReg (s : State) (g a : Nat) : W64 :=
  bv64 (fromLe ((upTo 8).map (fun i => Map.getD (getGroup s g).pstore (a + i) 0)))

def seqctrReg (s : State) (g u k : Nat) : W64 := bv64 (Map.getD (getUnit s g u).sctr k 0).toNat

def readStn (s : State) (g o : Nat) : W64 :=
  if o = 0x0 then bv64 (unitsOfGrade s.mss.grade)
  else if o = 0x08 then reg s (Reg.stnArb g)
  else if o = 0x18 then stnSpareReg s g
  else if o = 0x20 then bv64 (bit1 (getGroup s g).maint)
  else if o = 0x30 then progStatusReg s g
  else if 0x00200000 ≤ o ∧ o < 0x00400000 then pstoreReg s g (o - 0x00200000)
  else arrayReg o 0x100 8 12 (stnUnitReg s g)
    (arrayReg o 0x200 8 12 (pshareReg s g)
    (arrayReg o 0x300 8 12 (fun u => reg s (Reg.trigger g u))
    (arrayReg o 0x400 8 64 (progReg s g)
    (arrayReg o 0x600 8 64 (replayReg s g)
    (arrayReg o 0x800 8 12 (fun u => bv64 (getUnit s g u).invoc.toNat)
    (arrayReg o 0x900 8 96 (fun i => seqctrReg s g (i / 8) (i % 8))
    (arrayReg o 0x10000 8 4096 (fun i => paramReg s g (i / 64) (i % 64)) 0)))))))

/-! ### CTX_ and TAL_ (Tables 10.6-10.18) -/

def ctxActionStatusReg (s : State) : W64 :=
  let c := s.ctx
  at_ c.actStatus.code 56 ||| at_ c.actCode.toNat 52 ||| at_ c.actCtx.toNat 32 ||| bv64 c.actMgrp.toNat

def ctxSummaryReg (s : State) : W64 :=
  let timedOut := (s.ctx.table.filter (fun e => e.2.state == .timedOut)).length
  at_ s.ctx.table.length 48 ||| at_ (onChipCount s) 32 ||| at_ (residentCount s) 16 ||| bv64 timedOut

def ctxStateCode : CtxState → Nat
  | .active => 1 | .banking => 2 | .banked => 3 | .unbanking => 4 | .timedOut => 5

/-- CTX_STATE_c_w; an undefined context reads 0. -/
def ctxStateReg (s : State) (c w : Nat) : W64 :=
  match getCtx s c with
  | none => 0
  | some x =>
    if w = 0 then at_ (ctxStateCode x.state) 61 ||| at_ (bit1 x.onChip) 60 ||| at_ (bit1 x.roundOpen) 59
    else if w = 1 then x.step
    else if w = 2 then (if x.roundOpen then bv64 x.deadline else 0)
    else if w = 3 then bv64 x.lastAdv
    else if w = 4 then
      at_ x.arrived 32 ||| (if CtxArg.countsFirst x.arg0 then bv64 (x.required.getD 0xFFFFFFFF)
                            else bv64 (CtxArg.arrivals x.arg0))
    else 0

def mgrpReg (s : State) (m : Nat) : W64 := at_ (getMGroup s m).epoch.toNat 32 ||| bv64 (getMGroup s m).chips.length

def tallyReg (s : State) (t w : Nat) : W64 :=
  let x := getTally s t
  if w = 0 then at_ x.gen.toNat 48 ||| bv64 x.value.toNat
  else if w = 1 then reg s (Reg.tallyCfg t)
  else if w = 2 then reg s (Reg.tallyRelease t)
  else x.start

def readCtxBlock (s : State) (o : Nat) : W64 :=
  if o = 0x0 ∨ o = 0x08 ∨ o = 0x10 then reg s (blockBase 8 + o)
  else if o = 0x20 then ctxActionStatusReg s
  else if o = 0x28 then ctxSummaryReg s
  else arrayReg o 0x10000 8 1024 (fun k => reg s (Reg.mgrpStage k))
    (arrayReg o 0x20000 8 1024 (mgrpReg s)
    (arrayReg o 0x100000 8 131072 (fun i => ctxStateReg s (i / 8) (i % 8))
    (arrayReg o 0x10000000 8 32768 (fun i => tallyReg s (i / 4) (i % 4)) 0)))

/-! ### MOE_ and SPR_ (Tables 11.1-11.7, 12.3, 12.4) -/

/-- MOE_BOOK_l: PHASE 5 while a step combines and none is in an earlier phase. -/
def bookReg (s : State) (l : Nat) : W64 :=
  match Map.get? s.moe.books l with
  | none => 0
  | some b => at_ (if b.phase = 0 ∧ b.combining then 5 else b.phase.toNat) 61 ||| bv64 b.skipped.toNat

def readMoe (s : State) (o : Nat) : W64 :=
  if o = 0x0 then at_ s.moe.wrStatus.code 56 ||| at_ s.moe.wrCheck.toNat 48 ||| bv64 s.moe.wrLtab.toNat
  else arrayReg o 0x5000 8 256 (bookReg s)
    (arrayReg o 0x10000 8 2048 (fun i => reg s (Reg.layer (i / 8) (i % 8)))
    (arrayReg o 0x01000000 8 0x400000 (fun i => reg s (Reg.place (i / 0x200000) (i / 0x2000 % 256) (i % 0x2000))) 0))

def steerReg (s : State) (n : Nat) : W64 :=
  let gr := getGroup s n
  reg s (Reg.steer n) ||| at_ gr.steerStatus.code 32 ||| at_ gr.steerB.length 24 ||| at_ gr.steerA.length 16

def readSpr (s : State) (o : Nat) : W64 :=
  arrayReg o 0x0 8 16 (fun n => reg s (Reg.cmp n)) (arrayReg o 0x100 8 16 (steerReg s) 0)

/-! ### CRD_ (Tables 13.6-13.13) -/

def cordStatusReg (s : State) : W64 :=
  let c := s.cord
  at_ c.status.code 56 ||| at_ c.detail.toNat 48 ||| at_ c.section_.toNat 40 ||| at_ c.resource.toNat 32 |||
    at_ c.claimA.toNat 24 ||| at_ c.claimB.toNat 16 ||| bv64 c.state.toNat

/-- CRD_DIGEST_w; 0 with no cord active. -/
def digestReg (s : State) (w : Nat) : W64 := bv64 (fromLe (slice s.cord.digest (8 * w) 8))

def claimReg (s : State) (c : Nat) : W64 :=
  match claimOf s c with
  | none => 0
  | some x => at_ 1 63 ||| at_ (bit1 x.runtime) 62 ||| at_ x.resource.toNat 40 ||| at_ x.base 20 ||| bv64 x.len

def stageReg (s : State) (a : Nat) : W64 := bv64 (fromLe ((upTo 8).map (fun i => Map.getD s.cord.staged (a + i) 0)))

def readCrd (s : State) (o : Nat) : W64 :=
  if o = 0x08 then cordStatusReg s
  else if o = 0x10 then s.cord.serial
  else if o = 0x18 then s.cord.floor
  else if 0x01000000 ≤ o ∧ o < 0x01400000 then stageReg s (o - 0x01000000)
  else arrayReg o 0x40 8 8 (digestReg s) (arrayReg o 0x200 8 0x22 (claimReg s) 0)

/-! ### TWN_ (Tables 17.6-17.10) -/

def twnStatusReg (s : State) : W64 :=
  let t := s.twn
  let subs := ((upSublinks s).map (fun n => 2 ^ n)).sum
  at_ t.state.toNat 60 ||| at_ t.cause.toNat 56 ||| at_ t.version.toNat 48 ||| at_ subs 40 |||
    at_ (4 * bit1 t.hbAlive + 2 * bit1 t.tookOver + bit1 t.fenced) 32 ||| bv64 t.epoch.toNat

def readTwn (s : State) (o : Nat) : W64 :=
  let t := s.twn
  if o = 0x0 then reg s Reg.twnCfg
  else if o = 0x08 then twnStatusReg s
  else if o = 0x18 then at_ t.actStatus.code 56 ||| at_ t.actCode.toNat 52 ||| bv64 t.actEpoch.toNat
  else if o = 0x20 then at_ (t.sentMseq % 2 ^ 32) 32 ||| bv64 (t.ackedMseq % 2 ^ 32)
  else 0

/-! ### DBG_ (Tables 18.7-18.17) -/

def damperStatusReg (s : State) : W64 :=
  let d := s.dbg
  at_ (bit1 d.dampered) 63 ||| at_ d.source.toNat 60 ||| at_ d.origin.toNat 32 ||| bv64 d.serial.toNat

def scanStatusReg (s : State) : W64 :=
  let c := s.dbg.scan
  at_ c.status.code 56 ||| at_ c.state.toNat 48 ||| bv64 c.sent

/-- The counter at an offset from the counters' base; an offset that names no counter reads 0 (R379). Instances from
8,192, the memory queues' of a counter kept per port and TC, share their offsets with the next index: the counter of
the next index shows if it has counted, else theirs. -/
def counterAt (m : Map Nat) (o : Nat) : W64 :=
  let b := o / 0x01000000
  let i := o % 0x01000000 / 0x10000
  let k := o % 0x10000 / 8
  if 64 ≤ i then 0
  else match Map.get? m (ctrKey b i k) with
    | some v => bv64 v
    | none => if i = 0 then 0 else bv64 (Map.getD m (ctrKey b (i - 1) (k + 8192)) 0)

/-- The 272 octets of a spark record (R381). -/
def sparkBytes (x : Spark) : List Byte :=
  let c := x.captured.take 256
  leBytes 2 x.lane ++ leBytes 2 c.length ++ zeros 4 ++ leBytes 8 x.stamp ++ (c ++ zeros 256).take 256

def sparkReg (s : State) (w : Nat) : W64 :=
  match s.dbg.sparks with
  | x :: _ => bv64 (fromLe (slice (sparkBytes x) (8 * w) 8))
  | [] => 0

def readDbg (s : State) (o : Nat) : W64 :=
  if o = 0x0 ∨ o = 0x108 ∨ o = 0x400 then reg s (blockBase 13 + o)
  else if o = 0x110 then damperStatusReg s
  else if o = 0x118 then s.dbg.td
  else if o = 0x208 then scanStatusReg s
  else if o = 0x210 then s.dbg.scan.size
  else if o = 0x408 then s.dbg.snapTick
  else if o = 0x500 then bv64 s.dbg.sparks.length
  else if 0x10000000 ≤ o ∧ o < 0x20000000 then counterAt s.dbg.counters (o - 0x10000000)
  else if 0x20000000 ≤ o ∧ o < 0x30000000 then counterAt s.dbg.shadows (o - 0x20000000)
  else arrayReg o 0x300 8 4 (fun d => reg s (Reg.traceRing d))
    (arrayReg o 0x340 8 4 (fun d => bv64 (Map.getD s.dbg.traceCount d 0).toNat)
    (arrayReg o 0x600 8 34 (sparkReg s) 0))

/-! ### PWR_ (Tables 15.5-15.11, 19.9) -/

def blazeReg (s : State) : W64 := at_ s.pwr.blazeU 32 ||| bv64 (2 * bit1 s.pwr.exhausted + bit1 s.pwr.warn)

def railsReg (s : State) : W64 :=
  let p := s.pwr
  let pg := p.pg ||| (p.pgOpen &&& Config.pgInputs s.freeCtr s.time.raw)
  at_ p.vidCode.toNat 40 ||| at_ p.lastLost.toNat 32 ||| at_ pg.toNat 16 ||| bv64 p.en.toNat

def readPwr (s : State) (o : Nat) : W64 :=
  if o = 0x08 then pwrStateReg s
  else if o = 0x10 ∨ o = 0x18 then reg s (blockBase 14 + o)
  else if o = 0x20 then blazeReg s
  else if o = 0x28 then at_ (bit1 s.pwr.ratedExceeded) 63 ||| bv64 s.pwr.lifeSeconds
  else if o = 0x30 then pwrThermalReg s
  else if o = 0x40 then railsReg s
  else 0

/-- A read of the control space (R308). -/
def regRead (s : State) (a : Nat) : W64 :=
  let o := a % 0x100000000
  if a % 8 ≠ 0 then 0
  else match a / 0x100000000 with
    | 0 => readMss s o
    | 1 => readHlk s o
    | 2 => readFtc s o
    | 3 => readSwc s o
    | 4 => readSch s o
    | 5 => readBpm s o
    | 6 => readHth s o
    | 7 => readStn s (o / 0x10000000) (o % 0x10000000)
    | 8 => readCtxBlock s o
    | 9 => readMoe s o
    | 10 => readSpr s o
    | 11 => readCrd s o
    | 12 => readTwn s o
    | 13 => readDbg s o
    | 14 => readPwr s o
    | _ => 0

/-- What a read of a register reads besides: a CTX_STATE register, its context's record on chip or in the bank; a TAL_
register, its tally (R122, R228). -/
def regTouch (a : Nat) (s : State) : State :=
  match arrayIx a (blockBase 8 + 0x100000) 8 131072 with
  | some i => touchCtx (i / 8) s
  | none =>
    match arrayIx a (Reg.tallyCfg 0 - 8) 8 32768 with
    | some i => readTally (i / 4) s
    | none => s

end Sys2Proof.Machine
end

