-- ==== Sys2Proof/Machine/Debug.lean ====
section
/-! DEFINITION. The damper's commands, scan-out, traces, counters, snapshots and spark samples (chapter 18). -/

namespace Sys2Proof.Machine

open Sys2Proof

/-! ### The damper (R372, R375) -/

/-- RAISE: without effect for a remembered serial or while dampered; the write completes with OK. -/
def damperRaise (serial : BitVec 32) (s : State) : Status × State := (.ok, raiseOwn 1 serial s)

def execRaise (serial : BitVec 32) (s : State) : Host.Outcome State Fault Refusal := hostCmd (damperRaise serial) s

/-- An open round's deadline moves by L ticks. -/
def shiftRound (n : Nat) (x : Ctx) : Ctx :=
  if x.roundOpen ∧ x.timeout ≠ 0 then { x with deadline := x.deadline + n } else x

def shiftWindow (n : Nat) (w : Window) : Window :=
  { w with held := w.held.map (fun h => { h with since := h.since + n }) }

/-- A frame stamped before the release is aged as if its stamp were L later. -/
def shiftFrame (n : Nat) (f : Frame) : Frame :=
  if f.hdr.isSome ∨ f.early.isSome then { f with ageShift := f.ageShift + n } else f

/-- What L = release tick - T_d moves: deadlines of rounds and of gaps, and ageing. -/
def releaseShift (s : State) : State :=
  let n := now s - s.dbg.td.toNat
  { s with
    ctx := { s.ctx with table := Map.each s.ctx.table (fun _ x => shiftRound n x) },
    sw := { s.sw with
      windows := Map.each s.sw.windows (fun _ w => shiftWindow n w),
      frames := Map.each s.sw.frames (fun _ f => shiftFrame n f) } }

/-- An abandoned invocation is logged with DAMPERED; a command's completes, a triggered one goes back to the head of its
unit's order and runs again. -/
def resumeOne (g u : Nat) (r0 : Run) (s : State) : State :=
  let r := atBundle (getGroup s g) r0
  let s1 := logEv (codeStatus 7 .dampered) 1 (unitByte g u) (some r.inv.tag) [r.btag.toNat, r.invocNo.toNat, r.pass] s
  if r.inv.triggered then modUnit s1 g u (fun x => { x with order := r.inv :: x.order })
  else
    completeUnit g u r.inv .dampered r.pass r.btag
      (traceGroup 3 g u r.inv.tag (Status.code .dampered) r.invocNo.toNat r.pass r.btag.toNat
        (count 7 12 (32 * g + Status.code .dampered) s1))

def resumeGroup (g : Nat) (s : State) : State :=
  let l := (getGroup s g).abandoned
  foldOver l (fun s e => resumeOne g e.1 e.2 s) (modGroup s g (fun gr => { gr with abandoned := [] }))

/-- RELEASE: refused while a scan runs; without effect where no damper is in force. -/
def damperRelease (s : State) : Status × State :=
  if s.dbg.scan.state = 1 then (.resourceBound, s)
  else if ¬ s.dbg.dampered then (.ok, s)
  else
    let s1 := releaseShift s
    let s2 := { s1 with dbg := { s1.dbg with dampered := false, frozen := none } }
    (.ok, pfcAll (foldOver (upTo 16) (fun s g => resumeGroup g s) s2))

def execRelease (s : State) : Host.Outcome State Fault Refusal := hostCmd damperRelease s

/-- DBG_DAMPER_CTRL; the reset value 0b00 of ACTION is accepted and starts nothing (R12). -/
def damperCtrlWrite (v : W64) (s : State) : Status × State :=
  match fld v 63 62 with
  | 0 => (.ok, s)
  | 1 => damperRaise (BitVec.ofNat 32 (fld v 31 0)) s
  | 2 => damperRelease s
  | _ => (.fieldInvalid, s)

/-! ### The counter catalogue (Tables 18.5, 18.6) -/

/-- How a counter's instances are kept. -/
inductive Kept where
  | device | die | pg | group | groupPool | groupStatus | layer | port | portTc
  deriving DecidableEq, Repr

/-- First lanes of the ports, then the return ports, then the memory queues. -/
def portInstances (s : State) : List Nat := (upTo 1024).filter (isFirst s) ++ (upTo 32).map (fun n => 1024 + n)

def instancesOf (s : State) : Kept → List Nat
  | .device => [0]
  | .die => upTo 4
  | .pg => upTo 16
  | .group => upTo 16
  | .groupPool => (upTo 16).flatMap (fun n => (upTo 6).map (fun p => 8 * n + p))
  | .groupStatus => (upTo 16).flatMap (fun n => (upTo 19).map (fun c => 32 * n + c))
  | .layer => upTo 256
  | .port => portInstances s
  | .portTc => (portInstances s).flatMap (fun k => (upTo 8).map (fun t => 8 * k + t))

def times (n : Nat) (k : Kept) : List Kept := List.replicate n k

/-- The counters of each block in index order, from index 0. -/
def catalogue : List (Nat × List Kept) :=
  [(0x0, times 3 .device), (0x1, times 2 .device),
   (0x3, times 3 .port ++ [.portTc] ++ times 3 .pg ++ times 3 .portTc ++ times 4 .pg ++ times 2 .device ++ times 6 .port),
   (0x5, [.groupPool, .group, .device, .pg, .device]), (0x6, times 9 .group ++ [.device]),
   (0x7, times 12 .group ++ [.groupStatus] ++ times 2 .group),
   (0x8, [.group, .device, .device] ++ times 3 .group ++ times 2 .device), (0x9, times 8 .layer), (0xA, times 9 .group),
   (0xC, times 5 .device), (0xD, [.die, .device])]

/-- The keys of every counter, in block, index and instance order. -/
def counterKeys (s : State) : List Nat :=
  catalogue.flatMap (fun e => e.2.zipIdx.flatMap (fun x => (instancesOf s x.1).map (fun k => ctrKey e.1 x.2 k)))

/-! ### Scan-out (R376, Table 18.3) -/

def leWord (v : W64) : List Byte := leBytes 8 v.toNat

/-- Section 0x01, 272 octets. -/
def scanRegs (s : State) : List Byte :=
  ([s.mss.deviceId, mssInfoReg s, mssFwReg s, s.cord.serial] ++ (upTo 8).map (digestReg s) ++
    [damperStatusReg s, s.dbg.td, pwrStateReg s, pwrThermalReg s] ++ (upTo 17).map (measureReg s) ++
    [twnStatusReg s]).flatMap leWord

/-- Section 0x02. -/
def scanCounters (s : State) : List Byte :=
  (counterKeys s).flatMap (fun k => leBytes 8 (Map.getD s.dbg.counters k 0))

/-- The multi-octet fields of a command record, as first octet and length (Tables 14.5, 14.6). -/
def recFields (r : List Byte) : List (Nat × Nat) :=
  [(0, 1), (1, 1), (2, 3), (5, 1), (6, 2)] ++
    (match (nthD r 0 0).toNat with
     | 1 => [(8, 1), (9, 1), (10, 1), (11, 1), (12, 4), (16, 2), (18, 2), (20, 4), (24, 8)]
     | 2 => [(8, 2), (10, 2), (12, 1), (13, 1), (14, 2), (16, 16)]
     | 3 => [(8, 1), (9, 1), (10, 2), (12, 4), (16, 2), (18, 14)]
     | 4 => [(8, 1), (9, 1), (10, 4), (14, 2), (16, 2), (18, 6), (24, 8)]
     | _ => [(8, 24)])

/-- A FIFO record with its multi-octet fields least significant octet first. -/
def recStored (r : List Byte) : List Byte := (recFields r).flatMap (fun f => (slice r f.1 f.2).reverse)

/-- A queued tile: handle, zero, stamp and header. -/
def scanTile (s : State) (g : Nat) (q : QTile) : List Byte :=
  let hdr := match tileAt s g q.handle with
    | some t => tileHdrBytes false t
    | none => zeros 64
  leBytes 4 q.handle ++ zeros 4 ++ leBytes 8 q.stamp ++ hdr

/-- Section 0x03; the steering holds count as the sparse unit's queues (R272). -/
def scanGroup (s : State) (g : Nat) : List Byte :=
  let gr := getGroup s g
  gr.fifo.flatMap recStored ++ (upTo 13).flatMap (fun u =>
    let un := getUnit s g u
    (un.qa ++ un.qb ++ (if u = 11 then gr.steerA ++ gr.steerB else [])).flatMap (scanTile s g))

/-- Section 0x08. -/
def scanContexts (s : State) : List Byte :=
  s.ctx.table.flatMap (fun e => leBytes 8 e.1 ++ (upTo 5).flatMap (fun w => leWord (ctxStateReg s e.1 w)))

/-- The instances of a section type (Table 18.3). -/
def scanInstances (s : State) (t : Nat) : List Nat :=
  if t = 1 ∨ t = 2 ∨ t = 8 then [0]
  else if t = 3 ∨ t = 5 ∨ t = 7 then upTo 16
  else if t = 4 then
    (upTo 16).flatMap (fun g => ((upTo 12).filter (unitPresent s)).map (fun u => unitByte g u))
  else if t = 6 then upTo 4
  else []

/-- Octets of a section whose layout is not given: a local store, a pool area, a die's table SRAM, an output buffer. -/
def scanSize (s : State) (t i : Nat) : Nat :=
  if t = 4 then localBytes s (i / 16) (i % 16)
  else if t = 5 then ((upTo 6).map (fun p => poolCount s i p * bufSize p)).sum
  else if t = 6 then fld (splitReg s) 15 0 * 2 ^ 20
  else obSize s * 256

/-- A long accumulator as it stands in a local store: 80 octets of I, least significant first, a flags octet and 15 of
zero (Table 8.5, R9). -/
def accElem (e : LongAcc) : List Byte :=
  leBytes 80 e.i.toNat ++ [BitVec.ofNat 8 (bit1 e.nan + 2 * bit1 e.pinf + 4 * bit1 e.ninf)] ++ zeros 15

/-- The elements of an accumulator as octets. -/
def accOctets (x : Acc) : List Byte :=
  leBytes 2 x.rows ++ leBytes 2 x.cols ++ [BitVec.ofNat 8 (bit1 x.clinker)] ++
    (match x.val with
     | .none => []
     | .long l => l.flatMap accElem
     | .fp l => l.flatMap (fun e => leBytes 4 e.toNat))

/-- What a section without a given layout copies: the accumulators of a unit's local store, the tiles of a pool area,
what R288 puts into a die's table SRAM, the frames of an output buffer, waiting, held and in transmission, each thing
as octets. -/
def scanContents (s : State) (t i : Nat) : List (List Byte) :=
  if t = 4 then (getUnit s (i / 16) (i % 16)).acc.map (fun e => leBytes 4 e.1 ++ accOctets e.2)
  else if t = 5 then (getGroup s i).bufs.map (fun e => leBytes 4 e.1 ++
    (match e.2.tile with
     | some x => tileBytes false x
     | none => []))
  else if t = 6 then
    (s.regs.filter (fun e => isRouteAddr e.1 || isLayerAddr e.1)).map (fun e => leBytes 8 e.1 ++ leWord e.2) ++
      (s.ctx.table.filter (fun e => e.2.onChip)).map (fun e => leBytes 4 e.1 ++ (ctxFields e.2).flatMap (leBytes 8)) ++
      s.ctx.tallies.map (fun e => leBytes 4 e.1 ++ leBytes 6 e.2.value.toNat ++ leBytes 2 e.2.gen.toNat ++ leWord e.2.start) ++
      s.ctx.groups.map (fun e => leBytes 4 e.1 ++ leBytes 4 e.2.epoch.toNat ++ e.2.chips.flatMap (fun c => leBytes 2 c.toNat)) ++
      s.sw.pins.map (fun e => leBytes 8 e.1 ++ leBytes 8 e.2) ++
      (s.sw.spray.filter (fun e => e.1 / 2 ^ 36 == i)).map (fun e =>
        leBytes 8 e.1 ++ leBytes 2 e.2.1.toNat ++ leBytes 2 e.2.2.toNat) ++
      (s.sw.windows.filter (fun e => winDie e.1 == i)).map (fun e =>
        leBytes 8 e.1 ++ leBytes 2 e.2.base.toNat ++ leBytes 2 e.2.gen.toNat ++ leBytes 4 e.2.span ++
          e.2.held.flatMap (fun h => leBytes 2 h.sseq.toNat)) ++
      (s.moe.cache.map (fun e => leBytes 8 (Reg.place e.1 e.2.1 e.2.2) ++ leWord (reg s (Reg.place e.1 e.2.1 e.2.2))))
  else
    let held (w : Window) : List Nat := if w.pg = i then w.held.map (·.uid) else []
    let queued := (s.sw.egress.filter (fun e => e.1 / 512 == i)).flatMap (·.2) ++
      (s.sw.memq.filter (fun e => e.1 / 8 == i)).flatMap (·.2) ++ Map.getD s.sw.intake i [] ++
      s.sw.windows.flatMap (fun e => held e.2) ++
      (s.ports.filter (fun e => decide (e.1 < 1024) && e.1 / 64 == i)).flatMap (fun e => e.2.cur.map (fun c => c.2.uid))
    queued.map (fun u => match getFrame s u with
      | some f => f.raw
      | none => [])

/-- The words of a section's source that are uncorrectable: their number in the body and their SRAM word. -/
def scanBad (s : State) (t i : Nat) : List (Nat × Nat) :=
  (s.bpm.sramChk.filter (fun e => badSyndrome e.2)).filterMap (fun e =>
    let x := Config.scanSpot e.1
    if x.1 = t ∧ x.2.1 = i then some (x.2.2, e.1) else none)

/-- Eight 0xFF octets in the place of each bad word of a body. -/
def patchBad (bad : List (Nat × Nat)) (b : List Byte) : List Byte :=
  b.zipIdx.map (fun e => if bad.any (fun w => w.1 == e.2 / 8) then 0xFF#8 else e.1)

/-- The body of a section, its bad words not yet replaced. -/
def scanBody (s : State) (t i : Nat) : List Byte :=
  if t = 1 then scanRegs s
  else if t = 2 then scanCounters s
  else if t = 3 then scanGroup s i
  else if t = 8 then scanContexts s
  else (upTo (scanSize s t i)).map (Config.scanByte t i (scanContents s t i))

/-- LENGTH of a section. -/
def scanLen (s : State) (t i : Nat) : Nat :=
  if t = 1 ∨ t = 2 ∨ t = 3 ∨ t = 8 then (scanBody s t i).length else scanSize s t i

/-- The sections of an image by MASK: type and instance, ascending. -/
def scanSections (s : State) (mask : Nat) : List (Nat × Nat) :=
  ([1] ++ ((upTo 7).filter (fun j => mask.testBit j)).map (fun j => j + 2)).flatMap (fun t =>
    (scanInstances s t).map (fun i => (t, i)))

/-- TOTAL_LEN. -/
def scanTotal (s : State) (mask : Nat) : Nat :=
  64 + ((scanSections s mask).map (fun e => 32 + scanLen s e.1 e.2)).sum

/-- The bad words that lie in a section's body. -/
def scanUe (s : State) (e : Nat × Nat) : List (Nat × Nat) :=
  (scanBad s e.1 e.2).filter (fun w => decide (8 * w.1 < scanLen s e.1 e.2))

/-- A section with its header: bad words copied as 0xFF and counted in UE_WORDS. -/
def scanSection (s : State) (e : Nat × Nat) : List Byte :=
  let bad := scanUe s e
  let b := patchBad bad (scanBody s e.1 e.2)
  [BitVec.ofNat 8 e.1, BitVec.ofNat 8 e.2, 0, 0] ++ leBytes 4 bad.length ++ leBytes 8 b.length ++
    leBytes 4 (crc32c b).toNat ++ zeros 12 ++ b

/-- The whole image. -/
def scanImage (s : State) : List Byte :=
  let c := s.dbg.scan
  let secs := scanSections s c.mask.toNat
  [0x56#8, 0x46#8, 0x53#8, 0x4F#8, 1#8, 0#8] ++ leBytes 2 secs.length ++ leWord c.size ++ leWord s.mss.deviceId ++
    leBytes 4 s.dbg.serial.toNat ++ leBytes 2 s.dbg.origin.toNat ++ leBytes 2 c.mask.toNat ++ leWord s.dbg.td ++
    leWord c.startTick ++ zeros 16 ++ secs.flatMap (scanSection s)

/-- The device as a scan-out sees it: as it stood at T_d of the damper in force. -/
def scanView (s : State) : State :=
  match s.dbg.frozen with
  | none => s
  | some f =>
    { s with
      regs := f.regs, time := f.time, ports := f.ports, sw := f.sw, groups := f.groups, ctx := f.ctx, cord := f.cord,
      moe := f.moe, mss := f.mss, pwr := f.pwr, twn := f.twn, bpm := { s.bpm with sramChk := f.sramChk },
      dbg := { s.dbg with
        counters := f.counters, dampered := f.dampered, source := f.source, serial := f.serial, origin := f.origin,
        td := f.td } }

/-- Every bad word of the image is logged, reader 6. -/
def scanLog (v : State) (s : State) : State :=
  foldOver ((scanSections v s.dbg.scan.mask.toNat).flatMap (scanUe v)) (fun s w =>
    logEv 0x0011 2 0xFF none [0, sramAddr w.2, 6] s) s

/-- The outcome of a DBG_SCAN_CTRL write, kept as DBG_SCAN_STATUS.STATUS. -/
def scanShow (st : Status) (s : State) : Status × State :=
  (st, { s with dbg := { s.dbg with scan := { s.dbg.scan with status := st } } })

def scanMask (v : W64) : Nat := fld v 56 50

/-- SIZE: the image length, nothing copied. -/
def scanSizeAct (v : W64) (s : State) : Status × State :=
  if fld v 41 0 % 4096 ≠ 0 then scanShow .fieldInvalid s
  else scanShow .ok { s with dbg := { s.dbg with scan := { s.dbg.scan with
    size := bv64 (scanTotal (scanView s) (scanMask v)) } } }

def execScanSize (v : W64) (s : State) : Host.Outcome State Fault Refusal := hostCmd (scanSizeAct v) s

/-- The checks of START; after a protective halt no scan-out follows (R328). -/
def scanAllowed (v : W64) (s : State) : Bool :=
  s.dbg.dampered && s.pwr.state != .halted && s.dbg.scan.state != 1 &&
    (if bitAt v 61 then s.host.chainAddr != 0xFF#8
     else s.bpm.ddrWindow && decide (fld v 41 0 + scanTotal (scanView s) (scanMask v) ≤ ddrSize s))

/-- START: the copy begins. -/
def scanStart (v : W64) (s : State) : Status × State :=
  if fld v 41 0 % 4096 ≠ 0 then scanShow .fieldInvalid s
  else if ¬ scanAllowed v s then scanShow .resourceBound s
  else
    let c : ScanSt :=
      { status := .ok, state := 1, sent := 0, size := bv64 (scanTotal (scanView s) (scanMask v)), dest := bitAt v 61,
        base := fld v 41 0, mask := BitVec.ofNat 7 (scanMask v), startTick := s.time.ftc }
    (.ok, { s with dbg := { s.dbg with scan := c } })

def execScanStart (v : W64) (s : State) : Host.Outcome State Fault Refusal := hostCmd (scanStart v) s

/-- DBG_SCAN_CTRL; the reset value 0b00 of ACTION is accepted and starts nothing, but BASE must be in its range (R12).
-/
def scanCtrlWrite (v : W64) (s : State) : Status × State :=
  match fld v 63 62 with
  | 0 => scanShow (if fld v 41 0 % 4096 ≠ 0 then .fieldInvalid else .ok) s
  | 1 => scanSizeAct v s
  | 2 => scanStart v s
  | _ => scanShow .fieldInvalid s

/-- Data octets of one BULK packet. -/
def bulkLimit (s : State) : Nat := transferSize s - 8

/-- The image as BULK packets of STREAM 0x0001 to address 0, at ascending offsets. -/
def sendBulk (img : List Byte) (s : State) : State :=
  let n := bulkLimit s
  foldOver (chunksOf n img).zipIdx (fun s e =>
    sendOwn (ownPkt s 0x0A#8 0 (beBytes 2 1 ++ beBytes 6 (n * e.2) ++ e.1)) s) s

/-- The copy ends: the whole image is at its destination. -/
def scanDone (s : State) : State :=
  if s.dbg.scan.state ≠ 1 then s
  else
    let c := s.dbg.scan
    let img := scanImage (scanView s)
    let s0 := scanLog (scanView s) s
    let s1 := if c.dest then sendBulk img s0 else writeMem 6 0xFF none (ddrBase + c.base) img s0
    { s1 with dbg := { s1.dbg with scan := { c with state := 2, sent := img.length } } }

def execScanComplete (s : State) : Host.Outcome State Fault Refusal := .next (mssRuns scanDone s)

/-! ### Traces (R378) -/

/-- Where record n of die d's ring lies. -/
def traceAt (s : State) (d : Nat) : Nat :=
  let c := reg s (Reg.traceRing d)
  ddrBase + fld c 41 0 + 32 * ((Map.getD s.dbg.traceCount d 0).toNat % (fld c 63 44 * 32768))

/-- The next record of die d's FIFO goes into its ring by the die's switch core memory port; one that finds no ring or
no DDR5 window is dropped. A frozen channel puts it off (R127). -/
def traceDrain (d : Nat) (s : State) : State :=
  match Map.getD s.dbg.traceFifo d [] with
  | [] => s
  | r :: rest =>
    let s1 := { s with dbg := { s.dbg with traceFifo := Map.set s.dbg.traceFifo d rest } }
    let o := traceAt s d
    if fld (reg s (Reg.traceRing d)) 63 44 = 0 ∨ ¬ s.bpm.ddrWindow then count 13 0 d s1
    else if ¬ memFree s o 32 then s
    else
      let n := Map.getD s.dbg.traceCount d 0
      let s2 := writeMem 5 0xFF none o r.bytes (memGrant (portReq d) (sitesOf o 32) s1)
      { s2 with dbg := { s2.dbg with traceCount := Map.set s2.dbg.traceCount d (n + 1) } }

def execTraceDrain (d : Die) (s : State) : Host.Outcome State Fault Refusal := .next (mssRuns (traceDrain d.toNat) s)

/-- DBG_TRACE_RING_d: BASE is a multiple of 1 MiB; the count of records starts afresh. -/
def traceRingWrite (d : Nat) (v : W64) (s : State) : Status × State :=
  if fld v 41 0 % 2 ^ 20 ≠ 0 then (.fieldInvalid, s)
  else
    let s1 := setReg s (Reg.traceRing d) (v &&& (maskOf 63 44 ||| maskOf 41 0))
    (.ok, { s1 with dbg := { s1.dbg with traceCount := Map.erase s1.dbg.traceCount d } })

def execTraceRingWrite (d : Die) (v : W64) (s : State) : Host.Outcome State Fault Refusal :=
  hostCmd (traceRingWrite d.toNat v) s

/-! ### Counters, snapshots and spark samples (R379-R381) -/

/-- The block of a counter's key. -/
def keyBlock (k : Nat) : Nat := k / (64 * 16384)

/-- DBG_CTR_CLEAR: the named blocks' counters are zeroed, but for the events of this tick. -/
def ctrClear (v : W64) (s : State) : Status × State :=
  let named (k : Nat) : Bool := decide (keyBlock k < 16) && bitAt v (keyBlock k)
  let kept := Map.keep s.dbg.counters (fun k _ => !named k)
  let late := if s.dbg.recentAt = s.time.ftc then s.dbg.recent.filter (fun e => named e.1) else []
  (.ok, { s with dbg := { s.dbg with counters := late.foldl (fun m e => Map.set m e.1 e.2) kept } })

def execCounterClear (v : W64) (s : State) : Host.Outcome State Fault Refusal := hostCmd (ctrClear v) s

/-- A snapshot: every counter into its shadow, with the tick. -/
def snapshot (s : State) : State :=
  { s with dbg := { s.dbg with shadows := s.dbg.counters, snapTick := s.time.ftc, snapTaken := true } }

def execSnapshotTake (s : State) : Host.Outcome State Fault Refusal :=
  hostCmd (fun s => (.ok, snapshot s)) s

/-- The bits of DBG_SNAP_CTRL that hold a value. -/
def snapMask : W64 := maskOf 63 63 ||| maskOf 31 0

/-- DBG_SNAP_CTRL: EN needs a timer; EN or PERIOD written starts the timer afresh; TAKE takes one snapshot. -/
def snapCtrlWrite (v : W64) (s : State) : Status × State :=
  if fld v 31 0 < 1000 then (.fieldInvalid, s)
  else if bitAt v 63 ∧ ¬ (timerHeld s 0x12).isSome then (.resourceBound, s)
  else
    let s1 := setReg s Reg.snapCtrl (v &&& snapMask)
    let s2 := if bitAt v 63 then startTimer 0x12 s1 else haltTimer 0x12 s1
    (.ok, if bitAt v 62 then snapshot s2 else s2)

/-- PERIOD µs have passed. -/
def snapPeriod (s : State) : State :=
  if bitAt (reg s Reg.snapCtrl) 63 ∧ (timerHeld s 0x12).isSome then startTimer 0x12 (snapshot s) else s

def execSnapshotPeriod (s : State) : Host.Outcome State Fault Refusal := .next (mssRuns snapPeriod s)

/-- DBG_SPARK_STATUS with POP = 1. -/
def sparkPop (s : State) : Status × State := (.ok, { s with dbg := { s.dbg with sparks := s.dbg.sparks.drop 1 } })

def execSparkPop (s : State) : Host.Outcome State Fault Refusal := hostCmd sparkPop s

end Sys2Proof.Machine
end

