-- ==== Sys2Proof/Machine/Mem.lean ====
section
/-! DEFINITION. Scrub and sparing of the memories (chapter 5). -/

namespace Sys2Proof.Machine

open Sys2Proof

/-! ### Patrol scrub (R124) -/

/-- Granules of a scrub site: of a pseudo-channel of 1,152 MB, or of a channel's DIMM (R113, R116). -/
def scrubGranules (s : State) : ScrubSite → Nat
  | .hbm _ _ => 1152 * 2 ^ 20 / 256
  | .ddr _ => s.bpm.ddrGb.toNat * 2 ^ 30 / 256

/-- The offset of granule i of a site: the address map of R117 read backwards. -/
def scrubOffset (i : Nat) : ScrubSite → Nat
  | .hbm st pc => st.toNat * 0x001200000000 + i * 2 ^ 14 + pc.toNat * 256
  | .ddr ch => ddrBase + i * 2 ^ 11 + ch.toNat * 256

def scrubKey : ScrubSite → Nat
  | .hbm st pc => 64 * st.toNat + pc.toNat
  | .ddr ch => 512 + ch.toNat

/-- Is the site scrubbed: its enable is set and the memory is in service? -/
def scrubOn (s : State) : ScrubSite → Bool
  | .hbm _ _ => bitAt (reg s Reg.memScrub) 0 && powered s
  | .ddr _ => bitAt (reg s Reg.memScrub) 1 && powered s && s.bpm.ddrWindow

/-- One scrub slot: the next granule in address order is read; its words are corrected, or poisoned and logged. -/
def patrolSlot (site : ScrubSite) (s : State) : State :=
  if scrubOn s site then
    let n := scrubGranules s site
    let i := Map.getD s.bpm.scrubPos (scrubKey site) 0 % max n 1
    let r := scanWords 7 0xFF none (wordsOf (scrubOffset i site) 256) s
    { r.2 with bpm := { r.2.bpm with scrubPos := Map.set r.2.bpm.scrubPos (scrubKey site) ((i + 1) % max n 1) } }
  else s

def execPatrolScrubSlot (site : ScrubSite) (s : State) : Host.Outcome State Fault Refusal :=
  match site with
  | .hbm st _ => if st.toNat < 6 then .next (patrolSlot site s) else .refused .illFormedCommand
  | .ddr _ => .next (patrolSlot site s)

/-- SRAM scrub: at a tick that is a multiple of 1,000 one word of each macro is read, the next of its 131,072 (R124). -/
def sramScrub (s : State) : State :=
  if bitAt (reg s Reg.memScrub) 2 ∧ powered s ∧ now s % 1000 = 0 then
    let ps := (s.bpm.sramChk.filter (fun e => e.1 % 131072 == s.bpm.sramScrubPos)).map (·.1)
    let s1 := ps.foldl (fun s p => (takeSram 7 0xFF none p s).2) s
    { s1 with bpm := { s1.bpm with sramScrubPos := (s.bpm.sramScrubPos + 1) % 131072 } }
  else s

def execSramScrubTick (s : State) : Host.Outcome State Fault Refusal := .next (sramScrub s)

/-! ### HBM4 sparing (R126) -/

def isSpared (s : State) (st pc : Nat) : Bool := (Map.getD s.bpm.spared st 0).getLsbD pc

def sparedIn (s : State) (st : Nat) : Nat := ((upTo 64).filter (fun pc => isSpared s st pc)).length

/-- What a BPM_MEM_SPARE write answers, and whether a copy starts. -/
def spareAnswer (st pc : Nat) (s : State) : Status × Bool :=
  if isSpared s st pc then (.ok, false)
  else match s.bpm.copy with
    | some c => if c = (st, pc) then (.ok, false) else (.resourceBound, false)
    | none => if 4 ≤ sparedIn s st then (.resourceBound, false) else (.ok, true)

/-- A write to BPM_MEM_SPARE (R126, Table 5.5). -/
def hbmSpareWrite (v : W64) (s : State) : Status × State :=
  let st := fld v 10 8
  let pc := fld v 5 0
  if 6 ≤ st then (.fieldInvalid, { s with bpm := { s.bpm with spareStatus := .fieldInvalid } })
  else
    let a := spareAnswer st pc s
    let s1 := { s with bpm := { s.bpm with spareStatus := a.1 } }
    if a.2 then
      (a.1, mirrorEpochs { s1 with bpm := { s1.bpm with
        copy := some (st, pc), spareEpoch := BitVec.ofNat 32 (fld v 63 32), spareState := 1,
        spareStack := BitVec.ofNat 3 st, sparePc := BitVec.ofNat 6 pc } })
    else (a.1, s1)

def execHbmSpareWrite (v : W64) (s : State) : Host.Outcome State Fault Refusal := hostCmd (hbmSpareWrite v) s

/-- The words of a pseudo-channel that do not hold the checks of their data; every other word reads good. -/
def wordsInError (st pc : Nat) (s : State) : List Nat :=
  (s.mem.chk.filter (fun e => decide (e.1 < hbmSize) && memSite e.1 == 64 * st + pc)).map (·.1)

/-- The copy ends: every granule has been read, corrected or its poison kept (the copy engine's accesses wait while the
pseudo-channel's arbiter is frozen), the mapping moves, the spared bit is set and the end is logged with the epoch. -/
def spareCopyDone (s : State) : State :=
  match s.bpm.copy with
  | none => s
  | some (st, pc) =>
    if siteFrozen s (64 * st + pc) then s
    else
      let s0 := memGrant (fun _ => 6) [64 * st + pc] s
      let s1 := (scanWords 7 0xFF none (wordsInError st pc s0) s0).2
      let m := Map.getD s1.bpm.spared st 0 ||| bv64 (2 ^ pc)
      logEv (codeOther 5) 0 0xFF none [st, pc, s1.bpm.spareEpoch.toNat]
        { s1 with bpm := { s1.bpm with copy := none, spareState := 2, spared := Map.set s1.bpm.spared st m } }

def execSpareCopyDone (s : State) : Host.Outcome State Fault Refusal := .next (spareCopyDone s)

end Sys2Proof.Machine
end

