-- ==== Sys2Proof/Machine/Regs.lean ====
section
/-! DEFINITION. What a write of each register of the control space does, block by block (R11, R12, R308 and the register
tables of chapters 2 to 19). A write of a read-only register, and of an unused address, is ignored with OK. -/

namespace Sys2Proof.Machine

open Sys2Proof

/-- Store the writable bits of a register whose fields hold listed values; otherwise FIELD_INVALID (R12). -/
def storeIf (ok : Bool) (a : Nat) (mask v : W64) (s : State) : Status × State :=
  if ok then (.ok, setReg s a (v &&& mask)) else (.fieldInvalid, s)

/-- A number within a range, or the field's reset value (R12). -/
def inRange (lo hi reset_ n : Nat) : Bool := n == reset_ || (decide (lo ≤ n) && decide (n ≤ hi))

/-- Write a register of an array, if the offset names one. -/
def arrayWrite (o base step n : Nat) (f : Nat → State → Status × State) (rest : State → Status × State) :
    State → Status × State :=
  match arrayIx o base step n with
  | some i => f i
  | none => rest

/-- A write that changes nothing. -/
def ignored (s : State) : Status × State := (.ok, s)

/-- A field cleared bit by bit by writing ones (R11). -/
def w1c (old v w : Nat) : Nat := (BitVec.ofNat w old &&& ~~~(BitVec.ofNat w v)).toNat

/-! ### MSS_, HLK_, FTC_ and TMP_ -/

def writeMss (o : Nat) (v : W64) : State → Status × State :=
  if o = 0x408 then storeIf true Reg.logCfg (maskOf 1 0) v
  else if o = 0x410 then logSelect v
  else if o = 0x600 then updCtrlWrite v
  else ignored

/-- HLK_WD_CFG: EN needs a HOST_WATCHDOG binding (R314); the watch starts, or stops, with the write. -/
def wdCfgWrite (v : W64) (s : State) : Status × State :=
  if ¬ inRange 1 1000000 1000 (fld v 31 0) then (.fieldInvalid, s)
  else if bitAt v 63 ∧ ¬ (timerHeld s 0x13).isSome then (.resourceBound, s)
  else
    let s1 := setReg s Reg.wdCfg (v &&& (maskOf 63 63 ||| maskOf 31 0))
    (.ok, if bitAt v 63 then startTimer 0x13 s1 else haltTimer 0x13 s1)

def writeHlk (o : Nat) (v : W64) : State → Status × State :=
  if o = 0x0 then fun s => (.ok, { s with host := { s.host with wdExpired := s.host.wdExpired && !bitAt v 2 } })
  else if o = 0x10 then wdCfgWrite v
  else if o = 0x200 then fun s => (.ok, { s with host := { s.host with cplHigh := w1c s.host.cplHigh (fld v 31 16) 16 } })
  else arrayWrite o 0x100 8 16
    (fun n s => (.ok, modGroup s n (fun gr => { gr with fifoHigh := w1c gr.fifoHigh (fld v 31 16) 16 }))) ignored

/-- FTC_DISC_CTRL: SOURCE = 0b10 needs the pad bound as 1PPS (Table 2.8). -/
def discCtrlWrite (v : W64) (s : State) : Status × State :=
  if ¬ inRange 0 1023 0xFFFF (fld v 31 16) ∨ fld v 3 2 = 3 then (.fieldInvalid, s)
  else if fld v 3 2 = 2 ∧ ¬ claimHeld s 0x01 then (.resourceBound, s)
  else (.ok, setReg s Reg.discCtrl (v &&& (maskOf 31 16 ||| maskOf 3 2 ||| maskOf 0 0)))

def discStatusWrite (v : W64) (s : State) : Status × State :=
  let t := s.time
  (.ok, { s with time := { t with
    setRefused := t.setRefused && !bitAt v 3, stepped := t.stepped && !bitAt v 2,
    upstreamLost := t.upstreamLost && !bitAt v 0 } })

def writeFtc (o : Nat) (v : W64) : State → Status × State :=
  if o = 0x08 then ftcSet v
  else if o = 0x10 then discCtrlWrite v
  else if o = 0x18 then discStatusWrite v
  else if o = 0x1000 then govCtrlWrite v
  else if o = 0x1008 then fun s =>
    (.ok, { s with time := { s.time with underrun := s.time.underrun &&& ~~~(BitVec.ofNat 16 (fld v 47 32)) } })
  else if o = 0x1010 then storeIf (inRange 1067 1850 1100 (fld v 15 0)) Reg.ctGuard (maskOf 15 0) v
  else ignored

/-! ### SWC_ -/

/-- A word of the routing state: stored, good again if it was uncorrectable, and mirrored (R122, R357). -/
def routeWrite (a : Nat) (v : W64) (s : State) : Status × State := (.ok, mirrorRoute a v (routeStore a v s))

/-- SWC_FWD_CFG: OWN_CHIP changes only while FWD_EN = 0 (Table 4.9). -/
def fwdCfgWrite (v : W64) (s : State) : Status × State :=
  let old := reg s Reg.fwdCfg
  if ¬ inRange 1 63 8 (fld v 15 8) then (.fieldInvalid, s)
  else if bitAt old 0 ∧ fld old 63 48 ≠ fld v 63 48 then (.resourceBound, s)
  else routeWrite Reg.fwdCfg (v &&& (maskOf 63 48 ||| maskOf 34 32 ||| maskOf 15 8 ||| maskOf 0 0)) s

/-- FULL_MARK greater than LOW_MARK and less than SPAN; the other fields in their ranges (Table 4.7). -/
def reorderOk (v : W64) : Bool :=
  let full := fld v 43 32
  let span := fld v 19 16
  inRange 1000 1000000 20000 (fld v 63 44) && inRange 6 12 10 span &&
    (full == 768 || (decide (fld v 31 20 < full) && decide (full < 2 ^ span)))

/-- SWC_SPARK_CTRL: EN from 0 to 1 restarts every port's frame count (R108). -/
def sparkCtrlWrite (v : W64) (s : State) : Status × State :=
  let s1 := setReg s Reg.sparkCtrl (v &&& (maskOf 63 63 ||| maskOf 47 24 ||| maskOf 15 0))
  (.ok, if bitAt v 63 ∧ ¬ bitAt (reg s Reg.sparkCtrl) 63 then
      { s1 with ports := Map.each s1.ports (fun _ p => { p with sparkCount := 0 }) }
    else s1)

/-- A route entry's TYPE: 0b10 in the rack table only (Table 4.4). -/
def entryWrite (a : Nat) (rack : Bool) (v : W64) (s : State) : Status × State :=
  if fld v 62 61 = 3 ∨ (fld v 62 61 = 2 ∧ ¬ rack) then (.fieldInvalid, s) else routeWrite a (v &&& maskOf 63 38) s

/-- A slot table beyond the cord's allotment ignores writes (Table 4.4). -/
def slotWrite_ (i : Nat) (v : W64) (s : State) : Status × State :=
  if i / 64 < slotTables s then entryWrite (Reg.rtSlot (i / 64) (i % 64)) false v s else (.ok, s)

/-- The fields of a token bucket's register (Table 4.17). -/
def bucketMask : W64 := maskOf 63 63 ||| maskOf 45 32 ||| maskOf 15 0

/-- SWC_POLICE_t. -/
def policeWrite (l t : Nat) (v : W64) (s : State) : Status × State :=
  if 16000 < fld v 45 32 then (.fieldInvalid, s)
  else
    let old := reg s (Reg.police l t)
    let v1 := v &&& bucketMask
    (.ok, modPort (setReg s (Reg.police l t) v1) l (fun p =>
      { p with policers := Map.set p.policers t (bucketWrite old v1 (Map.get? p.policers t) (now s)) }))

/-- VID of an enabled tag is 1 to 4,094; REV is 1 or 2 (Table 3.8). -/
def ethCtrlOk (v : W64) : Bool :=
  !(bitAt v 28 && fld v 27 16 == 4095) && (fld v 3 0 == 1 || fld v 3 0 == 2)

/-- A register of a port's window; the window of a lane that is no first lane, and the Ethernet registers of a
fabric-mode port, ignore writes (R77). -/
def writePort (l w : Nat) (v : W64) (s : State) : Status × State :=
  let a := Reg.portBase l + w
  if ¬ isFirst s l then (.ok, s)
  else if w = 0x0 then lnkCfgWrite l v s
  else if w = 0x8 then (.ok, modPort s l (fun p => { p with downed := p.downed && !bitAt v 3 }))
  else if w = 0x60 then portFlush l v s
  else if w = 0x20 ∨ w = 0x28 ∨ w = 0x30 ∨ w = 0x40 ∨ w = 0x48 ∨ w = 0x50 ∨ w = 0x58 then
    if ¬ ethMode s l then (.ok, s)
    else if w = 0x20 then
      storeIf (ethCtrlOk v) a (maskOf 63 48 ||| maskOf 28 16 ||| maskOf 3 0) v s
    else if w < 0x40 then storeIf true a (maskOf 47 0) v s
    else storeIf true a (maskOf 63 0) v s
  else arrayWrite w 0x80 8 8 (fun t => policeWrite l t v) ignored s

/-- SWC_OB_CFG_n: INTAKE_LIMIT from 256 to SIZE (Table 4.11). -/
def obCfgWrite (n : Nat) (v : W64) (s : State) : Status × State :=
  let r := storeIf (inRange 256 (obSize s) 16384 (fld v 55 32)) (Reg.obCfg n) (maskOf 57 32) v s
  (r.1, pfcAll r.2)

def writeSwc (o : Nat) (v : W64) : State → Status × State :=
  if o = 0x0 then fwdCfgWrite v
  else if o = 0x08 then storeIf (reorderOk v) Reg.reorderCfg (maskOf 63 16) v
  else if o = 0x10 then storeIf (inRange 1000 1000000 100000 (fld v 19 0)) Reg.pinCfg (maskOf 19 0) v
  else if o = 0x18 then sparkCtrlWrite v
  else if o = 0x20 then storeIf true Reg.sparkSeed (maskOf 63 0) v
  else if o = 0x28 then storeIf (fld v 15 8 != 0 && fld v 7 0 != 0) Reg.arbCfg (maskOf 15 0) v
  else if 0x01000000 ≤ o ∧ o < 0x01040000 then writePort ((o - 0x01000000) / 0x100) (o % 0x100) v
  else arrayWrite o 0x40 8 8
      (fun t => storeIf (decide (fld v 27 24 ≤ 9) && decide (fld v 19 0 ≤ 1000000)) (Reg.tcCfg t)
        (maskOf 27 24 ||| maskOf 19 0) v)
    (arrayWrite o 0x80 8 16 (fun n => obCfgWrite n v)
    (arrayWrite o 0x02000000 8 1024 (fun r => entryWrite (Reg.rtRack r) true v)
    (arrayWrite o 0x02010000 8 4096 (fun i => slotWrite_ i v)
    (arrayWrite o 0x02100000 8 65536 (fun i => routeWrite (Reg.rtSet (i / 16) (i % 16)) v) ignored))))

/-! ### SCH_ -/

/-- SCH_Q_SHAPE. -/
def shapeWrite (l t : Nat) (v : W64) (s : State) : Status × State :=
  if 16000 < fld v 45 32 then (.fieldInvalid, s)
  else
    let old := reg s (Reg.qShape l t)
    let v1 := v &&& bucketMask
    (.ok, modPort (setReg s (Reg.qShape l t) v1) l (fun p =>
      { p with shapers := Map.set p.shapers t (bucketWrite old v1 (Map.get? p.shapers t) (now s)) }))

/-- MAX of a queue sample, cleared bit by bit. -/
def sampleClear (m : Map (Nat × Nat)) (t v w : Nat) : Map (Nat × Nat) :=
  match Map.get? m t with
  | some x => Map.set m t (w1c x.1 v w, x.2)
  | none => m

def writeSchPort (l w : Nat) (v : W64) (s : State) : Status × State :=
  let t := w / 0x40
  if ¬ isFirst s l ∨ 0x200 ≤ w then (.ok, s)
  else if w % 0x40 = 0 then storeIf (fld v 7 0 != 0) (Reg.qCfg l t) (maskOf 7 0) v s
  else if w % 0x40 = 8 then shapeWrite l t v s
  else if w % 0x40 = 0x10 then
    (.ok, modPort s l (fun p => { p with sampleDepth := sampleClear p.sampleDepth t (fld v 55 32) 24 }))
  else if w % 0x40 = 0x18 then
    (.ok, modPort s l (fun p => { p with sampleDelay := sampleClear p.sampleDelay t (fld v 63 32) 32 }))
  else (.ok, s)

def writeSch (o : Nat) (v : W64) : State → Status × State :=
  if o = 0x0 then storeIf (inRange 10 30 20 (fld v 12 8)) Reg.sampleCtrl (maskOf 12 8 ||| maskOf 0 0) v
  else if 0x00100000 ≤ o ∧ o < 0x00200000 then writeSchPort ((o - 0x00100000) / 0x400) (o % 0x400) v
  else ignored

/-! ### BPM_, HTH_ and STN_ -/

def writeBpm (o : Nat) (v : W64) : State → Status × State :=
  if o = 0x08 then storeIf true Reg.memScrub (maskOf 2 0) v
  else if o = 0x10 then storeIf (fld v 7 0 != 0) Reg.memArb (maskOf 23 16 ||| maskOf 7 0) v
  else if o = 0x18 then hbmSpareWrite v
  else arrayWrite o 0x140 8 6 (fun st => storeIf true (Reg.hbmFreeze st) (maskOf 63 0) v) ignored

def writeHth (o : Nat) (v : W64) : State → Status × State :=
  if o = 0x100 then arithDebugWrite v
  else if o = 0x108 then accPeek v
  else if o = 0x200 then storeIf (decide (fld v 6 0 ≤ 64)) Reg.redCfg (maskOf 6 0) v
  else ignored

/-- STN_ARB_CFG: the freeze bit of a fused-off unit ignores writes (R154). -/
def stnArbWrite (g : Nat) (v : W64) (s : State) : Status × State :=
  let keep := maskOf 7 0 ||| at_ (unitsOfGrade s.mss.grade % 4096) 16
  storeIf (fld v 7 0 != 0) (Reg.stnArb g) keep v s

/-- The fields of STN_TRIGGER_u. -/
def triggerMask : W64 := maskOf 63 62 ||| maskOf 53 48 ||| maskOf 45 32 ||| maskOf 14 0

/-- STN_SEQCTR_u_s: applies from the next invocation to start. -/
def seqctrWrite (g u k : Nat) (v : W64) (s : State) : Status × State :=
  (.ok, modUnit s g u (fun x => { x with sctr := Map.set x.sctr k (BitVec.ofNat 32 (fld v 31 0)) }))

def writeStn (g o : Nat) (v : W64) : State → Status × State :=
  if o = 0x08 then stnArbWrite g v
  else if o = 0x10 then spareCtrlWrite g v
  else if o = 0x20 then maintWrite g v
  else if o = 0x28 then progCtrlWrite g v
  else if 0x00200000 ≤ o ∧ o < 0x00400000 then pstoreWrite g (o - 0x00200000) v
  else arrayWrite o 0x300 8 12 (fun u => storeIf true (Reg.trigger g u) triggerMask v)
    (arrayWrite o 0x600 8 64 (fun p => replayCountWrite g p v)
    (arrayWrite o 0x900 8 96 (fun i => seqctrWrite g (i / 8) (i % 8) v)
    (arrayWrite o 0x10000 8 4096 (fun i => paramWrite g (i / 64) (i % 64) v) ignored)))

/-! ### CTX_, TAL_, MOE_ and SPR_ -/

/-- ENTRY_UNIT 0-3 or 5-11, ARRIVAL_TALLY 0-8,191 or none (Table 10.6). -/
def ctxArg0Ok (v : W64) : Bool :=
  let u := fld v 55 52
  let t := fld v 13 0
  decide (u ≤ 11) && u != 4 && (decide (t ≤ 8191) || t == 0x3FFF)

/-- TIMEOUT 0 or at least 1,000, MCOUNT at most 4,096 (Table 10.7). -/
def ctxArg1Ok (v : W64) : Bool :=
  (fld v 63 32 == 0 || decide (1000 ≤ fld v 63 32)) && decide (fld v 12 0 ≤ 4096)

/-- A tally's register: VALUE, CFG or RELEASE; START is read only. -/
def tallyWrite (t w : Nat) (v : W64) : State → Status × State :=
  match w with
  | 0 => tallyValueWrite t v
  | 1 => tallyCfgWrite t v
  | 2 => tallyReleaseWrite t v
  | _ => ignored

def writeCtx (o : Nat) (v : W64) : State → Status × State :=
  if o = 0x0 then storeIf (ctxArg0Ok v) (Reg.ctxArg 0) CtxArg.mask v
  else if o = 0x08 then storeIf (ctxArg1Ok v) (Reg.ctxArg 1) (maskOf 63 32 ||| maskOf 12 0) v
  else if o = 0x10 then storeIf true (Reg.ctxArg 2) (maskOf 63 0) v
  else if o = 0x18 then ctxActionWrite v
  else arrayWrite o 0x10000 8 1024 (fun k => storeIf true (Reg.mgrpStage k) (maskOf 63 0) v)
    (arrayWrite o 0x10000000 8 32768 (fun i => tallyWrite (i / 4) (i % 4) v) ignored)

def writeMoe (o : Nat) (v : W64) : State → Status × State :=
  arrayWrite o 0x10000 8 2048 (fun i => layerWrite (i / 8) (i % 8) v)
    (arrayWrite o 0x01000000 8 0x400000 (fun i => placeWrite (i / 0x200000) (i / 0x2000 % 256) (i % 0x2000) v) ignored)

def writeSpr (o : Nat) (v : W64) : State → Status × State :=
  arrayWrite o 0x0 8 16 (fun n => storeIf (decide (fld v 8 0 ≤ 256)) (Reg.cmp n) (maskOf 8 0) v)
    (arrayWrite o 0x100 8 16 (fun n => steerWrite n v) ignored)

/-! ### CRD_, TWN_, DBG_ and PWR_ -/

def writeCrd (o : Nat) (v : W64) : State → Status × State :=
  if o = 0x0 then cordCtrlWrite v
  else if o = 0x18 then floorWrite v
  else if o = 0x20 then cordBindWrite v
  else if 0x01000000 ≤ o ∧ o < 0x01400000 then cordStage (o - 0x01000000) v
  else ignored

def writeTwn (o : Nat) (v : W64) : State → Status × State :=
  if o = 0x0 then twnCfgWrite v
  else if o = 0x10 then twnActionWrite v
  else ignored

def writeDbg (o : Nat) (v : W64) : State → Status × State :=
  if o = 0x0 then fun s => (.ok, setEnable v s)
  else if o = 0x08 then ctrClear v
  else if o = 0x100 then damperCtrlWrite v
  else if o = 0x108 then storeIf true Reg.damperCfg (maskOf 63 62 ||| maskOf 31 0) v
  else if o = 0x200 then scanCtrlWrite v
  else if o = 0x400 then snapCtrlWrite v
  else if o = 0x500 then (if bitAt v 63 then sparkPop else ignored)
  else arrayWrite o 0x300 8 4 (fun d => traceRingWrite d v) ignored

def writePwr (o : Nat) (v : W64) : State → Status × State :=
  if o = 0x0 then stateCmdWrite v
  else if o = 0x10 then vsetWrite v
  else if o = 0x18 then groupGateWrite v
  else if o = 0x20 then fun s => (.ok, { s with pwr := { s.pwr with
    exhausted := s.pwr.exhausted && !bitAt v 1, warn := s.pwr.warn && !bitAt v 0 } })
  else if o = 0x30 then fun s => (.ok, { s with pwr := { s.pwr with thermWarn := s.pwr.thermWarn && !bitAt v 0 } })
  else ignored

/-- The blocks whose writes a fenced device refuses: SWC_, SCH_, STN_, CTX_, MOE_ and SPR_ (R362). -/
def fencedBlock (b : Nat) : Bool := [3, 4, 7, 8, 9, 10].contains b

/-- The write itself. -/
def regWriteAt (a : Nat) (v : W64) : State → Status × State :=
  let o := a % 0x100000000
  match a / 0x100000000 with
  | 0 => writeMss o v
  | 1 => writeHlk o v
  | 2 => writeFtc o v
  | 3 => writeSwc o v
  | 4 => writeSch o v
  | 5 => writeBpm o v
  | 6 => writeHth o v
  | 7 => writeStn (o / 0x10000000) (o % 0x10000000) v
  | 8 => writeCtx o v
  | 9 => writeMoe o v
  | 10 => writeSpr o v
  | 11 => writeCrd o v
  | 12 => writeTwn o v
  | 13 => writeDbg o v
  | 14 => writePwr o v
  | _ => ignored

/-- A host write of a 64-bit register with its completion status (R12, R308, R362). An address that is no multiple of 8
names no register. -/
def regWrite (a : Nat) (v : W64) (s : State) : Status × State :=
  if a % 8 ≠ 0 then (.ok, s)
  else if fencedBlock (a / 0x100000000) then unfenced (regWriteAt a v) s
  else regWriteAt a v s

/-- Does the ROM loader carry out a write: one within the MSS_ block, PWR_STATE_CMD with COLD (R345), or in a start any
state command (R316)? -/
def romWrites (s : State) (a : Nat) (v : W64) : Bool :=
  decide (a < blockBase 1) || (a == blockBase 14 && (starting s || fld v 3 0 == 2))

def execRegisterWrite (addr : BitVec 48) (v : W64) (s : State) : Host.Outcome State Fault Refusal :=
  if romWrites s addr.toNat v then loaderCmd (regWrite addr.toNat v) s else hostCmd (regWrite addr.toNat v) s

end Sys2Proof.Machine
end

