-- ==== Sys2Proof/Machine/HostLink.lean ====
section
/-! DEFINITION. What the host asks for over the host link (chapter 14): reads and writes, commands, bulk data; and the
keep-alive watch. -/

namespace Sys2Proof.Machine

open Sys2Proof

/-! ### Reads and writes (R308) -/

/-- n words read from an address on, one after another. -/
def readWords : Nat → Nat → State → List W64 × State
  | 0, _, s => ([], s)
  | n + 1, a, s =>
    let s1 := regTouch a s
    let r := readWords n (a + 8) s1
    (regRead s1 a :: r.1, r.2)

/-- RD: consecutive words, answered with RD_RESP. -/
def rdPkt (p : HostPkt) (s : State) : State :=
  let r := readWords (pktCount p) (pktAddr p) s
  sendOwn (ownPkt r.2 0x02#8 p.reqId (r.1.flatMap (fun w => beBytes 8 w.toNat))) r.2

def execRd (b : List Byte) (s : State) : Host.Outcome State Fault Refusal := upRow 0x01#8 b rdPkt s

/-- Words written one after another until one fails: status, words written, state. -/
def writeWords : List W64 → Nat → Nat → State → Status × Nat × State
  | [], _, done, s => (.ok, done, s)
  | w :: ws, a, done, s =>
    let r := regWrite a w s
    if r.1 = .ok then writeWords ws (a + 8) (done + 1) r.2 else (r.1, done, r.2)

/-- WR: answered with WR_ACK. The answer leaves from the chain address the packet came to. -/
def wrPkt (p : HostPkt) (s : State) : State :=
  let ws := (chunksOf 8 (p.payload.drop 8)).map (fun b => bv64 (fromBe b))
  let r := writeWords ws (pktAddr p) 0 s
  let s1 := withStatus r.2.2 r.1
  sendOwn (ownPkt s1 0x04#8 p.reqId ([BitVec.ofNat 8 r.1.code, BitVec.ofNat 8 r.2.1] ++ zeros 6)) s1

def execWr (b : List Byte) (s : State) : Host.Outcome State Fault Refusal := upRow 0x03#8 b wrPkt s

/-! ### Command records (R309, R310, Tables 14.5, 14.6) -/

/-- The octets of a record from i, n of them, are zero. -/
def zeroAt (r : List Byte) (i n : Nat) : Bool := allZero (slice r i n)

/-- A field of the record is below a bound. -/
def below (r : List Byte) (i n bound_ : Nat) : Bool := decide (recFld r i n < bound_)

/-- The body of a record by its OPCODE. -/
def bodyOk (r : List Byte) : Bool :=
  match (nthD r 0 0).toNat with
  | 1 => below r 8 1 16 && below r 9 1 64 && below r 10 1 2 && zeroAt r 11 1 && below r 16 2 32768 &&
      below r 18 2 16384 && zeroAt r 20 4
  | 2 => below r 8 2 8192 && below r 12 1 4 && zeroAt r 13 1 && below r 14 2 32768 && zeroAt r 16 16
  | 3 => decide (1 ≤ recFld r 8 1) && below r 8 1 6 && zeroAt r 9 1 &&
      (recFld r 8 1 == 3 || zeroAt r 16 2) && zeroAt r 18 14
  | 4 => below r 8 1 16 && below r 9 1 2 && zeroAt r 10 4 &&
      (below r 14 2 16384 || recFld r 14 2 == 0x7FFF) && zeroAt r 16 2 && zeroAt r 24 8
  | 5 => zeroAt r 8 24
  | _ => false

def recordOk (r : List Byte) : Bool := below r 1 1 16 && below r 5 1 2 && zeroAt r 6 2 && bodyOk r

/-- A record that enters no FIFO completes at once; with the queue full, its completion waits. -/
def completeEntry (g : Nat) (r : List Byte) (st : Status) (s : State) : State :=
  let c := mkCpl g (nthD r 0 0).toNat (recTag r) st 0
  let x := pushCpl c s
  if x.1 then x.2 else { s with host := { s.host with entryCpl := s.host.entryCpl ++ [c] } }

/-- One record of a CMD packet: refused by a fenced device (R362), malformed, into its group's FIFO, or QUEUE_FULL. -/
def enterRecord (r : List Byte) (s : State) : State :=
  let g := recFld r 1 1 % 16
  let gr := getGroup s g
  if s.twn.fenced then completeEntry g r .twinFenced s
  else if ¬ recordOk r then completeEntry g r .malformedTile s
  else if 256 ≤ gr.fifo.length then completeEntry g r .queueFull s
  else modGroup s g (fun gr => { gr with fifo := gr.fifo ++ [r], fifoHigh := max gr.fifoHigh (gr.fifo.length + 1) })

def cmdPkt (p : HostPkt) (s : State) : State := foldOver (chunksOf 32 p.payload) (fun s r => enterRecord r s) s

def execCmd (b : List Byte) (s : State) : Host.Outcome State Fault Refusal := upRow 0x05#8 b cmdPkt s

/-! ### Bulk data (R343) -/

def bulkPkt (p : HostPkt) (s : State) : State :=
  bulkStore (fromBe (slice p.payload 0 2)) (fromBe (slice p.payload 2 6)) (p.payload.drop 8) s

def execBulk (b : List Byte) (s : State) : Host.Outcome State Fault Refusal := upRow 0x0A#8 b bulkPkt s

/-! ### Keep-alive watch (R314) -/

/-- PERIOD µs without a packet on HL_UP. -/
def watchExpire (s : State) : State :=
  let c := reg s Reg.wdCfg
  if bitAt c 63 ∧ (timerHeld s 0x13).isSome then
    logEv 0x000D 2 0xFF none [fld c 31 0] { s with host := { s.host with wdExpired := true } }
  else s

def execHostWatchdogExpire (s : State) : Host.Outcome State Fault Refusal := .next (mssRuns watchExpire s)

end Sys2Proof.Machine
end

