-- ==== Sys2Proof/Machine/Spdm.lean ====
section
/-! DEFINITION. Identity and attestation over SPDM 1.3 (R346-R348). The messages' own byte forms are the standard's: a
response is its fields, `Config.spdmMessage` the octets of them, and what is signed is `Config.spdmSigMessage` of the
connection's requests and responses so far and the response. -/

namespace Sys2Proof.Machine

open Sys2Proof

/-! ### Identity and alias statements (Table 16.8) -/

/-- A signature block of R295. -/
def signatureBlock (edKey edSig mlKey mlSig : List Byte) : List Byte :=
  leBytes 2 1 ++ zeros 2 ++ fixN 32 edKey ++ fixN 64 edSig ++ fixN 1952 mlKey ++ fixN 3309 mlSig ++ zeros 7

/-- The octets before the signature block: MAGIC's last two, octet 7, the public keys, and what octets 2,000-2,063
hold. -/
def statementBody (s : State) (magic : List Byte) (b7 : Byte) (edKey mlKey digest : List Byte) : List Byte :=
  [0x56#8, 0x46#8] ++ magic ++ [1#8, BitVec.ofNat 8 (2 ^ s.mss.grade.toNat), 0xB1#8, b7] ++
    leBytes 8 s.mss.deviceId.toNat ++ fixN 32 edKey ++ fixN 1952 mlKey ++ fixN 64 digest ++ zeros 48

/-- The private seeds of the device key pairs, and of the alias key pairs of the running firmware: i 0 Ed25519, 1
ML-DSA-65 (R346). -/
def deviceSeed (s : State) (i : Nat) : List Byte := fixN 32 (Config.keySeed i s.mss.secret)
def aliasSeed (s : State) (i : Nat) : List Byte := fixN 32 (Config.keySeed (2 + i) (s.mss.secret ++ s.mss.fw.digest))
def itvatenSeed (i : Nat) : List Byte := fixN 32 (Config.itvatenSeed i)

/-- A statement: its body, and its SHA-512 signed by a pair of keys (Table 16.8). -/
def signedStatement (seed : Nat → List Byte) (b : List Byte) : List Byte :=
  let d := sha512 b
  b ++ signatureBlock (ed25519Public (seed 0)) (ed25519Sign (seed 0) d) (mldsaPublic (seed 1)) (mldsaSign (seed 1) d)

/-- The identity statement, signed by Itvaten's identity keys. -/
def identityStatement (s : State) : List Byte :=
  signedStatement itvatenSeed
    (statementBody s [0x49#8, 0x44#8] 0 (ed25519Public (deviceSeed s 0)) (mldsaPublic (deviceSeed s 1)) [])

/-- The alias statement, signed by the device keys. -/
def aliasStatement (s : State) : List Byte :=
  signedStatement (deviceSeed s)
    (statementBody s [0x41#8, 0x4C#8] s.mss.fw.svn (ed25519Public (aliasSeed s 0)) (mldsaPublic (aliasSeed s 1)) s.mss.fw.digest)

/-! ### Requests and responses (R347) -/

/-- Error codes of SPDM 1.3: InvalidRequest and UnexpectedRequest. -/
def spdmInvalid : Byte := 0x01#8
def spdmUnexpected : Byte := 0x04#8

/-- The octet of a value type in SPDM 1.3 (PRESUMED, log entry 59). -/
def measTypeOctet : MeasType → Byte
  | .immutableRom => 0x00#8
  | .mutableFirmware => 0x01#8
  | .firmwareConfig => 0x03#8
  | .rawBits => 0x80#8

/-- Octets of the blocks as a measurement record carries them. -/
def recordOctets (l : List (Byte × MeasType × List Byte)) : List Byte :=
  (l.map (fun b => [b.1, 1#8] ++ leBytes 2 (b.2.2.length + 3) ++ [measTypeOctet b.2.1] ++ leBytes 2 b.2.2.length ++
    b.2.2)).flatten

/-- A number or a flag as one field of a response. -/
def numField (n : Nat) : List Byte := leBytes 4 n

def capNo : SpdmCap → Nat
  | .cert => 0 | .chal => 1 | .measSig => 2 | .chunk => 3

def algNo : SpdmAlg → Nat
  | .ed25519 => 0 | .sha512 => 1

/-- The fields of a response, the kind first, from which the standard makes its octets. -/
def rspFields : SpdmRsp → List (List Byte)
  | .version major minor => [numField 0, numField major, numField minor]
  | .capabilities caps size maxMsg ct =>
    [numField 1, (caps.map (fun c => numField (capNo c))).flatten, numField size, numField maxMsg, numField ct]
  | .algorithms asym hash meas => [numField 2, numField (algNo asym), numField (algNo hash), numField (algNo meas)]
  | .digests mask d => [numField 3, [mask], d]
  | .certificate slot part rest => [numField 4, numField slot.toNat, part, numField rest]
  | .challengeAuth d nonce sum sig => [numField 5, d, nonce, sum, sig]
  | .measurements l nonce sig => [numField 6, recordOctets l, nonce, sig.getD []]
  | .chunk h n last data => [numField 7, [h], numField n, numField (bit1 last), data]
  | .chunkLarge h => [numField 8, [h]]
  | .error c => [numField 9, [c]]

/-- The fields of a request, the kind first, from which the standard makes its octets. -/
def reqFields (kind : Nat) (l : List (List Byte)) : List (List Byte) := numField (16 + kind) :: l

/-- The octets of a response. -/
def rspOctets (r : SpdmRsp) : List Byte := Config.spdmMessage (rspFields r)

/-- A response that becomes part of the connection's transcript. -/
def noteRsp (r : SpdmRsp) (s : State) : State :=
  { s with mss := { s.mss with spdmCtx := s.mss.spdmCtx ++ [rspOctets r] } }

/-- A response leaves as a packet of type 0x09 for the adapter; its fields are recorded beside it. -/
def sendRsp (r : SpdmRsp) (s : State) : State := sendOwn (ownPkt s 0x09#8 0 (rspOctets r)) (emit s (.spdm r))

/-- A response is sent and joins the transcript. -/
def spdmReply (r : SpdmRsp) (s : State) : State := sendRsp r (noteRsp r s)

/-- A request to the responder. Before the stage the request needs, it is unexpected. A request other than CHUNK_GET
ends a large response being fetched. -/
def spdmRequest (needs : Nat) (fields : List (List Byte)) (op : State → State) (s : State) : State :=
  if s.mss.spdmStage < needs then spdmReply (.error spdmUnexpected) s
  else op { s with mss := { s.mss with spdmCtx := s.mss.spdmCtx ++ [Config.spdmMessage fields], large := none } }

/-- A packet of type 0x09 comes in turn on HL_UP, from chain address 0 and for this device, with an SPDM message. (One
that is out of turn, has a bad CRC, is malformed or is for another device is the event of another row.) The ROM loader
answers none: it discards the packet (R345). -/
def spdmPacket (op : State → State) (s : State) : State :=
  hopReceive .up s.host.hopUp.rxExp (fun s => if s.mss.romOnly then badDst s else op s) s

/-- A packet holding a request of one kind. -/
def spdmRow (needs : Nat) (fields : List (List Byte)) (op : State → State) (s : State) :
    Host.Outcome State Fault Refusal := .next (mssRuns (spdmPacket (spdmRequest needs fields op)) s)

/-- GET_VERSION: a new connection; the previous one ends. -/
def spdmVersion (s : State) : State :=
  spdmReply (.version 1 3) { s with mss := { s.mss with
    spdmStage := 1, spdmCtx := [Config.spdmMessage (reqFields 0 [])], cosig := zeros 3309, large := none } }

def execGetVersion (s : State) : Host.Outcome State Fault Refusal := .next (mssRuns (spdmPacket spdmVersion) s)

/-- GET_CAPABILITIES: the capabilities, DataTransferSize, MaxSPDMmsgSize, CTExponent. -/
def spdmCapabilities (s : State) : State :=
  spdmReply (.capabilities [.cert, .chal, .measSig, .chunk] (transferSize s) 65536 20)
    { s with mss := { s.mss with spdmStage := max s.mss.spdmStage 2 } }

def execGetCapabilities (s : State) : Host.Outcome State Fault Refusal := spdmRow 1 (reqFields 1 []) spdmCapabilities s

/-- NEGOTIATE_ALGORITHMS: Ed25519 and SHA-512, for measurements too. -/
def spdmAlgorithms (s : State) : State :=
  spdmReply (.algorithms .ed25519 .sha512 .sha512) { s with mss := { s.mss with spdmStage := 3 } }

def execNegotiateAlgorithms (s : State) : Host.Outcome State Fault Refusal :=
  spdmRow 2 (reqFields 2 []) spdmAlgorithms s

def certChain (s : State) : List Byte :=
  Config.certificateChain s.mss.deviceId (ed25519Public (aliasSeed s 0))

/-- GET_DIGESTS: slot 0 only. -/
def spdmDigests (s : State) : State := spdmReply (.digests 1 (sha512 (certChain s))) s

def execGetDigests (s : State) : Host.Outcome State Fault Refusal := spdmRow 3 (reqFields 3 []) spdmDigests s

/-- GET_CERTIFICATE: a portion of the chain of slot 0 that fits one transfer. -/
def spdmCertificate (slot off len : Nat) (s : State) : State :=
  let c := certChain s
  if slot ≠ 0 ∨ c.length ≤ off then spdmReply (.error spdmInvalid) s
  else
    let part := slice c off (min len (transferSize s - 8))
    spdmReply (.certificate 0 part (c.length - off - part.length)) s

def execGetCertificate (slot : BitVec 4) (offset len : BitVec 16) (s : State) : Host.Outcome State Fault Refusal :=
  spdmRow 3 (reqFields 4 [numField slot.toNat, numField offset.toNat, numField len.toNat])
    (spdmCertificate slot.toNat offset.toNat len.toNat) s

/-! ### Measurements (Table 16.9) -/

/-- Measurement 0x04, 32 octets. -/
def measureState (s : State) : List Byte :=
  let maint := ((upTo 16).map (fun g => bit1 (getGroup s g).maint * 2 ^ g)).foldl (· + ·) 0
  [s.mss.fw.svn, BitVec.ofNat 8 s.mss.svnFloor, s.mss.revoked.setWidth 8, 0] ++ leBytes 8 s.cord.floor.toNat ++
    leBytes 2 (fld (reg s Reg.arithDebug) 15 0) ++ leBytes 2 maint ++ [BitVec.ofNat 8 (bit1 s.mss.storeLost)] ++ zeros 15

/-- One measurement's value type and content, if the index names one. -/
def measurement (s : State) (i : Nat) : Option (MeasType × List Byte) :=
  if i = 1 then some (.mutableFirmware, s.mss.fw.digest)
  else if i = 2 then some (.immutableRom, sha512 Config.romImage)
  else if i = 3 then some (.firmwareConfig, if s.cord.state = 3 then s.cord.digest else zeros 64)
  else if i = 4 then some (.rawBits, measureState s)
  else if i = 0xEE then some (.rawBits, identityStatement s ++ aliasStatement s)
  else if i = 0xEF then some (.rawBits, s.mss.cosig)
  else none

def measureBlock (s : State) (i : Nat) : Option (Byte × MeasType × List Byte) :=
  (measurement s i).map (fun m => (BitVec.ofNat 8 i, m))

/-- The blocks an index asks for; index 0 asks for their number (SPDM 1.3; PRESUMED, log entry 59). -/
def measureBlocks (s : State) (i : Nat) : Option (List (Byte × MeasType × List Byte)) :=
  if i = 0 then some [(0, .rawBits, [6#8])]
  else if i = 0xFF then some ([1, 2, 3, 4].filterMap (measureBlock s))
  else (measureBlock s i).map (fun b => [b])

/-- The responder's nonce: 32 octets that are free values. -/
def takeNonce (s : State) : List Byte × State :=
  let a := takeFree s
  let b := takeFree a.2
  let c := takeFree b.2
  let d := takeFree c.2
  ([a.1, b.1, c.1, d.1].flatMap (fun v => leBytes 8 v.toNat), d.2)

/-- Sign a response, given without its signature: the alias Ed25519 signature goes out, and the ML-DSA-65 co-signature
of the same message is kept (R348). -/
def spdmSign (r : SpdmRsp) (s : State) : List Byte × State :=
  let msg := Config.spdmSigMessage s.mss.spdmCtx (rspOctets r)
  (ed25519Sign (aliasSeed s 0) msg, { s with mss := { s.mss with cosig := mldsaSign (aliasSeed s 1) msg } })

/-- The measurement summary a CHALLENGE asks for: none, the ROM, or all of 0x01-0x04. -/
def measSummary (s : State) (kind : Nat) : List Byte :=
  if kind = 0 then []
  else if kind = 1 then sha512 (recordOctets ((measureBlocks s 2).getD []))
  else sha512 (recordOctets ((measureBlocks s 0xFF).getD []))

/-- CHALLENGE: answered with CHALLENGE_AUTH, signed and co-signed. -/
def spdmChallenge (slot kind : Nat) (s : State) : State :=
  if slot ≠ 0 ∨ ¬ (kind = 0 ∨ kind = 1 ∨ kind = 0xFF) then spdmReply (.error spdmInvalid) s
  else
    let dg := sha512 (certChain s)
    let sum := measSummary s kind
    let n := takeNonce s
    let r := spdmSign (.challengeAuth dg n.1 sum []) n.2
    spdmReply (.challengeAuth dg n.1 sum r.1) r.2

def execChallenge (slot : BitVec 4) (measSummary : Byte) (nonce : BitVec 256) (s : State) :
    Host.Outcome State Fault Refusal :=
  spdmRow 3 (reqFields 5 [numField slot.toNat, [measSummary], leBytes 32 nonce.toNat])
    (spdmChallenge slot.toNat measSummary.toNat) s

/-- A response whose message is larger than DataTransferSize is held and fetched in chunks under a new handle; a
MEASUREMENTS message holds 50 octets beside its record and signature (SPDM 1.3; PRESUMED, log entry 59). -/
def spdmSend (r : SpdmRsp) (size : Nat) (s : State) : State :=
  if size + 50 ≤ transferSize s then spdmReply r s
  else
    let h := s.mss.nextHandle
    let s1 := noteRsp r s
    sendRsp (.chunkLarge h) { s1 with mss := { s1.mss with
      large := some { handle := h, data := rspOctets r }, nextHandle := h + 1 } }

/-- GET_MEASUREMENTS: taken now; index 0xEF with a signature asked for is InvalidRequest (R348). -/
def spdmMeasure (i : Nat) (signed : Bool) (s : State) : State :=
  match measureBlocks s i with
  | none => spdmReply (.error spdmInvalid) s
  | some l =>
    if signed ∧ i = 0xEF then spdmReply (.error spdmInvalid) s
    else
      let n := takeNonce s
      if signed then
        let r := spdmSign (.measurements l n.1 none) n.2
        spdmSend (.measurements l n.1 (some r.1)) ((recordOctets l).length + 64) r.2
      else spdmSend (.measurements l n.1 none) (recordOctets l).length n.2

def execGetMeasurements (index : Byte) (signed : Bool) (nonce : BitVec 256) (s : State) :
    Host.Outcome State Fault Refusal :=
  spdmRow 3 (reqFields 6 [[index], numField (bit1 signed), if signed then leBytes 32 nonce.toNat else []])
    (spdmMeasure index.toNat signed) s

/-- CHUNK_GET: the numbered chunk of the held response; after its last chunk the response is gone. -/
def spdmChunk (handle : Byte) (seq : Nat) (s : State) : State :=
  match s.mss.large with
  | none => spdmReply (.error spdmInvalid) s
  | some x =>
    let n := transferSize s - 16
    if x.handle ≠ handle ∨ x.data.length ≤ seq * n then spdmReply (.error spdmInvalid) s
    else
      let last := decide (x.data.length ≤ (seq + 1) * n)
      sendRsp (.chunk handle seq last (slice x.data (seq * n) n))
        { s with mss := { s.mss with large := if last then none else s.mss.large } }

def execChunkGet (handle : Byte) (seq : BitVec 16) (s : State) : Host.Outcome State Fault Refusal :=
  .next (mssRuns (spdmPacket (spdmChunk handle seq.toNat)) s)

end Sys2Proof.Machine
end

