-- ==== Sys2Proof/Machine/Dispatch.lean ====
section
/-! DEFINITION. The effect of each command: one arm per row of spec/opcode_table.json. -/

namespace Sys2Proof.Machine

open Sys2Proof

/-- A command's effect on everything but the queue. -/
def exec (i : Instr) (s : State) : Host.Outcome State Fault Refusal :=
  match i with
  | .registerWrite addr v => Sys2Proof.Machine.execRegisterWrite addr v s
  | .tempoMeasure groups flue => Sys2Proof.Machine.execTempoMeasure groups flue s
  | .pacerPermit d => Sys2Proof.Machine.execPacerPermit d s
  | .tmpGovCtrlWrite v => Sys2Proof.Machine.execTmpGovCtrlWrite v s
  | .governorApply => Sys2Proof.Machine.execGovernorApply s
  | .ftcSetWrite v => Sys2Proof.Machine.execFtcSetWrite v s
  | .syncExchangeStart => Sys2Proof.Machine.execSyncExchangeStart s
  | .timeReq l xid => Sys2Proof.Machine.execTimeReq l xid s
  | .timeRsp l xid t2 dt => Sys2Proof.Machine.execTimeRsp l xid t2 dt s
  | .auxSyncEdge => Sys2Proof.Machine.execAuxSyncEdge s
  | .linkAdminUp l => Sys2Proof.Machine.execLinkAdminUp l s
  | .linkAdminDown l => Sys2Proof.Machine.execLinkAdminDown l s
  | .orderlyCloseComplete l => Sys2Proof.Machine.execOrderlyCloseComplete l s
  | .laneTrainingComplete l r => Sys2Proof.Machine.execLaneTrainingComplete l r s
  | .alignmentLock l => Sys2Proof.Machine.execAlignmentLock l s
  | .linkStepTimeout l => Sys2Proof.Machine.execLinkStepTimeout l s
  | .linkRetryTimer l => Sys2Proof.Machine.execLinkRetryTimer l s
  | .versionTimer l => Sys2Proof.Machine.execVersionTimer l s
  | .version l b => Sys2Proof.Machine.execVersion l b s
  | .laneSignalLost l lane alignment => Sys2Proof.Machine.execLaneSignalLost l lane alignment s
  | .close l cause => Sys2Proof.Machine.execClose l cause s
  | .linkBlockReceive l bytes fecBad => Sys2Proof.Machine.execLinkBlockReceive l bytes fecBad s
  | .linkBlockSend l => Sys2Proof.Machine.execLinkBlockSend l s
  | .creditTimer l => Sys2Proof.Machine.execCreditTimer l s
  | .credit l q g0 g1 g2 g3 => Sys2Proof.Machine.execCredit l q g0 g1 g2 g3 s
  | .ackTimer l => Sys2Proof.Machine.execAckTimer l s
  | .ack l seq => Sys2Proof.Machine.execAck l seq s
  | .nak l seq => Sys2Proof.Machine.execNak l seq s
  | .replayTimeout l => Sys2Proof.Machine.execReplayTimeout l s
  | .unknownControlSymbol l ty => Sys2Proof.Machine.execUnknownControlSymbol l ty s
  | .ethFrameReceive l bytes fcsBad => Sys2Proof.Machine.execEthFrameReceive l bytes fcsBad s
  | .frameHeaderAccept src => Sys2Proof.Machine.execFrameHeaderAccept src s
  | .frameEndReceive l ch => Sys2Proof.Machine.execFrameEndReceive l ch s
  | .outputBufferWrite pg => Sys2Proof.Machine.execOutputBufferWrite pg s
  | .reorderGapTimeout k => Sys2Proof.Machine.execReorderGapTimeout k s
  | .pinResendTimer k => Sys2Proof.Machine.execPinResendTimer k s
  | .reorderWindowExpire k => Sys2Proof.Machine.execReorderWindowExpire k s
  | .pinExpire src dst ch => Sys2Proof.Machine.execPinExpire src dst ch s
  | .intakeEnqueue pg => Sys2Proof.Machine.execIntakeEnqueue pg s
  | .memoryPortTake d => Sys2Proof.Machine.execMemoryPortTake d s
  | .returnPortSend g => Sys2Proof.Machine.execReturnPortSend g s
  | .egressSelect l => Sys2Proof.Machine.execEgressSelect l s
  | .swcPortFlushWrite l v => Sys2Proof.Machine.execSwcPortFlushWrite l v s
  | .queueSample => Sys2Proof.Machine.execQueueSample s
  | .patrolScrubSlot site => Sys2Proof.Machine.execPatrolScrubSlot site s
  | .sramScrubTick => Sys2Proof.Machine.execSramScrubTick s
  | .hbmSpareWrite v => Sys2Proof.Machine.execHbmSpareWrite v s
  | .spareCopyDone => Sys2Proof.Machine.execSpareCopyDone s
  | .sequencerIntakeTake g => Sys2Proof.Machine.execSequencerIntakeTake g s
  | .stationQueueDeliver g u portB => Sys2Proof.Machine.execStationQueueDeliver g u portB s
  | .steerPairDeliver g => Sys2Proof.Machine.execSteerPairDeliver g s
  | .stnSpareCtrlWrite g v => Sys2Proof.Machine.execStnSpareCtrlWrite g v s
  | .spareTakeover g => Sys2Proof.Machine.execSpareTakeover g s
  | .programLoad g v => Sys2Proof.Machine.execProgramLoad g v s
  | .programUnload g v => Sys2Proof.Machine.execProgramUnload g v s
  | .pstoreWrite g off v => Sys2Proof.Machine.execPstoreWrite g off v s
  | .invocationStart g u => Sys2Proof.Machine.execInvocationStart g u s
  | .bundle g u => Sys2Proof.Machine.execBundle g u s
  | .invocationCommit g u => Sys2Proof.Machine.execInvocationCommit g u s
  | .paramWrite g p j v => Sys2Proof.Machine.execParamWrite g p j v s
  | .replayCountWrite g p v => Sys2Proof.Machine.execReplayCountWrite g p v s
  | .maintWrite g v => Sys2Proof.Machine.execMaintWrite g v s
  | .arithDebugWrite v => Sys2Proof.Machine.execArithDebugWrite v s
  | .accPeek v => Sys2Proof.Machine.execAccPeek v s
  | .accPeekComplete => Sys2Proof.Machine.execAccPeekComplete s
  | .reform m e => Sys2Proof.Machine.execReform m e s
  | .define c => Sys2Proof.Machine.execDefine c s
  | .undefine c => Sys2Proof.Machine.execUndefine c s
  | .bank c => Sys2Proof.Machine.execBank c s
  | .unbank c => Sys2Proof.Machine.execUnbank c s
  | .advance c => Sys2Proof.Machine.execAdvance c s
  | .setstep c => Sys2Proof.Machine.execSetstep c s
  | .contextBankAtBoundary c => Sys2Proof.Machine.execContextBankAtBoundary c s
  | .contextSwapInComplete c => Sys2Proof.Machine.execContextSwapInComplete c s
  | .roundTimeout c => Sys2Proof.Machine.execRoundTimeout c s
  | .hold g => Sys2Proof.Machine.execHold g s
  | .holdRelease g => Sys2Proof.Machine.execHoldRelease g s
  | .tallyValueWrite t v => Sys2Proof.Machine.execTallyValueWrite t v s
  | .tallyCfgWrite t v => Sys2Proof.Machine.execTallyCfgWrite t v s
  | .tallyReleaseWrite t v => Sys2Proof.Machine.execTallyReleaseWrite t v s
  | .layerTableWrite l w v => Sys2Proof.Machine.execLayerTableWrite l w v s
  | .placementWrite b l e v => Sys2Proof.Machine.execPlacementWrite b l e v s
  | .bookStatistics l => Sys2Proof.Machine.execBookStatistics l s
  | .bookGateDeliver l => Sys2Proof.Machine.execBookGateDeliver l s
  | .bookClaims l => Sys2Proof.Machine.execBookClaims l s
  | .ledgerVerdict l => Sys2Proof.Machine.execLedgerVerdict l s
  | .bookApply l => Sys2Proof.Machine.execBookApply l s
  | .bookCombine l => Sys2Proof.Machine.execBookCombine l s
  | .steerWrite g v => Sys2Proof.Machine.execSteerWrite g v s
  | .cordStageWrite off v => Sys2Proof.Machine.execCordStageWrite off v s
  | .cordVerify => Sys2Proof.Machine.execCordVerify s
  | .cordLoad => Sys2Proof.Machine.execCordLoad s
  | .cordApply => Sys2Proof.Machine.execCordApply s
  | .bind v => Sys2Proof.Machine.execBind v s
  | .unbind v => Sys2Proof.Machine.execUnbind v s
  | .floorWrite v => Sys2Proof.Machine.execFloorWrite v s
  | .hostLinkDown => Sys2Proof.Machine.execHostLinkDown s
  | .hostHelloTimer h => Sys2Proof.Machine.execHostHelloTimer h s
  | .hostHello h header rest => Sys2Proof.Machine.execHostHello h header rest s
  | .hostLinkAck h b => Sys2Proof.Machine.execHostLinkAck h b s
  | .hostLinkNak h b => Sys2Proof.Machine.execHostLinkNak h b s
  | .hostHopRetryTimeout h => Sys2Proof.Machine.execHostHopRetryTimeout h s
  | .hostPacketForward h p => Sys2Proof.Machine.execHostPacketForward h p s
  | .hostPacketMalformed h p => Sys2Proof.Machine.execHostPacketMalformed h p s
  | .enum p => Sys2Proof.Machine.execEnum p s
  | .rd p => Sys2Proof.Machine.execRd p s
  | .wr p => Sys2Proof.Machine.execWr p s
  | .cmd p => Sys2Proof.Machine.execCmd p s
  | .bulk p => Sys2Proof.Machine.execBulk p s
  | .invoke g => Sys2Proof.Machine.execInvoke g s
  | .poolAlloc g => Sys2Proof.Machine.execPoolAlloc g s
  | .poolShare g => Sys2Proof.Machine.execPoolShare g s
  | .poolHandoff g => Sys2Proof.Machine.execPoolHandoff g s
  | .poolDrop g => Sys2Proof.Machine.execPoolDrop g s
  | .poolFree g => Sys2Proof.Machine.execPoolFree g s
  | .operand g => Sys2Proof.Machine.execOperand g s
  | .nop g => Sys2Proof.Machine.execNop g s
  | .completionSend => Sys2Proof.Machine.execCompletionSend s
  | .hostWatchdogExpire => Sys2Proof.Machine.execHostWatchdogExpire s
  | .off => Sys2Proof.Machine.execOff s
  | .cold => Sys2Proof.Machine.execCold s
  | .powerBank => Sys2Proof.Machine.execPowerBank s
  | .bankedEntryComplete => Sys2Proof.Machine.execBankedEntryComplete s
  | .restart => Sys2Proof.Machine.execRestart s
  | .startStepComplete r => Sys2Proof.Machine.execStartStepComplete r s
  | .idle => Sys2Proof.Machine.execIdle s
  | .active => Sys2Proof.Machine.execActive s
  | .blaze => Sys2Proof.Machine.execBlaze s
  | .vsetWrite v => Sys2Proof.Machine.execVsetWrite v s
  | .vidFrameSend => Sys2Proof.Machine.execVidFrameSend s
  | .groupGateWrite v => Sys2Proof.Machine.execGroupGateWrite v s
  | .blazeBudgetTick => Sys2Proof.Machine.execBlazeBudgetTick s
  | .blazeLifePersist => Sys2Proof.Machine.execBlazeLifePersist s
  | .sensorSample samples => Sys2Proof.Machine.execSensorSample samples s
  | .smbusSelect w => Sys2Proof.Machine.execSmbusSelect w s
  | .smbusBlockRead => Sys2Proof.Machine.execSmbusBlockRead s
  | .logEngineMove => Sys2Proof.Machine.execLogEngineMove s
  | .logMarkSealComplete => Sys2Proof.Machine.execLogMarkSealComplete s
  | .logPersistWrite => Sys2Proof.Machine.execLogPersistWrite s
  | .logSelect v => Sys2Proof.Machine.execLogSelect v s
  | .updateBegin v => Sys2Proof.Machine.execUpdateBegin v s
  | .updateCommit => Sys2Proof.Machine.execUpdateCommit s
  | .updateProgramComplete readBackOk => Sys2Proof.Machine.execUpdateProgramComplete readBackOk s
  | .updateAbort => Sys2Proof.Machine.execUpdateAbort s
  | .svnCommit => Sys2Proof.Machine.execSvnCommit s
  | .revoke slot => Sys2Proof.Machine.execRevoke slot s
  | .getVersion => Sys2Proof.Machine.execGetVersion s
  | .getCapabilities => Sys2Proof.Machine.execGetCapabilities s
  | .negotiateAlgorithms => Sys2Proof.Machine.execNegotiateAlgorithms s
  | .getDigests => Sys2Proof.Machine.execGetDigests s
  | .getCertificate slot offset len => Sys2Proof.Machine.execGetCertificate slot offset len s
  | .challenge slot measSummary nonce => Sys2Proof.Machine.execChallenge slot measSummary nonce s
  | .getMeasurements index signed nonce => Sys2Proof.Machine.execGetMeasurements index signed nonce s
  | .twinEngage v => Sys2Proof.Machine.execTwinEngage v s
  | .twinDisengage v => Sys2Proof.Machine.execTwinDisengage v s
  | .heartbeatToggle => Sys2Proof.Machine.execHeartbeatToggle s
  | .heartbeatEdge => Sys2Proof.Machine.execHeartbeatEdge s
  | .heartbeatMiss => Sys2Proof.Machine.execHeartbeatMiss s
  | .twinHelloTimer => Sys2Proof.Machine.execTwinHelloTimer s
  | .twinHello sub m => Sys2Proof.Machine.execTwinHello sub m s
  | .twinAck sub mseq => Sys2Proof.Machine.execTwinAck sub mseq s
  | .twinAckTimer => Sys2Proof.Machine.execTwinAckTimer s
  | .ctx m => Sys2Proof.Machine.execCtx m s
  | .ctxGone m => Sys2Proof.Machine.execCtxGone m s
  | .mgrp m => Sys2Proof.Machine.execMgrp m s
  | .tally m => Sys2Proof.Machine.execTally m s
  | .route m => Sys2Proof.Machine.execRoute m s
  | .place m => Sys2Proof.Machine.execPlace m s
  | .layer m => Sys2Proof.Machine.execLayer m s
  | .epochs m => Sys2Proof.Machine.execEpochs m s
  | .fence m => Sys2Proof.Machine.execFence m s
  | .fetch m => Sys2Proof.Machine.execFetch m s
  | .copyBegin m => Sys2Proof.Machine.execCopyBegin m s
  | .copyEnd m => Sys2Proof.Machine.execCopyEnd m s
  | .takeover e => Sys2Proof.Machine.execTakeover e s
  | .giveback e => Sys2Proof.Machine.execGiveback e s
  | .givebackComplete => Sys2Proof.Machine.execGivebackComplete s
  | .resync e => Sys2Proof.Machine.execResync e s
  | .fencePartner e => Sys2Proof.Machine.execFencePartner e s
  | .unfence e => Sys2Proof.Machine.execUnfence e s
  | .setEpoch e => Sys2Proof.Machine.execSetEpoch e s
  | .raise serial => Sys2Proof.Machine.execRaise serial s
  | .damper l serial origin time => Sys2Proof.Machine.execDamper l serial origin time s
  | .release => Sys2Proof.Machine.execRelease s
  | .scanSize v => Sys2Proof.Machine.execScanSize v s
  | .scanStart v => Sys2Proof.Machine.execScanStart v s
  | .scanComplete => Sys2Proof.Machine.execScanComplete s
  | .traceDrain d => Sys2Proof.Machine.execTraceDrain d s
  | .traceRingWrite d v => Sys2Proof.Machine.execTraceRingWrite d v s
  | .counterClear v => Sys2Proof.Machine.execCounterClear v s
  | .snapshotTake => Sys2Proof.Machine.execSnapshotTake s
  | .snapshotPeriod => Sys2Proof.Machine.execSnapshotPeriod s
  | .sparkPop => Sys2Proof.Machine.execSparkPop s
  | .powerApplied => Sys2Proof.Machine.execPowerApplied s
  | .porstAssert => Sys2Proof.Machine.execPorstAssert s
  | .railEnableNext => Sys2Proof.Machine.execRailEnableNext s
  | .railPgTimeout => Sys2Proof.Machine.execRailPgTimeout s
  | .railDisableNext => Sys2Proof.Machine.execRailDisableNext s
  | .powerGoodLost rail => Sys2Proof.Machine.execPowerGoodLost rail s
  | .ethPcsLinkUp l => Sys2Proof.Machine.execEthPcsLinkUp l s
  | .pfcPauseExpire l pri => Sys2Proof.Machine.execPfcPauseExpire l pri s
  | .hostLinkTrained r => Sys2Proof.Machine.execHostLinkTrained r s
  | .hlDnDown => Sys2Proof.Machine.execHlDnDown s
  | .hostPacketCorrupt h header rest => Sys2Proof.Machine.execHostPacketCorrupt h header rest s
  | .chunkGet handle seq => Sys2Proof.Machine.execChunkGet handle seq s
  | .takeoverComplete => Sys2Proof.Machine.execTakeoverComplete s

end Sys2Proof.Machine
end

