-- ==== Sys2Proof/WellFormed.lean ====
section
/-! DEFINITION. Which commands name something the device has: instance numbers the operand types leave too wide, and
lists of a fixed length. A command that is not well formed is an event that cannot happen; its meaning refuses it. -/

namespace Sys2Proof

/-- A number of a unit that runs programs: R129's 0-11 (12 is the group sequencer, which runs none). -/
def UnitNo.runs (u : UnitNo) : Bool := decide (u.toNat < 12)

/-- A place the patrol scrub visits: one of six HBM4 stacks (R117), or a DDR5 channel (R115). -/
def ScrubSite.exists_ : ScrubSite → Bool
  | .hbm st _ => decide (st.toNat < 6)
  | .ddr _ => true

/-- The command names an instance the device has and carries lists of the lengths the spec gives. -/
def Instr.wellFormed : Instr → Bool
  | .registerWrite _ _ => true
  | .tempoMeasure groups flue => decide (groups.length = 16) && decide (flue.length = 4)
  | .pacerPermit _ => true
  | .tmpGovCtrlWrite _ => true
  | .governorApply => true
  | .ftcSetWrite _ => true
  | .syncExchangeStart => true
  | .timeReq _ _ => true
  | .timeRsp _ _ _ _ => true
  | .auxSyncEdge => true
  | .linkAdminUp _ => true
  | .linkAdminDown _ => true
  | .orderlyCloseComplete _ => true
  | .laneTrainingComplete _ _ => true
  | .alignmentLock _ => true
  | .linkStepTimeout _ => true
  | .linkRetryTimer _ => true
  | .versionTimer _ => true
  | .version _ _ => true
  | .laneSignalLost _ _ _ => true
  | .close _ _ => true
  | .linkBlockReceive _ bytes _ => decide (bytes.length = 256)
  | .linkBlockSend _ => true
  | .creditTimer _ => true
  | .credit _ _ _ _ _ _ => true
  | .ackTimer _ => true
  | .ack _ _ => true
  | .nak _ _ => true
  | .replayTimeout _ => true
  | .unknownControlSymbol _ _ => true
  | .ethFrameReceive _ _ _ => true
  | .frameHeaderAccept _ => true
  | .frameEndReceive _ _ => true
  | .outputBufferWrite _ => true
  | .reorderGapTimeout _ => true
  | .pinResendTimer _ => true
  | .reorderWindowExpire _ => true
  | .pinExpire _ _ _ => true
  | .intakeEnqueue _ => true
  | .memoryPortTake _ => true
  | .returnPortSend _ => true
  | .egressSelect _ => true
  | .swcPortFlushWrite _ _ => true
  | .queueSample => true
  | .patrolScrubSlot site => site.exists_
  | .sramScrubTick => true
  | .hbmSpareWrite _ => true
  | .spareCopyDone => true
  | .sequencerIntakeTake _ => true
  | .stationQueueDeliver _ u _ => u.runs
  | .steerPairDeliver _ => true
  | .stnSpareCtrlWrite _ _ => true
  | .spareTakeover _ => true
  | .programLoad _ _ => true
  | .programUnload _ _ => true
  | .pstoreWrite _ _ _ => true
  | .invocationStart _ u => u.runs
  | .bundle _ u => u.runs
  | .invocationCommit _ u => u.runs
  | .paramWrite _ _ _ _ => true
  | .replayCountWrite _ _ _ => true
  | .maintWrite _ _ => true
  | .arithDebugWrite _ => true
  | .accPeek _ => true
  | .accPeekComplete => true
  | .reform _ _ => true
  | .define _ => true
  | .undefine _ => true
  | .bank _ => true
  | .unbank _ => true
  | .advance _ => true
  | .setstep _ => true
  | .contextBankAtBoundary _ => true
  | .contextSwapInComplete _ => true
  | .roundTimeout _ => true
  | .hold _ => true
  | .holdRelease _ => true
  | .tallyValueWrite _ _ => true
  | .tallyCfgWrite _ _ => true
  | .tallyReleaseWrite _ _ => true
  | .layerTableWrite _ _ _ => true
  | .placementWrite _ _ _ _ => true
  | .bookStatistics _ => true
  | .bookGateDeliver _ => true
  | .bookClaims _ => true
  | .ledgerVerdict _ => true
  | .bookApply _ => true
  | .bookCombine _ => true
  | .steerWrite _ _ => true
  | .cordStageWrite _ _ => true
  | .cordVerify => true
  | .cordLoad => true
  | .cordApply => true
  | .bind _ => true
  | .unbind _ => true
  | .floorWrite _ => true
  | .hostLinkDown => true
  | .hostHelloTimer _ => true
  | .hostHello _ _ _ => true
  | .hostLinkAck _ _ => true
  | .hostLinkNak _ _ => true
  | .hostHopRetryTimeout _ => true
  | .hostPacketForward _ _ => true
  | .hostPacketMalformed _ _ => true
  | .enum _ => true
  | .rd _ => true
  | .wr _ => true
  | .cmd _ => true
  | .bulk _ => true
  | .invoke _ => true
  | .poolAlloc _ => true
  | .poolShare _ => true
  | .poolHandoff _ => true
  | .poolDrop _ => true
  | .poolFree _ => true
  | .operand _ => true
  | .nop _ => true
  | .completionSend => true
  | .hostWatchdogExpire => true
  | .off => true
  | .cold => true
  | .powerBank => true
  | .bankedEntryComplete => true
  | .restart => true
  | .startStepComplete _ => true
  | .idle => true
  | .active => true
  | .blaze => true
  | .vsetWrite _ => true
  | .vidFrameSend => true
  | .groupGateWrite _ => true
  | .blazeBudgetTick => true
  | .blazeLifePersist => true
  | .sensorSample samples => decide (samples.length = 64)
  | .smbusSelect _ => true
  | .smbusBlockRead => true
  | .logEngineMove => true
  | .logMarkSealComplete => true
  | .logPersistWrite => true
  | .logSelect _ => true
  | .updateBegin _ => true
  | .updateCommit => true
  | .updateProgramComplete _ => true
  | .updateAbort => true
  | .svnCommit => true
  | .revoke _ => true
  | .getVersion => true
  | .getCapabilities => true
  | .negotiateAlgorithms => true
  | .getDigests => true
  | .getCertificate _ _ _ => true
  | .challenge _ _ _ => true
  | .getMeasurements _ _ _ => true
  | .twinEngage _ => true
  | .twinDisengage _ => true
  | .heartbeatToggle => true
  | .heartbeatEdge => true
  | .heartbeatMiss => true
  | .twinHelloTimer => true
  | .twinHello _ _ => true
  | .twinAck _ _ => true
  | .twinAckTimer => true
  | .ctx _ => true
  | .ctxGone _ => true
  | .mgrp _ => true
  | .tally _ => true
  | .route _ => true
  | .place _ => true
  | .layer _ => true
  | .epochs _ => true
  | .fence _ => true
  | .fetch _ => true
  | .copyBegin _ => true
  | .copyEnd _ => true
  | .takeover _ => true
  | .giveback _ => true
  | .givebackComplete => true
  | .resync _ => true
  | .fencePartner _ => true
  | .unfence _ => true
  | .setEpoch _ => true
  | .raise _ => true
  | .damper _ _ _ _ => true
  | .release => true
  | .scanSize _ => true
  | .scanStart _ => true
  | .scanComplete => true
  | .traceDrain _ => true
  | .traceRingWrite _ _ => true
  | .counterClear _ => true
  | .snapshotTake => true
  | .snapshotPeriod => true
  | .sparkPop => true
  | .powerApplied => true
  | .porstAssert => true
  | .railEnableNext => true
  | .railPgTimeout => true
  | .railDisableNext => true
  | .powerGoodLost rail => decide (1 ≤ rail.toNat) && decide (rail.toNat ≤ 6)
  | .ethPcsLinkUp _ => true
  | .pfcPauseExpire _ _ => true
  | .hostLinkTrained _ => true
  | .hlDnDown => true
  | .hostPacketCorrupt _ _ _ => true
  | .chunkGet _ _ => true
  | .takeoverComplete => true

end Sys2Proof
end

