-- ==== Sys2Proof/Certificates/Slice0/Obligations.lean ====
section
/-! DEFINITION. The statements handed to the provers, each about the commands its text names. -/

open Sys2Proof Sys2Proof.Machine

/-! ### The machine as a whole -/

/-- A step carries out the command at the front of the queue on the state with the queue's rest. -/
def Obligations.StepRunsFrontCommand : Prop :=
  ∀ (c : Instr) (q : List Instr) (s : State), step { s with pending := c :: q } = exec c { s with pending := q }

/-- With nothing waiting and PORST_N high, a step is one tick. With no slew in progress the fabric time counter goes
on by one (R37); in a slew it goes on by one or repeats its value, so that it never decreases (R41). With every 1,000
ticks of the reference the running MSS timers count one microsecond (R332). That a step on an empty queue is a tick is
log entry 1; that the timers count at multiples of 1,000 ticks of the reference is log entry 33; which ticks of a slew
insert or repeat a value is log entry 17. -/
def Obligations.IdleStepCountsOneTick : Prop :=
  (∀ (s : State), s.pending = [] → s.pwr.porst = true → s.time.slewLeft = 0 →
    let s1 : State := { s with time := { s.time with ftc := s.time.ftc + 1, raw := s.time.raw + 1 } }
    step s = .next (if (s.time.raw + 1) % 1000 = 0 then
      { s1 with mss := { s.mss with
        timers := s.mss.timers.map (fun e => (e.1, if e.2.1 then (true, e.2.2 + 1) else e.2)) } }
      else s1)) ∧
  (∀ (s : State), s.pending = [] → s.pwr.porst = true → s.time.slewLeft ≠ 0 →
    ∃ t, step s = .next t ∧ t = { s with time := t.time, mss := { s.mss with timers := t.mss.timers } } ∧
      (if s.time.slewWait = 0 ∧ s.time.slewLeft < 0 then t.time.ftc = s.time.ftc else t.time.ftc = s.time.ftc + 1) ∧
      (if s.time.slewWait = 0 ∧ 0 < s.time.slewLeft then t.time.raw = s.time.raw else t.time.raw = s.time.raw + 1))

/-- No command touches the queue of waiting commands (log entry 1: the queue is the model's own). -/
def Obligations.ExecLeavesQueue : Prop :=
  ∀ (c : Instr) (s t : State), exec c s = .next t → t.pending = s.pending

/-- Every well-formed command goes on from every state, and every other one is refused by name (log entry 2: a command
that names no part of the device is no event of the device). -/
def Obligations.WellFormedCommandsGoOn : Prop :=
  ∀ (c : Instr) (s : State),
    if c.wellFormed then ∃ t, exec c s = .next t else exec c s = .refused .illFormedCommand

/-- Every step keeps the canonical form of the memory and of the register file (log entry 3). -/
def Obligations.StepKeepsCanonicalForm : Prop :=
  ∀ (s t : State), Memory.wf s.mem.cells ∧ Map.sorted s.regs = true → step s = .next t →
    Memory.wf t.mem.cells ∧ Map.sorted t.regs = true

/-- The state after reset: canonical, with nothing listed in memory or in the register file (log entry 3); in Off,
with only the ROM loader running, the Blaze budget unused, fabric time 0, no chain address and an empty queue (R317,
R305); PWR_VSET at 720 mV, PWR_RAILS at 0x0000_2C00_0000_0000, TMP_GOV_CTRL with TARGET 1,100 and off, and every group
in maintenance (Tables 15.7, 19.9, 2.2 and 7.8). -/
def Obligations.ResetLeavesItsState : Prop :=
  Memory.wf State.reset.mem.cells ∧ Map.sorted State.reset.regs = true ∧
  State.reset.pwr.state = .off ∧ State.reset.mss.romOnly = true ∧ State.reset.pwr.blazeU = 0 ∧
  State.reset.time.ftc = 0 ∧ State.reset.host.chainAddr = 0xFF#8 ∧ State.reset.pending = [] ∧
  regRead State.reset 0xE00000010 = 0x2D0#64 ∧ regRead State.reset 0xE00000040 = 0x00002C0000000000#64 ∧
  fld State.reset.time.govCtrl 47 32 = 1100 ∧ State.reset.time.govCtrl.getLsbD 0 = false ∧
  ∀ g, g < 16 → (getGroup State.reset g).maint = true

/-- Fuses are only burnt: whatever a step does, the device number, the grade, the fused key digests, the repair fuses
and the device secret stay, the SVN floor never falls and a revoked key slot stays revoked (R331, R342, and the fuse
block of Table 16.1). -/
def Obligations.StepOnlyBurnsFuses : Prop :=
  ∀ (s t : State), step s = .next t →
    t.mss.deviceId = s.mss.deviceId ∧ t.mss.grade = s.mss.grade ∧ t.mss.keyDigests = s.mss.keyDigests ∧
    t.mss.repairFuses = s.mss.repairFuses ∧ t.mss.secret = s.mss.secret ∧
    s.mss.svnFloor ≤ t.mss.svnFloor ∧ ∀ k, s.mss.revoked.getLsbD k = true → t.mss.revoked.getLsbD k = true

/-- A read after a write of memory, where no word met holds an error: the octets written read as written, every other
octet as before, and no word's check symbols change (R119, R121). -/
def Obligations.MemoryReadsWhatWasWritten : Prop :=
  ∀ (s : State) (reader unit : Nat) (tag : Option (BitVec 24)) (o : Nat) (l : List Byte), Memory.wf s.mem.cells →
    (∀ w ∈ wordsOf o l.length, Map.get? s.mem.chk w = none) →
    (∀ a, Memory.readByte (writeMem reader unit tag o l s).mem.cells a =
      if o ≤ a ∧ a < o + l.length then l.getD (a - o) 0 else Memory.readByte s.mem.cells a) ∧
    ∀ w, Map.get? (writeMem reader unit tag o l s).mem.chk w = Map.get? s.mem.chk w

/-! ### Tempo and fabric time (chapter 2) -/

/-- TMP_GOV_CTRL, written while the firmware runs: a TARGET of 400 to 1,800 is accepted and held, the last one
standing, and nothing else changes, but that a value already due at that tick takes effect before; any other value
completes with FIELD_INVALID. At a multiple of 1,000 ticks after its acceptance the value takes effect (R35), and at
no other tick: the governor is on as bit 0 says, and the count of permits starts again when ENABLE goes to 1 or TARGET
changes while it is 1. A measurement, with the core powered and once every 1,000 ticks
(at the multiples of 1,000: log entry 73), sets the sixteen group registers to the values measured and the seventeenth
to the slowest of the four flue sections, and nothing else (R30, Table 2.5). -/
def Obligations.TempoIsMeasuredAndGoverned : Prop :=
  ((∀ (v : W64) (s u : State), s.pwr.porst = true → s.mss.romOnly = false → 400 ≤ fld v 47 32 → fld v 47 32 ≤ 1800 →
    exec .governorApply s = .next u →
    exec (.tmpGovCtrlWrite v) s = .next { u with
      lastStatus := .ok
      time := { u.time with govPending := some (v &&& 0x0000FFFF00000001#64), govAt := u.time.ftc.toNat } }) ∧
  (∀ (s : State), s.time.govPending = none ∨ s.time.ftc.toNat % 1000 ≠ 0 ∨ s.time.ftc.toNat ≤ s.time.govAt →
    exec .governorApply s = .next s) ∧
  (∀ (v : W64) (s : State), s.pwr.porst = true → s.mss.romOnly = false → fld v 47 32 < 400 ∨ 1800 < fld v 47 32 →
    exec (.tmpGovCtrlWrite v) s = .next { s with lastStatus := .fieldInvalid }) ∧
  (∀ (v : W64) (s : State), s.time.govPending = some v → s.time.ftc.toNat % 1000 = 0 →
    s.time.govAt < s.time.ftc.toNat →
    let old := s.time.govCtrl
    let again := (!old.getLsbD 0 && v.getLsbD 0) || (old.getLsbD 0 && fld old 47 32 != fld v 47 32)
    ∃ t, exec .governorApply s = .next t ∧
      t = { s with
        time := { s.time with
          govCtrl := v, govPending := none, active := v.getLsbD 0, pacerK := if again then [] else s.time.pacerK }
        groups := t.groups } ∧
      (again = false → t.groups = s.groups) ∧
      (again = true → ∀ g, g < 16 → (getGroup t g).permits = 0 ∧ (getGroup t g).bufs = (getGroup s g).bufs ∧
        (getGroup t g).fifo = (getGroup s g).fifo ∧ (getGroup t g).progs = (getGroup s g).progs))) ∧
  (∀ (groups flue : List (BitVec 16)) (s : State), groups.length = 16 → flue.length = 4 → powered s = true →
    s.time.ftc.toNat % 1000 = 0 →
    ∃ t, exec (.tempoMeasure groups flue) s = .next t ∧
      t = { s with time := { s.time with measure := t.time.measure } } ∧
      (∀ n, n < 16 → Map.getD t.time.measure n 0 = groups.getD n 0) ∧
      (Map.getD t.time.measure 16 0) ∈ flue ∧ ∀ x ∈ flue, (Map.getD t.time.measure 16 0).toNat ≤ x.toNat)

/-- After k counted ticks a die's groups have received floor(TARGET × k / 1,000) permits (R34): the tick numbered k +
1, one the pacer has not counted yet, gives each of the die's four groups the difference; the other groups, the
registers and the memory stay. No group begins more paced steps than it has permits, and the tick in which the last
paced step of a run begins after its last bundle is the one at which its tiles are finished (R143, log entry 109).
That the dies are powered is log entry 114's condition. -/
def Obligations.PacerGivesPermits : Prop :=
  ∀ (d : Die) (s : State), s.time.active = true → s.dbg.dampered = false → powered s = true →
    Map.get? s.time.pacerAt d.toNat ≠ some s.time.raw →
    let k := Map.getD s.time.pacerK d.toNat 0
    let target := fld s.time.govCtrl 47 32
    ∃ t, exec (.pacerPermit d) s = .next t ∧
      Map.getD t.time.pacerK d.toNat 0 = k + 1 ∧ t.time.ftc = s.time.ftc ∧
      t.regs = s.regs ∧ t.mem = s.mem ∧ t.ports = s.ports ∧ t.sw = s.sw ∧ t.ctx = s.ctx ∧ t.moe = s.moe ∧
      t.cord = s.cord ∧ t.host = s.host ∧ t.pwr = s.pwr ∧ t.twn = s.twn ∧
      (∀ g, g < 16 → g / 4 = d.toNat →
        (getGroup t g).permits = (getGroup s g).permits + (target * (k + 1) / 1000 - target * k / 1000) ∧
        ((getGroup s g).stepLimit ≤ (getGroup s g).permits → (getGroup t g).stepLimit ≤ (getGroup t g).permits) ∧
        (getGroup t g).stepsBegun = (getGroup s g).stepLimit ∧
        (getGroup t g).bufs = (getGroup s g).bufs ∧ (getGroup t g).fifo = (getGroup s g).fifo ∧
        (∀ (n : Nat) (u : UnitSt), Map.get? (getGroup s g).units n = some u →
          ∃ u', Map.get? (getGroup t g).units n = some u' ∧ u' = { u with run := u'.run } ∧
            (∀ (r : Run), u.run = some r → u'.run = some { r with
              doneAt :=
                if r.ended = true ∧ r.doneAt = none ∧ u.lastStep ≤ (getGroup t g).stepLimit then some s.time.ftc.toNat
                else r.doneAt }))) ∧
      (∀ g, g / 4 ≠ d.toNat → getGroup t g = getGroup s g)

/-- FTC_SET (R40), written while the firmware runs. -/
def Obligations.FtcSetNeverGoesBack : Prop :=
  ∀ (v : W64) (s : State), s.pwr.porst = true → s.mss.romOnly = false → exec (.ftcSetWrite v) s = .next
    (if s.time.ftc.toNat ≤ v.toNat then { s with lastStatus := .ok, time := { s.time with ftc := v } }
     else { s with lastStatus := .ok, time := { s.time with setRefused := true } })

/-- The sync exchange (R41, R42, R65), begun every 1,000,000 ticks (at the multiples: log entry 73). With an upstream
link named, a new exchange takes the next number, and its request is queued on a link that is up; a third one in a row
without a reply, found so at the start of the next exchange (log entry 18), sets UPSTREAM_LOST. A request received on
a link that is up, with SERVE = 1, is answered with its own number and the present tick. The reply to the exchange
under way gives the offset ((t2 - t1) - (t4 - t3)) / 2, and the exchange is over. An offset of more than 1,000 ticks
steps the counter and leaves a slew in progress as it was; any other one starts a slew of at most 100 ticks either
way, in place of a slew in progress (both log entry 17), whose corrections all fall within the 1,000,000 ticks that
follow. A rising edge on AUX_SYNC (R391, R43): bound to the damper, it raises a damper of source 2 with the serial of
DBG_DAMPER_CFG and counts that serial up; bound as 1PPS with SOURCE = 0b10 (the binding before this tick, where one
changed in it), its offset is the distance from the counter to the nearest multiple of 1,000,000,000 ticks. (At the
exact half the two distances are equal; the sign is a free value, log entry 5.) -/
def Obligations.TimeIsDisciplined : Prop :=
  ((∀ (s : State) (n : Nat), upstream s = some n → s.time.ftc.toNat % 1000000 = 0 → s.time.awaiting = false →
    (getPort s n).state = .up → s.time.missed < 3 →
    exec .syncExchangeStart s = .next (modPort { s with time := { s.time with
      xid := s.time.xid + 1, awaiting := true, t1 := none } } n
        (fun p => { p with ctrlQ := p.ctrlQ ++ [CtrlSym.timeReq (s.time.xid + 1)] }))) ∧
  (∀ (s : State) (n : Nat), upstream s = some n → s.time.ftc.toNat % 1000000 = 0 → s.time.awaiting = true →
    s.time.missed = 2 →
    ∃ t, exec .syncExchangeStart s = .next t ∧ t.time.upstreamLost = true ∧ t.time.slewLeft = s.time.lastSlew ∧
      t.time.xid = s.time.xid + 1 ∧ t.time.ftc = s.time.ftc ∧ t.mem = s.mem ∧ t.regs = s.regs ∧ t.groups = s.groups) ∧
  (∀ (s : State) (l : LinkId) (xid : BitVec 16), (reg s Reg.discCtrl).getLsbD 0 = true → (getLink s l).state = .up →
    exec (.timeReq l xid) s = .next (modLink s l
      (fun p => { p with ctrlQ := p.ctrlQ ++ [CtrlSym.timeRsp xid s.time.ftc 0] }))) ∧
  (∀ (s : State) (l : LinkId) (t1 t2 : W64) (dt : BitVec 32), s.time.t1 = some t1 → upstream s = some (linkKey l) →
    s.time.awaiting = true →
    let o : Int := (((t2.toNat : Int) - t1.toNat) - ((s.time.ftc.toNat : Int) - (t2.toNat + dt.toNat))) / 2
    exec (.timeRsp l s.time.xid t2 dt) s =
      .next (applyOffset o { s with time := { s.time with awaiting := false, t1 := none, missed := 0 } })) ∧
  (∀ (o : Int) (s : State), 1000 < o →
    (applyOffset o s).time.ftc = s.time.ftc + BitVec.ofInt 64 o ∧ (applyOffset o s).time.stepped = true ∧
    (applyOffset o s).time.slewLeft = s.time.slewLeft) ∧
  (∀ (o : Int) (s : State), o ≤ 1000 →
    let t := (applyOffset o s).time
    t.ftc = s.time.ftc ∧ t.slewLeft = max (-100) (min 100 o) ∧ t.lastSlew = max (-100) (min 100 o) ∧
    (o ≠ 0 → t.slewWait + 1 + (t.slewLeft.natAbs - 1) * (t.slewEvery + 1) ≤ 1000000))) ∧
  ((∀ (s : State), s.pwr.porst = true → auxBinding s = 1 →
    fld (reg s Reg.discCtrl) 3 2 = 2 → s.time.ftc.toNat % 1000000000 < 500000000 →
    exec .auxSyncEdge s = .next (applyOffset (-((s.time.ftc.toNat % 1000000000 : Nat) : Int)) s)) ∧
  (∀ (s : State), s.pwr.porst = true → auxBinding s = 1 →
    fld (reg s Reg.discCtrl) 3 2 = 2 → 500000000 < s.time.ftc.toNat % 1000000000 →
    exec .auxSyncEdge s = .next (applyOffset (1000000000 - ((s.time.ftc.toNat % 1000000000 : Nat) : Int)) s)) ∧
  (∀ (s : State), s.pwr.porst = true → auxBinding s = 2 → s.dbg.dampered = false →
    s.dbg.serials.contains (BitVec.ofNat 32 (fld (reg s Reg.damperCfg) 31 0)) = false →
    ∃ t, exec .auxSyncEdge s = .next t ∧ t.dbg.dampered = true ∧ t.dbg.source = 2 ∧ t.dbg.td = s.time.ftc ∧
      t.dbg.serial = BitVec.ofNat 32 (fld (reg s Reg.damperCfg) 31 0) ∧ t.mem = s.mem ∧ t.time = s.time ∧
      (Map.sorted s.regs = true →
        fld (reg t Reg.damperCfg) 31 0 = (fld (reg s Reg.damperCfg) 31 0 + 1) % 2 ^ 32)) ∧
  (∀ (s : State), s.pwr.porst = true → auxBinding s = 0 → exec .auxSyncEdge s = .next s) ∧
  (∀ (s : State) (n c : Nat), s.cord.auxBefore = some (n, c) →
    auxBinding s = if n = s.time.raw then c else auxBinding { s with cord := { s.cord with auxBefore := none } }) ∧
  (∀ (s : State), s.cord.auxBefore = none →
    auxBinding s = if (Map.get? s.cord.claims 2).isSome then 2 else if (Map.get? s.cord.claims 1).isSome then 1 else 0))
/-! ### Ports and links (chapter 3) -/

/-- ADMIN (R52, R54, Table 3.6), written while the firmware runs. On the first lane of a port that is down, with the
SerDes in service and the device not fenced, writing ADMIN = 1 starts bring-up at its first step with fresh link
counters. Writing ADMIN = 0 stops bring-up at once with cause 0x01, and starts the orderly close of a port that is up.
Only that port and its register change. The moments of bring-up (Table 3.2, R52, R67). Training ends with every lane's
loss recorded, and with the lanes R322 names calibrated in full; lock on every lane leads to negotiating; the time
limit of a step takes the link down with that step's cause, and it waits 100 ms; after them it begins again at step 1;
and while the exchange is not complete, VERSION is sent with SEEN as it stands, in near-end loopback to the port
itself. -/
def Obligations.LinksAreBroughtUp : Prop :=
  (∀ (l : Lane) (s : State), s.pwr.porst = true → s.mss.romOnly = false → s.twn.fenced = false →
    isFirst s l.toNat = true → Map.sorted s.regs = true →
    let a := Reg.lnkCfg l.toNat
    fld (reg s a) 3 2 < 2 →
    (serdesOn s = true → (getPort s l.toNat).state = .down → (reg s a).getLsbD 0 = false →
      ∃ t, exec (.linkAdminUp l) s = .next t ∧
        t = { s with regs := t.regs, ports := t.ports, lastStatus := .ok } ∧
        reg t a = (reg s a ||| 1#64) &&& 0xF#64 ∧ (∀ b, b ≠ a → reg t b = reg s b) ∧
        (getPort t l.toNat).state = .training ∧ (getPort t l.toNat).txSeq = 0 ∧ (getPort t l.toNat).expected = 0 ∧
        (getPort t l.toNat).replay = [] ∧ (getPort t l.toNat).grant = [] ∧ (getPort t l.toNat).sent = [] ∧
        ∀ k, k ≠ l.toNat → getPort t k = getPort s k) ∧
    ((reg s a).getLsbD 0 = true → (getPort s l.toNat).state ≠ .down → (getPort s l.toNat).state ≠ .closing →
      ∃ t, exec (.linkAdminDown l) s = .next t ∧
        t = { s with regs := t.regs, ports := t.ports, lastStatus := .ok } ∧
        reg t a = reg s a &&& 0xE#64 ∧ (∀ b, b ≠ a → reg t b = reg s b) ∧
        (if (getPort s l.toNat).state = .up then
            getPort t l.toNat = { getPort s l.toNat with state := .closing }
          else (getPort t l.toNat).state = .down ∧ (getPort t l.toNat).cause = 0x01#8) ∧
        ∀ k, k ≠ l.toNat → getPort t k = getPort s k)) ∧
  ((∀ (l : LinkId) (r : LaneTraining) (s : State), trains s l = true →
    exec (.laneTrainingComplete l r) s = .next (modLink s l (fun p => { freshLink p with
      state := .aligning, retryWait := false, trained := (List.range (linkLanes s l)).map (fun i => r.loss.getD i 0),
      fullCal := calLanes p (linkLanes s l) r.test }))) ∧
  (∀ (l : LinkId) (s : State), (getLink s l).state = .aligning →
    exec (.alignmentLock l) s = .next (modLink s l (fun p => { p with
      state := .negotiating, lanesUp := BitVec.ofNat 8 (2 ^ linkLanes s l - 1) }))) ∧
  (∀ (l : LinkId) (s : State) (cause : Byte),
    ((getLink s l).state = .training ∧ cause = 0x02#8) ∨ ((getLink s l).state = .aligning ∧ cause = 0x03#8) ∨
      ((getLink s l).state = .negotiating ∧ (getLink s l).versionRx = none ∧ fabricLink s l = true ∧ cause = 0x05#8) →
    exec (.linkStepTimeout l) s = .next (modLink s l (fun p => { freshLink p with
      state := .down, rev := 0, cause := cause, retryWait := true }))) ∧
  (∀ (l : LinkId) (s : State),
    (match l with
      | .port n => adminUp s n.toNat = true
      | .sub _ => serdesOn s = true) → (getLink s l).retryWait = true → (getLink s l).state = .down →
    exec (.linkRetryTimer l) s = .next (modLink s l (fun p => { freshLink p with
      state := .training, lanesUp := 0, rev := 0, retryWait := false }))) ∧
  (∀ (l : LinkId) (s : State), (getLink s l).state = .negotiating → fabricLink s l = true →
    ((getLink s l).versionRx = none ∨ (getLink s l).seenSent = false) →
    exec (.versionTimer l) s = .next
      (if looped s l = true then
        modLink s l (fun p => { p with
          ctrlQ := p.ctrlQ ++ [.version (ownVersion s l)], seenSent := p.seenSent || (getLink s l).versionRx.isSome })
      else
        modLink { s with wire := .control l [.version (ownVersion s l)] :: s.wire } l
          (fun p => { p with seenSent := p.seenSent || (getLink s l).versionRx.isSome }))))

/-- VERSION received in negotiating by a fabric-mode port or a twin sublink, not in near-end loopback (R67, R75).
Where no VERSION with SEEN = 1 has been sent yet, one is sent (at once: log entry 79). Then: with a common revision
and the device's own width the port comes up, in the higher common revision and with the peer's chip number, each of
its 16 channels is granted 64 blocks (log entry 9), and the four CREDIT symbols of all channels are queued; with no
common revision it goes down with cause 0x06; with another width with cause 0x08. A sublink comes up whatever
revisions are offered, and goes down with cause 0x08 where the width is not that of a 400G link. The other ports, the
memory, the registers and the hearth groups stay. On an Ethernet-mode port in negotiating the PCS link-up brings the
port up; under a damper it then holds PFC pause on every priority (Table 3.2, R373), else on the priority of each of
its tiles that waits before the flue for a full intake, and on none where no frame waits (R22, R73). -/
def Obligations.NegotiationSettles : Prop :=
  (∀ (n : Lane) (b : VersionSym) (s : State), (getPort s n.toNat).state = .negotiating → fabricLink s (.port n) = true →
    looped s (.port n) = false → b.offers &&& 3#8 ≠ 0 → b.width = widthCode s (.port n) →
    ∃ t, exec (.version (.port n) b) s = .next t ∧ (getPort t n.toNat).state = .up ∧
      (getPort t n.toNat).peerChip = b.chip ∧ (getPort t n.toNat).rev = (if b.offers.getLsbD 1 then 2 else 1) ∧
      (getPort t n.toNat).ctrlQ = (getPort s n.toNat).ctrlQ ++ creditSyms (getPort t n.toNat) ∧
      (∀ c, c < 16 → Map.getD (getPort t n.toNat).granted c 0 = 64) ∧
      t.wire = (if (getPort s n.toNat).seenSent then s.wire
        else .control (.port n) [.version { ownVersion s (.port n) with seen := true }] :: s.wire) ∧
      t.mem = s.mem ∧ t.regs = s.regs ∧ t.groups = s.groups ∧ t.sw = s.sw ∧ t.ctx = s.ctx ∧
      ∀ k, k ≠ n.toNat → getPort t k = getPort s k) ∧
  (∀ (n : Lane) (b : VersionSym) (s : State), (getPort s n.toNat).state = .negotiating → fabricLink s (.port n) = true →
    looped s (.port n) = false → b.offers &&& 3#8 = 0 ∨ b.width ≠ widthCode s (.port n) →
    ∃ t, exec (.version (.port n) b) s = .next t ∧ (getPort t n.toNat).state = .down ∧
      (getPort t n.toNat).cause = (if b.offers &&& 3#8 = 0 then 0x06#8 else 0x08#8) ∧
      (getPort t n.toNat).retryWait = true ∧
      t.wire = (if (getPort s n.toNat).seenSent then s.wire
        else .control (.port n) [.version { ownVersion s (.port n) with seen := true }] :: s.wire) ∧
      t.mem = s.mem ∧ t.regs = s.regs ∧ t.groups = s.groups ∧ t.sw = s.sw ∧ t.ctx = s.ctx ∧
      ∀ k, k ≠ n.toNat → getPort t k = getPort s k) ∧
  (∀ (n : BitVec 3) (b : VersionSym) (s : State), (getLink s (.sub n)).state = .negotiating →
    ∃ t, exec (.version (.sub n) b) s = .next t ∧
      (if b.width = 1 then (getLink t (.sub n)).state = .up ∧ (getLink t (.sub n)).peerChip = b.chip ∧
          (getLink t (.sub n)).ctrlQ = (getLink s (.sub n)).ctrlQ ++ creditSyms (getLink t (.sub n))
        else (getLink t (.sub n)).state = .down ∧ (getLink t (.sub n)).cause = 0x08#8) ∧
      t.wire = (if (getLink s (.sub n)).seenSent then s.wire
        else .control (.sub n) [.version { ownVersion s (.sub n) with seen := true }] :: s.wire) ∧
      t.mem = s.mem ∧ t.regs = s.regs ∧ t.groups = s.groups ∧ t.sw = s.sw ∧ t.ctx = s.ctx ∧
      ∀ k, k ≠ linkKey (.sub n) → getPort t k = getPort s k) ∧
  (∀ (n : Lane) (s : State), isFirst s n.toNat = true → ethMode s n.toNat = true →
    (getPort s n.toNat).state = .negotiating →
    ∃ t, exec (.ethPcsLinkUp n) s = .next t ∧ (getPort t n.toNat).state = .up ∧ (getPort t n.toNat).rev = 0 ∧
      (s.dbg.dampered = true → (getPort t n.toNat).pfcTx = 0xFF#8) ∧
      (s.dbg.dampered = false → s.sw.flueIn = [] → s.sw.staging = [] → (getPort t n.toNat).pfcTx = 0) ∧
      (s.dbg.dampered = false → ∀ (key uid : Nat) (q : List Nat) (f : Frame), (key, q) ∈ s.sw.flueIn → uid ∈ q →
        getFrame s uid = some f → f.ingress = .eth n → entryHeld s f = true →
        (getPort t n.toNat).pfcTx.getLsbD (frameHdr f).tc.toNat = true) ∧
      t.mem = s.mem ∧ t.regs = s.regs ∧ t.groups = s.groups ∧ t.sw = s.sw ∧
      ∀ k, k ≠ n.toNat → getPort t k = getPort s k)

/-- A link that is up or closing goes down (R47, R53): a lane's signal or alignment lost takes it down with cause 0x02
or 0x03 and clears the lane's bit; CLOSE with cause 0x01 with that cause, any other CLOSE with 0x07. It is recorded in
DOWNED, and the memory, the registers, the hearth groups and the contexts stay. A lane lost in aligning or negotiating
ends the bring-up with that cause too (R52); in training or down only its bit falls. The orderly close ends (R54): a
closing fabric link with no frame in transmission, not in near-end loopback, sends CLOSE with cause 0x01, is down with
that cause, and a port is not brought up again while ADMIN = 0. That a link that fell waits 100 ms before it begins
again is log entry 78. -/
def Obligations.LinksGoDown : Prop :=
  ((∀ (l : LinkId) (lane : BitVec 3) (alignment : Bool) (s : State), lane.toNat < linkLanes s l →
    ((getLink s l).state = .up ∨ (getLink s l).state = .closing) →
    ∃ t, exec (.laneSignalLost l lane alignment) s = .next t ∧ (getLink t l).state = .down ∧
      (getLink t l).cause = (if alignment then 0x03#8 else 0x02#8) ∧ (getLink t l).downed = true ∧
      (getLink t l).lanesUp.getLsbD lane.toNat = false ∧ (getLink t l).retryWait = true ∧
      t.mem = s.mem ∧ t.regs = s.regs ∧ t.groups = s.groups ∧ t.ctx = s.ctx ∧ t.moe = s.moe) ∧
  (∀ (l : LinkId) (lane : BitVec 3) (alignment : Bool) (s : State), lane.toNat < linkLanes s l →
    ((getLink s l).state = .aligning ∨ (getLink s l).state = .negotiating) →
    exec (.laneSignalLost l lane alignment) s = .next (modLink s l (fun p => { freshLink p with
      state := .down, rev := 0, cause := (if alignment then 0x03#8 else 0x02#8), retryWait := true,
      lanesUp := p.lanesUp &&& ~~~ (BitVec.ofNat 8 (2 ^ lane.toNat)) }))) ∧
  (∀ (l : LinkId) (lane : BitVec 3) (alignment : Bool) (s : State), lane.toNat < linkLanes s l →
    ((getLink s l).state = .training ∨ (getLink s l).state = .down) →
    exec (.laneSignalLost l lane alignment) s = .next (modLink s l (fun p => { p with
      lanesUp := p.lanesUp &&& ~~~ (BitVec.ofNat 8 (2 ^ lane.toNat)) }))) ∧
  (∀ (l : LinkId) (cause : Byte) (s : State), ((getLink s l).state = .up ∨ (getLink s l).state = .closing) →
    ∃ t, exec (.close l cause) s = .next t ∧ (getLink t l).state = .down ∧
      (getLink t l).cause = (if cause = 1 then 0x01#8 else 0x07#8) ∧ (getLink t l).downed = true ∧
      t.mem = s.mem ∧ t.regs = s.regs ∧ t.groups = s.groups ∧ t.ctx = s.ctx ∧ t.moe = s.moe)) ∧
  (∀ (l : LinkId) (s : State), (getLink s l).state = .closing → (getLink s l).cur = [] → looped s l = false →
    (match l with
      | .port n => ethMode s n.toNat = false ∧ (reg s (Reg.lnkCfg n.toNat)).getLsbD 0 = false
      | .sub _ => True) →
    ∃ t, exec (.orderlyCloseComplete l) s = .next t ∧ (getLink t l).state = .down ∧
      (getLink t l).cause = 0x01#8 ∧ (getLink t l).retryWait = (match l with
        | .port _ => false
        | .sub _ => true) ∧
      t.wire = .control l [.close 0x01#8] :: s.wire ∧
      t.mem = s.mem ∧ t.regs = s.regs ∧ t.groups = s.groups ∧ t.ctx = s.ctx)

/-- Credits (R57, R58). A CREDIT raises the four grants it carries, and one that would lower a grant leaves it; the
other grants stay. At least every 1 µs CREDIT for every channel is queued, as the grants then stand. -/
def Obligations.CreditsAreCumulative : Prop :=
  (∀ (l : LinkId) (q : BitVec 2) (g0 g1 g2 g3 : BitVec 24) (s : State), carrying (getLink s l) = true →
    ∃ t, exec (.credit l q g0 g1 g2 g3) s = .next t ∧
      t = modLink s l (fun p => { p with grant := (getLink t l).grant }) ∧
      (∀ i, i < 4 →
        let old := Map.getD (getLink s l).grant (4 * q.toNat + i) 0
        let g := [g0, g1, g2, g3].getD i 0
        Map.getD (getLink t l).grant (4 * q.toNat + i) 0 = if (g - old).toNat < 2 ^ 23 then g else old) ∧
      ∀ c, c / 4 ≠ q.toNat → Map.getD (getLink t l).grant c 0 = Map.getD (getLink s l).grant c 0) ∧
  (∀ (l : LinkId) (s : State), carrying (getLink s l) = true → fabricLink s l = true →
    ∃ t, exec (.creditTimer l) s = .next t ∧ t = { s with ports := t.ports } ∧
      (getLink t l).ctrlQ = (getLink s l).ctrlQ ++ creditSyms (getLink t l) ∧
      (getLink t l).grantSent = (getLink t l).granted ∧ (getLink t l).accepted = (getLink s l).accepted ∧
      ∀ k, k ≠ linkKey l → getPort t k = getPort s k)

/-- Acknowledgement and retry (R60-R62). The acknowledgement timer queues ACK of the last block accepted; ACK(n)
releases every block up to n; NAK(n) resends from n; 4 µs without an acknowledgement resend all; and where the oldest
block has been resent 16 times without one, the link goes down with cause 0x04. A symbol of a reserved type is
ignored, and counted on a port while the counters of block 3 are enabled (R64, R379); the types of Table 3.4 are not
of that kind. -/
def Obligations.AcknowledgeAndRetry : Prop :=
  ((∀ (l : LinkId) (s : State), carrying (getLink s l) = true → 0 < (getLink s l).sinceAck →
    exec (.ackTimer l) s = .next (modLink s l (fun p => { p with
      ctrlQ := p.ctrlQ ++ [.ack (p.expected - 1)], sinceAck := 0 }))) ∧
  (∀ (l : LinkId) (seq : BitVec 12) (s : State) (rest done : List TxBlock) (b : TxBlock),
    carrying (getLink s l) = true → (getLink s l).replay = done ++ b :: rest → b.seq = seq → (∀ x ∈ done, x.seq ≠ seq) →
    exec (.ack l seq) s = .next (modLink s l (fun p => { p with
      replay := rest, resend := p.resend.filter (fun x => rest.contains x), resends := 0 }))) ∧
  (∀ (l : LinkId) (seq : BitVec 12) (s : State) (rest done : List TxBlock) (b : TxBlock),
    carrying (getLink s l) = true → (getLink s l).replay = done ++ b :: rest → b.seq = seq →
    (∀ x ∈ done, x.seq ≠ seq) → (done = [] → (getLink s l).resends < 16) →
    exec (.nak l seq) s = .next (modLink s l (fun p => { p with
      resend := b :: rest, resends := p.resends + (if done = [] then 1 else 0) }))) ∧
  (∀ (l : LinkId) (s : State), carrying (getLink s l) = true → (getLink s l).replay ≠ [] → (getLink s l).resends < 16 →
    exec (.replayTimeout l) s = .next (modLink s l (fun p => { p with
      resend := p.replay, resends := p.resends + 1 }))) ∧
  (∀ (l : LinkId) (s : State), carrying (getLink s l) = true → (getLink s l).replay ≠ [] →
    16 ≤ (getLink s l).resends →
    ∃ t, exec (.replayTimeout l) s = .next t ∧ (getLink t l).state = .down ∧
      (getLink t l).cause = 0x04#8 ∧ t.mem = s.mem ∧ t.regs = s.regs)) ∧
  (∀ (n : Lane) (ty : Byte) (s : State), 9 ≤ ty.toNat → (reg s Reg.dbgEnable).getLsbD 3 = true →
    Map.getD s.dbg.counters (ctrKey 3 18 n.toNat) 0 < 2 ^ 48 - 2 →
    ∃ t, exec (.unknownControlSymbol (.port n) ty) s = .next t ∧ t = { s with dbg := t.dbg } ∧
      Map.getD t.dbg.counters (ctrKey 3 18 n.toNat) 0 = Map.getD s.dbg.counters (ctrKey 3 18 n.toNat) 0 + 1 ∧
      ∀ k, k ≠ ctrKey 3 18 n.toNat → Map.getD t.dbg.counters k 0 = Map.getD s.dbg.counters k 0) ∧
  (∀ (n : BitVec 3) (ty : Byte) (s : State), exec (.unknownControlSymbol (.sub n) ty) s = .next s)

/-- A link block of 256 octets received on a fabric-mode port or twin sublink that carries blocks, not in near-end
loopback (R55, R56, R59-R61): an acknowledgement a good block carries is acted on first; then, by what it is, a first
or whole block in sequence on a channel of a port with no frame under way starts a frame, whose header waits for
acceptance, and a further block continues the frame of its channel; either way the next number is expected and one
credit is used; a control block's symbols are acted on in order, an idle block has no further effect; a data block
already accepted is acknowledged again, and one that leaves a gap is answered with NAK of the number expected; a block
that fails its CRC or its FEC decode is answered so too, but for a control block with a good FEC decode, which is
discarded (log entry 81); while a NAK is pending none is sent again; a block that breaks Table 3.3 takes a link that
is up down with cause 0x09. The block in which a frame's header is complete stamps it with the tick (R39). A block on a
channel whose frame has come whole ends that frame before it starts its own. A whole message that comes on a sublink in
one block waits for the command that takes it, and one of which the type, the LENGTH or the body does not fit is
counted (R354, R366). -/
def Obligations.LinkBlockIsReceived : Prop :=
  (∀ (l : LinkId) (bytes : List Byte) (fecBad : Bool) (s : State), bytes.length = 256 → fabricLink s l = true →
    carrying (getLink s l) = true → looped s l = false →
    let b := parseBlk bytes
    (fecBad = false → b.crcOk = true → b.legal = true → ∃ s1,
      (if b.ackValid = true then exec (.ack l b.ackSeq) s = .next s1 else s1 = s) ∧
      (b.kind = 8 →
        exec (.linkBlockReceive l bytes fecBad) s = .next ((symbolsOf b).foldl (fun s c => symbolRx l c s) s1)) ∧
      (b.kind = 0 → exec (.linkBlockReceive l bytes fecBad) s = .next s1) ∧
      (1 ≤ b.kind → b.kind ≤ 4 → b.seq ≠ (getLink s l).expected →
        exec (.linkBlockReceive l bytes fecBad) s = .next
          (if ((getLink s l).expected - b.seq).toNat ≤ 2048 then
            modLink s1 l (fun p => { p with ctrlQ := p.ctrlQ ++ [.ack (p.expected - 1)] })
          else if (getLink s l).nakPending = true then s1
          else modLink s1 l (fun p => { p with ctrlQ := p.ctrlQ ++ [.nak p.expected], nakPending := true })))) ∧
    (fecBad = true ∨ b.crcOk = false →
      exec (.linkBlockReceive l bytes fecBad) s = .next
        (if (b.kind = 8 ∧ fecBad = false) ∨ (getLink s l).nakPending = true then s
        else modLink s l (fun p => { p with ctrlQ := p.ctrlQ ++ [.nak p.expected], nakPending := true }))) ∧
    (fecBad = false → b.crcOk = true → b.legal = false →
      ∃ t, exec (.linkBlockReceive l bytes fecBad) s = .next t ∧ (getLink t l).state = .down ∧
        (getLink t l).cause = 0x09#8)) ∧
  (∀ (n : Lane) (bytes : List Byte) (s : State), bytes.length = 256 → fabricLink s (.port n) = true →
    carrying (getPort s n.toNat) = true → looped s (.port n) = false →
    let b := parseBlk bytes
    b.crcOk = true → b.legal = true → b.seq = (getPort s n.toNat).expected →
    ((b.kind = 1 ∨ b.kind = 4) → Map.get? (getPort s n.toNat).rxCur b.ch = none →
      ∃ t, exec (.linkBlockReceive (.port n) bytes false) s = .next t ∧
        (getPort t n.toNat).expected = (getPort s n.toNat).expected + 1 ∧
        Map.getD (getPort t n.toNat).accepted b.ch 0 = Map.getD (getPort s n.toNat).accepted b.ch 0 + 1 ∧
        (∃ f, getFrame t s.sw.nextUid = some f ∧ f.raw = b.payload.take b.len ∧ f.whole = (b.kind == 4) ∧
          f.ended = false ∧ f.hdr = none ∧ f.ingress = .port n (BitVec.ofNat 4 b.ch) ∧
          f.early = if frameHdrLen f ≤ f.raw.length then some s.time.ftc.toNat else none) ∧
        (getPort t n.toNat).hdrWait = (getPort s n.toNat).hdrWait ++ [(b.ch, s.sw.nextUid)] ∧
        t.mem = s.mem ∧ t.regs = s.regs ∧ t.groups = s.groups ∧ ∀ k, k ≠ n.toNat → getPort t k = getPort s k) ∧
    (∀ (uid : Nat) (f : Frame), (b.kind = 2 ∨ b.kind = 3) → Map.get? (getPort s n.toNat).rxCur b.ch = some uid →
      getFrame s uid = some f → f.whole = false → f.raw.length + b.len ≤ 66560 →
      ∃ t, exec (.linkBlockReceive (.port n) bytes false) s = .next t ∧
        (getPort t n.toNat).expected = (getPort s n.toNat).expected + 1 ∧
        Map.getD (getPort t n.toNat).accepted b.ch 0 = Map.getD (getPort s n.toNat).accepted b.ch 0 + 1 ∧
        (∃ f', getFrame t uid = some f' ∧
          f' = { f with raw := f.raw ++ b.payload.take b.len, whole := b.kind == 3, early := f'.early } ∧
          f'.early = (if f.early = none ∧ frameHdrLen f' ≤ f'.raw.length then some s.time.ftc.toNat else f.early)) ∧
        (getPort t n.toNat).hdrWait = (getPort s n.toNat).hdrWait ∧
        t.mem = s.mem ∧ t.regs = s.regs ∧ t.groups = s.groups ∧ ∀ k, k ≠ n.toNat → getPort t k = getPort s k) ∧
    (∀ (uid : Nat) (f : Frame) (s1 : State), 1 ≤ b.kind → b.kind ≤ 4 → b.ackValid = false →
      Map.get? (getPort s n.toNat).rxCur b.ch = some uid → getFrame s uid = some f → f.whole = true → f.hdr = none →
      exec (.frameEndReceive n (BitVec.ofNat 4 b.ch)) s = .next s1 →
      exec (.linkBlockReceive (.port n) bytes false) s = exec (.linkBlockReceive (.port n) bytes false) s1)) ∧
  (∀ (n : BitVec 3) (bytes : List Byte) (s : State), bytes.length = 256 → carrying (getLink s (.sub n)) = true →
    let b := parseBlk bytes
    let m := b.payload.take b.len
    b.crcOk = true → b.legal = true → b.kind = 4 → b.ch = 0 → b.seq = (getLink s (.sub n)).expected →
    (getLink s (.sub n)).rxMsg = none →
    ∃ t, exec (.linkBlockReceive (.sub n) bytes false) s = .next t ∧
      (getLink t (.sub n)).expected = (getLink s (.sub n)).expected + 1 ∧
      Map.getD (getLink t (.sub n)).accepted 0 0 = Map.getD (getLink s (.sub n)).accepted 0 0 + 1 ∧
      t = { s with ports := t.ports, twn := t.twn, dbg := t.dbg } ∧
      (if 16 ≤ m.length ∧ bodyAt m 2 2 = m.length - 16 ∧ bodyFits (nthD m 0 0) (m.drop 16) = true then
        t.twn = { s.twn with inbox := s.twn.inbox ++ [(n.toNat, m)] } ∧ t.dbg = s.dbg
      else t.twn = s.twn ∧ t.dbg = (count 12 1 0 s).dbg))

/-- A link block sent on a fabric-mode port or twin sublink, not in near-end loopback (R60, R63, R65, R102). Waiting
control symbols go first, in their order and at most 15 in a block, with one DAMPER copy at most; t1 is stamped as the
TIME_REQ of the exchange under way leaves on the upstream link, t3 - t2 stands in a TIME_RSP as it leaves; and the data
blocks stay as they are. Then, on a link that carries blocks, a block to be resent; then, on a port whose arbiter is
not frozen, with fewer than 2,048 blocks unacknowledged and no damper in force, the only channel whose current frame
has a block ready and has a credit (its words read with no error): its block leaves under the next number, is kept for
replay, and uses the credit, and the block with the frame's last octet is its end block; and so a block of the first
message that waits on a sublink, on channel 0 (R354). With no symbol, no block to be resent and no channel ready, or
with the window full, the arbiter frozen or a damper in force, nothing leaves a port. -/
def Obligations.LinkBlockIsSent : Prop :=
  (∀ (l : LinkId) (s : State), fabricLink s l = true →
    carrying (getLink s l) = true ∨ (getLink s l).state = .negotiating → looped s l = false → (getLink s l).ctrlQ ≠ [] →
    let q := takeSyms 15 false (getLink s l).ctrlQ
    let stamped : CtrlSym → CtrlSym := fun c =>
      match c with
      | .timeRsp xid t2 _ => .timeRsp xid t2 (BitVec.ofNat 32 (s.time.ftc.toNat - t2.toNat))
      | c => c
    exec (.linkBlockSend l) s = .next (modLink
      { s with
        wire := .control l (q.1.map stamped) :: s.wire
        time := { s.time with
          t1 :=
            if CtrlSym.timeReq s.time.xid ∈ q.1 ∧ upstream s = some (linkKey l) ∧ s.time.awaiting = true then
              some s.time.ftc
            else s.time.t1 } }
      l (fun p => { p with ctrlQ := q.2 }))) ∧
  (∀ (q : List CtrlSym), q ≠ [] →
    let r := takeSyms 15 false q
    r.1 ++ r.2 = q ∧ r.1 ≠ [] ∧ r.1.length ≤ 15 ∧ (r.1.filter isDamper).length ≤ 1 ∧
      (r.1.length < 15 → r.2 = [] ∨ ∃ c rest, r.2 = c :: rest ∧ isDamper c = true ∧ r.1.any isDamper = true)) ∧
  (∀ (l : LinkId) (s : State) (b : TxBlock) (rest : List TxBlock), fabricLink s l = true →
    carrying (getLink s l) = true → looped s l = false → (getLink s l).ctrlQ = [] → (getLink s l).resend = b :: rest →
    exec (.linkBlockSend l) s = .next (modLink
      { s with wire := .block l b (if (getLink s l).accepted = []
        then none else some ((getLink s l).expected - 1)) :: s.wire }
      l (fun p => { p with resend := rest, sinceAck := 0 }))) ∧
  (∀ (n : Lane) (ch : Nat) (c : CurFrame) (f : Frame) (s : State), fabricLink s (.port n) = true →
    carrying (getPort s n.toNat) = true → looped s (.port n) = false → (getPort s n.toNat).ctrlQ = [] →
    (getPort s n.toNat).resend = [] → (getPort s n.toNat).replay.length < 2048 → egressFrozen s (.port n) = false →
    s.dbg.dampered = false → (getPort s n.toNat).cur = [(ch, c)] → 0 < creditOf (getPort s n.toNat) ch →
    blockReady s (getPort s n.toNat) c = true → getFrame s c.uid = some f → s.bpm.sramChk = [] →
    ∃ (t : State) (b : TxBlock), exec (.linkBlockSend (.port n)) s = .next t ∧
      t.wire = .block (.port n) b
        (if (getPort s n.toNat).accepted = [] then none else some ((getPort s n.toNat).expected - 1)) :: s.wire ∧
      b.seq = (getPort s n.toNat).txSeq ∧ b.ch = BitVec.ofNat 4 ch ∧
      b.payload = ((egressBytes (getPort s n.toNat).rev.toNat f).drop c.sent).take
        (min 244 ((available (getPort s n.toNat).rev.toNat f).1 - c.sent)) ∧
      (let a := available (getPort s n.toNat).rev.toNat f
       let last := a.2 = true ∧ a.1 - c.sent ≤ 244
       b.kind = (if c.sent = 0 then (if last then 4 else 1) else if last then 3 else 2) ∧
         (last → (getPort t n.toNat).cur = [] ∧ (Map.sorted s.sw.frames = true → c.uid < s.sw.nextUid →
           getFrame t c.uid = none)) ∧
         (¬ last → (getPort t n.toNat).cur = [(ch, { c with sent := c.sent + 244 })] ∧ getFrame t c.uid = some f)) ∧
      (getPort t n.toNat).txSeq = (getPort s n.toNat).txSeq + 1 ∧
      (getPort t n.toNat).replay = (getPort s n.toNat).replay ++ [b] ∧
      Map.getD (getPort t n.toNat).sent ch 0 = Map.getD (getPort s n.toNat).sent ch 0 + 1 ∧
      t.mem = s.mem ∧ t.regs = s.regs ∧ t.groups = s.groups) ∧
  (∀ (n : Lane) (s : State), (getPort s n.toNat).ctrlQ = [] → (getPort s n.toNat).resend = [] →
    (2048 ≤ (getPort s n.toNat).replay.length ∨ egressFrozen s (.port n) = true ∨ s.dbg.dampered = true ∨
      ∀ (ch : Nat) (c : CurFrame), (ch, c) ∈ (getPort s n.toNat).cur →
        creditOf (getPort s n.toNat) ch = 0 ∨ blockReady s (getPort s n.toNat) c = false) →
    exec (.linkBlockSend (.port n)) s = .next s) ∧
  (∀ (n : BitVec 3) (m : List Byte) (s : State), carrying (getLink s (.sub n)) = true →
    (getLink s (.sub n)).ctrlQ = [] →
    (getLink s (.sub n)).resend = [] → (getLink s (.sub n)).replay.length < 2048 → subMsg s n.toNat = some m →
    0 < creditOf (getLink s (.sub n)) 0 →
    ∃ (t : State) (b : TxBlock), exec (.linkBlockSend (.sub n)) s = .next t ∧
      t.wire = .block (.sub n) b
        (if (getLink s (.sub n)).accepted = [] then none else some ((getLink s (.sub n)).expected - 1)) :: s.wire ∧
      b.seq = (getLink s (.sub n)).txSeq ∧ b.ch = 0 ∧
      b.payload = (m.drop (getLink s (.sub n)).msgSent).take (min 244 (m.length - (getLink s (.sub n)).msgSent)) ∧
      (let first := (getLink s (.sub n)).msgSent = 0
       let last := m.length ≤ (getLink s (.sub n)).msgSent + 244
       b.kind = (if first then (if last then 4 else 1) else if last then 3 else 2) ∧
         (getLink t (.sub n)).msgSent = (if last then 0 else (getLink s (.sub n)).msgSent + 244)) ∧
      (getLink t (.sub n)).replay = (getLink s (.sub n)).replay ++ [b] ∧
      Map.getD (getLink t (.sub n)).sent 0 0 = Map.getD (getLink s (.sub n)).sent 0 0 + 1 ∧
      t.mem = s.mem ∧ t.regs = s.regs ∧ t.groups = s.groups)

/-- Ethernet mode (R70, R71, R73, R74). A MAC frame with a bad FCS, or of fewer than 64 or more than 9,216 octets with
its FCS, goes no further than a count; PFC pauses each priority it names with a time other than 0 and resumes each it
names with time 0; any other frame waits for the acceptance of its header, where the tests of R71 apply. The end of a
pause clears its priority. -/
def Obligations.EthernetModeReceives : Prop :=
  (∀ (l : Lane) (b : List Byte) (fcsBad : Bool) (s : State), isFirst s l.toNat = true → ethMode s l.toNat = true →
    carrying (getPort s l.toNat) = true → looped s (.port l) = false → fcsBad = true ∨ b.length < 60 ∨ 9212 < b.length →
    exec (.ethFrameReceive l b fcsBad) s = .next (count 3 20 l.toNat s)) ∧
  (∀ (l : Lane) (b : List Byte) (s : State), isFirst s l.toNat = true → ethMode s l.toNat = true →
    carrying (getPort s l.toNat) = true → looped s (.port l) = false → 60 ≤ b.length → b.length ≤ 9212 →
    fromBe (slice b 12 2) = 0x8808 → fromBe (slice b 14 2) = 0x0101 →
    ∃ t, exec (.ethFrameReceive l b false) s = .next t ∧
      t = modPort s l.toNat (fun p => { p with pfcRx := (getPort t l.toNat).pfcRx }) ∧
      ∀ i, i < 8 → (getPort t l.toNat).pfcRx.getLsbD i =
        if (fromBe (slice b 16 2)).testBit i then decide (fromBe (slice b (18 + 2 * i) 2) ≠ 0)
        else (getPort s l.toNat).pfcRx.getLsbD i) ∧
  (∀ (l : Lane) (b : List Byte) (s : State), isFirst s l.toNat = true → ethMode s l.toNat = true →
    carrying (getPort s l.toNat) = true → looped s (.port l) = false → 60 ≤ b.length → b.length ≤ 9212 →
    (fromBe (slice b 12 2) ≠ 0x8808 ∨ fromBe (slice b 14 2) ≠ 0x0101) →
    ∃ t, exec (.ethFrameReceive l b false) s = .next t ∧ t = { s with ports := t.ports, sw := t.sw } ∧
      (getFrame t s.sw.nextUid).map (fun f => (f.raw, f.ended, f.ingress, f.hdr)) = some (b, true, .eth l, none) ∧
      (getPort t l.toNat).hdrWait = (getPort s l.toNat).hdrWait ++ [(0, s.sw.nextUid)] ∧
      (∀ u, u ≠ s.sw.nextUid → getFrame t u = getFrame s u) ∧ ∀ k, k ≠ l.toNat → getPort t k = getPort s k) ∧
  (∀ (l : Lane) (pri : BitVec 3) (s : State),
    ∃ t, exec (.pfcPauseExpire l pri) s = .next t ∧
      t = modPort s l.toNat (fun p => { p with pfcRx := (getPort t l.toNat).pfcRx }) ∧
      ∀ i, (getPort t l.toNat).pfcRx.getLsbD i = ((getPort s l.toNat).pfcRx.getLsbD i && i != pri.toNat))

/-! ### The switch core (chapter 4) -/

/-- A frame header is accepted (R39, R71, R74, R82-R86, R89, R91) from a fabric port's channel, an Ethernet-mode port
or a return port, on a powered device neither under a damper nor fenced, with room before its flue input. From an
Ethernet-mode port the frame is the one its MAC frame carries, which passes the tests of R71; where it fails one, it
is counted and goes no further. A header whose HCRC does not match goes no further than a count of HDR_BAD. A good
header in the form its source allows, with forwarding enabled and HOPS within MAX_HOPS, comes to the policer of its
port and TC (R106): where that is enabled and its bucket does not hold the frame's octets on the wire, the frame goes
no further than a count of POLICE_DROP; else it is taken from the bucket. The frame has the stamp of the tick at which
its header was complete, from a return port the present tick's, and HOPS raised by one (a return port's stays); it
waits before its flue input or in the staging queue of its destination, with its octets as received and its OFFSET.
The destination is this device's memory queue that the flow's hash chooses (TD = 0), its intake (TD = 1), or, for a
route that does not spray, the live member of its next-hop set that the flow's hash chooses. -/
def Obligations.FrameHeaderIsAccepted : Prop :=
  (∀ (src : FrameSrc) (uid : Nat) (f : Frame) (raw : List Byte) (s : State),
    powered s = true → s.dbg.dampered = false → s.twn.fenced = false → flueInFull s src = false →
    nextHeader s src = some uid → getFrame s uid = some f → f.ingress = src → f.cutAt = none →
    (match src with
      | .eth l => ethPayload s l.toNat f.raw = some raw
      | _ => f.raw = raw) →
    let r := parseHdr raw
    let isRet : Bool := match src with
      | .ret _ => true
      | _ => false
    let octets : Int := ((hdrLen r.ver + r.hdr.len + 4) * 65536 : Nat)
    let level : Lane → Int := fun l =>
      let p := reg s (Reg.police l.toNat r.hdr.tc.toNat)
      let size : Int := (fld p 15 0 * 1024 * 65536 : Nat)
      match Map.get? (getPort s l.toNat).policers r.hdr.tc.toNat with
      | none => size
      | some x => min size (x.tokens + ((s.time.ftc.toNat - x.at_) * (fld p 45 32 * 65536 / 80) : Nat))
    hdrLen r.ver ≤ raw.length →
    (r.hcrcOk = false →
      ∃ t0, exec (.frameHeaderAccept src) s = .next (count 3 0 (srcInstance src) (dropFrame uid t0)) ∧
        t0 = { s with
          sw := { s.sw with frames := t0.sw.frames, retq := t0.sw.retq }, ports := t0.ports, dbg := t0.dbg }) ∧
    (∀ (l : Lane), r.hcrcOk = true → hdrLegal r = true → forwarding s = true → srcLane src = some l.toNat →
      (match src with
        | .port _ _ => r.ver = f.rev.toNat
        | .eth _ => r.ver = 1 ∨ r.ver = 2
        | .ret _ => False) →
      r.hdr.hops.toNat + 1 ≤ fld (reg s Reg.fwdCfg) 15 8 →
      (reg s (Reg.police l.toNat r.hdr.tc.toNat)).getLsbD 63 = true → level l < octets →
      ∃ t0, exec (.frameHeaderAccept src) s =
          .next (dropFrame uid (count 3 3 (8 * l.toNat + r.hdr.tc.toNat) t0)) ∧
        t0 = { s with sw := { s.sw with frames := t0.sw.frames }, ports := t0.ports, dbg := t0.dbg }) ∧
    (∀ (d : Dest) (last : Bool), r.hcrcOk = true → hdrLegal r = true → forwarding s = true →
      (match src with
        | .port _ _ => r.ver = f.rev.toNat
        | .eth _ => r.ver = 1 ∨ r.ver = 2
        | .ret _ => r.ver = 2) →
      (isRet = false → r.hdr.hops.toNat + 1 ≤ fld (reg s Reg.fwdCfg) 15 8) →
      (∀ (l : Lane), srcLane src = some l.toNat →
        (reg s (Reg.police l.toNat r.hdr.tc.toNat)).getLsbD 63 = false ∨ octets ≤ level l) →
      (f.ended = true → raw.length = hdrLen r.ver + r.hdr.len + 4) →
      (r.hdr.dst.toNat = ownChip s ∧ r.hdr.td = false ∧ last = false ∧
          d = .memory (flowHash r.hdr.src r.hdr.dst r.hdr.ch % 16) r.hdr.tc.toNat) ∨
        (r.hdr.dst.toNat = ownChip s ∧ r.hdr.td = true ∧ r.hdr.offset.toNat < 16 ∧ last = false ∧
          d = .intake r.hdr.offset.toNat) ∨
        (forUs s r.hdr.dst = false ∧ s.bpm.sramChk = [] ∧ r.hdr.kind ≠ 5 ∧ ∃ e,
          routeEntry s r.hdr.dst = some e ∧ (e.getLsbD 59 = false ∨ e.getLsbD 60 = true) ∧ last = e.getLsbD 60 ∧
          let plane := if r.ver = 1 then fwdPlane s else r.hdr.plane
          let live := liveMembers s ((fld e 55 44 + plane.toNat % (fld e 58 56 + 1)) % 4096)
          live ≠ [] ∧ d = .egress (live.getD (flowHash r.hdr.src r.hdr.dst r.hdr.ch % live.length) 0) r.hdr.tc.toNat) →
      ∃ t g, exec (.frameHeaderAccept src) s = .next t ∧ getFrame t uid = some g ∧
        g.stamp = f.early.getD s.time.ftc.toNat ∧ g.raw = raw ∧ g.dest = some d ∧ g.lastHop = last ∧
        g.hdr.map (·.hops) = some (if isRet then r.hdr.hops else r.hdr.hops + 1) ∧
        g.hdr.map (·.offset) = some r.hdr.offset ∧
        (uid ∈ Map.getD t.sw.flueIn (2 * srcPg src + (if isRet then 1 else 0)) [] ∨
          uid ∈ Map.getD t.sw.staging (16 * srcPg src + destPg d) []) ∧
        (∀ (l : Lane), srcLane src = some l.toNat →
          Map.get? (getPort t l.toNat).policers r.hdr.tc.toNat =
            if (reg s (Reg.police l.toNat r.hdr.tc.toNat)).getLsbD 63 = true then
              some { tokens := level l - octets, at_ := s.time.ftc.toNat }
            else Map.get? (getPort s l.toNat).policers r.hdr.tc.toNat) ∧
        t.mem = s.mem ∧ t.regs = s.regs ∧ t.groups = s.groups ∧ t.ctx = s.ctx ∧ t.time = s.time)) ∧
  (∀ (l : Lane) (uid : Nat) (f : Frame) (s : State), powered s = true → s.dbg.dampered = false → s.twn.fenced = false →
    flueInFull s (.eth l) = false → nextHeader s (.eth l) = some uid → getFrame s uid = some f →
    ethPayload s l.toNat f.raw = none →
    exec (.frameHeaderAccept (.eth l)) s = .next (count 3 20 l.toNat (dropFrame uid
      (modPort s l.toNat (fun p => { p with hdrWait := p.hdrWait.filter (fun e => e.2 != uid) })))))

/-- Frames cross the flue (R19, R22, R25, R93, R97-R99), with the flue inputs' rounds run first. The frame that wins an
output buffer's round, bound for an egress or memory queue, goes on where its cells fit in ALPHA's share of the free
cells, and is otherwise dropped and counted ADMIT_DROP. One that is not the last hop of its flow joins its egress
queue; a last hop's, a memory queue's and a tile for an intake go through the reorder window of their flow. The next
number in sequence joins its queue, and the window's base goes on by one; a tile for the intake of a gated group is
discarded there and counted GATED_DISCARD. A number further on within the window is held; one held already and one
below the base are discarded and counted. The return port's frame at the head of its place before the flue moves into
its staging queue when no ingress frame waits there and its intake, where it is a tile, can take it; else it waits.
The deadlines of windows and pins (R91, R94-R96): a frame held past the GAP_TIMEOUT in force when it is judged (log
entry 26), with no frame stamped so early in transit, is released and the base passes it. Half of LIFE after the last
PIN, with more than LOW_MARK frames held, the PIN is sent again. A window with nothing held and no arrival for
1,000,000 ticks, and a pin whose LIFE has passed, are gone. (The staging queue's 64 frames are log entry 80; where a
notice enters the fabric is log entry 14.) -/
def Obligations.FramesCrossTheFlue : Prop :=
  ((∀ (pg : Grp) (uid l tc : Nat) (f : Frame) (s s0 : State), flueStops s pg.toNat = false →
    writeRound pg.toNat (flueRounds s) = (some uid, s0) → getFrame s uid = some f → f.dest = some (.egress l tc) →
    f.lastHop = false → s.bpm.sramChk = [] →
    let s1 := unstage uid s0
    let alpha := fld (reg s (Reg.tcCfg (frameHdr f).tc.toNat)) 27 24
    exec (.outputBufferWrite pg) s = .next
      (if egressCells s l tc + frameCells (frameHdr f) ≤ (obSize s - usedCells s (l / 64)) * 2 ^ alpha / 64 then
        joinEgress l tc uid s1
      else count 3 7 (8 * l + tc) (dropFrame uid s1))) ∧
  (∀ (pg : Grp) (uid : Nat) (f : Frame) (d : Dest) (w : Window) (s s0 : State), flueStops s pg.toNat = false →
    writeRound pg.toNat (flueRounds s) = (some uid, s0) → getFrame s uid = some f → f.dest = some d →
    (match d with
      | .egress _ _ => f.lastHop = true
      | .memory _ _ => True
      | .intake _ => False) → s.bpm.sramChk = [] →
    let h := frameHdr f
    let k := winCode (dieOf (destPg d)) h.src.toNat h.dst.toNat h.ch.toNat
    let alpha := fld (reg s (Reg.tcCfg h.tc.toNat)) 27 24
    let room := (obSize s - usedCells s (destPg d)) * 2 ^ alpha / 64
    let cells := match d with
      | .egress l tc => egressCells s l tc
      | .memory p tc => memqCells s p tc
      | .intake _ => 0
    (room < cells + frameCells h →
      exec (.outputBufferWrite pg) s = .next (count 3 7 (queueInstance d) (dropFrame uid (unstage uid s0)))) ∧
    (cells + frameCells h ≤ room → Map.get? s.sw.windows k = some w → w.held = [] → w.gen = h.sgen →
      w.base = h.sseq → w.pinSent = false → 0 < w.span → fld (reg s Reg.reorderCfg) 43 32 ≠ 0 →
      ∃ t, exec (.outputBufferWrite pg) s = .next t ∧
        (match d with
          | .egress l tc => Map.getD t.sw.egress (8 * l + tc) [] = Map.getD s.sw.egress (8 * l + tc) [] ++ [uid]
          | .memory p tc => Map.getD t.sw.memq (8 * p + tc) [] = Map.getD s.sw.memq (8 * p + tc) [] ++ [uid]
          | .intake _ => False) ∧
        Map.get? t.sw.windows k =
          some { w with pg := destPg d, lastArrival := s.time.ftc.toNat, base := w.base + 1 } ∧
        t.sw.frames = s.sw.frames ∧ t.mem = s.mem ∧ t.regs = s.regs ∧ t.groups = s.groups)) ∧
  (∀ (g : Grp) (uid n : Nat) (f : Frame) (w : Window) (s s0 : State), flueStops s g.toNat = false → s.cord.state = 3 →
    writeRound g.toNat (flueRounds s) = (some uid, s0) → getFrame s uid = some f → f.dest = some (.intake n) →
    let h := frameHdr f
    let k := winCode (dieOf n) h.src.toNat h.dst.toNat h.ch.toNat
    let d := (h.sseq - w.base).toNat
    let w1 := { w with pg := n, lastArrival := s.time.ftc.toNat }
    Map.get? s.sw.windows k = some w → w.gen = h.sgen → w.pinSent = false → s.bpm.sramChk = [] →
    w.held.length + 1 < fld (reg s Reg.reorderCfg) 43 32 →
    ∃ t, exec (.intakeEnqueue g) s = .next t ∧ t.mem = s.mem ∧ t.regs = s.regs ∧ t.groups = s.groups ∧
      (d = 0 → 0 < w.span → w.held = [] → gated s n = false →
        Map.getD t.sw.intake n [] = Map.getD s.sw.intake n [] ++ [uid] ∧ t.sw.frames = s.sw.frames ∧
        Map.get? t.sw.windows k = some { w1 with base := w.base + 1 }) ∧
      (d = 0 → 0 < w.span → w.held = [] → gated s n = true → Map.sorted s.sw.frames = true →
        s.mss.logFifo.length < 1024 →
        Map.getD t.sw.intake n [] = (Map.getD s.sw.intake n []).filter (fun u => u != uid) ∧
        getFrame t uid = none ∧ t.dbg.counters = (count 7 9 n s).dbg.counters ∧
        Map.get? t.sw.windows k = some { w1 with base := w.base + 1 }) ∧
      (0 < d → d < 32768 → d < w.span → (∀ x ∈ w.held, x.sseq ≠ h.sseq) →
        t.sw.intake = s.sw.intake ∧ t.sw.frames = s.sw.frames ∧
        Map.get? t.sw.windows k =
          some { w1 with held := w.held ++ [{ sseq := h.sseq, uid := uid, since := s.time.ftc.toNat }] }) ∧
      (0 < d → d < 32768 → d < w.span → (∃ x ∈ w.held, x.sseq = h.sseq ∧ x.uid ≠ uid) →
        (∀ e ∈ s.sw.windows, ∀ x ∈ e.2.held, x.uid ≠ uid) → Map.sorted s.sw.frames = true →
        getFrame t uid = none ∧ Map.get? t.sw.windows k = some w1 ∧
        t.dbg.counters = (count 3 11 n s).dbg.counters) ∧
      (32768 ≤ d → (∀ e ∈ s.sw.windows, ∀ x ∈ e.2.held, x.uid ≠ uid) → Map.sorted s.sw.frames = true →
        getFrame t uid = none ∧ Map.get? t.sw.windows k = some w1 ∧
        t.dbg.counters = (count 3 10 n s).dbg.counters)) ∧
  (∀ (g : Grp) (uid : Nat) (rest : List Nat) (f : Frame) (d : Dest) (s : State), powered s = true →
    s.dbg.dampered = false → (reg s (Reg.obCfg g.toNat)).getLsbD 56 = false →
      Map.getD s.sw.flueIn (2 * g.toNat) [] = [] →
    Map.getD s.sw.flueIn (2 * g.toNat + 1) [] = uid :: rest → getFrame s uid = some f → f.dest = some d →
    let key := 16 * g.toNat + destPg d
    (Map.getD s.sw.staging key []).length < 64 →
    (rest = [] → entryHeld s f = true → ∃ t, exec (.returnPortSend g) s = .next t ∧ t.sw = s.sw) ∧
    (entryHeld s f = false → ∃ t, exec (.returnPortSend g) s = .next t ∧
      t = { s with
        sw := { s.sw with flueIn := t.sw.flueIn, staging := t.sw.staging, flueArb := t.sw.flueArb }
        ports := t.ports, wire := t.wire } ∧
      Map.getD t.sw.flueIn (2 * g.toNat + 1) [] = rest.filter (fun u => u != uid) ∧
      Map.getD t.sw.staging key [] = Map.getD s.sw.staging key [] ++ [uid]))) ∧
  ((∀ (k : WinKey) (w : Window) (h : Held) (s : State), s.dbg.dampered = false →
    Map.get? s.sw.windows (winKeyNat k) = some w → w.held = [h] →
    h.since + fld (reg s Reg.reorderCfg) 63 44 < s.time.ftc.toNat →
    inTransit s (h.since + fld (reg s Reg.reorderCfg) 63 44) = false →
    ∃ t w', exec (.reorderGapTimeout k) s = .next t ∧ Map.get? t.sw.windows (winKeyNat k) = some w' ∧
      w'.base = h.sseq + 1 ∧ w'.held = [] ∧ t.mem = s.mem ∧ t.regs = s.regs ∧ t.groups = s.groups) ∧
  (∀ (k : WinKey) (w : Window) (s : State), Map.get? s.sw.windows (winKeyNat k) = some w → w.pinSent = true →
    fld (reg s Reg.reorderCfg) 31 20 < w.held.length →
    w.lastPin + fld (reg s Reg.pinCfg) 19 0 / 2 ≤ s.time.ftc.toNat →
    exec (.pinResendTimer k) s = .next (sendNotice w.pg true k.src k.dst k.ch
      (setWindow (winKeyNat k) { w with lastPin := s.time.ftc.toNat } s))) ∧
  (∀ (k : WinKey) (w : Window) (s : State), Map.get? s.sw.windows (winKeyNat k) = some w → w.held = [] →
    w.lastArrival + 1000000 ≤ s.time.ftc.toNat →
    exec (.reorderWindowExpire k) s = .next { s with sw := { s.sw with
      windows := Map.erase s.sw.windows (winKeyNat k) } }) ∧
  (∀ (src dst : Chip) (ch : Chan) (x : Nat) (s : State), Map.get? s.sw.pins (flowKey src dst ch) = some x →
    x ≤ s.time.ftc.toNat →
    exec (.pinExpire src dst ch) s = .next { s with sw := { s.sw with
      pins := Map.erase s.sw.pins (flowKey src dst ch) } }))

/-- The memory port (R81, R84, R118). The oldest frame of the die's memory queues, whole, not ash, its words read with
no error and no arbiter it needs frozen, is taken: a PUT in reach with a good payload CRC writes its octets at its
OFFSET; one out of reach is counted and logged and changes no octet; a GET is answered by one GET_RESP frame in the
return port of its port group, with the request's CHANNEL, TC, OFFSET and TAG, its source as DST and its DST as SRC:
in reach it carries the octets, where no word read holds an error, and out of reach, which is counted and logged, as
many octets of 0xFF. -/
def Obligations.MemoryPortServesFrames : Prop :=
  ∀ (d : Die) (pg tc uid : Nat) (f : Frame) (s : State), powered s = true → s.dbg.dampered = false →
    oldestMem d.toNat s = some (pg, tc, uid, f) → f.ended = true → isAsh s f = false → memStops s f = false →
    s.bpm.sramChk = [] →
    let h := frameHdr f
    let p := framePayload f
    let s1 := memGrant (portReq d.toNat) (sitesOf (memRange f).1 (memRange f).2) (dropFrame uid s)
    (h.kind = 1 → pcrcGood f = true → h.dst.toNat = ownChip s → rangeOk s h.offset.toNat p.length = true →
      exec (.memoryPortTake d) s = .next (writeMem 0 0xFF (some h.tag) h.offset.toNat p s1)) ∧
    (h.kind = 1 → pcrcGood f = true → rangeOk s h.offset.toNat p.length = false →
      exec (.memoryPortTake d) s = .next (logEv 0x0582 0 0xFF (some h.tag) [] (count 5 2 0 s1)) ∧ s1.mem = s.mem) ∧
    (h.kind = 2 → h.len = 8 → fromBe (slice p 4 4) = 0 →
      let n := fromBe (p.take 4)
      let o := h.offset.toNat
      let reach := h.dst.toNat = ownChip s ∧ rangeOk s o n = true
      let answer := if reach then Memory.readBytes s.mem.cells o n else List.replicate n 0xFF#8
      let resp : Hdr :=
        { ver := 2, kind := 3, ch := h.ch, tc := h.tc, pinned := false, dst := h.src, src := h.dst, offset := h.offset,
          len := answer.length, td := false, ep := false, tag := h.tag, hops := 0, sseq := 0, sgen := 0,
          plane := fwdPlane s }
      0 < n → n ≤ 65535 → (reach → ∀ w ∈ wordsOf o n, Map.get? s.mem.chk w = none) →
      ∃ t g u, exec (.memoryPortTake d) s = .next t ∧ t.mem = s.mem ∧ t.regs = s.regs ∧ t.groups = s.groups ∧
        (¬ reach → s.mss.logFifo.length < 1024 → t.dbg.counters = (count 5 2 0 s).dbg.counters) ∧
        (Map.getD t.sw.retq pg []).getLast? = some u ∧ getFrame t u = some g ∧ g.ingress = .ret (BitVec.ofNat 4 pg) ∧
        g.raw = hdrBytes2 resp ++ answer ++ beBytes 4 (pcrcOf answer).toNat)

/-- Egress (R33, R72, R101, R103-R105, R107). On a fabric-mode port that is up in revision 2 the head of the queue the
scheduler picks, read with no error, becomes the current frame of its channel; on an Ethernet-mode port, not in
loopback, it leaves at once in a MAC frame with its FCS, where it fits one. SWC_PORT_FLUSH, written while the firmware
runs on a device not fenced, takes out of the queues it names every frame whose transmission has not begun, counts each
as FLUSHED at its queue, and takes no other frame. At a sampling tick every queue's LAST is the cells it holds, with
those of the frame in transmission (log entry 69), and its MAX at least that. -/
def Obligations.EgressRuns : Prop :=
  ((∀ (l : Lane) (t0 uid : Nat) (rest : List Nat) (f : Frame) (s : State), powered s = true → s.dbg.dampered = false →
    (getPort s l.toNat).state = .up → ethMode s l.toNat = false → (getPort s l.toNat).rev = 2 →
    pickQueue s l.toNat = some t0 → Map.getD s.sw.egress (8 * l.toNat + t0) [] = uid :: rest →
    getFrame s uid = some f → isAsh s f = false → s.bpm.sramChk = [] →
    ∃ t, exec (.egressSelect l) s = .next t ∧ t = { s with sw := t.sw, ports := t.ports } ∧
      Map.getD t.sw.egress (8 * l.toNat + t0) [] = rest ∧ getFrame t uid = some { f with begun := true } ∧
      Map.get? (getPort t l.toNat).cur (frameHdr f).ch.toNat =
        some { uid := uid, sel := (getPort s l.toNat).selected, sent := 0 } ∧
      ∀ k, k ≠ l.toNat → getPort t k = getPort s k) ∧
  (∀ (l : Lane) (t0 uid : Nat) (rest : List Nat) (f : Frame) (s : State), powered s = true → s.dbg.dampered = false →
    (getPort s l.toNat).state = .up → ethMode s l.toNat = true → looped s (.port l) = false → egressRev s l.toNat = 2 →
    pickQueue s l.toNat = some t0 → Map.getD s.sw.egress (8 * l.toNat + t0) [] = uid :: rest →
    getFrame s uid = some f → isAsh s f = false → s.bpm.sramChk = [] →
    fld (reg s (Reg.ethCtrl l.toNat)) 63 48 ≠ 0 → (egressBytes 2 f).length + 70 ≤ 9216 →
    ∃ t, exec (.egressSelect l) s = .next t ∧
      t.wire = .mac l (macFrame s l.toNat f ++ leBytes 4 (macFcs (macFrame s l.toNat f)).toNat) :: s.wire ∧
      Map.getD t.sw.egress (8 * l.toNat + t0) [] = rest.filter (fun u => u != uid) ∧
      t.mem = s.mem ∧ t.regs = s.regs ∧ t.groups = s.groups)) ∧
  (∀ (l : Lane) (v : W64) (s : State), s.pwr.porst = true → s.mss.romOnly = false → s.twn.fenced = false →
    isFirst s l.toNat = true → (∀ u f, getFrame s u = some f → u < s.sw.nextUid) →
    let queue : Nat → List Nat := fun tc => Map.getD s.sw.egress (8 * l.toNat + tc) []
    let goes : Nat → Bool := fun u => match getFrame s u with
      | some f => !f.begun
      | none => true
    ∃ t, exec (.swcPortFlushWrite l v) s = .next t ∧
      t = { s with sw := t.sw, ports := t.ports, dbg := t.dbg, lastStatus := .ok } ∧
      (∀ key, Map.getD t.sw.egress key [] = (Map.getD s.sw.egress key []).filter (fun u =>
        !(goes u && (List.range 8).any (fun tc => v.getLsbD tc && (queue tc).contains u)))) ∧
      ((reg s Reg.dbgEnable).getLsbD 3 = true →
        (∀ a b u, a < 8 → b < 8 → a ≠ b → u ∈ queue a → u ∉ queue b) →
        ∀ tc, tc < 8 →
          let old := Map.getD s.dbg.counters (ctrKey 3 9 (8 * l.toNat + tc)) 0
          let n := if v.getLsbD tc then ((queue tc).filter goes).length else 0
          old + n < 2 ^ 48 - 1 → Map.getD t.dbg.counters (ctrKey 3 9 (8 * l.toNat + tc)) 0 = old + n)) ∧
  (∀ (s : State), (reg s Reg.sampleCtrl).getLsbD 0 = true →
    s.time.ftc.toNat % 2 ^ fld (reg s Reg.sampleCtrl) 12 8 = 0 →
    ∃ t, exec .queueSample s = .next t ∧ t = { s with ports := t.ports } ∧
      ∀ l p tc, Map.get? s.ports l = some p → isFirst s l = true → tc < 8 →
        Map.getD (getPort t l).sampleDepth tc (0, 0) =
          (max (Map.getD p.sampleDepth tc (0, 0)).1 (egressCells s l tc), egressCells s l tc))
/-! ### Memories, scrub and sparing (chapter 5) -/

/-- Scrub and HBM4 sparing (R124, R126). A scrub slot of a site in service goes on to the next granule in ascending
order, round; where no word of the granule is marked it changes no octet. At a multiple of 1,000 ticks the SRAM scrub
goes on to the next word, the same one of each macro (both orders: log entry 41); where no word of SRAM is in error it
changes nothing else. BPM_MEM_SPARE, written while the firmware runs, starts a copy of an unspared pseudo-channel of a
stack with fewer than four spared while no copy runs; it answers OK for a spared pseudo-channel and for the one being
copied, RESOURCE_BOUND for any other while a copy runs, and RESOURCE_BOUND where four of the stack are spared. When
the copy ends, its pseudo-channel's arbiter not being frozen, its bit is set and STATE is 2; where no word of the
pseudo-channel is marked no octet changes. The spare reduce station (R152, R153). STN_SPARE_CTRL with an epoch below
the stored one is refused with EPOCH_STALE; otherwise, with no unit covered, it stores the epoch and begins the
takeover of unit k. The takeover, once the spare is idle, abandons the invocation running on unit k and puts it first
in its order; the spare then covers k, whose state stays under its own number (log entry 42). -/
def Obligations.SparesTakeOver : Prop :=
  ((∀ (st : BitVec 3) (pc : BitVec 6) (s : State), st.toNat < 6 → (reg s Reg.memScrub).getLsbD 0 = true →
    powered s = true →
    let k := 64 * st.toNat + pc.toNat
    let i := Map.getD s.bpm.scrubPos k 0 % 4718592
    (∀ w ∈ wordsOf (st.toNat * 0x1200000000 + i * 16384 + pc.toNat * 256) 256, Map.get? s.mem.chk w = none) →
    exec (.patrolScrubSlot (.hbm st pc)) s = .next { s with bpm := { s.bpm with
      scrubPos := Map.set s.bpm.scrubPos k ((i + 1) % 4718592) } }) ∧
  (∀ (ch : BitVec 3) (s : State), (reg s Reg.memScrub).getLsbD 1 = true → powered s = true → s.bpm.ddrWindow = true →
    0 < s.bpm.ddrGb.toNat →
    let k := 512 + ch.toNat
    let n := s.bpm.ddrGb.toNat * 4194304
    let i := Map.getD s.bpm.scrubPos k 0 % n
    (∀ w ∈ wordsOf (0x20000000000 + i * 2048 + ch.toNat * 256) 256, Map.get? s.mem.chk w = none) →
    exec (.patrolScrubSlot (.ddr ch)) s = .next { s with bpm := { s.bpm with
      scrubPos := Map.set s.bpm.scrubPos k ((i + 1) % n) } }) ∧
  (∀ (s : State), (reg s Reg.memScrub).getLsbD 2 = true → powered s = true → s.time.ftc.toNat % 1000 = 0 →
    s.bpm.sramChk = [] →
    exec .sramScrubTick s = .next { s with bpm := { s.bpm with
      sramScrubPos := (s.bpm.sramScrubPos + 1) % 131072 } }) ∧
  (∀ (v : W64) (s : State), s.pwr.porst = true → s.mss.romOnly = false → fld v 10 8 < 6 →
    let st := fld v 10 8
    let pc := fld v 5 0
    let answered (x : Status) : State := { s with lastStatus := x, bpm := { s.bpm with spareStatus := x } }
    (isSpared s st pc = true → exec (.hbmSpareWrite v) s = .next (answered .ok)) ∧
    (isSpared s st pc = false →
      (s.bpm.copy = none → sparedIn s st < 4 →
        ∃ t, exec (.hbmSpareWrite v) s = .next t ∧ t.bpm.copy = some (st, pc) ∧ t.bpm.spareState = 1 ∧
          t.bpm.spareEpoch.toNat = fld v 63 32 ∧ t.bpm.spareStatus = .ok ∧ t.lastStatus = .ok ∧
          t.bpm.spared = s.bpm.spared ∧ t.mem = s.mem ∧ t.regs = s.regs ∧ t.groups = s.groups) ∧
      (s.bpm.copy = none → 4 ≤ sparedIn s st → exec (.hbmSpareWrite v) s = .next (answered .resourceBound)) ∧
      (∀ c, s.bpm.copy = some c →
        exec (.hbmSpareWrite v) s = .next (answered (if c = (st, pc) then .ok else .resourceBound))))) ∧
  (∀ (st pc : Nat) (s : State), s.bpm.copy = some (st, pc) → pc < 64 → siteFrozen s (64 * st + pc) = false →
    ∃ t, exec .spareCopyDone s = .next t ∧ t.bpm.copy = none ∧ t.bpm.spareState = 2 ∧
      isSpared t st pc = true ∧ (∀ st' pc', isSpared s st' pc' = true → isSpared t st' pc' = true) ∧
      t.regs = s.regs ∧ t.groups = s.groups ∧
      ((∀ e ∈ s.mem.chk, memSite e.1 ≠ 64 * st + pc) → t.mem = s.mem))) ∧
  ((∀ (g : Grp) (v : W64) (s : State), s.pwr.porst = true → s.mss.romOnly = false → s.twn.fenced = false →
    (fld v 63 32 < (getGroup s g.toNat).spareEpoch.toNat →
      ∃ t, exec (.stnSpareCtrlWrite g v) s = .next t ∧ t = { s with groups := t.groups, lastStatus := .epochStale } ∧
        (getGroup t g.toNat).spareStatus = .epochStale ∧
        (getGroup t g.toNat).spareEpoch = (getGroup s g.toNat).spareEpoch ∧
        (getGroup t g.toNat).taking = (getGroup s g.toNat).taking) ∧
    ((getGroup s g.toNat).spareEpoch.toNat ≤ fld v 63 32 → (getGroup s g.toNat).covering = false →
      (getGroup s g.toNat).taking = none →
      ∃ t, exec (.stnSpareCtrlWrite g v) s = .next t ∧ t.lastStatus = .ok ∧
        (getGroup t g.toNat).taking = some (fld v 1 0) ∧ (getGroup t g.toNat).spareEpoch.toNat = fld v 63 32 ∧
        (getGroup t g.toNat).units = (getGroup s g.toNat).units ∧ t.mem = s.mem ∧ t.regs = s.regs)) ∧
  (∀ (g : Grp) (k : Nat) (r : Run) (s : State), (getGroup s g.toNat).taking = some k → k < 4 →
    (getUnit s g.toNat 4).run = none → (getUnit s g.toNat k).run = some r →
    ∃ t, exec (.spareTakeover g) s = .next t ∧ (getUnit t g.toNat k).run = none ∧
      (getUnit t g.toNat k).order = r.inv :: (getUnit s g.toNat k).order ∧
      (getUnit t g.toNat k).acc = (getUnit s g.toNat k).acc ∧ (getGroup t g.toNat).covering = true ∧
      (getGroup t g.toNat).coverUnit.toNat = k ∧ (getGroup t g.toNat).taking = none ∧ t.mem = s.mem ∧ t.regs = s.regs))

/-! ### The group sequencer and its stations (chapters 5, 6, 14) -/

/-- The buffer pools through POOL records (Table 5.1, R129-R131) and NOP (R309). A record at the head of the FIFO of a
sequencer that may take a command, on a device not fenced, is taken and completed with one record, but that QUIET = 1
leaves out the record of an OK (Table 14.5). ALLOC from the lowest free index of the smallest fitting pool, or of the
next one above it that has one, which is counted UPSIZE, gives a buffer of share 1 to the issuer; a size out of range,
which is counted, and pools with nothing free give POOL_EXHAUSTED. SHARE, HANDOFF, DROP and FREE change the one buffer
they name where Table 5.1 lets them; otherwise, or where the handle names no buffer taken, they complete with
FREE_DENIED, a share count of 65,535 with POOL_EXHAUSTED, and change none. Under the governor the issuer is not one
that comes after a higher owner ID in the same paced step (R131, log entry 97). No word of SRAM is in error. Nothing
but the group's state, the completion queue and the counters named changes. -/
def Obligations.PoolRecordsRun : Prop :=
  ∀ (g : Grp) (r : List Byte) (rest : List (List Byte)) (s : State), (getGroup s g.toNat).fifo = r :: rest →
    seqReady s g.toNat = true → seqStepFree s g.toNat = true → s.twn.fenced = false → s.host.cplq.length < 4096 →
    s.bpm.sramChk = [] →
    let n := g.toNat
    let o := poolIssuer r
    let h := recFld r 12 4
    let gr := getGroup s n
    let inTurn : Prop := s.time.active = false ∨ pacedStep gr gr.seqStep ≠ gr.poolTurn.1 ∨ gr.poolTurn.2 ≤ o.toNat
    let completes (t : State) (opc : Byte) (st : Status) (res : W64) (dbg : DbgSt) (bufs : Map Buf) : Prop :=
      t = { s with groups := t.groups, dbg := dbg, host := { s.host with
        cplHigh := t.host.cplHigh
        cplq := if recQuiet r = true ∧ st = .ok then s.host.cplq else s.host.cplq ++
          [{ kind := 1, status := st, group := g, opcode := opc, tag := recTag r, pass := 0, btag := 0, result := res,
             ftime := s.time.ftc }] } } ∧
      (getGroup t n).fifo = rest ∧ (getGroup t n).units = gr.units ∧ (getGroup t n).bufs = bufs ∧
      (getGroup t n).offers = gr.offers ∧ ∀ k, k ≠ n → getGroup t k = getGroup s k
    (isOp 5 r = true → ∃ t, exec (.nop g) s = .next t ∧ completes t 5 .ok 0 s.dbg gr.bufs) ∧
    (isPool 1 r = true → inTurn → ownerValid o = true →
      let free := fun p => lowestFree gr.bufs n p (poolCount s n p) (gr.bufs.length + 1) 0
      (∀ p i, 0 < h → h ≤ 262144 → fitPool h ≤ p → p < 6 → free p = some i → (∀ q, fitPool h ≤ q → q < p →
        free q = none) →
        handlePool (mkHandle n p i) = p →
        ∃ t, exec (.poolAlloc g) s = .next t ∧
          completes t 3 .ok (BitVec.ofNat 64 (mkHandle n p i))
            (if p = fitPool h then s.dbg else (count 5 0 (8 * n + fitPool h) s).dbg)
            (Map.set gr.bufs (mkHandle n p i) { share := 1, owner := o, tile := none })) ∧
      (0 < h → h ≤ 262144 → (∀ q, fitPool h ≤ q → q < 6 → free q = none) →
        ∃ t, exec (.poolAlloc g) s = .next t ∧ completes t 3 .poolExhausted 0 s.dbg gr.bufs) ∧
      (h = 0 ∨ 262144 < h →
        ∃ t, exec (.poolAlloc g) s = .next t ∧ completes t 3 .poolExhausted 0 (count 5 1 n s).dbg gr.bufs)) ∧
    (∀ b, inTurn → ownerValid o = true → handleOk s n h = true → getBuf s n h = some b →
      let taker : BitVec 16 := BitVec.ofNat 16 (recFld r 16 2)
      (isPool 2 r = true → ∃ t, exec (.poolShare g) s = .next t ∧
        (if b.share < 65535 then completes t 3 .ok 0 s.dbg (Map.set gr.bufs h { b with share := b.share + 1 })
         else completes t 3 .poolExhausted 0 s.dbg gr.bufs)) ∧
      (isPool 3 r = true → ∃ t, exec (.poolHandoff g) s = .next t ∧
        (if b.owner = o ∧ ownerValid taker = true then
          completes t 3 .ok 0 s.dbg (Map.set gr.bufs h { b with owner := taker })
         else completes t 3 .freeDenied 0 s.dbg gr.bufs)) ∧
      (isPool 4 r = true → ∃ t, exec (.poolDrop g) s = .next t ∧
        (if b.owner ≠ o ∧ 2 ≤ b.share then
          completes t 3 .ok 0 s.dbg (Map.set gr.bufs h { b with share := b.share - 1 })
         else completes t 3 .freeDenied 0 s.dbg gr.bufs)) ∧
      (isPool 5 r = true → ∃ t, exec (.poolFree g) s = .next t ∧
        (if b.owner = o ∧ b.share = 1 then completes t 3 .ok 0 s.dbg (Map.erase gr.bufs h)
         else completes t 3 .freeDenied 0 s.dbg gr.bufs))) ∧
    (inTurn → ownerValid o = true → handleOk s n h = false ∨ getBuf s n h = none →
      ∀ (k : Nat) (c : Instr), (k, c) ∈ [(2, Instr.poolShare g), (3, .poolHandoff g), (4, .poolDrop g), (5,
        .poolFree g)] →
        isPool k r = true → ∃ t, exec c s = .next t ∧ completes t 3 .freeDenied 0 s.dbg gr.bufs)

/-- INVOKE, HOLD, its release, and OPERAND (R147, R167, R237, R311, Table 14.6), on a device not fenced, no word of SRAM
in error. INVOKE puts the invocation the record spells into its unit's order, before those that tiles of the same
paced step triggered and behind all others. HOLD stops the sequencer, and one that names a context timed out completes
with CONTEXT_TIMED_OUT; a hold whose tally has reached the generation asked for, counted modulo 2^16, ends with that
tally's GEN, except that a timed one waits for START. OPERAND reads a tile from memory through arbiters free to grant
it, for the host or for the context it names, stores it in a buffer in the form the compressor gives it and offers it
to the port named, stamped with the present tick (log entry 119), with the reason where it was read as clinker. It
completes with STATION_ABSENT for a unit that is none, with QUEUE_FULL where the port of a wide configuration has no
room, with MALFORMED_TILE where no tile can be read and with POOL_EXHAUSTED where no buffer is free, and then offers
and stores nothing. -/
def Obligations.SequencerCommandsRun : Prop :=
  (∀ (g : Grp) (r : List Byte) (rest : List (List Byte)) (s : State), (getGroup s g.toNat).fifo = r :: rest →
    seqReady s g.toNat = true → seqStepFree s g.toNat = true → s.twn.fenced = false → s.bpm.sramChk = [] →
    let n := g.toNat
    let u := bits (recFld r 8 1) 3 0
    let gr := getGroup s n
    let step := pacedStep gr gr.seqStep
    let record (opc : Byte) (st : Status) : Cpl :=
      { kind := 1, status := st, group := g, opcode := opc, tag := recTag r, pass := 0, btag := 0, result := 0,
        ftime := s.time.ftc }
    let fails (t : State) (opc : Byte) (st : Status) : Prop :=
      t.host.cplq = s.host.cplq ++ [record opc st] ∧
        getGroup t n = { gr with fifo := rest, seqStep := (getGroup t n).seqStep } ∧ t.regs = s.regs ∧
        ∀ k, k ≠ n → getGroup t k = getGroup s k
    (isOp 1 r = true → u < 12 → unitPresent s u = true →
      let inv : Invoc :=
        { unit := u, prog := BitVec.ofNat 6 (recFld r 9 1), replaySel := (nthD r 10 0).getLsbD 0,
          count := BitVec.ofNat 32 (recFld r 12 4), tag := recTag r, context := BitVec.ofNat 15 (recFld r 16 2),
          doneTally := BitVec.ofNat 14 (recFld r 18 2), startTick := BitVec.ofNat 64 (recFld r 24 8),
          reached := s.time.ftc.toNat, triggered := false, quiet := recQuiet r, atStep := 0 }
      let same : Invoc → Prop := fun x => s.time.active = true ∧ x.triggered = true ∧ x.atStep = step
      ∃ t a b, exec (.invoke g) s = .next t ∧ t = { s with groups := t.groups } ∧ (getGroup t n).fifo = rest ∧
        (getUnit s n u).order = a ++ b ∧ (getUnit t n u).order = a ++ inv :: b ∧ (∀ x ∈ b, same x) ∧
        (∀ x, a.getLast? = some x → ¬ same x) ∧
        (getUnit t n u).run = (getUnit s n u).run ∧ (∀ v, v ≠ u → getUnit t n v = getUnit s n v) ∧
        ∀ k, k ≠ n → getGroup t k = getGroup s k) ∧
    (isOp 2 r = true →
      let c : Option Nat := if (nthD r 12 0).getLsbD 1 = true then some (bits (recFld r 14 2) 14 0) else none
      ((∀ i x, c = some i → getCtx s i = some x → x.state ≠ .timedOut) →
        ∃ t, exec (.hold g) s = .next t ∧ t = { s with groups := t.groups } ∧ (getGroup t n).fifo = rest ∧
          (getGroup t n).hold = some
            { tally := bits (recFld r 8 2) 12 0, gen := BitVec.ofNat 16 (recFld r 10 2),
              timed := (nthD r 12 0).getLsbD 0, ctx := c, tag := recTag r, quiet := recQuiet r, metAt := none } ∧
          (getGroup t n).units = gr.units) ∧
      (∀ i x, c = some i → getCtx s i = some x → x.state = .timedOut → s.host.cplq.length < 4096 →
        ∃ t, exec (.hold g) s = .next t ∧ fails t 2 .contextTimedOut)) ∧
    (isOp 4 r = true → readFree (recFld r 18 6) s = true →
      let c := bits (recFld r 14 2) 14 0
      let owner := if c = 0x7FFF then ownerHost else ownerCtx c
      let portB := (nthD r 9 0).getLsbD 0
      let there := u < 12 ∧ unitPresent s u = true
      let room := isWide s n u = false ∨ pushRoom s n u portB = true
      let x := fetchTile 3 n 12 (recTag r) (recFld r 18 6)
        (takeSeqStep n (modGroup s n (fun gr => { gr with fifo := rest })))
      s.time.active = false ∨ step ≠ gr.poolTurn.1 ∨ gr.poolTurn.2 ≤ owner.toNat →
      (∀ (tl : Tile) (cause : Option (Nat × Nat)) (h : Nat), there → room → x.1 = some (tl, cause) →
        freeHandle n (64 + payloadLen tl) x.2 = some h →
        ∃ t, exec (.operand g) s = .next t ∧ (getGroup t n).fifo = rest ∧
          (getGroup t n).offers = gr.offers ++
            [{ unit := u, portB := portB, handle := h, stamp := s.time.ftc.toNat,
               cmd := some (recTag r, recQuiet r), fromIntake := false, share := false, cause := cause,
               dense := (compressForm n tl s).2 }] ∧
          getBuf t n h = some { share := 1, owner := owner, tile := some (compressForm n tl s).1 } ∧
          t.host = s.host ∧ t.ctx = s.ctx ∧ t.regs = s.regs ∧ ∀ k, k ≠ n → getGroup t k = getGroup s k) ∧
      (s.host.cplq.length < 4096 →
        (¬ there → ∃ t, exec (.operand g) s = .next t ∧ t.mem = s.mem ∧ fails t 4 .stationAbsent) ∧
        (there → ¬ room → ∃ t, exec (.operand g) s = .next t ∧ t.mem = s.mem ∧ fails t 4 .queueFull) ∧
        (there → room → x.1 = none → ∃ t, exec (.operand g) s = .next t ∧ fails t 4 .malformedTile) ∧
        (∀ (tl : Tile) (cause : Option (Nat × Nat)), there → room → x.1 = some (tl, cause) →
          freeHandle n (64 + payloadLen tl) x.2 = none →
          ∃ t, exec (.operand g) s = .next t ∧ fails t 4 .poolExhausted)))) ∧
  (∀ (g : Grp) (h : HoldSt) (s : State), (getGroup s g.toNat).hold = some h → groupRuns s g.toNat = true →
    (getGroup s g.toNat).seqCpl = none → ((getTally s h.tally).gen - h.gen).toNat < 32768 →
    (h.timed = true → s.time.ftc.toNat < (getTally s h.tally).start.toNat →
      ∃ t, exec (.holdRelease g) s = .next t ∧ t = { s with groups := t.groups } ∧
        (getGroup t g.toNat).hold.isSome = true) ∧
    (h.timed = false ∨ (getTally s h.tally).start.toNat ≤ s.time.ftc.toNat → h.quiet = false →
      s.host.cplq.length < 4096 →
      ∃ t, exec (.holdRelease g) s = .next t ∧ (getGroup t g.toNat).hold = none ∧
        t.host.cplq = s.host.cplq ++
         [{ kind := 1, status := .ok, group := g, opcode := 2, tag := h.tag, pass := 0,
            btag := 0, result := (getTally s h.tally).gen.setWidth 64, ftime := s.time.ftc }] ∧
        t.ctx = s.ctx ∧ t.mem = s.mem ∧ t.regs = s.regs))

/-- Tiles reach the stations (R25, R138, R139, R143, R144, R155, R167, R272, R273). With a cord loaded and no word of
SRAM in error, the intake takes a good tile of a context that counts no rounds and names no tally, expected in its
rank's order: it is stored, the rank's next SEQ is awaited, its frame leaves, and it is offered to the context's entry
port. An offer that is no command's, at a port with room that may take a tile in this step, goes to the end of its
port's queue where it is uncontested, is older than the tile the upstream station waits to push, or has the port's
grant already, which a freeze does not take back; its buffer is then owned by the unit, unless it is offered as a
share, and where the unit's trigger is set on the port an invocation joins the unit's order. Where the upstream tile is
the older one the offer waits and the grant goes to the upstream station. At a full queue it waits too, and one from
the intake is counted INTAKE_WAIT_STEPS. In a group that is gated, or under a damper, nothing is delivered. With
steering on, a tile for the sparse unit goes into its port's steering hold. A complete pair of the holds goes whole to
the sparse unit, or to the partner where the port-A tile is in no sparse layout. SPR_STEER_n is written where both
holds are empty, and refused with RESOURCE_BOUND where one is not. -/
def Obligations.TilesReachStations : Prop :=
  (∀ (g : Grp) (uid h : Nat) (rest : List Nat) (f : Frame) (x : Ctx) (s : State), groupRuns s g.toNat = true →
    s.twn.fenced = false → s.cord.state = 3 → s.bpm.sramChk = [] → (getGroup s g.toNat).offers = [] →
    (getGroup s g.toNat).poolWait = none → (getGroup s g.toNat).routeWait = none → intakeStepFree s g.toNat = true →
    Map.getD s.sw.intake g.toNat [] = uid :: rest → getFrame s uid = some f → f.ended = true →
    f.link = none → pcrcGood f = true →
    let n := g.toNat
    let gr := getGroup s n
    let r := tileOfFrame (framePayload f) (frameHdr f).ep
    let tl := r.1
    let c := tl.ctx.toNat
    s.time.active = false ∨ pacedStep gr gr.intakeStep ≠ gr.poolTurn.1 ∨ gr.poolTurn.2 ≤ 0x8000 →
    r.2 = true → getCtx s c = some x → CtxArg.group x.arg0 = n → tl.rank.toNat < (ctxMGroup s x).chips.length →
    x.onChip = true → tl.epoch = (ctxMGroup s x).epoch → x.state ≠ .timedOut →
    tl.seq = Map.getD x.expSeq tl.rank.toNat 0 → CtxArg.countsFirst x.arg0 = false → CtxArg.arrivals x.arg0 = 0 →
    8192 ≤ CtxArg.tally x.arg0 → routingOf s c (auxLtab tl.aux) = none →
    (poolAlloc n (64 + payloadLen tl) (ownerCtx c) s).1 = some h →
    ∃ t, exec (.sequencerIntakeTake g) s = .next t ∧
      (getGroup t n).offers =
       [{ unit := CtxArg.entryUnit x.arg0, portB := CtxArg.entryPortB x.arg0, handle := h,
          stamp := f.stamp, cmd := none, fromIntake := true, share := false, cause := none, dense := none }] ∧
      tileAt t n h = some (compressForm n tl s).1 ∧
      (getBuf t n h).map (·.owner) = some (ownerCtx c) ∧ uid ∉ Map.getD t.sw.intake n [] ∧
      getCtx t c = some { x with expSeq := Map.set x.expSeq tl.rank.toNat (tl.seq + 1) } ∧
      t.mem = s.mem ∧ t.regs = s.regs ∧ ∀ k, k ≠ n → getGroup t k = getGroup s k) ∧
  (∀ (g : Grp) (u : UnitNo) (portB : Bool) (o : Offer) (b : Buf) (s : State), u.toNat < 12 →
    groupRuns s g.toNat = true → unitPresent s u.toNat = true →
    portStepFree s g.toNat (portKey u.toNat portB) = true →
    (getGroup s g.toNat).offers.find? (fun o => o.unit == u.toNat && o.portB == portB) = some o → o.cmd = none →
    getBuf s g.toNat o.handle = some b →
    let n := g.toNat
    let key := portKey u.toNat portB
    let gr := getGroup s n
    let un := getUnit s n u.toNat
    let grant := Map.get? gr.portGrant key
    let steered := u.toNat = 11 ∧ steerOn s n = true
    let noForce := ∀ r, r < 2 →
      Map.getD (if portB then un.arbB else un.arbA).waits r 0 < max 1 (fld (reg s (Reg.stnArb n)) 7 0)
    let tr := reg s (Reg.trigger n u.toNat)
    (¬ steered → hasRoom s n u.toNat portB = true →
      (grant = some 0 ∨ (portFrozen s n u.toNat = false ∧ grant = none ∧
        (upstreamWaits s n u.toNat portB = none ∨
          ∃ x, upstreamWaits s n u.toNat portB = some x ∧ o.stamp < x ∧ noForce))) →
      ∃ t, exec (.stationQueueDeliver g u portB) s = .next t ∧ t = { s with groups := t.groups } ∧
        portQueue (getUnit t n u.toNat) portB = portQueue un portB ++ [{ handle := o.handle, stamp := o.stamp }] ∧
        portQueue (getUnit t n u.toNat) (!portB) = portQueue un (!portB) ∧
        (getUnit t n u.toNat).order = (if tr.getLsbD 63 = true ∧ tr.getLsbD 62 = portB then un.order ++
          [{ unit := u.toNat, prog := BitVec.ofNat 6 (fld tr 53 48), replaySel := false, count := 0,
             tag := (match b.tile with
               | some tl => tl.tag
               | none => 0),
             context := BitVec.ofNat 15 (fld tr 14 0), doneTally := BitVec.ofNat 14 (fld tr 45 32), startTick := 0,
             reached := 0, triggered := true, quiet := false,
             atStep := if s.time.active then pacedStep gr (Map.getD gr.portSteps key 0) else 0 }]
         else un.order) ∧
        getBuf t n o.handle = some (if o.share then b else { b with owner := ownerUnit n u.toNat }) ∧
        (getGroup t n).offers = removeFirst o gr.offers ∧
        (Map.sorted gr.portGrant = true → Map.get? (getGroup t n).portGrant key = none)) ∧
    (¬ steered → hasRoom s n u.toNat portB = true → portFrozen s n u.toNat = false → grant = none → noForce →
      (∀ x, upstreamWaits s n u.toNat portB = some x → x < o.stamp →
        ∃ t, exec (.stationQueueDeliver g u portB) s = .next t ∧ t = { s with groups := t.groups } ∧
          (getUnit t n u.toNat).qa = un.qa ∧ (getUnit t n u.toNat).qb = un.qb ∧
          (getUnit t n u.toNat).order = un.order ∧ (getGroup t n).offers = gr.offers ∧
          Map.get? (getGroup t n).portGrant key = some 1)) ∧
    (¬ steered → hasRoom s n u.toNat portB = false → portFrozen s n u.toNat = false →
      ∃ t, exec (.stationQueueDeliver g u portB) s = .next t ∧
        t = { s with
          groups := t.groups
          dbg := if o.fromIntake then (count 7 5 n s).dbg else s.dbg } ∧
        (getGroup t n).units = gr.units ∧ (getGroup t n).offers = gr.offers) ∧
    (steered → portFrozen s n u.toNat = false → (if portB then gr.steerB else gr.steerA).length < 8 →
      ∃ t, exec (.stationQueueDeliver g u portB) s = .next t ∧ t = { s with groups := t.groups } ∧
        (getGroup t n).steerA = (if portB then gr.steerA else gr.steerA ++ [{ handle := o.handle, stamp := o.stamp }]) ∧
        (getGroup t n).steerB = (if portB then gr.steerB ++ [{ handle := o.handle, stamp := o.stamp }] else gr.steerB) ∧
        (getGroup t n).units = gr.units ∧ (getGroup t n).offers = removeFirst o gr.offers)) ∧
  (∀ (g : Grp) (u : UnitNo) (portB : Bool) (s : State), u.toNat < 12 → groupRuns s g.toNat = false →
    exec (.stationQueueDeliver g u portB) s = .next s) ∧
  (∀ (g : Grp) (a b : QTile) (as_ bs : List QTile) (s : State), (getGroup s g.toNat).steerA = a :: as_ →
    (getGroup s g.toNat).steerB = b :: bs → groupRuns s g.toNat = true → portStepFree s g.toNat 32 = true →
    let n := g.toNat
    let u := if (tileAt s n a.handle).any (fun x => x.layout == 1 || x.layout == 2)
      then 11 else fld (reg s (Reg.steer n)) 3 0
    portFrozen s n u = false → (getUnit s n u).qa.length < 8 → (getUnit s n u).qb.length < 8 →
    (reg s (Reg.trigger n u)).getLsbD 63 = false →
    ∃ t, exec (.steerPairDeliver g) s = .next t ∧ t = { s with groups := t.groups, dbg := t.dbg } ∧
      (getUnit t n u).qa = (getUnit s n u).qa ++ [a] ∧ (getUnit t n u).qb = (getUnit s n u).qb ++ [b] ∧
      (getGroup t n).steerA = as_ ∧ (getGroup t n).steerB = bs ∧
      (getGroup t n).pairs = (getGroup s n).pairs + 1) ∧
  (∀ (g : Grp) (v : W64) (s : State), s.pwr.porst = true → s.mss.romOnly = false → s.twn.fenced = false →
    Map.sorted s.regs = true → fld v 3 0 = 9 ∨ fld v 3 0 = 10 →
    ((getGroup s g.toNat).steerA = [] → (getGroup s g.toNat).steerB = [] →
      (v.getLsbD 63 = true → unitPresent s 11 = true ∧ unitPresent s (fld v 3 0) = true ∧
        pipelineOf s g.toNat (fld v 3 0) = none ∧ entryOk s g.toNat 11 = true) →
      ∃ t, exec (.steerWrite g v) s = .next t ∧ t = { s with groups := t.groups, regs := t.regs, lastStatus := .ok } ∧
        reg t (Reg.steer g.toNat) = v &&& 0x800000000000000F#64 ∧ (getGroup t g.toNat).pairs = 0 ∧
        ∀ a, a ≠ Reg.steer g.toNat → reg t a = reg s a) ∧
    ((getGroup s g.toNat).steerA ≠ [] ∨ (getGroup s g.toNat).steerB ≠ [] →
      ∃ t, exec (.steerWrite g v) s = .next t ∧ t = { s with groups := t.groups, lastStatus := .resourceBound } ∧
        (getGroup t g.toNat).steerStatus = .resourceBound))
/-! ### Station programs (chapters 7 and 8) -/

/-- The program store and its programs (R163-R165), on a device whose firmware runs and that is not fenced. Where no
valid program's image is met, a store write sets its eight octets; LOAD of an image that passes the checks of R164
makes the program valid with REPLAY 1 and its parameters at 0, and any other LOAD changes only the status; UNLOAD of a
program not in use makes it invalid. -/
def Obligations.ProgramsAreLoaded : Prop :=
  ∀ (g : Grp) (s : State), s.pwr.porst = true → s.mss.romOnly = false → s.twn.fenced = false →
    let n := g.toNat
    let gr := getGroup s n
    (∀ (off : BitVec 21) (v : W64),
      let a := off.toNat / 8 * 8
      exec (.pstoreWrite g off v) s = .next
        (if imageMeets gr a (a + 8) then { s with lastStatus := .resourceBound }
         else { s with
           lastStatus := .ok
           groups := Map.set s.groups n { gr with
             pstore := (leBytes 8 v.toNat).zipIdx.foldl (fun m e => setStore m (a + e.2) e.1) gr.pstore } })) ∧
    (∀ (v : W64) (pr : Prog), loadCheck s n (fld v 5 0) (fld v 19 16) (fld v 44 24) = .ok pr →
      ∃ t, exec (.programLoad g v) s = .next t ∧ t = { s with groups := t.groups, lastStatus := .ok } ∧
        (getGroup t n).progs = Map.set gr.progs (fld v 5 0) pr ∧
        Map.getD (getGroup t n).replay (fld v 5 0) 0 = 1 ∧
        (∀ i, i < 64 → Map.getD (getGroup t n).params (64 * fld v 5 0 + i) 0 = 0) ∧
        (∀ k, k / 64 ≠ fld v 5 0 → Map.getD (getGroup t n).params k 0 = Map.getD gr.params k 0) ∧
        (getGroup t n).progStatus = .ok ∧ (getGroup t n).pstore = gr.pstore) ∧
    (∀ (v : W64) (st : Status) (detail bundle : Nat),
      loadCheck s n (fld v 5 0) (fld v 19 16) (fld v 44 24) = .error (st, detail, bundle) →
      ∃ t, exec (.programLoad g v) s = .next t ∧ t = { s with groups := t.groups, lastStatus := st } ∧
        getGroup t n = { gr with progStatus := st, progDetail := BitVec.ofNat 8 detail, progBundle := bundle,
                                 progNo := BitVec.ofNat 6 (fld v 5 0) }) ∧
    (∀ (v : W64) (pr : Prog), fld v 19 16 < 12 → Map.get? gr.progs (fld v 5 0) = some pr →
      programBusy s n (fld v 5 0) pr.unit = false →
      ∃ t, exec (.programUnload g v) s = .next t ∧ t = { s with groups := t.groups, lastStatus := .ok } ∧
        (getGroup t n).progs = Map.erase gr.progs (fld v 5 0) ∧ (getGroup t n).pstore = gr.pstore)

/-- A write of a parameter or of a replay count (R174). If program p is not valid it completes with RESOURCE_BOUND and
changes nothing, whatever MAINT holds, and the registers read zero; otherwise, while MAINT = 0, it completes with
PARAM_LOCKED and changes nothing; otherwise it replaces the stored value. This is on a device whose firmware runs
(R345) and that is not fenced: a fenced one refuses every write of the station block (R362). -/
def Obligations.ParametersArePatched : Prop :=
  ∀ (g : Grp) (p i : BitVec 6) (v : W64) (s : State), s.pwr.porst = true → s.mss.romOnly = false →
    s.twn.fenced = false →
    let n := g.toNat
    let gr := getGroup s n
    let param := 0x700000000 + 0x10000000 * n + 0x10000 + 8 * (64 * p.toNat + i.toNat)
    let replay := 0x700000000 + 0x10000000 * n + 0x600 + 8 * p.toNat
    (Map.has gr.progs p.toNat = false →
      exec (.paramWrite g p i v) s = .next { s with lastStatus := .resourceBound } ∧
      exec (.replayCountWrite g p v) s = .next { s with lastStatus := .resourceBound } ∧
      regRead s param = 0 ∧ regRead s replay = 0) ∧
    (Map.has gr.progs p.toNat = true → gr.maint = false →
      exec (.paramWrite g p i v) s = .next { s with lastStatus := .paramLocked } ∧
      exec (.replayCountWrite g p v) s = .next { s with lastStatus := .paramLocked }) ∧
    (Map.has gr.progs p.toNat = true → gr.maint = true → Map.sorted gr.params = true →
      (∃ t, exec (.paramWrite g p i v) s = .next t ∧
        t = { s with
          groups := Map.set s.groups n { gr with params := (getGroup t n).params }, lastStatus := .ok } ∧
        regRead t param = v ∧
        ∀ k, k ≠ 64 * p.toNat + i.toNat → Map.getD (getGroup t n).params k 0 = Map.getD gr.params k 0) ∧
      (∃ t, exec (.replayCountWrite g p v) s = .next t ∧
        t = { s with
          groups := Map.set s.groups n { gr with replay := (getGroup t n).replay }, lastStatus := .ok } ∧
        regRead t replay = v &&& 0xFFFFFFFF#64 ∧
        ∀ k, k ≠ p.toNat → Map.get? (getGroup t n).replay k = Map.get? gr.replay k))

/-- MAINT, the debug bits and the view of an accumulator (R198, Table 8.9), while the firmware runs. STN_MODE sets
MAINT, and clearing it clears the group's debug bit; a debug bit of a group not in maintenance is refused with
PARAM_LOCKED; a peek, when it is complete, shows the rows and columns of the committed accumulator, or the status that
stands in its way, all as they stand at that moment (log entry 29; no word of SRAM in error). -/
def Obligations.MaintenanceShowsAccumulators : Prop :=
  (∀ (g : Grp) (v : W64) (s : State), s.pwr.porst = true → s.mss.romOnly = false → s.twn.fenced = false →
    Map.sorted s.regs = true →
    ∃ t, exec (.maintWrite g v) s = .next t ∧ t = { s with groups := t.groups, regs := t.regs, lastStatus := .ok } ∧
      getGroup t g.toNat = { getGroup s g.toNat with maint := v.getLsbD 0 } ∧
      (∀ k, k ≠ g.toNat → getGroup t k = getGroup s k) ∧
      (v.getLsbD 0 = true → t.regs = s.regs) ∧
      (v.getLsbD 0 = false → ∀ i, i < 64 → (reg t Reg.arithDebug).getLsbD i =
        ((reg s Reg.arithDebug).getLsbD i && i != g.toNat))) ∧
  (∀ (v : W64) (s : State), s.pwr.porst = true → s.mss.romOnly = false → Map.sorted s.regs = true →
    (v = 0 → ∃ t, exec (.arithDebugWrite v) s = .next t ∧ t = { s with regs := t.regs, lastStatus := .ok } ∧
      reg t Reg.arithDebug = 0) ∧
    ((∀ g, g < 16 → v.getLsbD g = true → (getGroup s g).maint = true) →
      ∃ t, exec (.arithDebugWrite v) s = .next t ∧ t = { s with regs := t.regs, lastStatus := .ok } ∧
        reg t Reg.arithDebug = v &&& 0xFFFF#64) ∧
    ((∃ g, g < 16 ∧ v.getLsbD g = true ∧ (getGroup s g).maint = false) →
      exec (.arithDebugWrite v) s = .next { s with lastStatus := .paramLocked })) ∧
  (∀ (v : W64) (s : State), s.pwr.porst = true → s.mss.romOnly = false → Map.sorted s.regs = true →
    fld v 43 40 ≤ 3 ∨ 9 ≤ fld v 43 40 → fld v 43 40 ≤ 11 →
    ∃ t, exec (.accPeek v) s = .next t ∧ t = { s with regs := t.regs, dbg := t.dbg, lastStatus := .ok } ∧
      t.dbg = { s.dbg with peekPending := true, peekDone := false } ∧
      fld (reg t Reg.peekCtrl) 51 48 = fld v 51 48 ∧ fld (reg t Reg.peekCtrl) 17 0 = fld v 17 0) ∧
  (∀ (s : State), s.dbg.peekPending = true → s.bpm.sramChk = [] →
    let v := reg s Reg.peekCtrl
    ∃ t, exec .accPeekComplete s = .next t ∧ t = { s with dbg := t.dbg } ∧
      t.dbg.peekPending = false ∧ t.dbg.peekDone = true ∧
      ((reg s Reg.arithDebug).getLsbD (fld v 51 48) = false → t.dbg.peekStatus = .paramLocked) ∧
      ((reg s Reg.arithDebug).getLsbD (fld v 51 48) = true → unitPresent s (fld v 43 40) = false →
        t.dbg.peekStatus = .stationAbsent) ∧
      ((reg s Reg.arithDebug).getLsbD (fld v 51 48) = true → unitPresent s (fld v 43 40) = true →
        t.dbg.peekStatus = .ok ∧
        ∀ x, Map.get? (getUnit s (fld v 51 48) (fld v 43 40)).acc (fld v 33 32) = some x →
          t.dbg.peekRows.toNat = x.rows % 512 ∧ t.dbg.peekCols.toNat = x.cols % 2048))

/-- An invocation's life (R143, R160, R162, R168, R169, R171-R173, R177, R232), in a group step its unit may take, with
no word of SRAM in error; under the governor the unit is not one that comes after a higher owner ID in the same paced
step (R131, log entry 97). The invocation begins at the front of its unit's order, its START_TICK reached, with the
snapshot of its program's parameters and of the committed accumulators, and is doomed where the context it names has
timed out; a bundle with a wait unmet adds one step of cost; one whose waits are over and whose slots all succeed goes
on to the next bundle, pass or the end, and one with a slot that fails ends the invocation. The tick at which the last
bundle ends, under the governor that of its last paced step, is the run's (R143; log entry 109). An ended run whose
writes the memory arbiters can grant, and that passes the checks, commits its accumulators and takes its tiles out of
the queues; a tile it gives to the next station of its own group, the port having room and no other claim, goes to the
end of that port's queue, with the run's tick as its stamp, or the stamp it had where the run had taken it; where the
port has no room a small configuration's run waits and counts COMMIT_WAIT_STEPS, and a wide one's fails; and a run that
fails a check, or whose context timed out, commits nothing, whatever is frozen. -/
def Obligations.InvocationsRun : Prop :=
  ∀ (g : Grp) (u : UnitNo) (s : State), u.toNat < 12 → groupRuns s g.toNat = true → s.bpm.sramChk = [] →
    stepFree s g.toNat (getUnit s g.toNat u.toNat).lastStep = true →
    let n := g.toNat
    let k := u.toNat
    let gr := getGroup s n
    let un := getUnit s n k
    let inTurn : Prop := s.time.active = false ∨ pacedStep gr un.lastStep ≠ gr.poolTurn.1 ∨
      gr.poolTurn.2 ≤ (ownerUnit n k).toNat
    let nothing (t : State) : Prop :=
      (getUnit t n k).run = none ∧ (getUnit t n k).acc = un.acc ∧ (getUnit t n k).qa = un.qa ∧
        (getUnit t n k).qb = un.qb ∧ (getUnit t n k).order = un.order ∧ t.mem = s.mem ∧ t.regs = s.regs
    (∀ (inv : Invoc) (rest : List Invoc), unitStopped s n k = false → un.order = inv :: rest →
      (s.time.ftc.toNat < inv.startTick.toNat → exec (.invocationStart g u) s = .next s) ∧
      (inv.startTick.toNat ≤ s.time.ftc.toNat → invocOk gr inv = true →
        ∃ t r, exec (.invocationStart g u) s = .next t ∧ (getUnit t n k).run = some r ∧
          (getUnit t n k).order = rest ∧ (getUnit t n k).invoc = un.invoc + 1 ∧ (getUnit t n k).acc = un.acc ∧
          (getUnit t n k).qa = un.qa ∧ r.inv = inv ∧ r.pass = 0 ∧ r.bundle = 0 ∧ r.outs = [] ∧
          (Map.sorted un.acc = true → r.acc = un.acc) ∧
          (r.doomed = true ↔ ∃ x, getCtx s inv.context.toNat = some x ∧ x.state = .timedOut) ∧
          r.passes = (if inv.replaySel = true then inv.count.toNat
            else (Map.getD gr.replay inv.prog.toNat 1).toNat) ∧
          (∀ i, i < 64 → Map.getD r.params i 0 = Map.getD gr.params (64 * inv.prog.toNat + i) 0) ∧
          t.mem = s.mem ∧ t.regs = s.regs) ∧
      (inv.startTick.toNat ≤ s.time.ftc.toNat → invocOk gr inv = false →
        ∃ t, exec (.invocationStart g u) s = .next t ∧ (getUnit t n k).run = none ∧ (getUnit t n k).order = rest ∧
          (getUnit t n k).acc = un.acc ∧ t.mem = s.mem ∧ t.regs = s.regs)) ∧
    (∀ (r : Run) (p : Prog), inTurn → un.run = some r → Map.get? gr.progs r.inv.prog.toNat = some p →
      r.ended = false → ctxReady s r = true → runDead s r = false →
      let slots := bundleSlots p.words r.word
      let r0 : Run := { r with btag := runTag gr r }
      let s2 := if (nthD p.words r.word 0).getLsbD 0 = true then
          traceGroup 1 n k r.inv.tag 0 r.invocNo.toNat r.pass r0.btag.toNat s else s
      let y := runSlots n k (execOrder slots) 0 r0 s2
      (slots.all (waitMet s n k r) = false →
        ∃ t, exec (.bundle g u) s = .next t ∧ t = { s with groups := t.groups } ∧
          (getUnit t n k).run = some { r with cost := r.cost + 1 } ∧ (getUnit t n k).order = un.order ∧
          (getUnit t n k).qa = un.qa ∧ (getUnit t n k).qb = un.qb ∧ (getUnit t n k).acc = un.acc ∧
          (getGroup t n).bufs = gr.bufs) ∧
      (slots.all (waitMet s n k r) = true → y.err = none →
        ∃ t r', exec (.bundle g u) s = .next t ∧ t = { y.st with groups := t.groups } ∧
          (getUnit t n k).run = some r' ∧
          (y.run.bundle + 1 < p.bundles → r'.bundle = y.run.bundle + 1 ∧ r'.pass = y.run.pass ∧ r'.treg = y.run.treg ∧
            r'.ended = y.run.ended) ∧
          (p.bundles ≤ y.run.bundle + 1 → y.run.pass + 1 < y.run.passes →
            r'.bundle = 0 ∧ r'.word = 0 ∧ r'.pass = y.run.pass + 1 ∧ r'.treg = []) ∧
          (p.bundles ≤ y.run.bundle + 1 → y.run.passes ≤ y.run.pass + 1 →
            r'.ended = true ∧ r'.doneAt =
              if s.time.active = true ∧
                (getGroup y.st n).stepLimit < pacedStep (getGroup y.st n) (getUnit y.st n k).lastStep + y.cost then none
              else some s.time.ftc.toNat) ∧
          r'.cost = y.run.cost + 1 + y.cost ∧ r'.acc = y.run.acc ∧ r'.emits = y.run.emits) ∧
      (slots.all (waitMet s n k r) = true → y.err ≠ none →
        ∃ t, exec (.bundle g u) s = .next t ∧ (getUnit t n k).run = none ∧
          (getUnit t n k).acc = (getUnit y.st n k).acc ∧ t.mem = y.st.mem ∧ t.regs = y.st.regs)) ∧
    (∀ (r : Run), inTurn → un.run = some r → r.ended = true →
      (runDead s r = true ∨ (ctxReady s r = true ∧ commitFault s n k (nextsOf r) ≠ none) →
        ∃ t, exec (.invocationCommit g u) s = .next t ∧ nothing t) ∧
      (runDead s r = false → ctxReady s r = true → commitFault s n k (nextsOf r) = none →
        (nextsOf r = [] ∨ downstream s n k = none → writesFree n r s = true →
          ∃ t, exec (.invocationCommit g u) s = .next t ∧ (getUnit t n k).run = none ∧ (getUnit t n k).acc = r.acc ∧
            (getUnit t n k).qa = un.qa.drop r.takenA ∧ (getUnit t n k).qb = un.qb.drop r.takenB ∧
            (getUnit t n k).order = un.order ∧ (r.emits = [] → t.mem = s.mem) ∧ t.regs = s.regs) ∧
        (∀ (d : PipeStation), nextsOf r ≠ [] → downstream s n k = some d → d.group = n → d.unit ≠ k →
          8 < (portQueue (getUnit s n d.unit) d.portB).length + (nextsOf r).length →
          (isWide s n k = true → ∃ t, exec (.invocationCommit g u) s = .next t ∧ nothing t) ∧
          (isWide s n k = false → ∃ t, exec (.invocationCommit g u) s = .next t ∧
            t = { s with groups := t.groups, dbg := (count 7 14 n s).dbg } ∧
            (getUnit t n k).run = some { r with cost := r.cost + 1 } ∧ getUnit t n d.unit = getUnit s n d.unit)) ∧
        (∀ (h : Nat) (d : PipeStation), nextsOf r = [h] → downstream s n k = some d → d.group = n → d.unit ≠ k →
          hasRoom s n d.unit d.portB = true → writesFree n r s = true →
          let grant := Map.get? gr.portGrant (portKey d.unit d.portB)
          (grant = some 1 ∨ (grant = none ∧ portFrozen s n d.unit = false ∧
            gr.offers.find? (fun o => o.unit == d.unit && o.portB == d.portB) = none)) →
          portStepFree s n (portKey d.unit d.portB) = true → (reg s (Reg.trigger n d.unit)).getLsbD 63 = false →
          ∃ t, exec (.invocationCommit g u) s = .next t ∧ (getUnit t n k).run = none ∧ (getUnit t n k).acc = r.acc ∧
            (getUnit t n k).qa = un.qa.drop r.takenA ∧ (getUnit t n k).qb = un.qb.drop r.takenB ∧
            portQueue (getUnit t n d.unit) d.portB = portQueue (getUnit s n d.unit) d.portB ++
              [{ handle := h
                 stamp := match (un.qa.take r.takenA ++ un.qb.take r.takenB).find? (fun q => q.handle == h) with
                   | some q => q.stamp
                   | none => r.doneAt.getD s.time.ftc.toNat }])))
/-! ### Contexts, member groups and tallies (chapter 10) -/

/-- The actions on member groups and contexts (R217-R221, R234, R350), on an object of the half and a device whose
firmware runs and that is not fenced, no word of SRAM or HBM4 holding an error (R122; log entry 94 says what a command
on a record with a bad word does). REFORM with a newer epoch stores the staged members, takes every bound context out
of its round with its sequences at 0 and starts the streams of its ledgers at 0 (R137, R254); with an older one it is
refused with EPOCH_STALE; with the stored epoch and members it changes nothing. DEFINE passes its checks into a
context with nothing expected yet, on chip where a slot is free; UNDEFINE, not in use, takes it out, where no swap
waits for a victim, and frees its buffers; ADVANCE and SETSTEP move its step counter. No memory is written for a
context on chip. (What SETSTEP does in Timed out is log entry 23; swaps that wait are log entry 95.) -/
def Obligations.ContextActionsRun : Prop :=
  ∀ (s : State), s.pwr.porst = true → s.mss.romOnly = false → s.twn.fenced = false →
    s.bpm.sramChk = [] → s.mem.chk = [] →
    (∀ (m : MgNo) (e : BitVec 32), halfRefused s 5 m.toNat = false →
      let n := fld (reg s (Reg.ctxArg 1)) 12 0
      1 ≤ n → n ≤ 4096 →
      ((getMGroup s m.toNat).epoch < e →
        ∃ t, exec (.reform m e) s = .next t ∧ t.lastStatus = .ok ∧ t.ctx.actStatus = .ok ∧
          getMGroup t m.toNat = { chips := stagedChips s n, epoch := e } ∧
          (∀ k, k ≠ m.toNat → getMGroup t k = getMGroup s k) ∧
          (∀ c x, getCtx s c = some x → CtxArg.mgrp x.arg0 = m.toNat →
            ∃ y, getCtx t c = some y ∧ y.expSeq = [] ∧ y.roundOpen = false ∧ y.state ≠ .timedOut ∧ y.arg0 = x.arg0) ∧
          (∀ c, c ∉ boundCtxs s m.toNat → getCtx t c = getCtx s c) ∧
          (∀ l, l < 256 → ltLedgerEn s l = true → ltLedgerCtx s l ∈ boundCtxs s m.toNat →
            (getLedger t l).seqs = []) ∧
          ((∀ c x, getCtx s c = some x → CtxArg.mgrp x.arg0 = m.toNat → x.onChip = true) → t.mem = s.mem) ∧
          t.regs = s.regs) ∧
      (e < (getMGroup s m.toNat).epoch → exec (.reform m e) s = .next { s with
        lastStatus := .epochStale
        ctx := { s.ctx with actStatus := .epochStale, actCode := 7, actCtx := 0, actMgrp := m } }) ∧
      (e = (getMGroup s m.toNat).epoch → (getMGroup s m.toNat).chips = stagedChips s n →
        exec (.reform m e) s = .next { s with
          lastStatus := .ok, ctx := { s.ctx with actStatus := .ok, actCode := 7, actCtx := 0, actMgrp := m } })) ∧
    (∀ (c : CtxNo), halfRefused s 3 c.toNat = false →
      let a := reg s (Reg.ctxArg 0)
      (getCtx s c.toNat = none → s.ctx.table.length < (if claimHeld s 0x20 then 16384 else 1024) →
        unitPresent s (CtxArg.entryUnit a) = true → entryOk s (CtxArg.group a) (CtxArg.entryUnit a) = true →
        (getMGroup s (CtxArg.mgrp a)).chips ≠ [] →
        (CtxArg.countsFirst a = true → CtxArg.arrivals a = 0) →
        (CtxArg.fast a = true → fastUsed s < fastLimit s) → (CtxArg.resident a = true → residentCount s < 768) →
        ∃ t y, exec (.define c) s = .next t ∧ t.lastStatus = .ok ∧ getCtx t c.toNat = some y ∧ y.arg0 = a ∧
          y.timeout.toNat = fld (reg s (Reg.ctxArg 1)) 63 32 ∧ y.step = reg s (Reg.ctxArg 2) ∧ y.expSeq = [] ∧
          y.roundOpen = false ∧
          (onChipCount s + slotsPromised s < 1024 → y.state = .active ∧ y.onChip = true ∧ t.mem = s.mem) ∧
          (∀ k, k ≠ c.toNat → getCtx t k = getCtx s k) ∧ t.groups = s.groups ∧ t.regs = s.regs) ∧
      (∀ x, getCtx s c.toNat = some x → x.arg0 ≠ a → exec (.define c) s = .next { s with
        lastStatus := .resourceBound
        ctx := { s.ctx with actStatus := .resourceBound, actCode := 1, actCtx := c, actMgrp := 0 } })) ∧
    (∀ (c : CtxNo) (x : Ctx), getCtx s c.toNat = some x →
      (ctxInUse s c.toNat = false →
        ∃ t, exec (.undefine c) s = .next t ∧ t.lastStatus = .ok ∧
          ((∀ n ∈ s.ctx.needs, n.waits = false) → t.ctx.table = Map.erase s.ctx.table c.toNat) ∧
          (∀ g, g < 16 → ∀ e ∈ (getGroup t g).bufs, e.2.owner ≠ ownerCtx c.toNat) ∧ t.mem = s.mem ∧ t.regs = s.regs) ∧
      (ctxInUse s c.toNat = true → exec (.undefine c) s = .next { s with
        lastStatus := .resourceBound
        ctx := { s.ctx with actStatus := .resourceBound, actCode := 2, actCtx := c, actMgrp := 0 } }) ∧
      (∃ t, exec (.advance c) s = .next t ∧ t.lastStatus = .ok ∧
        t.ctx = { s.ctx with
          table := Map.set s.ctx.table c.toNat { x with step := x.step + 1, lastAdv := s.time.ftc.toNat }
          actStatus := .ok, actCode := 5, actCtx := c, actMgrp := 0 } ∧
        t.groups = s.groups ∧ (x.onChip = true → t.mem = s.mem) ∧ t.regs = s.regs) ∧
      (x.roundOpen = false → x.state ≠ .timedOut →
        ∃ t, exec (.setstep c) s = .next t ∧ t.lastStatus = .ok ∧
          t.ctx = { s.ctx with
            table := Map.set s.ctx.table c.toNat { x with step := reg s (Reg.ctxArg 2) }
            actStatus := .ok, actCode := 6, actCtx := c, actMgrp := 0 } ∧
          t.groups = s.groups ∧ (x.onChip = true → t.mem = s.mem) ∧ t.regs = s.regs))

/-- Banking (R222, R225-R227). With the firmware running and the device not fenced, BANK of an active on-chip context
that is not RESIDENT, with CTX_BANK bound, waits for its tile boundary, and of a RESIDENT one answers NOT_BANKABLE;
UNBANK asks for a slot. A context that BANK named, or that is the victim of the swap whose turn it is, goes off chip
at its tile boundary, its record of 4 KiB written to the bank and no other octet, its fixed fields least significant
byte lowest (R9); a record read takes the slot that is free for it. (No word of the record is in error, where log entry
94 holds; no swap waits for a victim, log entry 95. The record's length and its layout are log entry 44, the model's
choice; the octets after the fixed fields are free.) -/
def Obligations.ContextsAreBanked : Prop :=
  ∀ (c : CtxNo) (x : Ctx) (s : State), getCtx s c.toNat = some x → s.bpm.sramChk = [] →
    (∀ o, bankOffset s c.toNat = some o → ∀ w ∈ wordsOf o 4096, Map.get? s.mem.chk w = none) →
    (s.pwr.porst = true → s.mss.romOnly = false → s.twn.fenced = false →
      (claimHeld s 0x20 = true → CtxArg.resident x.arg0 = false → x.onChip = true →
        isVictim s c.toNat = false → x.state = .active →
        exec (.bank c) s = .next { s with
          lastStatus := .ok
          ctx := { s.ctx with
            table := Map.set s.ctx.table c.toNat { x with state := .banking }
            needs := s.ctx.needs ++
              [{ at_ := s.time.ftc.toNat, ctx := none, victim := some c.toNat, waits := false }]
            actStatus := .ok, actCode := 3, actCtx := c, actMgrp := 0 } }) ∧
      (CtxArg.resident x.arg0 = true → claimHeld s 0x20 = true →
        exec (.bank c) s = .next { s with
          lastStatus := .notBankable
          ctx := { s.ctx with actStatus := .notBankable, actCode := 3, actCtx := c, actMgrp := 0 } }) ∧
      (x.onChip = false → isNeeded s c.toNat = false → x.state = .banked → onChipCount s + slotsPromised s < 1024 →
        ∃ t, exec (.unbank c) s = .next t ∧ t = { s with ctx := t.ctx, lastStatus := .ok } ∧
          getCtx t c.toNat = some { x with state := .unbanking } ∧ isNeeded t c.toNat = true)) ∧
    ((∀ n ∈ s.ctx.needs, n.waits = false) → s.dbg.dampered = false → bankFree s c.toNat = true →
      (∀ n, s.ctx.needs.find? (fun n => n.victim == some c.toNat) = some n →
        (n.ctx.isSome = true → headNeed s = some n) → atBoundary s c.toNat = true → x.state = .banking →
        let y : Ctx := { x with onChip := false, state := .banked }
        ∃ t, exec (.contextBankAtBoundary c) s = .next t ∧
          t = { s with ctx := t.ctx, dbg := t.dbg, mem := t.mem } ∧
          t.ctx = { s.ctx with
            table := Map.set s.ctx.table c.toNat y
            needs := if n.ctx.isNone then removeFirst n s.ctx.needs
              else s.ctx.needs.map (fun m => if m = n then { m with victim := none } else m) } ∧
          (bankOffset s c.toNat = none → t.mem = s.mem) ∧
          (∀ o, bankOffset s c.toNat = some o → Memory.wf s.mem.cells → ∀ a, Memory.readByte t.mem.cells a =
            if o ≤ a ∧ a < o + 4096 then nthD (ctxRecord y) (a - o) 0 else Memory.readByte s.mem.cells a) ∧
          (∀ i, i < 8 → nthD (ctxRecord y) i 0 = (y.arg0 >>> (8 * i)).setWidth 8)) ∧
      (∀ n, headNeed s = some n → n.ctx = some c.toNat → n.victim = none → x.state = .unbanking →
        ∃ t, exec (.contextSwapInComplete c) s = .next t ∧ t = { s with ctx := t.ctx, dbg := t.dbg } ∧
          t.ctx = { s.ctx with
            table := Map.set s.ctx.table c.toNat { x with onChip := true, state := .active }
            needs := removeFirst n s.ctx.needs }))

/-- A round times out (R231, R232, R320): past the deadline of an open round that is short, with no tile of it in
transit, and not one that ran out in the Banked state and waits for its group to resume, the context is Timed out with
its round closed and its buffers freed, and no invocation that names it at a wait point runs on. (No word of SRAM or
HBM4 holds an error, log entry 94.) -/
def Obligations.RoundsTimeOut : Prop :=
  ∀ (c : CtxNo) (x : Ctx) (n : Nat) (s : State), s.bpm.sramChk = [] → s.mem.chk = [] →
    getCtx s c.toNat = some x → x.state = .active ∨ x.state = .banked →
    x.roundOpen = true → x.timeout ≠ 0 → x.deadline < s.time.ftc.toNat → x.required = some n → x.arrived < n →
    s.dbg.dampered = false → powered s = true → heldOver s x = false → tileInTransit s x c.toNat = false →
    ∃ t, exec (.roundTimeout c) s = .next t ∧
      getCtx t c.toNat = some { x with state := .timedOut, roundOpen := false, counts := [], payloads := [] } ∧
      (∀ k, k ≠ c.toNat → getCtx t k = getCtx s k) ∧
      (∀ g, g < 16 → ∀ e ∈ (getGroup t g).bufs, e.2.owner ≠ ownerCtx c.toNat) ∧
      (∀ g u r, g < 16 → u < 12 → (getUnit s g u).run = some r → r.inv.context.toNat = c.toNat →
        atWaitPoint (getGroup s g) r = true → (getUnit t g u).run = none) ∧
      (x.onChip = true → t.mem = s.mem) ∧ t.regs = s.regs

/-- Tallies (R235, R236, R350, Tables 10.15-10.17), in the device's half. While the firmware runs and the device is
not fenced, a write of VALUE sets it and fires nothing; CFG and RELEASE are stored as their fields are defined,
RELEASE with its sequence at 0 again, a LEAD of 1 to 999 refused. An addition that takes a tally without REARM,
NOTIFY and RELEASE from below THRESHOLD to it or past it fires it once. (No word of SRAM holds an error, log entry
94.) -/
def Obligations.TalliesCountAndFire : Prop :=
  ∀ (t : TallyNo) (s : State), halfRefused s 6 t.toNat = false → s.bpm.sramChk = [] →
    (∀ (v : W64), s.pwr.porst = true → s.mss.romOnly = false → s.twn.fenced = false → Map.sorted s.regs = true →
      (∃ z, exec (.tallyValueWrite t v) s = .next z ∧ z.lastStatus = .ok ∧
        z.ctx = (setTally t.toNat { getTally s t.toNat with value := v.setWidth 48 } s).ctx ∧
        z.groups = s.groups ∧ z.mem = s.mem ∧ z.regs = s.regs ∧ z.host = s.host) ∧
      (∃ z, exec (.tallyCfgWrite t v) s = .next z ∧ z.lastStatus = .ok ∧ z.ctx = s.ctx ∧
        reg z (Reg.tallyCfg t.toNat) = v &&& 0xE000FFFFFFFFFFFF#64 ∧
        (∀ a, a ≠ Reg.tallyCfg t.toNat → reg z a = reg s a) ∧ z.groups = s.groups ∧ z.mem = s.mem) ∧
      (fld v 31 0 = 0 ∨ 1000 ≤ fld v 31 0 →
        ∃ z, exec (.tallyReleaseWrite t v) s = .next z ∧ z.lastStatus = .ok ∧
          z.ctx = (setTally t.toNat { getTally s t.toNat with relSeq := 0 } s).ctx ∧
          reg z (Reg.tallyRelease t.toNat) = v ∧ (∀ a, a ≠ Reg.tallyRelease t.toNat → reg z a = reg s a) ∧
          z.groups = s.groups ∧ z.mem = s.mem) ∧
      (0 < fld v 31 0 → fld v 31 0 < 1000 →
        exec (.tallyReleaseWrite t v) s = .next { s with lastStatus := .fieldInvalid })) ∧
    (∀ (n : Nat), (reg s (Reg.tallyCfg t.toNat)).getLsbD 63 = false →
      (reg s (Reg.tallyCfg t.toNat)).getLsbD 62 = false → (reg s (Reg.tallyCfg t.toNat)).getLsbD 61 = false →
      let th := fld (reg s (Reg.tallyCfg t.toNat)) 47 0
      let x := getTally s t.toNat
      x.value.toNat < th → th ≤ x.value.toNat + n → x.value.toNat + n < 2 ^ 48 →
      getTally (tallyAdd t.toNat n s) t.toNat =
        { x with value := BitVec.ofNat 48 (x.value.toNat + n), gen := x.gen + 1 })
/-! ### Expert routing (chapter 11) -/

/-- Layer tables and placement (R244-R246, R294), in the device's half, with PLACEMENT bound, the firmware running and
the device not fenced. A word of a table that is or becomes VALID is stored where the table as it would stand passes
the checks, and one of another table where its fields are in range, if no round of the table's contexts is open;
otherwise it is refused with the status and the number of the check, and the table stays; a stored word starts the
streams of a VALID table's book again (R257). A placement entry is stored, in the region of HBM4 and no other octet of
memory, unless its bank is in force and a round is open; then it is refused. (The entry's place in the region, its
eight octets least significant first, is log entry 44, the model's choice: R246 gives no layout. That a refused write
is neither logged nor counted is log entry 113, that only an open round refuses one log entry 93.) -/
def Obligations.RoutingTablesAreChecked : Prop :=
  ∀ (l : LtabNo) (s : State), s.pwr.porst = true → s.mss.romOnly = false → s.twn.fenced = false →
    claimHeld s 0x21 = true → Map.sorted s.regs = true →
    let refused (x : Status) (ch : BitVec 8) : State := { s with
      lastStatus := x, moe := { s.moe with wrStatus := x, wrCheck := ch, wrLtab := l } }
    (∀ (w : BitVec 3) (v : W64), halfRefused s 9 l.toNat = false →
      let s1 := setReg s (Reg.layer l.toNat w.toNat) (v &&& ltMask w.toNat)
      let checked : Prop := ltValid s l.toNat = true ∨ ltValid s1 l.toNat = true
      ((checked → ltCheck s1 l.toNat = 0) → (¬ checked → ltWordOk w.toNat v = true) → ltRoundOpen s l.toNat = false →
        ∃ t, exec (.layerTableWrite l w v) s = .next t ∧ t.lastStatus = .ok ∧ t.moe.wrStatus = .ok ∧
          reg t (Reg.layer l.toNat w.toNat) = v &&& ltMask w.toNat ∧
          (∀ a, a ≠ Reg.layer l.toNat w.toNat → reg t a = reg s a) ∧ t.groups = s.groups ∧ t.mem = s.mem ∧
          t.ctx = s.ctx ∧
          (∀ b, Map.get? s.moe.books l.toNat = some b → ltValid s1 l.toNat = true →
            Map.get? t.moe.books l.toNat = some { b with streams := [] })) ∧
      (¬ checked → ltWordOk w.toNat v = false →
        exec (.layerTableWrite l w v) s = .next (refused .fieldInvalid 0)) ∧
      (checked → ltCheck s1 l.toNat = 1 ∨ ltCheck s1 l.toNat = 2 →
        exec (.layerTableWrite l w v) s = .next (refused .stationAbsent (BitVec.ofNat 8 (ltCheck s1 l.toNat)))) ∧
      (checked → ltCheck s1 l.toNat = 3 → exec (.layerTableWrite l w v) s = .next (refused .resourceBound 3)) ∧
      ((checked → ltCheck s1 l.toNat = 0) → (¬ checked → ltWordOk w.toNat v = true) → ltRoundOpen s l.toNat = true →
        exec (.layerTableWrite l w v) s = .next (refused .resourceBound 4))) ∧
    (∀ (b : BitVec 1) (e : BitVec 13) (v : W64), halfRefused s 8 l.toNat = false →
      let v1 := v &&& 0xFF00FFFF0000FFFF#64
      (b.toNat ≠ ltPbank s l.toNat ∨ ltRoundOpen s l.toNat = false →
        ∃ t, exec (.placementWrite b l e v) s = .next t ∧ t.lastStatus = .ok ∧
          reg t (Reg.place b.toNat l.toNat e.toNat) = v1 ∧
          (∀ a, a ≠ Reg.place b.toNat l.toNat e.toNat → reg t a = reg s a) ∧ t.groups = s.groups ∧ t.ctx = s.ctx ∧
          (∀ o, placeOffset s b.toNat l.toNat e.toNat = some o → Memory.wf s.mem.cells →
            ∀ a, Memory.readByte t.mem.cells a = if o ≤ a ∧ a < o + 8 then (leBytes 8 v1.toNat).getD (a - o) 0
              else Memory.readByte s.mem.cells a)) ∧
      (b.toNat = ltPbank s l.toNat → ltRoundOpen s l.toNat = true →
        exec (.placementWrite b l e v) s = .next (refused .resourceBound 4)))

/-- A book's step (R252-R258), with the book enabled, its group running, its placement look-ups free and none of the
entries in error: statistics of an activation tile whose score tiles are all held, then its delivery to the sort unit;
with every gate output held the claims, at least two tiles to each ledger; with the verdicts in, admission, which ends
the intake part and begins the combine part, where a buffer of the largest pool is free for every dispatch tile of at
most 256 rows or none is to be sent; and the combine, which ends the step. A ledger whose round is complete answers
or, on a record out of order or of its range, sends nothing (R259), and is empty again (that it is emptied then, log
entry 46). Class I admission (R254, R256): of the choices of an expert at
most its verdict's budget are admitted, every choice admitted or dropped, and the admitted ones in their order. -/
def Obligations.BooksAndLedgersStep : Prop :=
  (∀ (l : LtabNo) (s : State),
    let b := getBook s l.toNat
    let g := ltBookGroup s l.toNat
    let placesGood : Prop := s.bpm.sramChk = [] ∧ placesFree s l.toNat 0 (ltExperts s l.toNat) = true ∧
      ∀ o, placeOffset s (ltPbank s l.toNat) l.toNat 0 = some o →
        ∀ e ∈ s.mem.chk, e.1 < o ∨ o + 8 * ltExperts s l.toNat ≤ e.1
    (ltBookEn s l.toNat = true → groupRuns s g = true →
      (∀ a, statsReady s l.toNat b = some a →
        let b' : Book := { b with
          phase := if b.phase = 1 then 2 else b.phase, statsDone := b.statsDone ++ [a.token0] }
        ∃ t, exec (.bookStatistics l) s = .next t ∧ getBook t l.toNat = b' ∧ t.mem = s.mem ∧ t.regs = s.regs ∧
          t.ctx = s.ctx ∧ (ltNch s l.toNat = 1 → t = setBook l.toNat b' s)) ∧
      (∀ a, b.acts.find? (fun a => b.statsDone.contains a.token0 && !b.gated.contains a.token0) = some a →
        ∃ t, exec (.bookGateDeliver l) s = .next t ∧
          getBook t l.toNat = { b with gated := b.gated ++ [a.token0] } ∧
          (getGroup t g).offers.map (·.handle) =
            (getGroup s g).offers.map (·.handle) ++ (scoresOf b a.token0).map (·.handle) ∧
          t.mem = s.mem ∧ t.regs = s.regs ∧ t.ctx = s.ctx) ∧
      (placesGood → b.phase = 1 ∨ b.phase = 2 → b.acts.length = ltActTiles s l.toNat →
        b.gates.length = ltActTiles s l.toNat * ltNch s l.toNat →
        ∃ t, exec (.bookClaims l) s = .next t ∧ (getBook t l.toNat).phase = 3 ∧ (getBook t l.toNat).gates = [] ∧
          (getBook t l.toNat).choices = (bookChoices s l.toNat b).1 ∧
          (Map.getD s.sw.retq g []).length + 2 * ltNl s l.toNat ≤ (Map.getD t.sw.retq g []).length ∧
          t.mem = s.mem ∧ t.regs = s.regs ∧ t.ctx = s.ctx) ∧
      (placesGood → b.phase = 4 → b.closed = true → b.combining = false → (∀ a ∈ b.acts, a.rows ≤ 256) →
        let adm := if ltClassT s l.toNat = true then admitT b else (admitI b).1
        let pairs := ((bookTokens b.acts).map (fun k => (tokenPairs s l.toNat k adm).1)).flatten
        let ds := dispatchesOf s l.toNat b.acts pairs
        ds = [] ∨ (poolCount s g 5 ≤ 262144 ∧
          ds.length + ((getGroup s g).bufs.filter (fun e => handlePool e.1 == 5)).length ≤ poolCount s g 5) →
        ∃ t, exec (.bookApply l) s = .next t ∧ (getBook t l.toNat).phase = 0 ∧
          (getBook t l.toNat).combining = true ∧ (getBook t l.toNat).cActs = b.acts ∧
          (getBook t l.toNat).cStep = b.step ∧ (getBook t l.toNat).pairs = pairs ∧
          (getBook t l.toNat).dispatches = ds ∧
          (getBook t l.toNat).cSkipped = BitVec.ofNat 32
            ((bookTokens b.acts).filter (fun k => (tokenPairs s l.toNat k adm).1.isEmpty)).length ∧
          t.mem = s.mem ∧ t.regs = s.regs ∧ t.ctx = s.ctx) ∧
      (∀ s1, b.combining = true → b.returned = true → b.cActs.foldl (combineOne l.toNat b) (some s) = some s1 →
        ∃ t, exec (.bookCombine l) s = .next t ∧ (getBook t l.toNat).combining = false ∧
          (getBook t l.toNat).cActs = [] ∧ (getBook t l.toNat).dispatches = [] ∧
          (getBook t l.toNat).skipped = b.cSkipped ∧ t.mem = s.mem ∧ t.regs = s.regs ∧ t.ctx = s.ctx)) ∧
    (ltLedgerEn s l.toNat = true → (getLedger s l.toNat).complete = true →
      groupRuns s (ltLedgerGroup s l.toNat) = true → placesGood →
      ∃ t, exec (.ledgerVerdict l) s = .next t ∧ (getLedger t l.toNat).recs = [] ∧
        (getLedger t l.toNat).complete = false ∧
        ((getLedger s l.toNat).recs.all (fun e => ledgerGood s l.toNat e.2) = false → t.sw = s.sw) ∧
        t.mem = s.mem ∧ t.regs = s.regs ∧ t.ctx = s.ctx ∧ t.groups = s.groups)) ∧
  (∀ (b : Book),
    (∀ e, ((admitI b).1.filter (fun c => bits c.w1.toNat 12 0 == e)).length ≤
      budgetOf (b.verdicts.map (·.2)).flatten e) ∧
    (admitI b).1.length + (admitI b).2 = b.choices.length ∧ List.Sublist (admitI b).1 b.choices)
/-! ### The cord (chapter 13) -/

/-- Staging, VERIFY, LOAD and the apply (R284, R296, R298, R299), while the firmware runs. While no load runs a
staging write sets its eight octets, and VERIFY shows the verdict of the checks on the staged image and applies
nothing. LOAD of an image that passes, with no cord in force or the reload conditions met, begins to apply it, STATE
2; while a load runs, each of them is refused. The apply puts the structure in force, STATE 3, with its enables,
serial and digest, and frees every buffer; member groups and tallies stay where the split of SRAM stays, 48, 32 and 64
before a first cord, and are emptied where it changes. (That the verdict comes with the command, and STATE 2 stands
from LOAD to the apply, is log entry 47; what of table SRAM a changed split empties, entry 98.) -/
def Obligations.CordIsLoaded : Prop :=
  (∀ (s : State), s.pwr.porst = true → s.mss.romOnly = false → s.cord.action = .idle →
    let img := stagedImage s
    (∀ (off : BitVec 22) (v : W64), exec (.cordStageWrite off v) s = .next { s with
      lastStatus := .ok
      cord := { s.cord with staged :=
        (leBytes 8 v.toNat).zipIdx.foldl (fun m e => setStore m (off.toNat / 8 * 8 + e.2) e.1) s.cord.staged } }) ∧
    (cordVerdict s img = none → exec .cordVerify s = .next { s with
      lastStatus := .ok
      cord := { s.cord with status := .ok, detail := 0, section_ := 0, resource := 0, claimA := 0, claimB := 0 } }) ∧
    (∀ e, cordVerdict s img = some e → exec .cordVerify s = .next { s with
      lastStatus := .ok
      cord := { s.cord with
        status := e.status, detail := BitVec.ofNat 8 e.detail, section_ := BitVec.ofNat 8 e.section_
        resource := BitVec.ofNat 8 e.resource, claimA := BitVec.ofNat 8 e.claimA
        claimB := BitVec.ofNat 8 e.claimB } }) ∧
    (s.cord.cfg = none ∨ reloadOk s = true → cordVerdict s img = none → exec .cordLoad s = .next { s with
      lastStatus := .ok
      cord := { s.cord with
        status := .ok, detail := 0, section_ := 0, resource := 0, claimA := 0, claimB := 0, state := 2
        activeImg := img, action := .applying img (cordCfgOf img) } }) ∧
    (s.cord.cfg ≠ none → reloadOk s = false → exec .cordLoad s = .next { s with
      lastStatus := .ok
      cord := { s.cord with
        status := .resourceBound, detail := 1, section_ := 0, resource := 0, claimA := 0, claimB := 0 } })) ∧
  (∀ (img : List Byte) (c : CordCfg) (s : State), s.pwr.porst = true → s.mss.romOnly = false →
    s.cord.action = .applying img c → Map.sorted s.regs = true →
    (∀ (off : BitVec 22) (v : W64), exec (.cordStageWrite off v) s = .next { s with lastStatus := .resourceBound }) ∧
    exec .cordVerify s = .next { s with lastStatus := .resourceBound } ∧
    exec .cordLoad s = .next { s with lastStatus := .resourceBound } ∧
    ∃ t, exec .cordApply s = .next t ∧ t.cord.cfg = some c ∧ t.cord.state = 3 ∧ t.cord.action = .idle ∧
      t.cord.serial = c.serial ∧ t.cord.digest = cordDigest img ∧ t.cord.floor = s.cord.floor ∧
      t.mss.store.cordSerial = c.serial ∧ reg t Reg.dbgEnable = c.enables ∧
      (∀ g, g < 16 → (getGroup t g).bufs = []) ∧ t.mem = s.mem ∧
      (splitOf s.cord.cfg = splitOf (some c) → t.ctx = s.ctx) ∧
      (splitOf s.cord.cfg ≠ splitOf (some c) → t.ctx.groups = [] ∧ t.ctx.tallies = []))

/-- Run-time bindings and the floor (R293, R300, R301, R336, R344), while the firmware runs. With a cord in force and
no load running, BIND of an allowed pair neither of which is bound records it; UNBIND of a run-time binding whose
feature is off takes it out, any other binding stays, and one that names no claimant or resource of Table 13.4 is
refused with FIELD_INVALID (R12). CRD_FLOOR rises and is sealed in the digest store, whose
copy in force then holds it, but while a firmware image is being programmed the write of the store waits; a lower
value is refused with RESOURCE_BOUND. -/
def Obligations.BindingsAndFloor : Prop :=
  (∀ (v : W64) (s : State), s.pwr.porst = true → s.mss.romOnly = false → s.cord.action = .idle → s.cord.cfg ≠ none →
    let x := bindOf v
    (pairOk x = true → claimHeld s x.claimant.toNat = false → resourceTaken s x = false →
      ∃ t, exec (.bind v) s = .next t ∧ t = { s with cord := t.cord, mss := t.mss, lastStatus := .ok } ∧
        Map.get? t.cord.claims x.claimant.toNat =
          some { runtime := true, resource := x.resource, base := x.base, len := x.len } ∧
        ∀ k, k ≠ x.claimant.toNat → Map.get? t.cord.claims k = Map.get? s.cord.claims k) ∧
    (pairOk x = true → claimHeld s x.claimant.toNat = true →
      exec (.bind v) s = .next { s with lastStatus := .resourceBound }) ∧
    (pairOk x = false → exec (.bind v) s = .next { s with lastStatus := .cordRejected }) ∧
    (bindFieldsOk v = false → exec (.unbind v) s = .next { s with lastStatus := .fieldInvalid }) ∧
    (∀ y, bindFieldsOk v = true → claimOf s (fld v 55 48) = some y → y.runtime = true →
      featureOn s (fld v 55 48) = false →
      ∃ t, exec (.unbind v) s = .next t ∧ t = { s with cord := t.cord, mss := t.mss, lastStatus := .ok } ∧
        t.cord = { s.cord with claims := Map.erase s.cord.claims (fld v 55 48), auxBefore := t.cord.auxBefore }) ∧
    (∀ y, bindFieldsOk v = true → claimOf s (fld v 55 48) = some y →
      y.runtime = false ∨ featureOn s (fld v 55 48) = true →
      exec (.unbind v) s = .next { s with lastStatus := .resourceBound })) ∧
  (∀ (v : W64) (s : State), s.pwr.porst = true → s.mss.romOnly = false →
    (v.toNat < s.cord.floor.toNat → exec (.floorWrite v) s = .next { s with lastStatus := .resourceBound }) ∧
    (s.cord.floor.toNat ≤ v.toNat → ∃ t, exec (.floorWrite v) s = .next t ∧
      t = { s with lastStatus := .ok, cord := { s.cord with floor := v }, mss := t.mss } ∧
      t.mss.store = { s.mss.store with floor := v } ∧
      (programming s = false → storeInForce t.mss = some t.mss.store) ∧
      (programming s = true → t.mss.sealWait = true ∧ t.mss.storeA = s.mss.storeA ∧ t.mss.storeB = s.mss.storeB)))
/-! ### The host link (chapter 14) -/

/-- The hops (R303, R304, R306), out of reset. HL_UP going down takes HL_DN with it and clears the chain address;
HL_DN going down leaves HL_UP and what it holds. A trained hop sends HELLO; when the peer's HELLO has come and one
with SEEN = 1 goes out, the hop is up at the highest common version. ACK releases the packets up to the one named, and
waiting packets may then be sent; NAK resends from the one named, and 20 µs without an acknowledgement resend all;
after sixteen resends of the oldest the hop is down. (What a fallen hop loses, that HL_UP keeps what it holds, and that
the exchange asks no SEEN of the peer are log entry 50; the DST and HSEQ of HELLO are entry 102, the model's choice.) -/
def Obligations.HostHopsRun : Prop :=
  (∀ (s : State), s.pwr.porst = true → exec .hostLinkDown s = .next { s with host := { s.host with
    hopUp := HopSt.reset, hopDn := HopSt.reset, chainAddr := 0xFF#8 } }) ∧
  (∀ (s : State), s.pwr.porst = true → exec .hlDnDown s = .next { s with host := { s.host with
    hopDn := HopSt.reset } }) ∧
  (∀ (h : Hop) (loss : List Nat) (s : State), hopMayTrain s h = true → (getHop s h).up = false →
    ∃ t, exec (.hostLinkTrained ⟨h, loss⟩) s = .next t ∧
      t = { s with
        host := t.host
        wire := .packet h (pktOctets (hopControl s 0x0B#8 [hopOffers s h, 0, 0, 0, 0, 0, 0, 0])) :: s.wire } ∧
      getHop t h = { HopSt.reset with trained := true, loss := loss }) ∧
  (∀ (h : Hop) (offers : Byte) (s : State), hopMayTrain s h = true → (getHop s h).up = false →
    (getHop s h).trained = true → (getHop s h).helloRx = some offers → commonVersion (hopOffers s h) offers ≠ 0 →
    ∃ t, exec (.hostHelloTimer h) s = .next t ∧
      t = { s with
        host := t.host
        wire := .packet h (pktOctets (hopControl s 0x0B#8 [hopOffers s h, 1, 0, 0, 0, 0, 0, 0])) :: s.wire } ∧
      getHop t h = { HopSt.reset with
        trained := true, up := true, version := commonVersion (hopOffers s h) offers }) ∧
  (∀ (h : Hop) (header rest : List Byte) (s : State),
    let b := header ++ rest
    pktCrcOk b = true → (pktOf b).ty = 0x0B#8 → oneHopOk (pktOf b) = true →
    hopMayTrain s h = true → (getHop s h).up = false → (getHop s h).trained = true → (getHop s h).seenSent = false →
    ∃ t, exec (.hostHello h header rest) s = .next t ∧ t = { s with host := t.host, mss := t.mss } ∧
      getHop t h = { getHop s h with helloRx := some (payloadByte (pktOf b) 0) }) ∧
  (∀ (h : Hop) (b : List Byte) (done rest : List (Byte × HostPkt)) (e : Byte × HostPkt) (s : State),
    s.pwr.porst = true → pktCrcOk b = true → (pktOf b).ty = 0x0C#8 → oneHopOk (pktOf b) = true →
    (getHop s h).trained = true → (getHop s h).up = true → (getHop s h).unacked = done ++ e :: rest →
    e.1 = payloadByte (pktOf b) 1 → (∀ x ∈ done, x.1 ≠ e.1) →
    let resent : List WireOut := ((e :: rest).map (fun x => WireOut.packet h (pktOctets x.2))).reverse
    (payloadByte (pktOf b) 0 = 1 →
      ∃ t more, exec (.hostLinkAck h b) s = .next t ∧ (getHop t h).unacked = rest ++ more ∧
        t.mem = s.mem ∧ t.regs = s.regs ∧ ((getHop s h).own = [] → (getHop s h).fwd = [] →
          t = { s with host := t.host, mss := t.mss } ∧
          getHop t h = { getHop s h with unacked := rest, resends := 0 })) ∧
    (payloadByte (pktOf b) 0 = 2 → done ≠ [] → some e ≠ done.head? →
      ∃ t, exec (.hostLinkNak h b) s = .next t ∧ t = { s with mss := t.mss, wire := resent ++ s.wire }) ∧
    (payloadByte (pktOf b) 0 = 2 → done = [] → (getHop s h).resends < 16 →
      ∃ t, exec (.hostLinkNak h b) s = .next t ∧
        t = { s with host := t.host, mss := t.mss, wire := resent ++ s.wire } ∧
        getHop t h = { getHop s h with resends := (getHop s h).resends + 1 })) ∧
  (∀ (h : Hop) (s : State), s.pwr.porst = true → (getHop s h).up = true → (getHop s h).unacked ≠ [] →
    ((getHop s h).resends < 16 →
      ∃ t, exec (.hostHopRetryTimeout h) s = .next t ∧
        t = { s with
          host := t.host
          wire := ((getHop s h).unacked.map (fun x => WireOut.packet h (pktOctets x.2))).reverse ++ s.wire } ∧
        getHop t h = { getHop s h with resends := (getHop s h).resends + 1 }) ∧
    (16 ≤ (getHop s h).resends →
      ∃ t, exec (.hostHopRetryTimeout h) s = .next t ∧ getHop t h = HopSt.reset ∧ t.mem = s.mem ∧ t.regs = s.regs))

/-- Packets of the host link (R304-R309, R314, R343), with a good CRC, on a hop that is up and in turn, out of reset,
where `s1` is the state with the packet accepted on HL_UP and acknowledged. An ENUM gives an unassigned device its
chain address. RD is answered with the registers read, WR writes its words. A record of a CMD enters its group's FIFO.
A BULK for the update stores its octets. A malformed packet is counted and logged; one from HL_UP for a device further
down goes there, and one from HL_DN for the adapter goes up; one with a bad CRC is answered with one NAK. Completions
and the keep-alive watch (R312, R314). With room on HL_UP the records at the head of the completion queue, up to the
limit of the chain's version, leave in one CPL packet, and the rest keep their order. PERIOD µs without a packet set
the watch's flag and are logged. (A read of a context's state or of a tally reads its record in memory besides: that
clause leaves those addresses to `readWords`. The acknowledgement at once is log entry 50, the DST and HSEQ of the NAK
packet entry 102, the model's choice, and which packets count for the watch entry 111.) -/
def Obligations.HostPacketsAreHandled : Prop :=
  (∀ (b : List Byte) (s : State), s.pwr.porst = true → pktCrcOk b = true →
    let p := pktOf b
    let s1 := hopAccept .up (hopHeard .up s)
    (s.host.hopUp.up = true → p.hseq = s.host.hopUp.rxExp → forHere s p = true → pktOk s p = true →
      s.mss.romOnly = false →
      (p.ty = 0x07#8 → s.host.chainAddr = 0xFF#8 → payloadByte p 0 ≠ 0 → (payloadByte p 0).toNat ≤ 32 →
        ∃ t, exec (.enum b) s = .next t ∧ t.host.chainAddr = payloadByte p 0 ∧ t.mem = s.mem ∧ t.regs = s.regs) ∧
      (p.ty = 0x01#8 → s.host.hopUp.own = [] → s.host.hopUp.fwd = [] → s.host.hopUp.unacked.length < 128 →
        let r := readWords (pktCount p) (pktAddr p) s1
        ∃ t q, exec (.rd b) s = .next t ∧
          t = { r.2 with host := t.host, wire := .packet .up (pktOctets q) :: r.2.wire } ∧
          q.ty = 0x02#8 ∧ q.reqId = p.reqId ∧ q.payload = r.1.flatMap (fun w => beBytes 8 w.toNat) ∧
          ((∀ i, i < pktCount p → 
              (pktAddr p + 8 * i < 0x800100000 ∨ 0x800200000 ≤ pktAddr p + 8 * i) ∧
              (pktAddr p + 8 * i < 0x810000000 ∨ 0x810040000 ≤ pktAddr p + 8 * i)) →
            r.2 = s1 ∧ r.1 = (upTo (pktCount p)).map (fun i => regRead s1 (pktAddr p + 8 * i)))) ∧
      (p.ty = 0x03#8 → none ∉ s.host.hopUp.own →
        let r := writeWords ((chunksOf 8 (p.payload.drop 8)).map (fun b => BitVec.ofNat 64 (fromBe b))) (pktAddr p) 0 s1
        ∃ t, exec (.wr b) s = .next t ∧
          t = { r.2.2 with host := t.host, wire := t.wire, lastStatus := r.1 }) ∧
      (p.ty = 0x05#8 → p.payload.length = 32 → recordOk p.payload = true → s.twn.fenced = false →
        let g := recFld p.payload 1 1
        (getGroup s g).fifo.length < 256 →
        ∃ t, exec (.cmd b) s = .next t ∧ t = { s1 with groups := t.groups } ∧
          (getGroup t g).fifo = (getGroup s g).fifo ++ [p.payload] ∧ ∀ k, k ≠ g → getGroup t k = getGroup s k) ∧
      (p.ty = 0x0A#8 → fromBe (slice p.payload 0 2) = 0 → s.mss.updState = 1 →
        let off := fromBe (slice p.payload 2 6)
        let data := p.payload.drop 8
        off % 8 = 0 → data.length % 8 = 0 → off + data.length ≤ s.mss.stagedLen →
        ∃ t, exec (.bulk b) s = .next t ∧ t = { s1 with mss := t.mss } ∧
          t.mss.staging = data.zipIdx.foldl (fun m e => setStore m (off + e.2) e.1) s.mss.staging ∧
          ∀ i, i < data.length / 8 → off / 8 + i ∈ t.mss.words)) ∧
    (s.host.hopUp.up = true → oneHop p = false → p.hseq = s.host.hopUp.rxExp → forHere s p = true → pktOk s p = false →
      exec (.hostPacketMalformed .up b) s = .next (logEv 0x0181 0 0xFF none [p.reqId.toNat] (count 1 1 0 s1))) ∧
    (∀ h, oneHop p = true → oneHopOk p = false → (getHop s h).trained = true →
      exec (.hostPacketMalformed h b) s =
        .next (logEv 0x0181 0 0xFF none [p.reqId.toNat] (count 1 1 0 (hopHeard h s)))) ∧
    (s.host.hopUp.up = true → oneHop p = false → p.hseq = s.host.hopUp.rxExp → s.host.chainAddr ≠ 0xFF#8 →
      s.host.chainAddr.toNat < p.dst.toNat → p.dst.toNat ≤ 32 → s.host.hopDn.up = true → s.host.hopDn.own = [] →
      s.host.hopDn.fwd = [] → s.host.hopDn.unacked.length < 128 →
      ∃ t, exec (.hostPacketForward .up b) s = .next t ∧
        t = { s1 with
          host := t.host, wire := .packet .dn (pktOctets { p with hseq := s.host.hopDn.txSeq }) :: s1.wire } ∧
        t.host.hopDn.txSeq = s.host.hopDn.txSeq + 1) ∧
    (s.host.hopDn.up = true → oneHop p = false → p.hseq = s.host.hopDn.rxExp → p.dst = 0 → s.host.hopUp.up = true →
      s.host.hopUp.own = [] → s.host.hopUp.fwd = [] → s.host.hopUp.unacked.length < 128 →
      let s2 := hopAccept .dn (hopHeard .dn s)
      ∃ t, exec (.hostPacketForward .dn b) s = .next t ∧
        t = { s2 with
          host := t.host, wire := .packet .up (pktOctets { p with hseq := s.host.hopUp.txSeq }) :: s2.wire } ∧
        t.host.hopUp.txSeq = s.host.hopUp.txSeq + 1)) ∧
  (∀ (h : Hop) (header rest : List Byte) (s : State), s.pwr.porst = true → pktCrcOk (header ++ rest) = false →
    (getHop s h).up = true →
    (getHop s h).nakPending = false →
    ∃ t, exec (.hostPacketCorrupt h header rest) s = .next t ∧
      t = { s with
        host := t.host
        wire := .packet h (pktOctets (hopControl s 0x0C#8 [2#8, (getHop s h).rxExp, 0, 0, 0, 0, 0, 0])) :: s.wire } ∧
      getHop t h = { getHop s h with nakPending := true }) ∧
  ((∀ (s : State), s.pwr.porst = true → s.host.hopUp.up = true → s.host.hopUp.unacked.length < 128 →
    s.host.cplq ≠ [] → s.host.hopUp.own = [] → s.host.hopUp.fwd = [] →
    ∃ t q more, exec .completionSend s = .next t ∧ t.wire = .packet .up (pktOctets q) :: s.wire ∧ q.ty = 0x06#8 ∧
      q.payload = (s.host.cplq.take (cplLimit s)).flatMap cplBytes ∧
      t.host.cplq = s.host.cplq.drop (cplLimit s) ++ more ∧
      t.mem = s.mem ∧ t.regs = s.regs ∧ t.ctx = s.ctx) ∧
  (∀ (s : State), s.pwr.porst = true → (reg s Reg.wdCfg).getLsbD 63 = true → (timerHeld s 0x13).isSome = true →
    exec .hostWatchdogExpire s = .next (logEv 0x000D 2 0xFF none [fld (reg s Reg.wdCfg) 31 0]
      { s with host := { s.host with wdExpired := true } })))

/-- A read of PWR_RAILS (R394): the word sent back, when the RD packet is accepted, holds the enables in [5:0], in
[21:16] the power-good inputs, the last rail lost, the code last sent, and zeros. (The level of an input whose enable
has dropped or risen is open until the board says it, and shows then as the board's, log entry 54.) -/
def Obligations.RailsAreShown : Prop :=
  ∀ (b : List Byte) (s : State), s.pwr.porst = true → pktCrcOk b = true → s.host.hopUp.up = true →
    let p := pktOf b
    p.hseq = s.host.hopUp.rxExp → forHere s p = true →
    pktOk s p = true → s.mss.romOnly = false → p.ty = 0x01#8 → pktAddr p = 0xE00000040 → pktCount p = 1 →
    s.host.hopUp.own = [] → s.host.hopUp.fwd = [] → s.host.hopUp.unacked.length < 128 →
    ∃ t q, ∃ w : W64, exec (.rd b) s = .next t ∧ t.wire.head? = some (.packet .up (pktOctets q)) ∧ q.ty = 0x02#8 ∧
      q.reqId = p.reqId ∧ q.payload = beBytes 8 w.toNat ∧ w.extractLsb' 0 6 = s.pwr.en ∧
      w.extractLsb' 40 8 = s.pwr.vidCode ∧ w.extractLsb' 32 3 = s.pwr.lastLost ∧
      w.extractLsb' 16 6 = s.pwr.pg ||| (s.pwr.pgOpen &&& Config.pgInputs s.freeCtr s.time.raw) ∧
      w &&& 0xFFFF00F8FFC0FFC0#64 = 0#64

/-- Writes of registers (R11, R12, R308, R362), while the firmware runs. A device that is fenced refuses a write to
the switch, scheduler, station, context, routing and steering blocks, aligned, with TWIN_FENCED and no effect; a write
of an unused block or of no multiple of 8 changes nothing; a register with a range takes a value within it and refuses
one outside; and flags are cleared by ones. -/
def Obligations.RegisterWritesFollowTheirTables : Prop :=
  (∀ (a : BitVec 48) (v : W64) (s : State), s.pwr.porst = true → s.mss.romOnly = false → s.twn.fenced = true →
    a.toNat % 8 = 0 →
    a.toNat / 0x100000000 ∈ [3, 4, 7, 8, 9, 10] →
    exec (.registerWrite a v) s = .next { s with lastStatus := .twinFenced }) ∧
  (∀ (a : BitVec 48) (v : W64) (s : State), s.pwr.porst = true → s.mss.romOnly = false →
    a.toNat % 8 ≠ 0 ∨ 15 ≤ a.toNat / 0x100000000 →
    exec (.registerWrite a v) s = .next { s with lastStatus := .ok }) ∧
  (∀ (v : W64) (s : State), s.pwr.porst = true → s.mss.romOnly = false → Map.sorted s.regs = true →
    (fld v 6 0 ≤ 64 → ∃ t, exec (.registerWrite 0x600000200#48 v) s = .next t ∧
      t = { s with regs := t.regs, lastStatus := .ok } ∧ reg t Reg.redCfg = v &&& 0x7F#64 ∧
      ∀ b, b ≠ Reg.redCfg → reg t b = reg s b) ∧
    (64 < fld v 6 0 → exec (.registerWrite 0x600000200#48 v) s = .next { s with lastStatus := .fieldInvalid }) ∧
    (1067 ≤ fld v 15 0 → fld v 15 0 ≤ 1850 → ∃ t, exec (.registerWrite 0x200001010#48 v) s = .next t ∧
      t = { s with regs := t.regs, lastStatus := .ok } ∧ reg t Reg.ctGuard = v &&& 0xFFFF#64) ∧
    (fld v 15 0 < 1067 → exec (.registerWrite 0x200001010#48 v) s = .next { s with lastStatus := .fieldInvalid })) ∧
  (∀ (v : W64) (s : State), s.pwr.porst = true → s.mss.romOnly = false →
    exec (.registerWrite 0x200001008#48 v) s = .next { s with
    lastStatus := .ok
    time := { s.time with underrun := s.time.underrun &&& ~~~(BitVec.ofNat 16 (fld v 47 32)) } }) ∧
  (∀ (v : W64) (s : State), s.pwr.porst = true → s.mss.romOnly = false →
    exec (.registerWrite 0xE00000020#48 v) s = .next { s with
    lastStatus := .ok
    pwr := { s.pwr with exhausted := s.pwr.exhausted && !v.getLsbD 1, warn := s.pwr.warn && !v.getLsbD 0 } })
/-! ### Power and start (chapters 15 and 19) -/

/-- The commands of Table 15.2 that enter or leave Off, Banked and the starts (R316, R318, R320, R321, R345, R389),
out of reset; all but COLD while the firmware runs or a start is under way. OFF from any other state ends what runs,
loses what the core held and drops the first enable where no removal is under way; COLD from Off or Halted begins at
step 1 with fabric time 0, no cord in force and the damper as it was; BANK, with its conditions met, begins to close
every link, and the entry, once no port is closing, removes the rails of core and SerDes and keeps memory, registers
and contexts; RESTART keeps them too and empties every pool. A command not allowed from the state changes nothing but
its own record. IDLE, ACTIVE and BLAZE (R316, R323, R325). ACTIVE goes from Idle, and from Blaze with the voltage
ramping back to PWR_VSET; IDLE goes from Active or Blaze with no work; BLAZE goes from Active with BLAZE_BUDGET bound,
U below 30,000 ms and no cord load, and its target is CODE 60 (0.80 V). Otherwise, other than from the state itself,
they are refused. (What OFF and COLD clear and keep is log entry 34; the close of the links, the rails' order and
STATE while the entry into Banked runs are entry 55, the power-good inputs entry 54.) -/
def Obligations.PowerCommands : Prop :=
  (∀ (s : State), s.pwr.porst = true →
    (s.mss.romOnly = false → s.pwr.state = .off → exec .off s = .next { s with
      lastStatus := .ok, pwr := { s.pwr with lastStatus := .ok, lastCmd := 1 } }) ∧
    (s.mss.romOnly = false ∨ starting s = true → s.pwr.state ≠ .off → ∃ t, exec .off s = .next t ∧ t.lastStatus = .ok ∧
      t.pwr.state = .off ∧
      t.pwr.startStep = 0 ∧
      t.pwr.lastStatus = .ok ∧ t.pwr.lastCmd = 1 ∧
      t.pwr.en = (if s.pwr.dropping then s.pwr.en else dropTop s.pwr.en) ∧ t.pwr.blazeU = s.pwr.blazeU ∧
      t.mem.cells = [] ∧ t.ports = [] ∧ t.groups = [] ∧
      t.pwr.failStep = if starting s = true then s.pwr.startStep else s.pwr.failStep) ∧
    (s.mss.updState ≠ 3 → s.pwr.state = .off ∨ s.pwr.state = .halted →
      ∃ t, exec .cold s = .next t ∧ t.lastStatus = .ok ∧ t.pwr.state = .coldStarting ∧ t.pwr.startStep = 1 ∧
        t.pwr.haltCause = 0 ∧ t.pwr.fallback = false ∧ t.time.ftc = 0 ∧ t.cord.cfg = none ∧
        t.cord.staged = s.cord.staged ∧ t.cord.floor = s.cord.floor ∧ t.dbg.dampered = s.dbg.dampered ∧
        t.mem.cells = [] ∧ t.ports = []) ∧
    (s.mss.romOnly = false → s.pwr.state = .idle → s.pwr.bankEntry = false → (reg s Reg.fwdCfg).getLsbD 0 = false →
      anyBusy s = false →
      cordRunning s = false → s.bpm.copy = none →
      ∃ t, exec .powerBank s = .next t ∧
        t = { s with
          ports := t.ports, lastStatus := .ok
          pwr := { s.pwr with bankEntry := true, lastStatus := .ok, lastCmd := 3 } } ∧
        ∀ k p, Map.get? s.ports k = some p → ∃ q, Map.get? t.ports k = some q ∧
          q.state = (if p.state = .up ∨ p.state = .closing then .closing else .down)) ∧
    (s.pwr.state = .idle → s.pwr.bankEntry = true → (∀ e ∈ s.ports, e.2.state ≠ .closing) →
      ∃ t, exec .bankedEntryComplete s = .next t ∧
        t.pwr = { s.pwr with
          state := .banked, bankEntry := false, en := s.pwr.en &&& 0x38#6, pg := s.pwr.pg &&& (s.pwr.en &&& 0x38#6)
          pgOpen := s.pwr.pgOpen ||| (s.pwr.en &&& 7#6) } ∧
        (∀ k p, Map.get? t.ports k = some p → p.state = .down) ∧
        t.mem = s.mem ∧ t.regs = s.regs ∧ t.ctx = s.ctx ∧ t.groups = s.groups ∧ t.cord = s.cord) ∧
    (s.mss.romOnly = false → s.pwr.state = .banked → s.mss.updState ≠ 3 →
      ∃ t, exec .restart s = .next t ∧ t.lastStatus = .ok ∧
        t.pwr = { s.pwr with
          state := .bankedRestarting, startStep := 1, fallback := false, restartKind := true
          lastStatus := .ok, lastCmd := 4 } ∧
        (∀ g, g < 16 → (getGroup t g).bufs = [] ∧ (getGroup t g).progs = (getGroup s g).progs ∧
          (getGroup t g).maint = true) ∧
        (∀ k p, Map.get? t.ports k = some p → p.state = .down ∧ p.peerCheck = true) ∧
        t.bpm.spareState = 0 ∧ t.mem = s.mem ∧ t.regs = s.regs ∧ t.ctx = s.ctx ∧ t.cord = s.cord) ∧
    (s.mss.updState = 3 → exec .cold s = .next { s with
      lastStatus := .resourceBound, pwr := { s.pwr with lastStatus := .resourceBound, lastCmd := 2 } }) ∧
    (s.mss.romOnly = false → s.pwr.state ≠ .banked → s.pwr.state ≠ .bankedRestarting → exec .restart s = .next { s with
      lastStatus := .resourceBound, pwr := { s.pwr with lastStatus := .resourceBound, lastCmd := 4 } })) ∧
  (∀ (s : State), s.pwr.porst = true → s.mss.romOnly = false →
    (s.pwr.state = .idle → s.pwr.bankEntry = false → exec .active s = .next { s with
      lastStatus := .ok, pwr := { s.pwr with state := .active, lastStatus := .ok, lastCmd := 6 } }) ∧
    (s.pwr.state = .blaze → exec .active s = .next { s with
      lastStatus := .ok
      pwr := { s.pwr with
        state := .active, vidTarget := BitVec.ofNat 8 ((fld (reg s Reg.vset) 15 0 - 500) / 5)
        lastStatus := .ok, lastCmd := 6 } }) ∧
    (s.pwr.state = .active → anyBusy s = false → exec .idle s = .next { s with
      lastStatus := .ok, pwr := { s.pwr with state := .idle, lastStatus := .ok, lastCmd := 5 } }) ∧
    (s.pwr.state = .blaze → anyBusy s = false → exec .idle s = .next { s with
      lastStatus := .ok
      pwr := { s.pwr with
        state := .idle, vidTarget := BitVec.ofNat 8 ((fld (reg s Reg.vset) 15 0 - 500) / 5)
        lastStatus := .ok, lastCmd := 5 } }) ∧
    (s.pwr.state = .active ∨ s.pwr.state = .blaze → anyBusy s = true → exec .idle s = .next { s with
      lastStatus := .resourceBound, pwr := { s.pwr with lastStatus := .resourceBound, lastCmd := 5 } }) ∧
    (s.pwr.state = .active → claimHeld s 0x10 = true → s.pwr.blazeU < 120000 → cordRunning s = false →
      exec .blaze s = .next { s with
        lastStatus := .ok
        pwr := { s.pwr with state := .blaze, vidTarget := 60#8, lastStatus := .ok, lastCmd := 7 } }) ∧
    (s.pwr.state ≠ .blaze →
      s.pwr.state ≠ .active ∨ claimHeld s 0x10 = false ∨ 120000 ≤ s.pwr.blazeU ∨ cordRunning s = true →
      exec .blaze s = .next { s with
        lastStatus := .resourceBound, pwr := { s.pwr with lastStatus := .resourceBound, lastCmd := 7 } }))

/-- The steps of a start (R318, R319, R321, R323, Table 15.3). A step without a failure goes on to the next: step 1
with every rail good and a firmware image in flash; step 2 with an image that passes the checks, whose firmware then
runs; step 4 with the rows to be mapped out, at most 16 of a macro; step 6 with the DIMMs found. Step 9 of a cold
start, and step 8 of a banked restart with the cord's digest the sealed one, whose structure is then in force, end it
in Idle at PWR_VSET, the first with every counter 0 but that of log entries lost. A cold start's failing step leaves
the device in Off with the step kept and the rails going; a banked restart's failing step falls back to a cold start
from step 1. (The outcome of each step as an operand, the step that counts cold starts and where a restart ends are log
entry 53, the power-good inputs entry 54, what a failed step keeps entry 34.) -/
def Obligations.StartsRunTheirSteps : Prop :=
  ∀ (r : StepResult) (s : State), s.pwr.porst = true →
    let next : PowerSt := { s.pwr with startStep := s.pwr.startStep + 1 }
    (s.pwr.state = .coldStarting →
      (s.pwr.startStep = 1 → s.pwr.en = 0x3F#6 → r.cause = 0 → s.mss.flashValid = true →
        exec (.startStepComplete r) s = .next { s with pwr := { s.pwr with
          pg := 0x3F#6, pgOpen := 0#6, startStep := 2 } }) ∧
      (s.pwr.startStep = 2 → r.cause = 0 → romVerdict s = 0 →
        ∃ t, exec (.startStepComplete r) s = .next t ∧ t = { s with pwr := next, mss := t.mss } ∧
          t.mss.romOnly = false ∧ t.mss.recovery = false ∧ t.mss.fw = fwOf s (flashImage s) ∧
          t.mss.store.fwDigest = fwDigest (flashImage s) ∧
          t.mss.store.coldStarts = s.mss.store.coldStarts + 1) ∧
      (s.pwr.startStep = 3 → r.cause = 0 → exec (.startStepComplete r) s = .next { s with
        pwr := next, bpm := { s.bpm with fusedRows := s.mss.repairFuses } }) ∧
      (s.pwr.startStep = 4 → r.cause = 0 →
        let rows := repairRows (s.bpm.fusedRows ++ r.bistRows) s.bpm.sramMarks
        tooManyRows rows = false → exec (.startStepComplete r) s = .next { s with
          pwr := next, bpm := { s.bpm with sramRepairs := rows } }) ∧
      (s.pwr.startStep = 5 → r.cause = 0 → exec (.startStepComplete r) s = .next { s with pwr := next }) ∧
      (s.pwr.startStep = 6 → r.cause = 0 →
        ∃ t, exec (.startStepComplete r) s = .next t ∧ t.pwr = next ∧ t.bpm.ddrPresent = r.ddrPresent ∧
          t.bpm.ddrUsable = usableChannels r ∧
          (t.bpm.ddrWindow = true ↔ usableChannels r = 0xFF#8 ∧ ∀ k, k < 8 → nthD r.ddrGb k 0 = nthD r.ddrGb 0 0)) ∧
      (s.pwr.startStep = 7 → r.cause = 0 → exec (.startStepComplete r) s = .next { s with
        pwr := next, host := { s.host with fullCal := upTo 8 } }) ∧
      (s.pwr.startStep = 9 → r.cause = 0 →
        ∃ t, exec (.startStepComplete r) s = .next t ∧ t.pwr.state = .idle ∧ t.pwr.startStep = 0 ∧
          t.pwr.failStep = 0 ∧ t.pwr.vidTarget = BitVec.ofNat 8 ((fld (reg s Reg.vset) 15 0 - 500) / 5) ∧
          t.mem.cells = [] ∧ t.cord = s.cord ∧ ∀ k, Map.get? t.dbg.counters k ≠ none → k = ctrKey 0 0 0) ∧
      (s.pwr.startStep = 3 ∨ s.pwr.startStep = 5 ∨ s.pwr.startStep = 6 ∨ s.pwr.startStep = 7 → r.cause ≠ 0 →
        ∃ t, exec (.startStepComplete r) s = .next t ∧ t.pwr.state = .off ∧
          t.pwr.failStep = s.pwr.startStep ∧ t.pwr.startStep = 0 ∧
          t.pwr.en = (if s.pwr.dropping then s.pwr.en else dropTop s.pwr.en) ∧ t.mem.cells = [])) ∧
    (s.pwr.state = .bankedRestarting →
      (s.pwr.startStep = 8 → r.cause = 0 → s.mss.store.valid = true →
        cordDigest s.cord.activeImg = s.mss.store.cordDigest →
        ∃ t, exec (.startStepComplete r) s = .next t ∧ t.pwr.state = .idle ∧ t.pwr.startStep = 0 ∧
          t.pwr.vidTarget = BitVec.ofNat 8 ((fld (reg s Reg.vset) 15 0 - 500) / 5) ∧ t.mem = s.mem ∧ t.ctx = s.ctx ∧
          t.cord = { s.cord with cfg := some (cordCfgOf s.cord.activeImg), claims := t.cord.claims }) ∧
      (s.pwr.startStep = 3 ∨ s.pwr.startStep = 5 ∨ s.pwr.startStep = 6 ∨ s.pwr.startStep = 7 → r.cause ≠ 0 →
        ∃ t, exec (.startStepComplete r) s = .next t ∧ t.pwr.state = .coldStarting ∧ t.pwr.startStep = 1 ∧
          t.pwr.fallback = true ∧ t.mem.cells = [] ∧ t.time.ftc = 0))

/-- PWR_GROUP_GATE, written while the firmware runs. A write that would gate a group with an invocation started or
waiting completes with RESOURCE_BOUND and changes no bit. Otherwise its sixteen bits are stored; in Active and Blaze
the groups gated are then those of its set bits; in Idle it is stored, and the groups gated are those of its set bits
once ACTIVE has run (R324). -/
def Obligations.GroupsAreGated : Prop :=
  ∀ (v : W64) (s : State), s.pwr.porst = true → s.mss.romOnly = false → Map.sorted s.regs = true →
    ((∃ g, g < 16 ∧ v.getLsbD g = true ∧ (reg s Reg.groupGate).getLsbD g = false ∧ groupBusy s g = true) →
      exec (.groupGateWrite v) s = .next { s with lastStatus := .resourceBound }) ∧
    ((∀ g, g < 16 → v.getLsbD g = true → (reg s Reg.groupGate).getLsbD g = false → groupBusy s g = false) →
      ∃ t, exec (.groupGateWrite v) s = .next t ∧ 
        t = { s with regs := t.regs, ports := t.ports, wire := t.wire, lastStatus := .ok } ∧
        reg t Reg.groupGate = v &&& 0xFFFF#64 ∧ (∀ b, b ≠ Reg.groupGate → reg t b = reg s b) ∧
        (s.pwr.state = .active ∨ s.pwr.state = .blaze → ∀ g, g < 16 → gated t g = v.getLsbD g) ∧
        (s.pwr.state = .idle → s.pwr.bankEntry = false →
          ∃ u, exec .active t = .next u ∧ ∀ g, g < 16 → gated u g = v.getLsbD g))

/-- The core voltage and the board rails (R323, R385, R387-R390), out of reset. PWR_VSET takes 660 to 760 mV in steps
of 5, ramping in Idle and Active; a ramp moves one CODE a frame, and the frame carries 0b1010, the CODE and the
exclusive or of its two halves; the next rail of a start is enabled in order, the regulator told first where it is the
core's; a removal drops rails in reverse order, and an entry into Banked those of the SerDes and then of the core; a
power good that does not come ends a cold start; a lost power good drops every enable at once and leaves the device in
Off. PORST_N low drops them at once, with both hops of the host link down and nothing running; when it rises the
device is in Off with the ROM loader, with what the fuses and the digest store's copy in force hold. (When an input
is known to be high or low, POWER_GOOD_LOST whether or not it was, and what PORST_N low does, are log entry 54; what is
cleared is entry 34.) -/
def Obligations.RailsAndVoltage : Prop :=
  (∀ (v : W64) (s : State), s.pwr.porst = true → s.mss.romOnly = false → Map.sorted s.regs = true →
    (660 ≤ fld v 15 0 → fld v 15 0 ≤ 760 → fld v 15 0 % 5 = 0 →
      ∃ t, exec (.vsetWrite v) s = .next t ∧ reg t Reg.vset = v &&& 0xFFFF#64 ∧
        t = { s with
          regs := t.regs, lastStatus := .ok
          pwr := { s.pwr with
            vidTarget := if s.pwr.state = .idle ∨ s.pwr.state = .active then BitVec.ofNat 8 ((fld v 15 0 - 500) / 5)
              else s.pwr.vidTarget } }) ∧
    (fld v 15 0 < 660 ∨ 760 < fld v 15 0 ∨ fld v 15 0 % 5 ≠ 0 →
      exec (.vsetWrite v) s = .next { s with lastStatus := .fieldInvalid })) ∧
  (∀ (s : State), s.pwr.porst = true → s.pwr.en.getLsbD 0 = true → s.pwr.vidCode.toNat ≠ s.pwr.vidTarget.toNat →
    let c : Byte := if s.pwr.vidCode.toNat < s.pwr.vidTarget.toNat then s.pwr.vidCode + 1 else s.pwr.vidCode - 1
    ∃ f, exec .vidFrameSend s = .next { s with pwr := { s.pwr with vidCode := c }, wire := .vid f :: s.wire } ∧
      f.extractLsb' 12 4 = 0xA#4 ∧ f.extractLsb' 4 8 = c ∧
      f.extractLsb' 0 4 = c.extractLsb' 4 4 ^^^ c.extractLsb' 0 4) ∧
  (∀ (s : State) (i : Nat), starting s = true → s.pwr.startStep = 1 → s.pwr.dropping = false → 0 < i → i < 6 →
    (∀ k, k < i → s.pwr.en.getLsbD k = true) → s.pwr.en.getLsbD i = false →
    ∃ e, exec .railEnableNext s = .next { s with pwr := { s.pwr with
      pg := s.pwr.en, en := e, pgOpen := (s.pwr.pgOpen &&& ~~~s.pwr.en) ||| (e &&& ~~~s.pwr.en) } } ∧
      ∀ k, k < 6 → (e.getLsbD k = true ↔ (s.pwr.en.getLsbD k = true ∨ k = i))) ∧
  (∀ (s : State), starting s = true → s.pwr.startStep = 1 → s.pwr.dropping = false → s.pwr.en = 0 →
    ∃ t f, exec .railEnableNext s = .next t ∧ t.wire = .vid f :: s.wire ∧ t.pwr.en = 1 ∧
      t.pwr.vidCode = BitVec.ofNat 8 ((fld (reg s Reg.vset) 15 0 - 500) / 5) ∧ t.pwr.vidTarget = t.pwr.vidCode ∧
      f.extractLsb' 4 8 = t.pwr.vidCode) ∧
  (∀ (s : State), s.pwr.dropping = true → s.pwr.en ≠ 0 →
    ∃ i e, exec .railDisableNext s = .next { s with pwr := { s.pwr with
      pg := s.pwr.pg &&& e, en := e, pgOpen := s.pwr.pgOpen ||| (s.pwr.en &&& ~~~e) } } ∧
      i < 6 ∧ s.pwr.en.getLsbD i = true ∧ (∀ k, i < k → k < 6 → s.pwr.en.getLsbD k = false) ∧
      ∀ k, k < 6 → (e.getLsbD k = true ↔ (s.pwr.en.getLsbD k = true ∧ k ≠ i))) ∧
  (∀ (s : State), bankRemoving s = true → s.pwr.dropping = false → s.pwr.en &&& 7#6 ≠ 0 →
    ∃ i e, exec .railDisableNext s = .next { s with pwr := { s.pwr with
      pg := s.pwr.pg &&& e, en := e, pgOpen := s.pwr.pgOpen ||| (s.pwr.en &&& ~~~e) } } ∧
      i < 3 ∧ s.pwr.en.getLsbD i = true ∧ (∀ k, i < k → k < 3 → s.pwr.en.getLsbD k = false) ∧
      ∀ k, k < 6 → (e.getLsbD k = true ↔ (s.pwr.en.getLsbD k = true ∧ k ≠ i))) ∧
  (∀ (s : State), s.pwr.porst = true → s.pwr.state = .coldStarting → s.pwr.startStep = 1 → s.pwr.en ≠ s.pwr.pg →
    s.pwr.en ≠ 0 →
    s.pwr.dropping = false →
    ∃ t, exec .railPgTimeout s = .next t ∧ t.pwr.state = .off ∧ t.pwr.failStep = 1 ∧ t.pwr.dropping = true ∧
      t.pwr.en = dropTop s.pwr.en) ∧
  (∀ (s : State) (r : BitVec 3), 1 ≤ r.toNat → r.toNat ≤ 6 → s.pwr.en.getLsbD (r.toNat - 1) = true →
    s.pwr.dropping = false →
    ∃ t, exec (.powerGoodLost r) s = .next t ∧ t.pwr.state = .off ∧ t.pwr.en = 0 ∧ t.pwr.pg = 0 ∧ t.pwr.lastLost = r ∧
      t.mem.cells = [] ∧ t.ports = []) ∧
  (∀ (s : State), ∃ t, exec .porstAssert s = .next t ∧ t.pwr.porst = false ∧ t.pwr.en = 0 ∧ t.pwr.pg = 0 ∧
    t.host.hopUp = HopSt.reset ∧ t.host.hopDn = HopSt.reset ∧ powered t = false ∧ t.mem.cells = [] ∧ t.ports = []) ∧
  (∀ (st : DigestStore) (s : State), storeInForce s.mss = some st →
    ∃ t, exec .powerApplied s = .next t ∧ t.pwr.state = .off ∧ t.pwr.porst = true ∧ t.pwr.blazeU = 0 ∧ t.regs = [] ∧
      t.mem.cells = [] ∧ t.mss.deviceId = s.mss.deviceId ∧ t.mss.svnFloor = s.mss.svnFloor ∧ t.mss.flash = s.mss.flash ∧
      t.mss.store = st ∧ t.pwr.lifeSeconds = st.blazeSeconds ∧ t.cord.floor = st.floor ∧ t.mss.romOnly = true)

/-- Blaze and heat (R326-R330, R333, R336, R344, R390), out of reset. U goes up by 4 quarter milliseconds a tick in
Blaze and down by one outside it, not below 0, with WARN and EXHAUSTED set where it passes 30,000 and 40,000 ms; past
42,000 ms in a state that was Blaze as the tick began the device raises a damper and halts with every enable dropped.
The lifetime seconds are sealed, but for a write that waits while an image is being programmed. A sample of the
sensors keeps the hottest junction as Tj; 105 °C raises the warning where it is armed; 115 °C halts the device in any
powered state, and so does a die none of whose junction sensors reads, while the dies are powered. (Marks set at the
tick that passes them and the form of a sample are log entry 56; the seal that waits is entry 58; serial 0, which must
not be a remembered one for a damper to rise, is entry 25.) -/
def Obligations.BlazeAndHeat : Prop :=
  (∀ (s : State), s.pwr.porst = true →
    (tickState s ≠ .blaze → exec .blazeBudgetTick s = .next { s with
      pwr := { s.pwr with blazeU := s.pwr.blazeU - 1 } }) ∧
    (s.pwr.state = .blaze → tickState s = .blaze → s.pwr.blazeU + 4 ≤ 168000 →
      ∃ t, exec .blazeBudgetTick s = .next t ∧ t.pwr.state = .blaze ∧ t.pwr.blazeU = s.pwr.blazeU + 4 ∧
        (t.pwr.warn = true ↔ s.pwr.warn = true ∨ (s.pwr.blazeU < 120000 ∧ 120000 ≤ s.pwr.blazeU + 4)) ∧
        (t.pwr.exhausted = true ↔ s.pwr.exhausted = true ∨ (s.pwr.blazeU < 160000 ∧ 160000 ≤ s.pwr.blazeU + 4)) ∧
        t.regs = s.regs ∧ t.mem = s.mem ∧ t.groups = s.groups ∧ t.ctx = s.ctx) ∧
    (tickState s = .blaze → 168000 < s.pwr.blazeU + 4 → s.dbg.serials.contains 0 = false →
      ∃ t, exec .blazeBudgetTick s = .next t ∧ t.pwr.state = .halted ∧ t.pwr.haltCause = 1 ∧ t.pwr.en = 0 ∧
        t.pwr.haltN = false ∧ t.dbg.dampered = true ∧ t.mem.cells = []) ∧
    (∃ t, exec .blazeLifePersist s = .next t ∧ t = { s with mss := t.mss } ∧
      t.mss.store = { s.mss.store with blazeSeconds := s.pwr.lifeSeconds, rated := s.pwr.ratedExceeded } ∧
      (programming s = false → storeInForce t.mss = some t.mss.store) ∧
      (programming s = true → t.mss.sealWait = true ∧ t.mss.storeA = s.mss.storeA ∧ t.mss.storeB = s.mss.storeB))) ∧
  (∀ (l : List (Option (BitVec 16))) (v : BitVec 16) (s : State), s.pwr.porst = true → l.length = 64 →
    some v ∈ l.take 32 →
    (∀ x ∈ l.take 32, ∃ w, x = some w ∧ w.toInt ≤ v.toInt) →
    (v.toInt < 920 → ∃ t, exec (.sensorSample l) s = .next t ∧ t.pwr.tj = v ∧ t.pwr.state = s.pwr.state ∧
      (∀ i, i < 54 → i ≠ 47 → Map.get? t.mss.sensors i = l[i]?) ∧
      (v.toInt < 840 → t.pwr.thermWarn = s.pwr.thermWarn) ∧
      (840 ≤ v.toInt → s.pwr.thermArmed = true → t.pwr.thermWarn = true ∧ t.pwr.thermArmed = false) ∧
      (v.toInt < 800 → t.pwr.thermArmed = true) ∧ t.regs = s.regs ∧ t.mem = s.mem ∧ t.groups = s.groups) ∧
    (920 ≤ v.toInt → tickState s ≠ .off → tickState s ≠ .halted →
      ∃ t, exec (.sensorSample l) s = .next t ∧ t.pwr.state = .halted ∧ t.pwr.haltCause = 2 ∧ t.pwr.tj = v ∧
        t.pwr.en = 0 ∧ t.mem.cells = [])) ∧
  (∀ (l : List (Option (BitVec 16))) (d : Nat) (s : State), s.pwr.porst = true → l.length = 64 → d < 4 →
    (∀ i, i < 8 → l[8 * d + i]? = some none) → diesPowered (tickState s) = true →
    ∃ t, exec (.sensorSample l) s = .next t ∧ t.pwr.state = .halted ∧ t.pwr.haltCause = 2 ∧ t.pwr.en = 0 ∧
      t.mem.cells = [])
/-! ### The management subsystem (chapter 16) -/

/-- The SMBus (R334), out of reset. A selection word with the right PEC that names MSS_ID, MSS_INFO, a sensor,
PWR_STATE or PWR_THERMAL selects it, and any other transfer is answered with NACK; a block read answers the eight
octets of the register selected last, least significant first, with their count and a PEC. (What it answers before any
selection is open: a free value, log entry 5; the PEC's coverage and the form of the transfers are SMBus's, log entry
100.) -/
def Obligations.SmbusReadsRegisters : Prop :=
  ∀ (s : State), s.pwr.porst = true →
    let answered (v : W64) : State := { s with wire := .smbus (smbusBlock (leBytes 8 v.toNat)) :: s.wire }
    (∀ (w : BitVec 16) (pec : Option Byte),
      let n := w.toNat
      exec (.smbusSelect ⟨w, pec⟩) s = .next
        (if pec = some (smbusPec (smbusWord w)) ∧
            (n = 0 ∨ n = 8 ∨ (0x200 ≤ n ∧ n < 0x400 ∧ n % 8 = 0) ∨ n = 0x8008 ∨ n = 0x8030) then
          { s with mss := { s.mss with smbusSel := some w } }
        else { s with wire := .smbusNack :: s.wire })) ∧
    (s.mss.smbusSel = some 0 → exec .smbusBlockRead s = .next (answered s.mss.deviceId)) ∧
    (s.mss.smbusSel = some 8 → ∃ v : W64, exec .smbusBlockRead s = .next (answered v) ∧ fld v 15 8 = 0xB1) ∧
    (∀ i r, i < 64 → s.mss.smbusSel = some (BitVec.ofNat 16 (0x200 + 8 * i)) →
      Map.get? s.mss.sensors i = some (some r) →
      ∃ v : W64, exec .smbusBlockRead s = .next (answered v) ∧ v.getLsbD 63 = true ∧ v.extractLsb' 0 16 = r) ∧
    (s.mss.smbusSel = some 0x8008 → ∃ v : W64, exec .smbusBlockRead s = .next (answered v) ∧
        fld v 63 56 = s.pwr.lastStatus.code ∧ fld v 55 52 = s.pwr.lastCmd.toNat ∧ fld v 47 40 = s.pwr.haltCause.toNat ∧
        fld v 35 32 = s.pwr.startStep.toNat ∧ fld v 31 28 = s.pwr.failStep.toNat ∧
        v.getLsbD 8 = s.pwr.fallback) ∧
    (s.mss.smbusSel = some 0x8030 → ∃ v : W64, exec .smbusBlockRead s = .next (answered v) ∧
        v.extractLsb' 32 16 = s.pwr.tj ∧ v.getLsbD 0 = s.pwr.thermWarn) ∧
    (s.mss.smbusSel = none → ∃ v : W64,
      exec .smbusBlockRead s = .next { answered v with freeCtr := s.freeCtr + 1 })

/-- The event log (R337-R340), out of reset. The next entry, of an earlier tick, takes the next number, which lies
below the sealed mark, and goes into the ring, and, at PERSIST_MIN or above, into the persist queue where it has room,
or else is counted; the record of a protective halt goes into the log store. One that would take a number not below
the mark waits for the seal; a new mark is sealed in the digest store; a page program takes up to four records in
order; while a firmware image is being programmed both wait (R344). MSS_LOG_SEL finds a record by its number. (That an
entry waits for the end of its tick is log entry 101, for the seal entry 57; that both writes wait while an image is
programmed is entry 58's reading of R344.) -/
def Obligations.LogIsKept : Prop :=
  ∀ (s : State), s.pwr.porst = true →
    (∀ (e : LogRec) (rest : List LogRec), s.mss.logFifo = e :: rest → e.ftime ≠ s.time.ftc →
      0 < (s.mss.store.logMark - s.mss.nextLseq).toInt →
      let r : LogRec := { e with lseq := s.mss.nextLseq, lost := s.mss.logLost }
      let q : LogRec := { r with persist := true }
      (e.sev.toNat < fld (reg s Reg.logCfg) 1 0 → ∃ t, exec .logEngineMove s = .next t ∧
        t = { s with mss := { s.mss with
          logFifo := rest, logLost := false, ring := ringPush r s.mss.ring, nextLseq := s.mss.nextLseq + 1
          sealing := t.mss.sealing } }) ∧
      (fld (reg s Reg.logCfg) 1 0 ≤ e.sev.toNat → e.code = 0x0004#16 → ∃ t, exec .logEngineMove s = .next t ∧
        t = { s with mss := { s.mss with
          logFifo := rest, logLost := false, ring := ringPush q s.mss.ring
          logStore := storeAppend [q] s.mss.logStore, nextLseq := s.mss.nextLseq + 1, sealing := t.mss.sealing } }) ∧
      (fld (reg s Reg.logCfg) 1 0 ≤ e.sev.toNat → e.code ≠ 0x0004#16 →
        (s.mss.persistQ.length < 4096 → ∃ t, exec .logEngineMove s = .next t ∧
          t = { s with mss := { s.mss with
            logFifo := rest, logLost := false, ring := ringPush q s.mss.ring
            persistQ := s.mss.persistQ ++ [q], nextLseq := s.mss.nextLseq + 1, sealing := t.mss.sealing } }) ∧
        (4096 ≤ s.mss.persistQ.length → ∃ t, exec .logEngineMove s = .next t ∧
          t.mss.ring = ringPush r s.mss.ring ∧ t.mss.persistQ = s.mss.persistQ ∧
          t.mss.nextLseq = s.mss.nextLseq + 1 ∧ t.dbg = (count 0 1 0 s).dbg))) ∧
    ((s.mss.store.logMark - s.mss.nextLseq).toInt ≤ 0 → exec .logEngineMove s = .next s) ∧
    (∀ m, s.mss.sealing = some m → s.mss.updState ≠ 3 → ∃ t, exec .logMarkSealComplete s = .next t ∧
      t = { s with mss := t.mss } ∧ t.mss.sealing = none ∧ t.mss.store = { s.mss.store with logMark := m } ∧
      storeInForce t.mss = some t.mss.store) ∧
    (s.mss.updState ≠ 3 → exec .logPersistWrite s = .next { s with
      mss := { s.mss with
        logStore := storeAppend (s.mss.persistQ.take 4) s.mss.logStore, persistQ := s.mss.persistQ.drop 4 } }) ∧
    (s.mss.updState = 3 → exec .logPersistWrite s = .next s ∧ exec .logMarkSealComplete s = .next s) ∧
    (∀ (v : W64) (r : LogRec), s.mss.ring.find? (fun x => decide (x.lseq.toNat = fld v 31 0)) = some r →
      ∃ t, exec (.logSelect v) s = .next t ∧ t.mss.logHeld = true ∧ t.mss.logData.length = 8 ∧
        t.mss.logSel = r.lseq ∧ t.mss.ring = s.mss.ring ∧
        t.mss.logData[0]? = some (BitVec.ofNat 64 (r.lseq.toNat + r.code.toNat * 2 ^ 32 + r.sev.toNat * 2 ^ 48 +
          r.unit.toNat * 2 ^ 56)) ∧
        t.mss.logData[2]? = some r.ftime) ∧
    (∀ (v : W64), (∀ r ∈ s.mss.ring ++ s.mss.logStore, r.lseq.toNat ≠ fld v 31 0) →
      exec (.logSelect v) s = .next { s with
        lastStatus := .ok
        mss := { s.mss with logSel := BitVec.ofNat 32 (fld v 31 0), logHeld := false, logData := [] } })

/-- The firmware update (R343-R345, Table 16.7), out of reset. BEGIN takes a length that is a multiple of 8 from 5,496
to 12,582,912, unless an image is being checked or programmed; COMMIT of a whole image that passes the checks begins
to program it, the region being erased, its MAGIC first; programming ends in done with the flash image replaced, or in
failed with no header, and a write of the digest store that waited is made; ABORT clears the staging area; SVN_COMMIT
raises the floor to the running image's number, and REVOKE burns a slot that is neither the running image's nor the
last, both refused by the ROM loader. (STATE after a COMMIT that fails, what a programming that fails leaves, the writes
that wait and the ROM loader's refusals are log entry 58.) -/
def Obligations.FirmwareIsUpdated : Prop :=
  ∀ (s : State), s.pwr.porst = true →
    (∀ (v : W64),
      let n := fld v 23 0
      (s.mss.updState ≠ 2 → s.mss.updState ≠ 3 → n % 8 = 0 → 5496 ≤ n → n ≤ 12582912 →
        exec (.updateBegin v) s = .next { s with
          lastStatus := .ok
          mss := { s.mss with
            staging := [], stagedLen := n, words := [], updState := 1, updStatus := .ok, updDetail := 0 } }) ∧
      (s.mss.updState ≠ 2 → s.mss.updState ≠ 3 → n % 8 ≠ 0 ∨ n < 5496 ∨ 12582912 < n →
        exec (.updateBegin v) s = .next { s with
          lastStatus := .malformedTile
          mss := { s.mss with updStatus := .malformedTile, updDetail := 0 } }) ∧
      (s.mss.updState = 2 ∨ s.mss.updState = 3 → exec (.updateBegin v) s = .next { s with
        lastStatus := .resourceBound
        mss := { s.mss with updStatus := .resourceBound, updDetail := 0 } })) ∧
    (s.mss.updState = 4 → exec .updateCommit s = .next { s with
      lastStatus := .ok, mss := { s.mss with updStatus := .ok, updDetail := 0 } }) ∧
    (s.mss.updState = 1 ∨ s.mss.updState = 5 → s.mss.words.length * 8 = s.mss.stagedLen →
      (fwChecks s (stagedFw s) s.mss.stagedLen = none → exec .updateCommit s = .next { s with
        lastStatus := .ok
        mss := { s.mss with updState := 3, flash := [], flashValid := false, updStatus := .ok, updDetail := 0 } }) ∧
      (∀ e, fwChecks s (stagedFw s) s.mss.stagedLen = some e → ∃ t, exec .updateCommit s = .next t ∧
        t.lastStatus = e.1 ∧ t.mss.updState = 5 ∧ t.mss.updStatus = e.1 ∧ t.mss.updDetail = BitVec.ofNat 8 e.2 ∧
        t.mss.staging = s.mss.staging ∧ t.mss.flash = s.mss.flash ∧ t.mss.flashValid = s.mss.flashValid)) ∧
    (s.mss.updState = 1 → s.mss.words.length * 8 ≠ s.mss.stagedLen → ∃ t, exec .updateCommit s = .next t ∧
      t.lastStatus = .malformedTile ∧ t.mss.updDetail = 1 ∧ t.mss.staging = s.mss.staging ∧
      t.mss.flash = s.mss.flash ∧ t.mss.flashValid = s.mss.flashValid) ∧
    (s.mss.updState = 3 →
      (∃ t, exec (.updateProgramComplete true) s = .next t ∧ t.mss.flash = s.mss.staging ∧ t.mss.flashValid = true ∧
        t.mss.updState = 4 ∧ t.mss.fw = s.mss.fw ∧
        (s.mss.sealWait = true → t.mss.sealWait = false ∧ storeInForce t.mss = some s.mss.store)) ∧
      (∃ t, exec (.updateProgramComplete false) s = .next t ∧ t.mss.updState = 5 ∧ t.mss.flashValid = s.mss.flashValid ∧
        t.mss.staging = s.mss.staging ∧ t.mss.updDetail = 0x0A#8 ∧
        (∀ a, a < 64 → Map.get? t.mss.flash a = none) ∧
        (s.mss.sealWait = true → t.mss.sealWait = false ∧ storeInForce t.mss = some s.mss.store))) ∧
    (s.mss.updState ≠ 2 → s.mss.updState ≠ 3 → exec .updateAbort s = .next { s with
      lastStatus := .ok
      mss := { s.mss with
        staging := [], stagedLen := 0, words := [], updState := 0, updStatus := .ok, updDetail := 0 } }) ∧
    (s.mss.romOnly = false → exec .svnCommit s = .next { s with
      lastStatus := .ok
      mss := { s.mss with
        svnFloor := max s.mss.svnFloor s.mss.fw.svn.toNat, updStatus := .ok, updDetail := 0 } }) ∧
    (∀ (k : BitVec 2), s.mss.romOnly = false →
      (s.mss.revoked.getLsbD k.toNat = false → s.mss.fw.slot ≠ k →
        (∃ j, j < 4 ∧ j ≠ k.toNat ∧ s.mss.revoked.getLsbD j = false) →
        ∃ t, exec (.revoke k) s = .next t ∧ t = { s with mss := t.mss, lastStatus := .ok } ∧
          t.mss.flash = s.mss.flash ∧ t.mss.svnFloor = s.mss.svnFloor ∧
          ∀ j, j < 4 → (t.mss.revoked.getLsbD j = true ↔ (s.mss.revoked.getLsbD j = true ∨ j = k.toNat))) ∧
      (s.mss.revoked.getLsbD k.toNat = false → s.mss.fw.slot = k → exec (.revoke k) s = .next { s with
        lastStatus := .resourceBound
        mss := { s.mss with updStatus := .resourceBound, updDetail := 0 } })) ∧
    (s.mss.romOnly = true → ∀ (k : BitVec 2), exec .svnCommit s = exec (.revoke k) s ∧
      exec .svnCommit s = .next { s with
        lastStatus := .resourceBound, mss := { s.mss with updStatus := .resourceBound, updDetail := 0 } })

/-- Attestation (R347, R348, Table 16.9): a packet of type 0x09 in turn on HL_UP, well formed and for this device, with
the firmware running and nothing else waiting to go up. (The ROM loader discards it.) GET_VERSION begins a connection
at any time, and the other requests need its steps before them. Each is answered with one packet of type 0x09: the
versions, capabilities and algorithms; a digest, a certificate portion and the measurements of an index, with a nonce
of 32 free octets; a signed answer carries the alias Ed25519 signature of its message and leaves the ML-DSA-65 one as
measurement 0xEF; an answer too large for one transfer is held and fetched in chunks. What is signed covers the
requests and responses of the connection so far and the answer. (The octets, error codes and sizes of SPDM and the
nonce are log entry 59, the keys entry 58, the form of a signed message entry 6.) -/
def Obligations.SpdmAnswers : Prop :=
  (∀ (s : State), s.pwr.porst = true → s.mss.romOnly = true → s.host.hopUp.up = true →
    ∀ i ∈ [Instr.getVersion, .getCapabilities, .negotiateAlgorithms, .getDigests],
      exec i s = .next (badDst (hopAccept .up (hopHeard .up s)))) ∧
  ∀ (s : State), s.pwr.porst = true → s.mss.romOnly = false →
    s.host.hopUp.up = true → s.host.hopUp.own = [] → s.host.hopUp.fwd = [] → s.host.hopUp.unacked.length < 128 →
    let size := if s.host.hopUp.version = 2 then 4104 else 1032
    let s1 := hopAccept .up (hopHeard .up s)
    let heard (f : List (List Byte)) : State :=
      { s1 with mss := { s1.mss with spdmCtx := s1.mss.spdmCtx ++ [Config.spdmMessage f], large := none } }
    let sent (t : State) (r : SpdmRsp) (u : State) : Prop :=
      t = { u with
        host := t.host
        wire := .packet .up (pktOctets { ownPkt s 0x09#8 0 (rspOctets r) with hseq := s.host.hopUp.txSeq }) ::
          .spdm r :: u.wire }
    let noted (r : SpdmRsp) (u : State) : State :=
      { u with mss := { u.mss with spdmCtx := u.mss.spdmCtx ++ [rspOctets r] } }
    let answers (t : State) (r : SpdmRsp) (u : State) : Prop := sent t r (noted r u)
    let nonce := (takeNonce s).1
    let msg (u : State) (r : SpdmRsp) : List Byte := Config.spdmSigMessage u.mss.spdmCtx (rspOctets r)
    let signs (u : State) (r : SpdmRsp) : State := { u with
      freeCtr := s.freeCtr + 4, mss := { u.mss with cosig := mldsaSign (aliasSeed s 1) (msg u r) } }
    let held (r : SpdmRsp) (u : State) : State := { u with mss := { u.mss with
      large := some { handle := s.mss.nextHandle, data := rspOctets r }, nextHandle := s.mss.nextHandle + 1 } }
    nonce.length = 32 ∧
    let chain := certChain s
    (∃ t, exec .getVersion s = .next t ∧ answers t (.version 1 3) { s1 with mss := { s1.mss with
      large := none, spdmStage := 1, spdmCtx := [Config.spdmMessage (reqFields 0 [])], cosig := zeros 3309 } }) ∧
    (1 ≤ s.mss.spdmStage →
      let u := heard (reqFields 1 [])
      ∃ t, exec .getCapabilities s = .next t ∧
        answers t (.capabilities [.cert, .chal, .measSig, .chunk] size 65536 20)
          { u with mss := { u.mss with spdmStage := max s.mss.spdmStage 2 } }) ∧
    (2 ≤ s.mss.spdmStage →
      let u := heard (reqFields 2 [])
      ∃ t, exec .negotiateAlgorithms s = .next t ∧
        answers t (.algorithms .ed25519 .sha512 .sha512) { u with mss := { u.mss with spdmStage := 3 } }) ∧
    (s.mss.spdmStage < 3 → ∃ t, exec .getDigests s = .next t ∧ answers t (.error spdmUnexpected) s1) ∧
    (3 ≤ s.mss.spdmStage →
      (∃ t, exec .getDigests s = .next t ∧ answers t (.digests 1 (sha512 chain)) (heard (reqFields 3 []))) ∧
      (∀ (off len : BitVec 16),
        let part := slice chain off.toNat (min len.toNat (size - 8))
        ∃ t, exec (.getCertificate 0 off len) s = .next t ∧
          answers t (if off.toNat < chain.length then .certificate 0 part (chain.length - off.toNat - part.length)
            else .error spdmInvalid)
            (heard (reqFields 4 [numField 0, numField off.toNat, numField len.toNat]))) ∧
      (∀ (i : Byte) (asked : BitVec 256) (c : MeasType × List Byte), measurement s i.toNat = some c → i ≠ 0 → i ≠ 0xFF →
        let u := heard (reqFields 6 [[i], numField 0, []])
        let u0 : State := { u with freeCtr := s.freeCtr + 4 }
        let r : SpdmRsp := .measurements [(i, c)] nonce none
        let v := heard (reqFields 6 [[i], numField 1, leBytes 32 asked.toNat])
        let q : SpdmRsp := .measurements [(i, c)] nonce (some (ed25519Sign (aliasSeed s 0) (msg v r)))
        (c.2.length + 57 ≤ size → ∃ t, exec (.getMeasurements i false asked) s = .next t ∧ answers t r u0) ∧
        (size < c.2.length + 57 → ∃ t, exec (.getMeasurements i false asked) s = .next t ∧
          sent t (.chunkLarge s.mss.nextHandle) (held r (noted r u0))) ∧
        (i ≠ 0xEF → c.2.length + 121 ≤ size → ∃ t, exec (.getMeasurements i true asked) s = .next t ∧
          answers t q (signs v r)) ∧
        (i ≠ 0xEF → size < c.2.length + 121 → ∃ t, exec (.getMeasurements i true asked) s = .next t ∧
          sent t (.chunkLarge s.mss.nextHandle) (held q (noted q (signs v r))))) ∧
      (∀ (n : Byte) (asked : BitVec 256), n = 0 ∨ n = 1 ∨ n = 0xFF →
        let u := heard (reqFields 5 [numField 0, [n], leBytes 32 asked.toNat])
        let r : SpdmRsp := .challengeAuth (sha512 chain) nonce (measSummary s n.toNat) []
        ∃ t, exec (.challenge 0 n asked) s = .next t ∧
          answers t (.challengeAuth (sha512 chain) nonce (measSummary s n.toNat)
            (ed25519Sign (aliasSeed s 0) (msg u r))) (signs u r) ∧
          measurement t 0xEF = some (.rawBits, mldsaSign (aliasSeed s 1) (msg u r)))) ∧
    (∀ (x : SpdmLarge) (seq : BitVec 16), s.mss.large = some x → seq.toNat * (size - 16) < x.data.length →
      let last := decide (x.data.length ≤ (seq.toNat + 1) * (size - 16))
      ∃ t, exec (.chunkGet x.handle seq) s = .next t ∧
        sent t (.chunk x.handle seq.toNat last (slice x.data (seq.toNat * (size - 16)) (size - 16)))
          { s1 with mss := { s1.mss with large := if last = true then none else some x } })
/-! ### The twin pair (chapter 17) -/

/-- Engagement and signs of life (R350, R351, R353, R355, R360, R392), out of reset and outside the ROM loader. A
write that sets ENGAGE and passes its checks starts pairing and says HELLO on every sublink that is up; with none up
the pair is Link lost or Partner lost as the heartbeat is alive or not. One that fails a check, or that changes SIDE
or PARTNER_CHIP of an engaged device, is refused, and so is one that clears ENGAGE while the partner half is adopted;
one that clears it otherwise, with no object being fetched, stops the pair and everything under way. The heartbeat
toggles while engaged and powered. An edge makes HB_ALIVE 1, unless it comes within 200 ns of the previous one, ignored
or not, and with no sublink up the pair is Link lost. A missed heartbeat with a sublink up is counted; with none up the
partner is lost and, with AUTO = 1, a takeover begins at the next epoch. (That disengaging keeps FENCED and the
heartbeat is watched while bound is log entry 61, HELLO as octets queued for a sublink entry 60.) -/
def Obligations.TwinEngagesAndBeats : Prop :=
  (∀ (v : W64) (s : State), Map.sorted s.regs = true → s.pwr.porst = true → s.mss.romOnly = false →
    let w := v ||| 0x8000000000000000#64
    let kept := w &&& 0xE000FFFFFFFFFFFF#64
    (twnCfgOk w = true → engaged s = false → engageOk s w = true →
      (upSublinks s ≠ [] → ∃ t, exec (.twinEngage v) s = .next t ∧
        t = { s with regs := t.regs, mss := t.mss, twn := t.twn, lastStatus := .ok } ∧
        t.twn = { s.twn with
          state := 1, cause := 0, version := 0
          out := s.twn.out ++ (upSublinks s).map (fun n => (n, twinOctets 1 0 s.twn.epoch (helloBody t))) } ∧
        reg t Reg.twnCfg = kept ∧ (∀ a, a ≠ Reg.twnCfg → reg t a = reg s a)) ∧
      (upSublinks s = [] → s.twn.hbAlive = true → ∃ t, exec (.twinEngage v) s = .next t ∧
        t = { s with regs := t.regs, mss := t.mss, twn := t.twn, lastStatus := .ok } ∧
        t.twn = { s.twn with state := 4, cause := 0, version := 0 } ∧
        reg t Reg.twnCfg = kept ∧ (∀ a, a ≠ Reg.twnCfg → reg t a = reg s a)) ∧
      (upSublinks s = [] → s.twn.hbAlive = false → v.getLsbD 62 = false →
        ∃ t, exec (.twinEngage v) s = .next t ∧
          t = { s with regs := t.regs, mss := t.mss, twn := t.twn, dbg := t.dbg, lastStatus := .ok } ∧
          t.twn = { s.twn with state := 5, cause := 0, version := 0 } ∧
          reg t Reg.twnCfg = kept ∧ (∀ a, a ≠ Reg.twnCfg → reg t a = reg s a)) ∧
      (upSublinks s = [] → s.twn.hbAlive = false → v.getLsbD 62 = true → s.twn.fenced = false →
        s.twn.tookOver = false → ∃ t, exec (.twinEngage v) s = .next t ∧
          t = { s with regs := t.regs, mss := t.mss, twn := t.twn, dbg := t.dbg, lastStatus := .ok } ∧
          t.twn = { s.twn with
            state := 5, cause := 0, version := 0, epoch := s.twn.epoch + 1, recorded := [1#4], tookOver := true
            taking := true } ∧
          reg t Reg.twnCfg = kept ∧ (∀ a, a ≠ Reg.twnCfg → reg t a = reg s a))) ∧
    (twnCfgOk w = true → engaged s = false → engageOk s w = false →
      exec (.twinEngage v) s = .next { s with lastStatus := .resourceBound }) ∧
    (twnCfgOk w = true → engaged s = true → twnFixedChanged (reg s Reg.twnCfg) w = true →
      exec (.twinEngage v) s = .next { s with lastStatus := .resourceBound }) ∧
    (twnCfgOk w = true → engaged s = true → twnFixedChanged (reg s Reg.twnCfg) w = false →
      ∃ t, exec (.twinEngage v) s = .next t ∧ t = { s with regs := t.regs, lastStatus := .ok } ∧
        reg t Reg.twnCfg = kept ∧ ∀ a, a ≠ Reg.twnCfg → reg t a = reg s a) ∧
    (twnCfgOk w = false → exec (.twinEngage v) s = .next { s with lastStatus := .fieldInvalid })) ∧
  (∀ (v : W64) (s : State), Map.sorted s.regs = true → s.pwr.porst = true → s.mss.romOnly = false →
    let w := v &&& 0x7FFFFFFFFFFFFFFF#64
    (twnCfgOk w = false → exec (.twinDisengage v) s = .next { s with lastStatus := .fieldInvalid }) ∧
    (twnCfgOk w = true → engaged s = true → s.twn.tookOver = false → twnFixedChanged (reg s Reg.twnCfg) w = false →
      s.twn.fetching = [] →
      ∃ t, exec (.twinDisengage v) s = .next t ∧
        t = { s with regs := t.regs, mss := t.mss, twn := t.twn, lastStatus := .ok } ∧ engaged t = false ∧
        t.twn = { s.twn with
          hbTx := false, state := 0, cause := 0, version := 0, partnerHello := none, txq := [], early := []
          recopy := false, inCopy := false, giveback := false, resyncing := false, out := [] } ∧
        reg t Reg.twnCfg = w &&& 0xE000FFFFFFFFFFFF#64 ∧ ∀ a, a ≠ Reg.twnCfg → reg t a = reg s a) ∧
    (twnCfgOk w = true → engaged s = true → s.twn.tookOver = true ∨ twnFixedChanged (reg s Reg.twnCfg) w = true →
      exec (.twinDisengage v) s = .next { s with lastStatus := .resourceBound }) ∧
    (twnCfgOk w = true → engaged s = false →
      ∃ t, exec (.twinDisengage v) s = .next t ∧ t = { s with regs := t.regs, lastStatus := .ok } ∧
      reg t Reg.twnCfg = w &&& 0xE000FFFFFFFFFFFF#64 ∧ ∀ a, a ≠ Reg.twnCfg → reg t a = reg s a)) ∧
  (∀ (s : State), s.pwr.porst = true →
    (engaged s = true → claimHeld s 0x11 = true → powered s = true →
      ∃ t, exec .heartbeatToggle s = .next t ∧
        t = { s with mss := t.mss, twn := { s.twn with hbTx := !s.twn.hbTx } }) ∧
    (engaged s = false → exec .heartbeatToggle s = .next s) ∧
    (claimHeld s 0x11 = true → (∀ x, s.twn.lastEdge = some x → x + 200 ≤ s.time.raw) →
      (engaged s = false ∨ upSublinks s ≠ [] → exec .heartbeatEdge s = .next { s with
        twn := { s.twn with hbAlive := true, lastEdge := some s.time.raw } }) ∧
      (engaged s = true → upSublinks s = [] → exec .heartbeatEdge s = .next { s with
        twn := { s.twn with hbAlive := true, lastEdge := some s.time.raw, state := 4, version := 0 } })) ∧
    (∀ x, s.twn.lastEdge = some x → s.time.raw < x + 200 → exec .heartbeatEdge s = .next { s with
      twn := { s.twn with lastEdge := some s.time.raw } }) ∧
    (s.twn.hbAlive = false → exec .heartbeatMiss s = .next s) ∧
    (s.twn.hbAlive = true → engaged s = false → exec .heartbeatMiss s = .next { s with
      twn := { s.twn with hbAlive := false } }) ∧
    (s.twn.hbAlive = true → engaged s = true → upSublinks s ≠ [] → s.mss.logFifo.length < 1024 →
      ∃ t, exec .heartbeatMiss s = .next t ∧
        t = { s with twn := { s.twn with hbAlive := false }, dbg := (count 12 3 0 s).dbg, mss := t.mss } ∧
        ∃ e ∈ t.mss.logFifo, e.code = 0x0C83#16 ∧ e.ftime = s.time.ftc) ∧
    (s.twn.hbAlive = true → engaged s = true → upSublinks s = [] → s.twn.state ≠ 5 → s.mss.logFifo.length < 1024 →
      ∃ t, exec .heartbeatMiss s = .next t ∧ t = { s with twn := t.twn, mss := t.mss } ∧
        (∃ e ∈ t.mss.logFifo, e.code = 0x0CFF#16 ∧ e.ftime = s.time.ftc) ∧
        ((reg s Reg.twnCfg).getLsbD 62 = true → s.twn.fenced = false → s.twn.tookOver = false →
          t.twn = { s.twn with
            hbAlive := false, state := 5, version := 0, epoch := s.twn.epoch + 1, recorded := [1#4], tookOver := true
            taking := true }) ∧
        ((reg s Reg.twnCfg).getLsbD 62 = false ∨ s.twn.fenced = true ∨ s.twn.tookOver = true →
          t.twn = { s.twn with hbAlive := false, state := 5, version := 0 })))

/-- Pairing and acknowledgement (R355, R356, R358), out of reset and engaged. HELLO goes out on every sublink that is
up while the pair is not paired. A HELLO of the partner without a mismatch pairs: numbering begins afresh, the larger
epoch stands (an epoch that rises is mirrored as message 1), a device that must fences itself, and otherwise a full
copy starts with COPY_BEGIN; one with a mismatch shows its cause. An ACK takes the messages it covers out of the
queue, and the copy an overflow put off starts once fewer than 4,096 messages are unacknowledged; the acknowledgement
timer sends the number applied last. (The numbers of the copy's messages, EPOCHS as message 1 and what a fenced device
queues are log entry 60, STATE 1 before the HELLO that pairs entry 103.) -/
def Obligations.TwinsPair : Prop :=
  ∀ (s : State), engaged s = true → s.pwr.porst = true →
    (s.twn.state ≠ 2 → exec .twinHelloTimer s = .next { s with
      twn := { s.twn with
        out := s.twn.out ++ (upSublinks s).map (fun n => (n, twinOctets 1 0 s.twn.epoch (helloBody s))) } }) ∧
    (s.twn.state = 2 → exec .twinHelloTimer s = .next s) ∧
    (s.twn.inbox = [] → ∀ (k : BitVec 3) (o : List Byte) (q : W64),
      exec (.twinHello k o) s = .next s ∧ exec (.twinAck k q) s = .next s) ∧
    (∀ (n : BitVec 3) (b : List Byte) (rest : List (Nat × List Byte)), s.twn.inbox = (n.toNat, b) :: rest →
      let m := twinMsgOf b
      let taken : TwinSt := { s.twn with inbox := rest }
      (m.mtype ≠ 1 → exec (.twinHello n b) s = .next s) ∧ (m.mtype ≠ 2 → ∀ q, exec (.twinAck n q) s = .next s) ∧
      (∀ (k : BitVec 3) (o : List Byte), k ≠ n ∨ o ≠ b → exec (.twinHello k o) s = .next s) ∧
      (∀ (k : BitVec 3) (q : W64), k ≠ n ∨ q.toNat ≠ bodyAt m.body 0 8 → exec (.twinAck k q) s = .next s) ∧
      (m.mtype = 1 →
        let h := helloOf m
        let s1 : State := { s with twn := { taken with partnerHello := some h } }
        let d := s.cord.digest
        let chipBad : Prop := h.chip.toNat ≠ fld (reg s Reg.twnCfg) 47 32 ∨ h.side = (reg s Reg.twnCfg).getLsbD 61
        let digestBad : Prop := d = [] ∨ allZero h.digest = true ∨ h.digest ≠ d
        let versionBad : Prop := 1 < h.vmin.toNat ∨ h.vmax.toNat < 1
        let shown (c : BitVec 4) : State := { s1 with
          twn := { s1.twn with state := 3, cause := c, version := 0, txq := [], recopy := false } }
        (n.toNat ∉ upSublinks s → exec (.twinHello n b) s = .next { s with twn := taken }) ∧
        (n.toNat ∈ upSublinks s →
          (chipBad → exec (.twinHello n b) s = .next (shown 1)) ∧
          (¬ chipBad → digestBad → exec (.twinHello n b) s = .next (shown 2)) ∧
          (¬ chipBad → ¬ digestBad → versionBad →
            (s.twn.state = 3 → s.twn.cause = 3 → exec (.twinHello n b) s = .next (shown 3)) ∧
            (s.twn.state ≠ 3 ∨ s.twn.cause ≠ 3 → s.mss.logFifo.length < 1024 →
              ∃ t, exec (.twinHello n b) s = .next t ∧ t = { shown 3 with mss := t.mss } ∧
                ∃ e ∈ t.mss.logFifo, e.sev = 1#2 ∧ e.ftime = s.time.ftc)) ∧
          (¬ chipBad → ¬ digestBad → ¬ versionBad →
            (s.twn.state = 2 → exec (.twinHello n b) s = .next s1) ∧
            (s.twn.state ≠ 2 → ∃ t, exec (.twinHello n b) s = .next t ∧ t = { s with ports := t.ports, twn := t.twn } ∧
              t.twn.state = 2 ∧ t.twn.cause = 0 ∧ t.twn.version = 1 ∧ t.twn.rxNext = 1 ∧ t.twn.ackedMseq = 0 ∧
              t.twn.partnerHello = some h ∧ t.twn.inbox = rest ∧
              t.twn.epoch.toNat = max s.twn.epoch.toNat h.epoch.toNat ∧
              (t.twn.fenced = true ↔ s.twn.fenced = true ∨ mustFence s1 h = true) ∧
              (mustFence s1 h = false → t.ports = s.ports) ∧
              (t.twn.fenced = true → ∀ x ∈ t.twn.txq, x.mtype = 10#8 ∨ x.mtype = 12#8) ∧
              (t.twn.fenced = false →
                (h.epoch.toNat ≤ s.twn.epoch.toNat →
                  ∃ x, t.twn.txq[0]? = some x ∧ x.mseq = 1 ∧ x.mtype = 13#8 ∧ x.body = [0#8]) ∧
                (s.twn.epoch.toNat < h.epoch.toNat →
                  ∃ e x, t.twn.txq[0]? = some e ∧ e.mseq = 1 ∧ e.mtype = 10#8 ∧
                    t.twn.txq[1]? = some x ∧ x.mseq = 2 ∧ x.mtype = 13#8 ∧ x.body = [0#8])))))) ∧
      (∀ (mseq : W64), m.mtype = 2 → mseq.toNat = bodyAt m.body 0 8 →
        let q := mseq.toNat
        let acked : TwinSt := { taken with
          ackedMseq := q, txq := s.twn.txq.filter (fun m => decide (q < m.mseq)) }
        (s.twn.state ≠ 2 ∨ s.twn.sentMseq < q ∨ q ≤ s.twn.ackedMseq →
          exec (.twinAck n mseq) s = .next { s with twn := taken }) ∧
        (s.twn.state = 2 → q ≤ s.twn.sentMseq → s.twn.ackedMseq < q →
          (s.twn.recopy = false ∨ 4096 ≤ s.twn.sentMseq - q →
            exec (.twinAck n mseq) s = .next { s with twn := acked }) ∧
          (s.twn.recopy = true → s.twn.sentMseq - q < 4096 → s.twn.fenced = false → upSublinks s ≠ [] →
            ∃ t x, exec (.twinAck n mseq) s = .next t ∧ t = { s with twn := t.twn } ∧ t.twn.ackedMseq = q ∧
              t.twn.recopy = false ∧ x ∈ t.twn.txq ∧ x.mseq = s.twn.sentMseq + 1 ∧ x.mtype = 13#8 ∧
              x.body = [0#8])))) ∧
    (∀ (n : Nat) (l : List Nat), s.twn.state = 2 → s.twn.sinceAck ≠ 0 → upSublinks s = n :: l →
      exec .twinAckTimer s = .next { s with
        twn := { s.twn with
          sinceAck := 0
          out := s.twn.out ++ [(n, twinOctets 2 0 s.twn.epoch (beBytes 8 (s.twn.rxNext - 1)))] } }) ∧
    (s.twn.sinceAck = 0 → exec .twinAckTimer s = .next s)

/-- The receiving side of the mirror (R352, R356-R359, R362, R363, Table 17.3), out of reset. The message at the front
of those received is taken by the row of its type that names its octets. One whose number is the one wanted is applied:
a changed object of the partner's half replaces the mirror's copy, in its area too, one of the own half is installed, a
fetched context's entry into Timed out being mirrored in turn; FENCE fences the device, FETCH begins a copy for a
RESYNC or answers for one object, and COPY_BEGIN and COPY_END frame a copy, which for a RESYNC replaces the own half.
A number already applied only makes an ACK due again, a later one is held, with one held next it is applied too, and
the 32nd message is acknowledged at once. (Where an object lies in its mirror area, the order of its octets there and
what ends the answer to a FETCH for placement are the model's choice: log entries 44, 104. Objects of the own half,
the numbers of FENCE and FETCH and EPOCHS in a RESYNC's copy are entry 60, the copy after COPY_END entry 61.) -/
def Obligations.MirrorIsKept : Prop :=
  ∀ (s : State) (sub : Nat) (octets : List Byte) (rest : List (Nat × List Byte)),
    s.pwr.porst = true → s.twn.inbox = (sub, octets) :: rest →
    let m := twinMsgOf octets
    let b := m.body
    let q := m.mseq.toNat
    let taken : TwinSt := { s.twn with inbox := rest }
    let w : TwinSt := { taken with rxNext := s.twn.rxNext + 1, sinceAck := s.twn.sinceAck + 1 }
    let all : List (Byte × Instr) :=
      [(3, .ctx octets), (4, .ctxGone octets), (5, .mgrp octets), (6, .tally octets), (7, .route octets),
       (8, .place octets), (9, .layer octets), (10, .epochs octets), (11, .fence octets), (12, .fetch octets),
       (13, .copyBegin octets), (14, .copyEnd octets)]
    let resync : Prop := s.twn.inCopy = true ∧ s.twn.copyResync = true
    (∀ p ∈ all,
      (m.mtype ≠ p.1 → exec p.2 s = .next s) ∧
      (m.mtype = p.1 → s.twn.state ≠ 2 → exec p.2 s = .next { s with twn := taken }) ∧
      (m.mtype = p.1 → s.twn.state = 2 → q < s.twn.rxNext → exec p.2 s = .next { s with
        twn := { taken with sinceAck := max 1 s.twn.sinceAck } }) ∧
      (m.mtype = p.1 → s.twn.state = 2 → s.twn.rxNext < q → s.twn.early.length < 4096 →
        exec p.2 s = .next { s with twn := { taken with early := Map.set s.twn.early q m } }) ∧
      (m.mtype = p.1 → s.twn.state = 2 → s.twn.rxNext < q → 4096 ≤ s.twn.early.length →
        exec p.2 s = .next { s with twn := taken })) ∧
    (∀ o, o ≠ octets →
      ∀ i ∈ [Instr.ctx o, .ctxGone o, .mgrp o, .tally o, .route o, .place o, .layer o, .epochs o, .fence o, .fetch o,
        .copyBegin o, .copyEnd o], exec i s = .next s) ∧
    (s.twn.state = 2 → q = s.twn.rxNext → s.twn.early = [] → s.twn.sinceAck = 31 → m.mtype = 13 → b = [0#8] →
      ∀ n l, upSublinks s = n :: l → exec (.copyBegin octets) s = .next { s with
        twn := { w with
          inCopy := true, copyResync := false, sinceAck := 0
          mirror := { Mirror.reset with pairEpoch := w.mirror.pairEpoch }
          out := s.twn.out ++ [(n, twinOctets 2 0 s.twn.epoch (beBytes 8 q))] } }) ∧
    (∀ m2, s.twn.state = 2 → q = s.twn.rxNext → s.twn.early = [(q + 1, m2)] → s.twn.sinceAck < 30 →
      m.mtype = 14 → ¬ resync → m2.mtype = 4 → ownHalf s 3 (bodyAt m2.body 0 2) = false →
      s.twn.fetching.contains (3, bodyAt m2.body 0 2) = false →
      exec (.copyEnd octets) s = .next { s with
        twn := { w with
          rxNext := q + 2, sinceAck := s.twn.sinceAck + 2, early := [], inCopy := false, copyResync := false
          mirror := { s.twn.mirror with ctxs := Map.erase s.twn.mirror.ctxs (bodyAt m2.body 0 2) } } }) ∧
    (s.twn.state = 2 → q = s.twn.rxNext → s.twn.early = [] → s.twn.sinceAck < 31 →
      (m.mtype = 3 →
        let c := bodyAt b 0 2
        let r : MirCtx :=
          { timedOut := bodyAt b 2 1 == 1, arg0 := BitVec.ofNat 64 (bodyAt b 4 8)
            timeout := BitVec.ofNat 32 (bodyAt b 12 4), step := BitVec.ofNat 64 (bodyAt b 16 8) }
        (ownHalf s 3 c = false → exec (.ctx octets) s = .next (mirrorWrite (mirrorCtxAt s c) (mirrorCtxOctets r)
          { s with twn := { w with mirror := { w.mirror with ctxs := Map.set w.mirror.ctxs c r } } })) ∧
        (ownHalf s 3 c = true → ∃ t y, exec (.ctx octets) s = .next t ∧
          t = { s with ctx := t.ctx, mem := t.mem, twn := t.twn, dbg := t.dbg } ∧
          (3, c) ∉ t.twn.fetching ∧ getCtx t c = some y ∧ y.state = .timedOut ∧ y.arg0 = r.arg0 ∧
          y.timeout = r.timeout ∧ y.step = r.step ∧ y.onChip = false ∧
          ((3, c) ∉ s.twn.fetching → t.twn = w ∧ t.dbg = s.dbg) ∧
          ((3, c) ∈ s.twn.fetching → engaged s = true → s.twn.recopy = false → s.twn.txq.length < 65536 →
            upSublinks s ≠ [] → ∃ x, t.twn.txq = s.twn.txq ++ [x] ∧ x.mtype = 3#8 ∧ x.body = ctxBody c y) ∧
          ((∀ n ∈ s.ctx.needs, n.waits = false) → ∀ k, k ≠ c → getCtx t k = getCtx s k))) ∧
      (m.mtype = 4 →
        let c := bodyAt b 0 2
        (s.twn.fetching.contains (3, c) = true → s.mss.logFifo.length < 1024 → ∃ t, exec (.ctxGone octets) s = .next t ∧
          t = { s with
            mss := t.mss, dbg := (count 12 4 0 s).dbg
            twn := { w with fetching := s.twn.fetching.filter (fun x => x != (3, c)) } }) ∧
        (s.twn.fetching.contains (3, c) = false → ownHalf s 3 c = false → exec (.ctxGone octets) s = .next { s with
          twn := { w with mirror := { w.mirror with ctxs := Map.erase w.mirror.ctxs c } } }) ∧
        (s.twn.fetching.contains (3, c) = false → ownHalf s 3 c = true → Map.sorted s.ctx.table = true →
          (∀ n ∈ s.ctx.needs, n.waits = false) → ∃ t, exec (.ctxGone octets) s = .next t ∧
            t = { s with ctx := t.ctx, twn := w } ∧ getCtx t c = none ∧ ∀ k, k ≠ c → getCtx t k = getCtx s k)) ∧
      (m.mtype = 5 →
        let n := bodyAt b 0 2
        let g : MGroup :=
          { chips := (upTo (bodyAt b 2 2)).map (fun i => BitVec.ofNat 16 (bodyAt b (8 + 2 * i) 2))
            epoch := BitVec.ofNat 32 (bodyAt b 4 4) }
        (ownHalf s 5 n = false →
          exec (.mgrp octets) s = .next (mirrorWrite (mirrorMgrpAt s n) (mirrorMgrpOctets g) { s with
          twn := { w with mirror := { w.mirror with mgroups := Map.set w.mirror.mgroups n g } } })) ∧
        (ownHalf s 5 n = true → exec (.mgrp octets) s = .next { s with
          ctx := { s.ctx with groups := Map.set s.ctx.groups n g }, twn := w })) ∧
      (m.mtype = 6 →
        let n := bodyAt b 0 2
        let x := tallyOfBody b
        x.value.toNat = bodyAt b 2 6 ∧ x.gen.toNat = bodyAt b 8 2 ∧ x.release.toNat = bodyAt b 24 8 ∧
        x.start.toNat = bodyAt b 32 8 ∧ fld x.cfg 47 0 = bodyAt b 10 6 ∧ fld x.cfg 63 61 = bodyAt b 16 1 % 8 ∧
        (ownHalf s 6 n = false →
          exec (.tally octets) s = .next (mirrorWrite (mirrorTallyAt s n) (mirrorTallyOctets x) { s with
          twn := { w with mirror := { w.mirror with tallies := Map.set w.mirror.tallies n x } } })) ∧
        (ownHalf s 6 n = true → (6, n) ∈ s.twn.fetching → allZero (b.drop 2) = true →
          ∃ t, exec (.tally octets) s = .next t ∧ t = { s with
            mss := t.mss, dbg := (count 12 4 0 s).dbg
            twn := { w with fetching := s.twn.fetching.filter (fun x => x != (6, n)) } }) ∧
        (ownHalf s 6 n = true → (6, n) ∉ s.twn.fetching ∨ allZero (b.drop 2) = false → Map.sorted s.regs = true →
          Map.sorted s.ctx.tallies = true → ∃ t, exec (.tally octets) s = .next t ∧
            t = { s with
              regs := t.regs, bpm := t.bpm, ctx := { s.ctx with tallies := t.ctx.tallies }
              twn := { w with fetching := t.twn.fetching } } ∧
            (6, n) ∉ t.twn.fetching ∧ reg t (Reg.tallyCfg n) = x.cfg ∧ reg t (Reg.tallyRelease n) = x.release ∧
            (∀ a, a ≠ Reg.tallyCfg n → a ≠ Reg.tallyRelease n → reg t a = reg s a) ∧
            getTally t n = { value := x.value, gen := x.gen, start := x.start, relSeq := 0 } ∧
            ∀ k, k ≠ n → getTally t k = getTally s k)) ∧
      (m.mtype = 7 →
        let a := bodyAt b 0 8
        let v : W64 := BitVec.ofNat 64 (bodyAt b 8 8)
        (¬ resync → exec (.route octets) s = .next (mirrorWrite (mirrorRouteAt s a) (leBytes 8 v.toNat) { s with
          twn := { w with mirror := { w.mirror with routes := Map.set w.mirror.routes a v } } })) ∧
        (resync → isRouteAddr a = true → Map.sorted s.regs = true → ∃ t, exec (.route octets) s = .next t ∧
          t = { s with regs := t.regs, bpm := t.bpm, twn := { w with out := t.twn.out } } ∧ reg t a = v ∧
          ∀ k, k ≠ a → reg t k = reg s k) ∧
        (resync → isRouteAddr a = false → exec (.route octets) s = .next { s with twn := w })) ∧
      (m.mtype = 8 →
        let p := bodyAt b 0 1
        let l := bodyAt b 1 1
        let e := bodyAt b 2 2
        let v : W64 := BitVec.ofNat 64 (bodyAt b 4 8)
        (ownHalf s 8 l = false → exec (.place octets) s = .next (mirrorWrite (mirrorPlaceAt s p l e) (leBytes 8 v.toNat)
          { s with twn := { w with
            mirror := { w.mirror with places := Map.set w.mirror.places (placeKey p l e) v } } })) ∧
        (ownHalf s 8 l = true → Map.sorted s.regs = true → ∃ t, exec (.place octets) s = .next t ∧
          t = { s with
            regs := t.regs, mem := t.mem, bpm := t.bpm, mss := t.mss, dbg := t.dbg
            twn := { w with fetching := t.twn.fetching } } ∧
          (8, placeKey p l e) ∉ t.twn.fetching ∧ reg t (Reg.place p l e) = v ∧
          (∀ a, a ≠ Reg.place p l e → reg t a = reg s a) ∧ (p ≠ 0 ∨ e ≠ 0 → t.mss = s.mss ∧ t.dbg = s.dbg) ∧
          (p = 0 → e = 0 → ∀ x ∈ t.twn.fetching, x.1 ≠ 8 ∨ placeTable x.2 ≠ l))) ∧
      (m.mtype = 9 →
        let l := bodyAt b 0 1
        (ownHalf s 9 l = false → exec (.layer octets) s = .next (mirrorWrite (mirrorLayerAt s l)
          (mirrorLayerOctets (layerOfBody b)) { s with
            twn := { w with mirror := { w.mirror with
              layers := Map.set w.mirror.layers l (layerOfBody b) } } })) ∧
        (ownHalf s 9 l = true → Map.sorted s.regs = true → ∃ t, exec (.layer octets) s = .next t ∧
          t = { s with regs := t.regs, twn := w } ∧
          (∀ i, i < 8 → reg t (Reg.layer l i) = BitVec.ofNat 64 (bodyAt b (8 + 8 * i) 8)) ∧
          ∀ a, (∀ i, i < 8 → a ≠ Reg.layer l i) → reg t a = reg s a)) ∧
      (m.mtype = 10 →
        let e := bodyAt b 0 4
        (¬ resync → e ≤ s.twn.epoch.toNat → ∃ t, exec (.epochs octets) s = .next t ∧ t = { s with twn := t.twn } ∧
          t.twn = { w with mirror := { w.mirror with
            pairEpoch := BitVec.ofNat 32 e, spareEpochs := t.twn.mirror.spareEpochs
            memEpoch := BitVec.ofNat 32 (bodyAt b 68 4) } } ∧
          ∀ g, g < 16 → Map.getD t.twn.mirror.spareEpochs g 0 = BitVec.ofNat 32 (bodyAt b (4 + 4 * g) 4)) ∧
        (s.twn.epoch.toNat < e → s.twn.recopy = false → s.twn.txq.length < 65536 → engaged s = true →
          upSublinks s ≠ [] → ¬ resync →
          ∃ t x, exec (.epochs octets) s = .next t ∧ t = { s with twn := t.twn } ∧ t.twn.epoch.toNat = e ∧
            t.twn.recorded = [] ∧ t.twn.txq = s.twn.txq ++ [x] ∧ x.mtype = 10#8 ∧ x.mseq = s.twn.sentMseq + 1 ∧
            t.twn.mirror.pairEpoch.toNat = e ∧ t.twn.rxNext = q + 1) ∧
        (resync → e ≤ s.twn.epoch.toNat → ∃ t, exec (.epochs octets) s = .next t ∧
          t = { s with groups := t.groups, bpm := { s.bpm with spareEpoch := t.bpm.spareEpoch }, twn := w } ∧
          (t.bpm.spareEpoch).toNat = max (s.bpm.spareEpoch).toNat (bodyAt b 68 4) ∧
          ∀ g, g < 16 → (getGroup t g).spareEpoch.toNat =
            max (getGroup s g).spareEpoch.toNat (bodyAt b (4 + 4 * g) 4))) ∧
      (m.mtype = 11 →
        (engaged s = true → s.twn.fenced = false → ∃ t, exec (.fence octets) s = .next t ∧
          t = { s with ports := t.ports, twn := t.twn } ∧
          t.twn = { w with
            fenced := true, resynced := false
            out := s.twn.out ++ (upSublinks s).map (fun n => (n, twinOctets 1 0 s.twn.epoch (helloBody t))) } ∧
          (∀ k p, k < 1024 → Map.get? s.ports k = some p →
            (p.state = .up → Map.get? t.ports k = some { p with state := .closing }) ∧
            (p.state = .down ∨ p.state = .closing → Map.get? t.ports k = some p) ∧
            (p.state ≠ .up → p.state ≠ .closing → ∃ p', Map.get? t.ports k = some p' ∧ p'.state = .down)) ∧
          ∀ k, 1024 ≤ k → Map.get? t.ports k = Map.get? s.ports k) ∧
        (engaged s = false ∨ s.twn.fenced = true → exec (.fence octets) s = .next { s with twn := w })) ∧
      (m.mtype = 12 → upSublinks s ≠ [] →
        (s.twn.tookOver = true ∨ s.mem.chk = [] →
          (b.head? = some 0xFF#8 → ∃ t x y, exec (.fetch octets) s = .next t ∧ t = { s with twn := t.twn } ∧
            t.twn.partnerResync = some m.epoch ∧ x ∈ t.twn.txq ∧ x.mseq = s.twn.sentMseq + 1 ∧ x.mtype = 13#8 ∧
            x.body = [1#8] ∧ t.twn.txq.getLast? = some y ∧ y.mtype = 14#8 ∧ y.mseq = t.twn.sentMseq ∧
            t.twn.sentMseq = s.twn.sentMseq + (partnerObjects s).length + s.twn.mirror.routes.length + 3 ∧
            t.twn.mirror = s.twn.mirror) ∧
          (b.head? = some 8#8 → ∃ t x, exec (.fetch octets) s = .next t ∧ t = { s with twn := t.twn } ∧
            t.twn.txq.getLast? = some x ∧ x.mtype = 8#8 ∧ bodyAt x.body 0 1 = 0 ∧ bodyAt x.body 2 2 = 0) ∧
          (b.head? = some 3#8 → ∃ t, exec (.fetch octets) s = .next t ∧ t = { s with twn := t.twn } ∧
            t.twn.mirror = s.twn.mirror ∧
            (s.twn.tookOver = false → (∀ e ∈ s.twn.mirror.ctxs, e.1 % 65536 ≠ bodyAt b 2 2) →
              ∃ x, t.twn.txq = s.twn.txq ++ [x] ∧ x.mtype = 4#8 ∧ x.mseq = s.twn.sentMseq + 1 ∧
                x.body = beBytes 2 (bodyAt b 2 2)) ∧
            (∀ r, s.twn.tookOver = false → Map.get? s.twn.mirror.ctxs (bodyAt b 2 2) = some r →
              ∃ x ∈ t.twn.txq, x.mtype = 3#8 ∧ x.body = beBytes 2 (bodyAt b 2 2) ++
                [if r.timedOut then 1#8 else 0#8, 0] ++ beBytes 8 r.arg0.toNat ++ beBytes 4 r.timeout.toNat ++
                beBytes 8 r.step.toNat ++ zeros 8) ∧
            (∀ y, s.twn.tookOver = true → halfBit 3 (bodyAt b 2 2) = !(twinSide s) →
              getCtx s (bodyAt b 2 2) = some y →
              ∃ x ∈ t.twn.txq, x.mtype = 3#8 ∧ x.body = ctxBody (bodyAt b 2 2) y)))) ∧
      (∀ x, m.mtype = 13 → b = [x] →
        (x.getLsbD 0 = false → exec (.copyBegin octets) s = .next { s with
          twn := { w with
            inCopy := true, copyResync := false
            mirror := { Mirror.reset with pairEpoch := w.mirror.pairEpoch } } }) ∧
        (x.getLsbD 0 = true → Map.sorted s.regs = true → Map.sorted s.ctx.table = true →
          (∀ n ∈ s.ctx.needs, n.waits = false) →
          ∃ t, exec (.copyBegin octets) s = .next t ∧ t.twn = { w with inCopy := true, copyResync := true } ∧
            (∀ c, getCtx t c = if ownHalf s 3 c = true then none else getCtx s c) ∧
            (∀ n, getMGroup t n = if ownHalf s 5 n = true then MGroup.reset else getMGroup s n) ∧
            (∀ n, n < 8192 → getTally t n = if ownHalf s 6 n = true then TallySt.reset else getTally s n) ∧
            (∀ l i, l < 256 → i < 8 → reg t (Reg.layer l i) =
              if ownHalf s 9 l = true then 0 else reg s (Reg.layer l i)) ∧
            (∀ p l e, p < 2 → l < 256 → e < 8192 → reg t (Reg.place p l e) =
              if ownHalf s 8 l = true then 0 else reg s (Reg.place p l e)) ∧
            (∀ a, isRouteAddr a = true → a ≠ Reg.fwdCfg → reg t a = Reg.resetValue a) ∧
            t.time = s.time ∧ t.cord = s.cord ∧ t.pwr = s.pwr ∧ t.pending = s.pending)) ∧
      (m.mtype = 14 →
        (¬ resync → exec (.copyEnd octets) s = .next { s with
          twn := { w with inCopy := false, copyResync := false } }) ∧
        (resync → s.twn.resyncing = false → exec (.copyEnd octets) s = .next { s with
          twn := { w with inCopy := false, copyResync := false, resynced := true } }) ∧
        (resync → s.twn.resyncing = true → upSublinks s ≠ [] →
          ∃ t x, exec (.copyEnd octets) s = .next t ∧ t = { s with twn := t.twn } ∧ t.twn.resynced = true ∧
            t.twn.resyncing = false ∧ t.twn.inCopy = false ∧ x ∈ t.twn.txq ∧ x.mseq = s.twn.sentMseq + 1 ∧
            x.mtype = 13#8 ∧ x.body = [0#8])))

/-- The recovery actions (R361-R364, Table 17.5), out of reset and outside the ROM loader. An action at an epoch below
the pair epoch is stale; one recorded at its epoch is done already; one whose condition fails is refused; otherwise it
is performed, and the epoch stands with the action recorded. TAKEOVER adopts the mirror: its contexts come Timed out
with their steps, its member groups, tallies and placement entries as they are, and its layer tables not valid, in
place of what was held of that half; GIVEBACK gives the half back once everything sent is acknowledged; RESYNC asks
for everything; FENCE_PARTNER says FENCE on every sublink; UNFENCE ends fencing. TAKEOVER, GIVEBACK and UNFENCE change
a field of HELLO, which is said at once. (That a fenced device with a resynced copy takes over from a lost partner
follows R364 against Table 17.5: DEDUCED, log entry 105. That a takeover replaces what was held of the half, that a
giveback is not mirrored and that the partner's RESYNC is remembered are log entry 61.) -/
def Obligations.RecoveryActionsRun : Prop :=
  ∀ (s : State), s.pwr.porst = true →
    (s.mss.romOnly = false → ∀ (e : BitVec 32),
      let all : List (BitVec 4 × Instr) :=
        [(1, .takeover e), (2, .giveback e), (3, .resync e), (4, .fencePartner e), (5, .unfence e), (6, .setEpoch e)]
      let fresh : Prop := s.twn.epoch.toNat < e.toNat ∨ e = s.twn.epoch
      let hellos (t : State) : Prop :=
        engaged s = true → ∀ n ∈ upSublinks s, (n, twinOctets 1 0 e (helloBody t)) ∈ t.twn.out
      let turnedAway (a : BitVec 4) : State := { s with
        lastStatus := .resourceBound
        twn := { s.twn with actStatus := .resourceBound, actCode := a, actEpoch := e } }
      let gone : Prop := s.twn.hbAlive = false ∧ upSublinks s = []
      let partner (p : TwinHelloMsg → Prop) : Prop := ∃ m, s.twn.partnerHello = some m ∧ p m
      let done (a : BitVec 4) (t : State) : Prop :=
        t.lastStatus = .ok ∧ t.twn.epoch = e ∧ t.twn.recorded.contains a = true ∧ t.twn.actStatus = .ok ∧
        t.twn.actCode = a ∧ t.twn.actEpoch = e
      (∀ p ∈ all,
        (e.toNat < s.twn.epoch.toNat → exec p.2 s = .next { s with
          lastStatus := .epochStale
          twn := { s.twn with actStatus := .epochStale, actCode := p.1, actEpoch := e } }) ∧
        (e = s.twn.epoch → s.twn.recorded.contains p.1 = true → exec p.2 s = .next { s with
          lastStatus := .ok, twn := { s.twn with actStatus := .ok, actCode := p.1, actEpoch := e } })) ∧
      (fresh → (e = s.twn.epoch → s.twn.recorded.contains 1#4 = false) →
        let may : Prop := engaged s = true ∧ s.twn.tookOver = false ∧
          ((s.twn.fenced = false ∧ (gone ∨ partner (fun m => m.fenced = true))) ∨
           (s.twn.fenced = true ∧ s.twn.resynced = true ∧ gone))
        (may → ∃ t, exec (.takeover e) s = .next t ∧ done 1 t ∧ t.twn.tookOver = true ∧ t.twn.taking = true ∧ hellos t ∧
          t = { s with dbg := t.dbg, twn := t.twn, lastStatus := .ok }) ∧
        (¬ may → exec (.takeover e) s = .next (turnedAway 1))) ∧
      (fresh → (e = s.twn.epoch → s.twn.recorded.contains 2#4 = false) →
        let may : Prop := s.twn.tookOver = true ∧ s.twn.state = 2 ∧ partner (fun m => m.fenced = true) ∧
          s.twn.partnerResync = some e
        (may → ∃ t, exec (.giveback e) s = .next t ∧ done 2 t ∧ t.twn.giveback = true ∧ t.twn.tookOver = true ∧
          t = { s with dbg := t.dbg, twn := t.twn, lastStatus := .ok }) ∧
        (¬ may → exec (.giveback e) s = .next (turnedAway 2))) ∧
      (fresh → (e = s.twn.epoch → s.twn.recorded.contains 3#4 = false) →
        let may : Prop := s.twn.fenced = true ∧ s.twn.state = 2 ∧ partner (fun m => m.tookOver = true)
        (may → ∃ t, exec (.resync e) s = .next t ∧ done 3 t ∧ t.twn.resyncing = true ∧ t.twn.fenced = true ∧
          t = { s with dbg := t.dbg, twn := t.twn, lastStatus := .ok } ∧
          (upSublinks s ≠ [] → ∃ x, t.twn.txq.getLast? = some x ∧ x.mtype = 12#8 ∧ x.body = 0xFF#8 :: zeros 7 ∧
            x.mseq = t.twn.sentMseq)) ∧
        (¬ may → exec (.resync e) s = .next (turnedAway 3))) ∧
      (fresh → (e = s.twn.epoch → s.twn.recorded.contains 4#4 = false) →
        (s.twn.state = 2 → ∃ t, exec (.fencePartner e) s = .next t ∧ done 4 t ∧
          (∀ n ∈ upSublinks s, (n, twinOctets 11 t.twn.sentMseq e []) ∈ t.twn.out) ∧
          t = { s with dbg := t.dbg, twn := t.twn, lastStatus := .ok }) ∧
        (s.twn.state ≠ 2 → exec (.fencePartner e) s = .next (turnedAway 4))) ∧
      (fresh → (e = s.twn.epoch → s.twn.recorded.contains 5#4 = false) →
        let may : Prop := s.twn.fenced = true ∧ partner (fun m => m.tookOver = false)
        (may → ∃ t, exec (.unfence e) s = .next t ∧ done 5 t ∧ t.twn.fenced = false ∧ hellos t ∧
          (∀ l, isFirst s l = true → (reg s (Reg.lnkCfg l)).getLsbD 0 = true → serdesOn s = true →
            (getPort s l).state = .down → (getPort t l).state = .training) ∧
          t = { s with ports := t.ports, dbg := t.dbg, twn := t.twn, lastStatus := .ok }) ∧
        (¬ may → exec (.unfence e) s = .next (turnedAway 5))) ∧
      (fresh → (e = s.twn.epoch → s.twn.recorded.contains 6#4 = false) →
        ∃ t, exec (.setEpoch e) s = .next t ∧ done 6 t ∧ (s.twn.epoch ≠ e → t.twn.recorded = [6#4]) ∧
          t.twn.tookOver = s.twn.tookOver ∧ t.twn.fenced = s.twn.fenced ∧
          t = { s with dbg := t.dbg, twn := t.twn, lastStatus := .ok })) ∧
    (s.twn.taking = false → exec .takeoverComplete s = .next s) ∧
    (s.twn.taking = true → s.mem.chk = [] →
      let mi := s.twn.mirror
      let keys (l : List Nat) (n : Nat) : Prop := ∀ k ∈ l, k < n
      (Map.sorted mi.ctxs = true ∧ Map.sorted mi.mgroups = true ∧ Map.sorted mi.tallies = true ∧
        Map.sorted mi.places = true ∧ Map.sorted s.regs = true ∧ Map.sorted s.ctx.table = true ∧
        Map.sorted s.ctx.tallies = true ∧ keys (mi.tallies.map (·.1)) 8192 ∧ keys (mi.layers.map (·.1)) 256 ∧
        keys (mi.places.map (·.1)) 4194304) →
      (∀ e ∈ mi.ctxs, CtxArg.resident e.2.arg0 = false) → (∀ n ∈ s.ctx.needs, n.waits = false) →
      ∃ t, exec .takeoverComplete s = .next t ∧ t.twn.taking = false ∧ t.twn.mirror = mi ∧
        t.twn.tookOver = s.twn.tookOver ∧
        t.time = s.time ∧ t.cord = s.cord ∧ t.pwr = s.pwr ∧ t.pending = s.pending ∧
        (∀ c x, Map.get? mi.ctxs c = some x → ∃ y, getCtx t c = some y ∧ y.state = .timedOut ∧
          y.arg0 = x.arg0 ∧ y.step = x.step ∧ y.timeout = x.timeout ∧ y.onChip = false) ∧
        (∀ c, Map.get? mi.ctxs c = none → halfBit 3 c = twinSide s → getCtx t c = getCtx s c) ∧
        (∀ c, Map.get? mi.ctxs c = none → halfBit 3 c ≠ twinSide s → getCtx t c = none) ∧
        (∀ n x, Map.get? mi.mgroups n = some x → getMGroup t n = x) ∧
        (∀ n x, Map.get? mi.tallies n = some x →
          getTally t n = { value := x.value, gen := x.gen, start := x.start, relSeq := 0 } ∧
          reg t (Reg.tallyCfg n) = x.cfg ∧ reg t (Reg.tallyRelease n) = x.release) ∧
        (∀ l, Map.has mi.layers l = true → (reg t (Reg.layer l 0)).getLsbD 63 = false) ∧
        (∀ k v, Map.get? mi.places k = some v → reg t (Reg.place (k / 2 ^ 21) (k / 2 ^ 13 % 256) (k % 2 ^ 13)) = v) ∧
        (engaged s = true → ∀ n ∈ upSublinks s, (n, twinOctets 1 0 s.twn.epoch (helloBody t)) ∈ t.twn.out)) ∧
    (s.twn.giveback = true → s.twn.ackedMseq = s.twn.sentMseq → Map.sorted s.ctx.table = true →
      (∀ n ∈ s.ctx.needs, n.waits = false) →
      ∃ t, exec .givebackComplete s = .next t ∧ t.twn.tookOver = false ∧ t.twn.giveback = false ∧
        (∀ c, halfBit 3 c ≠ twinSide s → getCtx t c = none) ∧
        (∀ c, halfBit 3 c = twinSide s → getCtx t c = getCtx s c) ∧
        (∀ n, halfBit 5 n = twinSide s → getMGroup t n = getMGroup s n) ∧
        (engaged s = true → ∀ n ∈ upSublinks s, (n, twinOctets 1 0 s.twn.epoch (helloBody t)) ∈ t.twn.out) ∧
        t.mem = s.mem ∧ t.time = s.time ∧ t.cord = s.cord ∧ t.pwr = s.pwr ∧ t.pending = s.pending) ∧
    (s.twn.giveback = false ∨ s.twn.ackedMseq ≠ s.twn.sentMseq → exec .givebackComplete s = .next s)
/-! ### Damper, scan-out, traces and counters (chapter 18) -/

/-- The damper (R372-R375), its control writes out of reset and outside the ROM loader. Raised on a device not
dampered, with a serial not remembered, it records its source, serial, origin and tick, keeps the state as it stands
for a scan-out, abandons every running invocation with the FIFOs kept, ends a cord apply in STATE 4 and a sparing
copy, pauses every Ethernet-mode port that is up and, with SPREAD = 1, is queued eight times on every fabric port that
is up but the one it came from. Raised again it has no effect; a symbol received while ACCEPT = 0 is counted. A
release ends it, with the deadlines of open rounds moved by its length, and is refused while a scan-out runs. An
abandoned invocation that a trigger made goes back to the head of its unit's order. -/
def Obligations.DamperIsRaisedAndReleased : Prop :=
  ∀ (s : State),
    let hit (t : State) (src : BitVec 3) (serial : BitVec 32) (origin : Chip) (time : BitVec 48) (from_ : Option Nat) :
        Prop :=
      t.dbg.dampered = true ∧ t.dbg.source = src ∧ t.dbg.serial = serial ∧ t.dbg.origin = origin ∧
      t.dbg.td = s.time.ftc ∧ t.dbg.originTime = time ∧ t.dbg.serials = (serial :: s.dbg.serials).take 16 ∧
      (∃ f, t.dbg.frozen = some f ∧ f.regs = s.regs ∧ f.time = s.time ∧ f.ports = s.ports ∧ f.sw = s.sw ∧
        f.groups = s.groups ∧ f.ctx = s.ctx ∧ f.cord = s.cord ∧ f.pwr = s.pwr ∧ f.twn = s.twn ∧
        f.sramChk = s.bpm.sramChk ∧ f.counters = s.dbg.counters ∧ f.td = s.time.ftc) ∧
      (∀ g, g < 16 → (getGroup t g).fifo = (getGroup s g).fifo ∧ ∀ u, u < 13 → (getUnit t g u).run = none) ∧
      t.cord.action = .idle ∧ (s.cord.action ≠ .idle → t.cord.state = 4) ∧ t.bpm.copy = none ∧
      t.mem = s.mem ∧ t.regs = s.regs ∧ t.ctx = s.ctx ∧ t.pwr = s.pwr ∧ t.sw = s.sw ∧ t.twn = s.twn ∧
      (∀ k p, k < 1024 → Map.get? s.ports k = some p → p.state = .up →
        (p.rev = 0 → Map.get? t.ports k = some { p with pfcTx := 0xFF }) ∧
        (p.rev ≠ 0 → (reg s Reg.damperCfg).getLsbD 62 = true → some k ≠ from_ →
          Map.get? t.ports k = some { p with ctrlQ := p.ctrlQ ++ List.replicate 8 (.damper serial origin time) }) ∧
        (p.rev ≠ 0 → (reg s Reg.damperCfg).getLsbD 62 = false ∨ some k = from_ → Map.get? t.ports k = some p))
    (∀ (serial : BitVec 32), Map.sorted s.ports = true → s.pwr.porst = true → s.mss.romOnly = false →
      (s.dbg.dampered = false → s.dbg.serials.contains serial = false →
        ∃ t, exec (.raise serial) s = .next t ∧ t.lastStatus = .ok ∧
          hit t 1 serial (BitVec.ofNat 16 (ownChip s)) (s.time.ftc.setWidth 48) none) ∧
      (s.dbg.dampered = true ∨ s.dbg.serials.contains serial = true →
        exec (.raise serial) s = .next { s with lastStatus := .ok })) ∧
    (∀ (l : Lane) (serial : BitVec 32) (origin : Chip) (time : BitVec 48), Map.sorted s.ports = true →
      ((reg s Reg.damperCfg).getLsbD 63 = true → s.dbg.dampered = false → s.dbg.serials.contains serial = false →
        ∃ t, exec (.damper l serial origin time) s = .next t ∧ t.lastStatus = s.lastStatus ∧
          hit t 3 serial origin time (some l.toNat)) ∧
      ((reg s Reg.damperCfg).getLsbD 63 = true → s.dbg.dampered = true ∨ s.dbg.serials.contains serial = true →
        exec (.damper l serial origin time) s = .next s) ∧
      ((reg s Reg.damperCfg).getLsbD 63 = false →
        exec (.damper l serial origin time) s = .next (count 13 1 0 s))) ∧
    (s.pwr.porst = true → s.mss.romOnly = false →
      (s.dbg.scan.state = 1 → exec .release s = .next { s with lastStatus := .resourceBound }) ∧
      (s.dbg.scan.state ≠ 1 → s.dbg.dampered = false → exec .release s = .next { s with lastStatus := .ok }) ∧
      (s.dbg.scan.state ≠ 1 → s.dbg.dampered = true → (∀ g, g < 16 → (getGroup s g).abandoned = []) →
        ∃ t, exec .release s = .next t ∧ t.lastStatus = .ok ∧
          t.dbg = { s.dbg with dampered := false, frozen := none } ∧
          (∀ c x, getCtx s c = some x → getCtx t c = some
            (if x.roundOpen = true ∧ x.timeout ≠ 0 then
              { x with deadline := x.deadline + (s.time.ftc.toNat - s.dbg.td.toNat) } else x)) ∧
          t.mem = s.mem ∧ t.regs = s.regs ∧ t.cord = s.cord ∧ t.pwr = s.pwr ∧ t.twn = s.twn) ∧
      (∀ g u r, g < 16 → s.dbg.scan.state ≠ 1 → s.dbg.dampered = true → (getGroup s g).abandoned = [(u, r)] →
        r.inv.triggered = true → (∀ k, k < 16 → k ≠ g → (getGroup s k).abandoned = []) →
        ∃ t, exec .release s = .next t ∧ (getUnit t g u).order = r.inv :: (getUnit s g u).order ∧
          (getGroup t g).abandoned = [] ∧ (getGroup t g).fifo = (getGroup s g).fifo ∧ t.dbg.dampered = false))

/-- Scan-out, traces, counters and spark samples (R376-R381), out of reset and outside the ROM loader. SIZE shows the
length of an image; START is accepted only on a dampered device that is not halted, with no scan running and a
destination that holds it; the copy puts the image of the state as it stood at T_d, which begins with its MAGIC, into
the DDR5 window; one sent to the host leaves memory as it is. A trace record goes into its die's ring at the place its
number gives, or is counted as lost, or waits for a frozen channel; a clear zeroes the counters of the blocks named
but for the present tick's events; a snapshot copies every counter with its tick; a pop takes the oldest spark sample
out. (The octets of sections 0x04 to 0x07 are free: log entry 35.) -/
def Obligations.DebugStoresAreRead : Prop :=
  ∀ (s : State), s.pwr.porst = true → s.mss.romOnly = false →
    (∀ (v : W64),
      let total := scanTotal (scanView s) (fld v 56 50)
      let fits : Prop := s.dbg.dampered = true ∧ s.pwr.state ≠ .halted ∧ s.dbg.scan.state ≠ 1 ∧
        (v.getLsbD 61 = true → s.host.chainAddr ≠ 0xFF#8) ∧
        (v.getLsbD 61 = false → s.bpm.ddrWindow = true ∧ fld v 41 0 + total ≤ ddrSize s)
      let shown (st : Status) : State := { s with
        lastStatus := st, dbg := { s.dbg with scan := { s.dbg.scan with status := st } } }
      (fld v 41 0 % 4096 = 0 → exec (.scanSize v) s = .next { s with
        lastStatus := .ok
        dbg := { s.dbg with scan := { s.dbg.scan with size := BitVec.ofNat 64 total, status := .ok } } }) ∧
      (fld v 41 0 % 4096 = 0 → fits → exec (.scanStart v) s = .next { s with
        lastStatus := .ok
        dbg := { s.dbg with scan := {
          status := .ok, state := 1, sent := 0, size := BitVec.ofNat 64 total, dest := v.getLsbD 61
          base := fld v 41 0, mask := BitVec.ofNat 7 (fld v 56 50), startTick := s.time.ftc } } }) ∧
      (fld v 41 0 % 4096 = 0 → ¬ fits → exec (.scanStart v) s = .next (shown .resourceBound)) ∧
      (fld v 41 0 % 4096 ≠ 0 → exec (.scanSize v) s = .next (shown .fieldInvalid) ∧
        exec (.scanStart v) s = .next (shown .fieldInvalid))) ∧
    (s.dbg.scan.state = 1 →
      let img := scanImage (scanView s)
      img.take 4 = [0x56#8, 0x46#8, 0x53#8, 0x4F#8] ∧
      ∃ t, exec .scanComplete s = .next t ∧ t.dbg.scan.state = 2 ∧ t.dbg.scan.sent = img.length ∧
        t.regs = s.regs ∧ t.groups = s.groups ∧ t.ctx = s.ctx ∧ t.sw = s.sw ∧ t.cord = s.cord ∧
        (s.dbg.scan.dest = false → t.mem = (writeMem 6 0xFF none (ddrBase + s.dbg.scan.base) img s).mem) ∧
        (s.dbg.scan.dest = true → t.mem = s.mem)) ∧
    (s.dbg.scan.state ≠ 1 → exec .scanComplete s = .next s) ∧
    (∀ (d : Die),
      let c := reg s (Reg.traceRing d.toNat)
      let n := (Map.getD s.dbg.traceCount d.toNat 0).toNat
      let o := ddrBase + fld c 41 0 + 32 * (n % (fld c 63 44 * 32768))
      (Map.getD s.dbg.traceFifo d.toNat [] = [] → exec (.traceDrain d) s = .next s) ∧
      (∀ r rest, Map.getD s.dbg.traceFifo d.toNat [] = r :: rest →
        (fld c 63 44 ≠ 0 → s.bpm.ddrWindow = true → memFree s o 32 = true → ∃ t, exec (.traceDrain d) s = .next t ∧
          t.mem = (writeMem 5 0xFF none o r.bytes s).mem ∧
          Map.getD t.dbg.traceFifo d.toNat [] = rest ∧
          Map.getD t.dbg.traceCount d.toNat 0 = Map.getD s.dbg.traceCount d.toNat 0 + 1 ∧
          t.regs = s.regs ∧ t.groups = s.groups ∧ t.ctx = s.ctx ∧ t.sw = s.sw) ∧
        (fld c 63 44 ≠ 0 → s.bpm.ddrWindow = true → memFree s o 32 = false → exec (.traceDrain d) s = .next s) ∧
        (fld c 63 44 = 0 ∨ s.bpm.ddrWindow = false → ∃ t, exec (.traceDrain d) s = .next t ∧
          t = { s with dbg := t.dbg } ∧ Map.getD t.dbg.traceFifo d.toNat [] = rest ∧
          t.dbg.counters = (count 13 0 d.toNat s).dbg.counters ∧ t.dbg.traceCount = s.dbg.traceCount)) ∧
      (∀ (v : W64), Map.sorted s.regs = true →
        (fld v 41 0 % 1048576 = 0 → ∃ t, exec (.traceRingWrite d v) s = .next t ∧
          t = { s with
            regs := t.regs, lastStatus := .ok
            dbg := { s.dbg with traceCount := Map.erase s.dbg.traceCount d.toNat } } ∧
          reg t (Reg.traceRing d.toNat) = v &&& 0xFFFFF3FFFFFFFFFF#64 ∧
          ∀ a, a ≠ Reg.traceRing d.toNat → reg t a = reg s a) ∧
        (fld v 41 0 % 1048576 ≠ 0 →
          exec (.traceRingWrite d v) s = .next { s with lastStatus := .fieldInvalid }))) ∧
    (∀ (v : W64), s.dbg.recentAt ≠ s.time.ftc → ∃ t, exec (.counterClear v) s = .next t ∧
      t = { s with lastStatus := .ok, dbg := { s.dbg with counters := t.dbg.counters } } ∧
      ∀ b i k, b < 16 → i < 64 → k < 16384 → Map.get? t.dbg.counters (ctrKey b i k) =
        if v.getLsbD b = true then none else Map.get? s.dbg.counters (ctrKey b i k)) ∧
    (∀ (v : W64) (b i k n : Nat), s.dbg.recentAt = s.time.ftc → s.dbg.recent = [(ctrKey b i k, n)] → b < 16 → i < 64 →
      k < 16384 → v.getLsbD b = true → ∃ t, exec (.counterClear v) s = .next t ∧
        t = { s with lastStatus := .ok, dbg := { s.dbg with counters := t.dbg.counters } } ∧
        Map.get? t.dbg.counters (ctrKey b i k) = some n) ∧
    (exec .snapshotTake s = .next { s with
      lastStatus := .ok
      dbg := { s.dbg with shadows := s.dbg.counters, snapTick := s.time.ftc, snapTaken := true } }) ∧
    ((reg s Reg.snapCtrl).getLsbD 63 = true → (timerHeld s 0x12).isSome = true →
      ∃ t, exec .snapshotPeriod s = .next t ∧
        t = { s with
          mss := t.mss
          dbg := { s.dbg with shadows := s.dbg.counters, snapTick := s.time.ftc, snapTaken := true } }) ∧
    ((reg s Reg.snapCtrl).getLsbD 63 = false → exec .snapshotPeriod s = .next s) ∧
    (exec .sparkPop s = .next { s with
      lastStatus := .ok, dbg := { s.dbg with sparks := s.dbg.sparks.drop 1 } })

/-! ### The end of a frame (chapters 3 and 4) -/

/-- The end of a frame received on a port's channel, all of its blocks in (R56, R83): the channel is free for the next
frame and the frame's end is known. One whose accepted header's LENGTH is not the number of its octets is discarded and
counted MALFORMED where its transmission has not begun, and cut short where it has; any other one stays as it is. While
the end block is still to come, and where no frame is being received, nothing changes. -/
def Obligations.FrameEndIsJudged : Prop :=
  (∀ (l : Lane) (ch : Chan) (uid : Nat) (f : Frame) (s : State),
    Map.get? (getPort s l.toNat).rxCur ch.toNat = some uid → getFrame s uid = some f → f.whole = true →
    let s1 : State := modFrame uid (fun f => { f with ended := true })
      (modPort s l.toNat (fun p => { p with rxCur := Map.erase p.rxCur ch.toNat }))
    ((∀ (h : Hdr), f.hdr = some h → f.cutAt = none → f.raw.length = frameHdrLen f + h.len + 4) →
      exec (.frameEndReceive l ch) s = .next s1) ∧
    (∀ (h : Hdr), f.hdr = some h → f.cutAt = none → f.raw.length ≠ frameHdrLen f + h.len + 4 → f.begun = true →
      exec (.frameEndReceive l ch) s = .next (modFrame uid (fun f => { f with cutAt := some f.raw.length }) s1)) ∧
    (∀ (h : Hdr), f.hdr = some h → f.cutAt = none → f.raw.length ≠ frameHdrLen f + h.len + 4 → f.begun = false →
      Map.sorted s.sw.frames = true → uid < s.sw.nextUid →
      ∃ t, exec (.frameEndReceive l ch) s = .next t ∧ getFrame t uid = none ∧
        (∀ (key : Nat) (q : List Nat), (key, q) ∈ t.sw.egress ++ t.sw.memq ++ t.sw.intake ++ t.sw.staging ++
          t.sw.flueIn → uid ∉ q) ∧
        t.dbg.counters = (count 3 1 (srcInstance f.ingress) s).dbg.counters ∧
        t.mem = s.mem ∧ t.regs = s.regs ∧ t.groups = s.groups ∧ t.ctx = s.ctx ∧ t.wire = s.wire)) ∧
  (∀ (l : Lane) (ch : Chan) (s : State),
    (∀ uid f, Map.get? (getPort s l.toNat).rxCur ch.toNat = some uid → getFrame s uid = some f → f.whole = false) →
    exec (.frameEndReceive l ch) s = .next s)
end

