-- ==== Sys2Proof/Laws/Maps.lean ====
section
/-! SUPPORT. Reading a sparse map after it was changed, and its sorted form. -/

namespace Sys2Proof.Machine

open Sys2Proof

variable {α : Type}

@[simp] theorem Map.get?_set_same {m : Map α} {k : Nat} {a : α} : Map.get? (Map.set m k a) k = some a := by
  induction m with
  | nil => simp [Map.set, Map.get?]
  | cons e m ih =>
    obtain ⟨j, b⟩ := e
    unfold Map.set
    split
    · simp [Map.get?]
    · split
      · simp [Map.get?]
      · rw [Map.get?, if_neg (by omega), ih]

theorem Map.get?_set_other {m : Map α} {j k : Nat} {a : α} (h : j ≠ k) :
    Map.get? (Map.set m k a) j = Map.get? m j := by
  induction m with
  | nil => simp [Map.set, Map.get?, Ne.symm h]
  | cons e m ih =>
    obtain ⟨i, b⟩ := e
    unfold Map.set
    split
    · rw [Map.get?, if_neg (Ne.symm h)]
    · split
      · rename_i hki
        subst hki
        rw [Map.get?, if_neg (Ne.symm h), Map.get?, if_neg (Ne.symm h)]
      · rw [Map.get?, Map.get?, ih]

@[simp] theorem Map.getD_set_same {m : Map α} {k : Nat} {a d : α} : Map.getD (Map.set m k a) k d = a := by
  simp [Map.getD]

theorem Map.getD_set_other {m : Map α} {j k : Nat} {a d : α} (h : j ≠ k) :
    Map.getD (Map.set m k a) j d = Map.getD m j d := by
  simp [Map.getD, Map.get?_set_other h]

@[simp] theorem Map.getD_nil {k : Nat} {d : α} : Map.getD ([] : Map α) k d = d := rfl

/-- Taking a key out leaves every other key's value. -/
theorem Map.get?_erase_other {m : Map α} {j k : Nat} (h : j ≠ k) : Map.get? (Map.erase m k) j = Map.get? m j := by
  induction m with
  | nil => rfl
  | cons e m ih =>
    obtain ⟨i, b⟩ := e
    unfold Map.erase
    split
    · rename_i hi
      rw [Map.get?, if_neg (by omega)]
    · rw [Map.get?, Map.get?, ih]

/-- Every key of a map lies above `k`. -/
def MapAbove (k : Nat) (m : Map α) : Prop := ∀ e ∈ m, k < e.1

theorem Map.sorted_cons {k : Nat} {a : α} {m : Map α} :
    Map.sorted ((k, a) :: m) = true ↔ MapAbove k m ∧ Map.sorted m = true := by
  induction m generalizing k a with
  | nil => simp [Map.sorted, MapAbove]
  | cons e m ih =>
    obtain ⟨j, b⟩ := e
    have h : Map.sorted ((k, a) :: (j, b) :: m) = true ↔ k < j ∧ Map.sorted ((j, b) :: m) = true := by
      simp [Map.sorted]
    rw [h]
    constructor
    · rintro ⟨hkj, hs⟩
      refine ⟨fun c hc => ?_, hs⟩
      rcases List.mem_cons.mp hc with rfl | hc
      · exact hkj
      · exact Nat.lt_trans hkj ((ih.mp hs).1 c hc)
    · rintro ⟨hab, hs⟩
      exact ⟨hab (j, b) (List.mem_cons_self ..), hs⟩

theorem Map.get?_above {m : Map α} {j k : Nat} (h : MapAbove k m) (hj : j ≤ k) : Map.get? m j = none := by
  induction m with
  | nil => rfl
  | cons e m ih =>
    obtain ⟨i, b⟩ := e
    have hi : k < i := h (i, b) (List.mem_cons_self ..)
    rw [Map.get?, if_neg (by omega)]
    exact ih fun c hc => h c (List.mem_cons_of_mem _ hc)

theorem Map.get?_erase_same {m : Map α} {k : Nat} (h : Map.sorted m = true) : Map.get? (Map.erase m k) k = none := by
  induction m with
  | nil => rfl
  | cons e m ih =>
    obtain ⟨i, b⟩ := e
    obtain ⟨ha, hs⟩ := Map.sorted_cons.mp h
    unfold Map.erase
    split
    · rename_i hi
      subst hi
      exact Map.get?_above ha (Nat.le_refl _)
    · rename_i hi
      rw [Map.get?, if_neg hi, ih hs]

theorem Map.above_set {m : Map α} {j k : Nat} {a : α} (hj : j < k) (h : MapAbove j m) : MapAbove j (Map.set m k a) := by
  induction m with
  | nil =>
    intro c hc
    simp only [Map.set, List.mem_singleton] at hc
    subst hc
    exact hj
  | cons e m ih =>
    obtain ⟨i, b⟩ := e
    have hi : j < i := h (i, b) (List.mem_cons_self ..)
    have hm : MapAbove j m := fun c hc => h c (List.mem_cons_of_mem _ hc)
    intro c hc
    unfold Map.set at hc
    split at hc
    · rcases List.mem_cons.mp hc with rfl | hc
      · exact hj
      · exact h c hc
    · split at hc
      · rcases List.mem_cons.mp hc with rfl | hc
        · exact hj
        · exact hm c hc
      · rcases List.mem_cons.mp hc with rfl | hc
        · exact hi
        · exact ih hm c hc

/-- Putting an entry in keeps the keys rising. -/
theorem Map.sorted_set {m : Map α} {k : Nat} {a : α} (h : Map.sorted m = true) : Map.sorted (Map.set m k a) = true := by
  induction m with
  | nil => rfl
  | cons e m ih =>
    obtain ⟨i, b⟩ := e
    obtain ⟨ha, hs⟩ := Map.sorted_cons.mp h
    unfold Map.set
    split
    · rename_i hk
      refine Map.sorted_cons.mpr ⟨fun c hc => ?_, h⟩
      rcases List.mem_cons.mp hc with rfl | hc
      · exact hk
      · exact Nat.lt_trans hk (ha c hc)
    · split
      · rename_i hk
        subst hk
        exact Map.sorted_cons.mpr ⟨ha, hs⟩
      · exact Map.sorted_cons.mpr ⟨Map.above_set (by omega) ha, ih hs⟩

theorem Map.above_erase {m : Map α} {j k : Nat} (h : MapAbove j m) : MapAbove j (Map.erase m k) := by
  induction m with
  | nil => exact h
  | cons e m ih =>
    obtain ⟨i, b⟩ := e
    have hm : MapAbove j m := fun c hc => h c (List.mem_cons_of_mem _ hc)
    unfold Map.erase
    split
    · exact hm
    · intro c hc
      rcases List.mem_cons.mp hc with rfl | hc
      · exact h _ (List.mem_cons_self ..)
      · exact ih hm c hc

/-- Taking an entry out keeps the keys rising. -/
theorem Map.sorted_erase {m : Map α} {k : Nat} (h : Map.sorted m = true) : Map.sorted (Map.erase m k) = true := by
  induction m with
  | nil => rfl
  | cons e m ih =>
    obtain ⟨i, b⟩ := e
    obtain ⟨ha, hs⟩ := Map.sorted_cons.mp h
    unfold Map.erase
    split
    · exact hs
    · exact Map.sorted_cons.mpr ⟨Map.above_erase ha, ih hs⟩

theorem Map.above_keep {m : Map α} {j : Nat} {p : Nat → α → Bool} (h : MapAbove j m) : MapAbove j (Map.keep m p) :=
  fun c hc => h c (List.mem_filter.mp hc).1

/-- Keeping some of the entries keeps the keys rising. -/
theorem Map.sorted_keep {m : Map α} {p : Nat → α → Bool} (h : Map.sorted m = true) :
    Map.sorted (Map.keep m p) = true := by
  induction m with
  | nil => rfl
  | cons e m ih =>
    obtain ⟨i, b⟩ := e
    obtain ⟨ha, hs⟩ := Map.sorted_cons.mp h
    by_cases hp : p i b = true
    · have he : Map.keep ((i, b) :: m) p = (i, b) :: Map.keep m p := List.filter_cons_of_pos hp
      rw [he]
      exact Map.sorted_cons.mpr ⟨Map.above_keep ha, ih hs⟩
    · have he : Map.keep ((i, b) :: m) p = Map.keep m p := List.filter_cons_of_neg hp
      rw [he]
      exact ih hs

end Sys2Proof.Machine
end

