-- ==== Sys2Proof/Laws/Memory.lean ====
section
/-! SUPPORT. Laws of the memory: its canonical form is kept by every write, and reads see the latest write. -/

namespace Sys2Proof.Machine

open Sys2Proof Sys2Proof.Machine

/-- Every address listed is above `k`. -/
def AllAbove (k : Nat) (m : List Host.Cell) : Prop := ∀ c ∈ m, k < c.1

theorem AllAbove.mono {j k : Nat} {m : List Host.Cell} (h : j ≤ k) (hm : AllAbove k m) : AllAbove j m :=
  fun c hc => Nat.lt_of_le_of_lt h (hm c hc)

/-- The canonical form of a non-empty memory: a byte other than 0, above it everything else, and that canonical. -/
theorem wf_nil : Memory.wf [] := by decide

theorem wf_cons {a : Nat} {v : Byte} {m : List Host.Cell} :
    Memory.wf ((a, v) :: m) ↔ v ≠ 0 ∧ AllAbove a m ∧ Memory.wf m := by
  induction m generalizing a v with
  | nil => simp [Memory.wf, Memory.sorted, AllAbove]
  | cons c m ih =>
    obtain ⟨b, w⟩ := c
    have e : Memory.wf ((a, v) :: (b, w) :: m) ↔ v ≠ 0 ∧ a < b ∧ Memory.wf ((b, w) :: m) := by
      simp [Memory.wf, Memory.sorted, and_assoc]
    rw [e]
    constructor
    · rintro ⟨hv, hab, hm⟩
      refine ⟨hv, ?_, hm⟩
      intro c hc
      rcases List.mem_cons.mp hc with rfl | hc
      · exact hab
      · exact Nat.lt_trans hab ((ih.mp hm).2.1 c hc)
    · rintro ⟨hv, habove, hm⟩
      exact ⟨hv, habove (b, w) (List.mem_cons_self ..), hm⟩

theorem allAbove_writeByte {j k : Nat} {v : Byte} {m : List Host.Cell} (hj : j < k) (h : AllAbove j m) :
    AllAbove j (Memory.writeByte m k v) := by
  induction m with
  | nil =>
    unfold Memory.writeByte
    split
    · exact h
    · intro c hc
      simp only [List.mem_cons, List.not_mem_nil, or_false] at hc
      simpa [hc] using hj
  | cons c m ih =>
    obtain ⟨a, w⟩ := c
    have ha : j < a := h (a, w) (List.mem_cons_self ..)
    have hm : AllAbove j m := fun c hc => h c (List.mem_cons_of_mem _ hc)
    have hcons : ∀ (x : Nat) (u : Byte) (l : List Host.Cell), j < x → AllAbove j l → AllAbove j ((x, u) :: l) := by
      intro x u l hx hl c hc
      rcases List.mem_cons.mp hc with rfl | hc
      · exact hx
      · exact hl c hc
    unfold Memory.writeByte
    split
    · split
      · exact h
      · exact hcons _ _ _ hj h
    · split
      · split
        · exact hm
        · exact hcons _ _ _ hj hm
      · exact hcons _ _ _ ha (ih hm)

/-- A write of one octet keeps the canonical form. -/
theorem wf_writeByte {m : List Host.Cell} {k : Nat} {v : Byte} (h : Memory.wf m) :
    Memory.wf (Memory.writeByte m k v) := by
  induction m with
  | nil =>
    unfold Memory.writeByte
    split
    · exact h
    · next hv => exact wf_cons.mpr ⟨hv, fun c hc => absurd hc (List.not_mem_nil), h⟩
  | cons c m ih =>
    obtain ⟨a, w⟩ := c
    obtain ⟨hw, habove, hm⟩ := wf_cons.mp h
    unfold Memory.writeByte
    split
    · next hka =>
      split
      · exact h
      · next hv =>
        refine wf_cons.mpr ⟨hv, ?_, h⟩
        intro c hc
        rcases List.mem_cons.mp hc with rfl | hc
        · exact hka
        · exact Nat.lt_trans hka (habove c hc)
    · split
      · next hka =>
        split
        · exact hm
        · next hv => exact wf_cons.mpr ⟨hv, hka ▸ habove, hm⟩
      · next h1 h2 =>
        exact wf_cons.mpr ⟨hw, allAbove_writeByte (by omega) habove, ih hm⟩

theorem wf_writeBytes {m : List Host.Cell} {k : Nat} {l : List Byte} (h : Memory.wf m) :
    Memory.wf (Memory.writeBytes m k l) := by
  induction l generalizing m k with
  | nil => exact h
  | cons v l ih => exact ih (wf_writeByte h)

theorem readByte_above {m : List Host.Cell} {j k : Nat} (h : AllAbove k m) (hj : j ≤ k) : Memory.readByte m j = 0 := by
  induction m with
  | nil => rfl
  | cons c m ih =>
    obtain ⟨a, w⟩ := c
    have ha : k < a := h (a, w) (List.mem_cons_self ..)
    unfold Memory.readByte
    rw [if_neg (by omega)]
    exact ih (fun c hc => h c (List.mem_cons_of_mem _ hc))

/-- An octet reads as it was last written, and a write leaves every other octet alone. -/
theorem readByte_writeByte {m : List Host.Cell} {j k : Nat} {v : Byte} (h : Memory.wf m) :
    Memory.readByte (Memory.writeByte m k v) j = if j = k then v else Memory.readByte m j := by
  induction m with
  | nil =>
    unfold Memory.writeByte
    split
    · next hv => subst hv; simp [Memory.readByte]
    · simp only [Memory.readByte, eq_comm]
  | cons c m ih =>
    obtain ⟨a, w⟩ := c
    obtain ⟨hw, habove, hm⟩ := wf_cons.mp h
    unfold Memory.writeByte
    split
    · next hka =>
      split
      · next hv =>
        subst hv
        split
        · next hjk =>
          subst hjk
          unfold Memory.readByte
          rw [if_neg (by omega)]
          exact readByte_above habove (by omega)
        · rfl
      · simp only [Memory.readByte, eq_comm]
    · split
      · next hka =>
        subst hka
        split
        · next hv =>
          subst hv
          split
          · next hjk => subst hjk; exact readByte_above habove (Nat.le_refl _)
          · next hjk => simp [Memory.readByte, Ne.symm hjk]
        · by_cases hjk : j = k
          · simp [Memory.readByte, hjk]
          · simp [Memory.readByte, hjk, Ne.symm hjk]
      · next h1 h2 =>
        simp only [Memory.readByte, ih hm]
        by_cases haj : a = j
        · have : j ≠ k := by omega
          simp [haj, this]
        · simp [haj]

theorem readByte_writeBytes {m : List Host.Cell} {j k : Nat} {l : List Byte} (h : Memory.wf m) :
    Memory.readByte (Memory.writeBytes m k l) j =
      if k ≤ j ∧ j < k + l.length then nthD l (j - k) 0 else Memory.readByte m j := by
  induction l generalizing m k with
  | nil =>
    have : ¬ (k ≤ j ∧ j < k + ([] : List Byte).length) := by simp
    rw [if_neg this]
    rfl
  | cons v l ih =>
    show Memory.readByte (Memory.writeBytes (Memory.writeByte m k v) (k + 1) l) j = _
    rw [ih (wf_writeByte h), readByte_writeByte h]
    by_cases hjk : j = k
    · subst hjk
      rw [if_neg (by omega), if_pos rfl, if_pos (by simp only [List.length_cons]; omega), Nat.sub_self]
      rfl
    · by_cases hlt : k + 1 ≤ j ∧ j < k + 1 + l.length
      · have h2 : k ≤ j ∧ j < k + (v :: l).length := by
          simp only [List.length_cons]
          omega
        obtain ⟨d, hd⟩ : ∃ d, j - k = d + 1 := ⟨j - k - 1, by omega⟩
        rw [if_pos hlt, if_pos h2, hd, show j - (k + 1) = d by omega]
        rfl
      · have h2 : ¬ (k ≤ j ∧ j < k + (v :: l).length) := by
          simp only [List.length_cons]
          omega
        rw [if_neg hlt, if_neg h2, if_neg hjk]

/-- Two memories in canonical form that read alike are the same. -/
theorem wf_ext {m n : List Host.Cell} (hm : Memory.wf m) (hn : Memory.wf n)
    (h : ∀ j, Memory.readByte m j = Memory.readByte n j) : m = n := by
  induction m generalizing n with
  | nil =>
    cases n with
    | nil => rfl
    | cons c n =>
      obtain ⟨b, w⟩ := c
      exact absurd (by simpa [Memory.readByte] using (h b).symm) (wf_cons.mp hn).1
  | cons c m ih =>
    obtain ⟨a, v⟩ := c
    obtain ⟨hv, ham, hm'⟩ := wf_cons.mp hm
    cases n with
    | nil => exact absurd (by simpa [Memory.readByte] using h a) hv
    | cons d n =>
      obtain ⟨b, w⟩ := d
      obtain ⟨hw, hbn, hn'⟩ := wf_cons.mp hn
      have hab : a = b := by
        rcases Nat.lt_trichotomy a b with hlt | rfl | hlt
        · have e := h a
          simp only [Memory.readByte, if_true, if_neg (show ¬ b = a by omega)] at e
          exact absurd (e.trans (readByte_above hbn (by omega))) hv
        · rfl
        · have e := h b
          simp only [Memory.readByte, if_true, if_neg (show ¬ a = b by omega)] at e
          exact absurd (e.symm.trans (readByte_above ham (by omega))) hw
      subst hab
      have hvw : v = w := by simpa [Memory.readByte] using h a
      subst hvw
      rw [ih hm' hn' ?_]
      intro j
      by_cases hj : a = j
      · subst hj
        rw [readByte_above ham (Nat.le_refl _), readByte_above hbn (Nat.le_refl _)]
      · simpa [Memory.readByte, hj] using h j

end Sys2Proof.Machine
end

