-- ==== Sys2Proof/Laws/Keeps.lean ====
section
/-! SUPPORT. A predicate every function of the model keeps: the queue is a given one, the memory is in its canonical
form when a given condition holds, the register file has its keys in order when another does, and no fuse is changed but
by being burnt. -/

namespace Sys2Proof.Machine

open Sys2Proof

/-- What is to be kept: a queue, the conditions under which the memory and the register file are in canonical form, the
fused identity and secrets, a least SVN floor, and slots revoked. -/
structure ToKeep where
  queue : List Instr
  mem : Prop
  regs : Prop
  deviceId : W64
  grade : BitVec 2
  keyDigests : List (List Byte)
  repairFuses : List Nat
  secret : List Byte
  floor : Nat
  revoked : BitVec 4

/-- The parts of a state meet what is to be kept. -/
structure KeepsBy (k : ToKeep) (pending : List Instr) (cells : List Host.Cell) (regs : Map W64) (deviceId : W64)
    (grade : BitVec 2) (keyDigests : List (List Byte)) (repairFuses : List Nat) (secret : List Byte) (floor : Nat) (revoked : BitVec 4) : Prop where
  queue : pending = k.queue
  cells : k.mem → Memory.wf cells
  regs : k.regs → Map.sorted regs = true
  deviceId : deviceId = k.deviceId
  grade : grade = k.grade
  keyDigests : keyDigests = k.keyDigests
  repairFuses : repairFuses = k.repairFuses
  secret : secret = k.secret
  floor : k.floor ≤ floor
  revoked : k.revoked &&& revoked = k.revoked

/-- The state meets what is to be kept. -/
structure Keeps (k : ToKeep) (s : State) : Prop where
  by_ : KeepsBy k s.pending s.mem.cells s.regs s.mss.deviceId s.mss.grade s.mss.keyDigests
      s.mss.repairFuses s.mss.secret s.mss.svnFloor s.mss.revoked

variable {kp : ToKeep}

@[simp] theorem keeps_mk {regs time ports sw mem bpm groups ctx moe cord host pwr mss twn dbg lastStatus freeCtr wire
    pending} :
    Keeps kp (State.mk regs time ports sw mem bpm groups ctx moe cord host pwr mss twn dbg lastStatus freeCtr wire
      pending) ↔
    KeepsBy kp pending mem.cells regs mss.deviceId mss.grade mss.keyDigests mss.repairFuses mss.secret mss.svnFloor mss.revoked :=
  ⟨fun h => h.by_, fun h => ⟨h⟩⟩

@[simp] theorem keepsBy_of {s : State} (h : Keeps kp s) :
    KeepsBy kp s.pending s.mem.cells s.regs s.mss.deviceId s.mss.grade s.mss.keyDigests
      s.mss.repairFuses s.mss.secret s.mss.svnFloor s.mss.revoked := h.by_

@[simp] theorem keepsBy_nil {s : State} (h : Keeps kp s) :
    KeepsBy kp s.pending [] s.regs s.mss.deviceId s.mss.grade s.mss.keyDigests
      s.mss.repairFuses s.mss.secret s.mss.svnFloor s.mss.revoked :=
  { h.by_ with cells := fun _ => wf_nil }

/-- A memory in canonical form put in place of the old one. -/
theorem keeps_mem {s : State} {m : MemSt} (h : Keeps kp s) (hm : kp.mem → Memory.wf m.cells) :
    Keeps kp { s with mem := m } := ⟨{ h.by_ with cells := hm }⟩

theorem keeps_regs {s : State} {r : Map W64} (h : Keeps kp s) (hr : kp.regs → Map.sorted r = true) :
    Keeps kp { s with regs := r } := ⟨{ h.by_ with regs := hr }⟩

/-- Some of the registers kept, and any cells in canonical form. -/
@[simp] theorem keepsBy_keep {s : State} {p} (h : Keeps kp s) :
    KeepsBy kp s.pending s.mem.cells (Map.keep s.regs p) s.mss.deviceId s.mss.grade s.mss.keyDigests
      s.mss.repairFuses s.mss.secret s.mss.svnFloor
      s.mss.revoked := { h.by_ with regs := fun hr => Map.sorted_keep (h.by_.regs hr) }

@[simp] theorem keepsBy_keep_nil {s : State} {p} (h : Keeps kp s) :
    KeepsBy kp s.pending [] (Map.keep s.regs p) s.mss.deviceId s.mss.grade s.mss.keyDigests
      s.mss.repairFuses s.mss.secret s.mss.svnFloor
      s.mss.revoked := { h.by_ with regs := fun hr => Map.sorted_keep (h.by_.regs hr), cells := fun _ => wf_nil }

@[simp] theorem keepsBy_nil_nil {s : State} (h : Keeps kp s) :
    KeepsBy kp s.pending [] [] s.mss.deviceId s.mss.grade s.mss.keyDigests
      s.mss.repairFuses s.mss.secret s.mss.svnFloor
      s.mss.revoked := { h.by_ with regs := fun _ => rfl, cells := fun _ => wf_nil }

@[simp] theorem reset_cells : State.reset.mem.cells = [] := rfl

@[simp] theorem reset_regs : State.reset.regs = [] := rfl

@[simp] theorem keeps_ite {c : Prop} [Decidable c] {s t : State} :
    Keeps kp (if c then s else t) ↔ (c → Keeps kp s) ∧ (¬c → Keeps kp t) := by
  split <;> simp_all

@[simp] theorem keeps_ite_snd {α : Type} {c : Prop} [Decidable c] {s t : α × State} :
    Keeps kp (if c then s else t).2 ↔ (c → Keeps kp s.2) ∧ (¬c → Keeps kp t.2) := by
  split <;> simp_all

@[simp] theorem keeps_ite_st {c : Prop} [Decidable c] {s t : SlotRes} :
    Keeps kp (if c then s else t).st ↔ (c → Keeps kp s.st) ∧ (¬c → Keeps kp t.st) := by
  split <;> simp_all

/-- A function of pairs that keeps the predicate keeps it through a list. -/
@[simp] theorem foldl_keeps {α : Type} {f : State → α → State} {s : State} {l : List α}
    (h : Keeps kp s) (hf : ∀ s x, Keeps kp s → Keeps kp (f s x)) : Keeps kp (l.foldl f s) := by
  induction l generalizing s with
  | nil => exact h
  | cons x l ih => exact ih (hf s x h)

@[simp] theorem foldl_keeps_fst {α β : Type} {f : State × β → α → State × β} {b : State × β} {l : List α}
    (h : Keeps kp b.1) (hf : ∀ b x, Keeps kp b.1 → Keeps kp (f b x).1) : Keeps kp (l.foldl f b).1 := by
  induction l generalizing b with
  | nil => exact h
  | cons x l ih => exact ih (hf b x h)

@[simp] theorem foldl_keeps_snd {α β : Type} {f : β × State → α → β × State} {b : β × State} {l : List α}
    (h : Keeps kp b.2) (hf : ∀ b x, Keeps kp b.2 → Keeps kp (f b x).2) : Keeps kp (l.foldl f b).2 := by
  induction l generalizing b with
  | nil => exact h
  | cons x l ih => exact ih (hf b x h)

@[simp] theorem foldOver_keeps {α : Type} {f : State → α → State} {s : State} {l : List α}
    (h : Keeps kp s) (hf : ∀ s x, Keeps kp s → Keeps kp (f s x)) : Keeps kp (foldOver l f s) := foldl_keeps h hf

@[simp] theorem foldOver_keeps_fst {α β : Type} {f : State × β → α → State × β} {b : State × β} {l : List α}
    (h : Keeps kp b.1) (hf : ∀ b x, Keeps kp b.1 → Keeps kp (f b x).1) : Keeps kp (foldOver l f b).1 :=
  foldl_keeps_fst h hf

@[simp] theorem foldOver_keeps_snd {α β : Type} {f : β × State → α → β × State} {b : β × State} {l : List α}
    (h : Keeps kp b.2) (hf : ∀ b x, Keeps kp b.2 → Keeps kp (f b x).2) : Keeps kp (foldOver l f b).2 :=
  foldl_keeps_snd h hf

/-- A state that may be absent. -/
def KeepsOpt (kp : ToKeep) (o : Option State) : Prop := ∀ t, o = some t → Keeps kp t

theorem keepsOpt_some {s : State} (h : Keeps kp s) : KeepsOpt kp (some s) := fun _ e => Option.some.inj e ▸ h

theorem keepsOpt_none : KeepsOpt kp none := fun _ e => nomatch e

theorem keepsOpt_bind {o : Option State} {f : State → Option State} (h : KeepsOpt kp o)
    (hf : ∀ s, Keeps kp s → KeepsOpt kp (f s)) : KeepsOpt kp (o.bind f) := by
  cases o with
  | none => exact keepsOpt_none
  | some s => exact hf s (h s rfl)

theorem foldl_keepsOpt {α : Type} {f : Option State → α → Option State} {o : Option State} {l : List α}
    (h : KeepsOpt kp o) (hf : ∀ o x, KeepsOpt kp o → KeepsOpt kp (f o x)) :
    KeepsOpt kp (l.foldl f o) := by
  induction l generalizing o with
  | nil => exact h
  | cons x l ih => exact ih (hf o x h)

end Sys2Proof.Machine
end

