-- ==== Sys2Proof/Laws/Ops.lean ====
section
/-! SUPPORT. What the functions of Machine/Ops.lean keep: the queue of waiting commands, the memory's canonical form,
and the fuses. -/

namespace Sys2Proof.Machine

open Sys2Proof

variable {kp : ToKeep}

@[simp] theorem setReg_keeps {s : State} {a v} (hk : Keeps kp s) : Keeps kp (setReg s a v) := by
  refine keeps_regs hk fun p => ?_
  have hs := hk.by_.regs p
  split
  · exact Map.sorted_erase hs
  · exact Map.sorted_set hs

@[simp] theorem setPort_keeps {s : State} {k} {p} (hk : Keeps kp s) :
    Keeps kp (setPort s k p) := by
  simp (maxDischargeDepth := 40) [setPort, hk]

@[simp] theorem modPort_keeps {s : State} {k} {f} (hk : Keeps kp s) :
    Keeps kp (modPort s k f) := by
  simp (maxDischargeDepth := 40) [modPort, hk]

@[simp] theorem setGroup_keeps {s : State} {g} {x} (hk : Keeps kp s) :
    Keeps kp (setGroup s g x) := by
  simp (maxDischargeDepth := 40) [setGroup, hk]

@[simp] theorem modGroup_keeps {s : State} {g} {f} (hk : Keeps kp s) :
    Keeps kp (modGroup s g f) := by
  simp (maxDischargeDepth := 40) [modGroup, hk]

@[simp] theorem setUnit_keeps {s : State} {g} {u} {x} (hk : Keeps kp s) :
    Keeps kp (setUnit s g u x) := by
  simp (maxDischargeDepth := 40) [setUnit, hk]

@[simp] theorem modUnit_keeps {s : State} {g} {u} {f} (hk : Keeps kp s) :
    Keeps kp (modUnit s g u f) := by
  simp (maxDischargeDepth := 40) [modUnit, hk]

@[simp] theorem emit_keeps {s : State} {w} (hk : Keeps kp s) :
    Keeps kp (emit s w) := by
  simp (maxDischargeDepth := 40) [emit, hk]

@[simp] theorem withStatus_keeps {s : State} {st} (hk : Keeps kp s) :
    Keeps kp (withStatus s st) := by
  simp (maxDischargeDepth := 40) [withStatus, hk]

@[simp] theorem takeFree_keeps {s : State} (hk : Keeps kp s) :
    Keeps kp (takeFree s).2 := by
  simp (maxDischargeDepth := 40) [takeFree, hk]

@[simp] theorem countN_keeps {s : State} {b} {i} {k} {n} (hk : Keeps kp s) :
    Keeps kp (countN b i k n s) := by
  simp (maxDischargeDepth := 40) [countN, hk]

@[simp] theorem count_keeps {s : State} {b} {i} {k} (hk : Keeps kp s) :
    Keeps kp (count b i k s) := by
  simp (maxDischargeDepth := 40) [count, hk]

@[simp] theorem logEv_keeps {s : State} {code} {sev} {unit} {tag} {args} (hk : Keeps kp s) :
    Keeps kp (logEv code sev unit tag args s) := by
  simp (maxDischargeDepth := 40) [logEv, hk]

@[simp] theorem pushCpl_keeps {s : State} {c} (hk : Keeps kp s) :
    Keeps kp (pushCpl c s).2 := by
  simp (maxDischargeDepth := 40) [pushCpl, hk]

@[simp] theorem completeSeq_keeps {s : State} {g} {opc} {tag} {quiet} {st} {result} (hk : Keeps kp s) :
    Keeps kp (completeSeq g opc tag quiet st result s) := by
  simp (maxDischargeDepth := 40) [completeSeq, hk]

@[simp] theorem completeUnit_keeps {s : State} {g} {u} {inv} {st} {pass} {btag} (hk : Keeps kp s) :
    Keeps kp (completeUnit g u inv st pass btag s) := by
  simp (maxDischargeDepth := 40) [completeUnit, hk]

@[simp] theorem notifyTally_keeps {s : State} {t} {gen} (hk : Keeps kp s) :
    Keeps kp (notifyTally t gen s) := by
  unfold notifyTally
  dsimp only
  (repeat' split) <;> simp (maxDischargeDepth := 40) [hk]

@[simp] theorem countFixed_keeps {s : State} {w} (hk : Keeps kp s) :
    Keeps kp (countFixed w s) := by
  simp (maxDischargeDepth := 40) [countFixed, hk]

/-- Reading a word corrects what it can and stores nothing else: the canonical form stays. -/
theorem readWord_wf {m : MemSt} {o : Nat} (h : Memory.wf m.cells) : Memory.wf (readWord m o).2.cells := by
  unfold readWord
  dsimp only
  split
  · exact h
  · split <;> first | exact h | exact wf_writeByte h

theorem readWord_keeps {s : State} {o : Nat} (hk : Keeps kp s) : Keeps kp { s with mem := (readWord s.mem o).2 } :=
  keeps_mem hk fun p => readWord_wf (hk.by_.cells p)

@[simp] theorem takeWord_keeps {s : State} {reader unit : Nat} {tag : Option (BitVec 24)} {w : Nat} (hk : Keeps kp s) :
    Keeps kp (takeWord reader unit tag w s).2 := by
  unfold takeWord
  dsimp only
  split
  · exact logEv_keeps (readWord_keeps hk)
  · dsimp only
    split
    · exact countFixed_keeps (readWord_keeps hk)
    · exact readWord_keeps hk

@[simp] theorem scanWords_keeps {s : State} {reader unit : Nat} {tag : Option (BitVec 24)} {ws : List Nat}
    (hk : Keeps kp s) : Keeps kp (scanWords reader unit tag ws s).2 := by
  unfold scanWords
  exact foldl_keeps_snd hk fun b x hb => takeWord_keeps hb

@[simp] theorem readMem_keeps {s : State} {reader} {unit} {tag} {o} {n} (hk : Keeps kp s) :
    Keeps kp (readMem reader unit tag o n s).2.2 := by
  simp (maxDischargeDepth := 40) [readMem, hk]

@[simp] theorem writeMem_keeps {s : State} {reader unit : Nat} {tag : Option (BitVec 24)} {o : Nat} {l : List Byte}
    (hk : Keeps kp s) : Keeps kp (writeMem reader unit tag o l s) := by
  unfold writeMem
  refine foldl_keeps hk fun b x hb => ?_
  dsimp only
  split
  · exact keeps_mem hb fun p => wf_writeBytes (hb.by_.cells p)
  · split
    · exact count_keeps (takeWord_keeps hb)
    · exact keeps_mem (takeWord_keeps hb) fun p => wf_writeBytes ((takeWord_keeps hb).by_.cells p)

@[simp] theorem sramFixed_keeps {s : State} {p} (hk : Keeps kp s) :
    Keeps kp (sramFixed p s) := by
  simp (maxDischargeDepth := 40) [sramFixed, hk]

@[simp] theorem takeSram_keeps {s : State} {reader} {unit} {tag} {p} (hk : Keeps kp s) :
    Keeps kp (takeSram reader unit tag p s).2 := by
  unfold takeSram
  (repeat' split) <;> simp (maxDischargeDepth := 40) [hk]

@[simp] theorem readSram_keeps {s : State} {reader unit : Nat} {tag : Option (BitVec 24)} {ob : SramObj} {lo n : Nat}
    (hk : Keeps kp s) : Keeps kp (readSram reader unit tag ob lo n s).2 := by
  unfold readSram
  exact foldl_keeps_snd hk fun b x hb => takeSram_keeps hb

@[simp] theorem writeSram_keeps {s : State} {ob} {lo} {n} (hk : Keeps kp s) :
    Keeps kp (writeSram ob lo n s) := by
  simp (maxDischargeDepth := 40) [writeSram, hk]

@[simp] theorem useStore_keeps {s : State} {k} {n} {words} {unit} {tag} (hk : Keeps kp s) :
    Keeps kp (useStore k n words unit tag s) := by
  simp (maxDischargeDepth := 40) [useStore, hk]

@[simp] theorem readStore_keeps {s : State} {reader} {k} {n} {lo} {words} {unit} {tag} (hk : Keeps kp s) :
    Keeps kp (readStore reader k n lo words unit tag s) := by
  simp (maxDischargeDepth := 40) [readStore, hk]

@[simp] theorem takeBuffer_keeps {s : State} {g} {h} {owner} (hk : Keeps kp s) :
    Keeps kp (takeBuffer g h owner s) := by
  simp (maxDischargeDepth := 40) [takeBuffer, hk]

@[simp] theorem countUpsize_keeps {s : State} {g} {bytes} {h} (hk : Keeps kp s) :
    Keeps kp (countUpsize g bytes h s) := by
  simp (maxDischargeDepth := 40) [countUpsize, hk]

@[simp] theorem poolAlloc_keeps {s : State} {g} {bytes} {owner} (hk : Keeps kp s) :
    Keeps kp (poolAlloc g bytes owner s).2 := by
  unfold poolAlloc
  (repeat' split) <;> simp +contextual (maxDischargeDepth := 40) [hk]

@[simp] theorem setBuf_keeps {s : State} {g} {h} {b} (hk : Keeps kp s) :
    Keeps kp (setBuf g h b s) := by
  simp (maxDischargeDepth := 40) [setBuf, hk]

@[simp] theorem freeBuf_keeps {s : State} {g} {h} (hk : Keeps kp s) :
    Keeps kp (freeBuf g h s) := by
  simp (maxDischargeDepth := 40) [freeBuf, hk]

@[simp] theorem poolShare_keeps {s : State} {g} {h} (hk : Keeps kp s) :
    Keeps kp (poolShare g h s).2 := by
  unfold poolShare
  (repeat' split) <;> simp (maxDischargeDepth := 40) [hk]

@[simp] theorem poolHandoff_keeps {s : State} {g} {h} {issuer} {taker} (hk : Keeps kp s) :
    Keeps kp (poolHandoff g h issuer taker s).2 := by
  unfold poolHandoff
  (repeat' split) <;> simp (maxDischargeDepth := 40) [hk]

@[simp] theorem poolDrop_keeps {s : State} {g} {h} {issuer} (hk : Keeps kp s) :
    Keeps kp (poolDrop g h issuer s).2 := by
  unfold poolDrop
  (repeat' split) <;> simp (maxDischargeDepth := 40) [hk]

@[simp] theorem poolFree_keeps {s : State} {g} {h} {issuer} (hk : Keeps kp s) :
    Keeps kp (poolFree g h issuer s).2 := by
  unfold poolFree
  (repeat' split) <;> simp (maxDischargeDepth := 40) [hk]

@[simp] theorem setTile_keeps {s : State} {g} {h} {t} (hk : Keeps kp s) :
    Keeps kp (setTile g h t s) := by
  unfold setTile
  (repeat' split) <;> simp (maxDischargeDepth := 40) [hk]

@[simp] theorem setTileHdr_keeps {s : State} {g} {u} {tag} {h} {t} (hk : Keeps kp s) :
    Keeps kp (setTileHdr g u tag h t s) := by
  unfold setTileHdr
  (repeat' split) <;> simp (maxDischargeDepth := 40) [hk]

@[simp] theorem memGrant_keeps {s : State} {req} {ks} (hk : Keeps kp s) :
    Keeps kp (memGrant req ks s) := by
  simp +contextual (maxDischargeDepth := 40) [memGrant, hk]

end Sys2Proof.Machine
end

