-- ==== Sys2Proof/Laws/Damper.lean ====
section
/-! SUPPORT. What the functions of Machine/Damper.lean keep: the queue of waiting commands, the memory's canonical form,
and the fuses. -/

namespace Sys2Proof.Machine

open Sys2Proof

variable {kp : ToKeep}

@[simp] theorem unfenced_keeps {s : State} {op} (hk : Keeps kp s) (ho : Keeps kp (op s).2) :
    Keeps kp (unfenced op s).2 := by
  unfold unfenced
  split <;> assumption

@[simp] theorem badDst_keeps {s : State} (hk : Keeps kp s) :
    Keeps kp (badDst s) := by
  simp (maxDischargeDepth := 40) [badDst, hk]

@[simp] theorem mssRuns_keeps {s : State} {op} (hk : Keeps kp s) (ho : Keeps kp (op s)) :
    Keeps kp (mssRuns op s) := by
  unfold mssRuns
  split <;> assumption

/-- The digest store's copy leaves the fuses as they are. -/
theorem writeCopy_fuses (m : MssSt) : (writeCopy m).deviceId = m.deviceId ∧ (writeCopy m).grade = m.grade ∧
    (writeCopy m).keyDigests = m.keyDigests ∧ (writeCopy m).repairFuses = m.repairFuses ∧
    (writeCopy m).secret = m.secret ∧ (writeCopy m).svnFloor = m.svnFloor ∧ (writeCopy m).revoked = m.revoked := by
  unfold writeCopy
  split <;> exact ⟨rfl, rfl, rfl, rfl, rfl, rfl, rfl⟩

@[simp] theorem writeCopy_keeps {s : State} {m : MssSt} (hk : KeepsBy kp s.pending s.mem.cells s.regs m.deviceId m.grade
    m.keyDigests m.repairFuses m.secret m.svnFloor m.revoked) : Keeps kp { s with mss := writeCopy m } := by
  obtain ⟨h1, h2, h3, h4, h5, h6, h7⟩ := writeCopy_fuses m
  simpa [h1, h2, h3, h4, h5, h6, h7] using hk

@[simp] theorem sealStore_keeps {s : State} {f} (hk : Keeps kp s) : Keeps kp (sealStore f s) := by
  unfold sealStore
  dsimp only
  split
  · simp [hk]
  · exact writeCopy_keeps (keepsBy_of hk)

@[simp] theorem noteAux_keeps {s : State} (hk : Keeps kp s) :
    Keeps kp (noteAux s) := by
  simp (maxDischargeDepth := 40) [noteAux, hk]

@[simp] theorem startTimer_keeps {s : State} {claimant} (hk : Keeps kp s) :
    Keeps kp (startTimer claimant s) := by
  unfold startTimer
  (repeat' split) <;> simp (maxDischargeDepth := 40) [hk]

@[simp] theorem haltTimer_keeps {s : State} {claimant} (hk : Keeps kp s) :
    Keeps kp (haltTimer claimant s) := by
  unfold haltTimer
  (repeat' split) <;> simp (maxDischargeDepth := 40) [hk]

@[simp] theorem setEnable_keeps {s : State} {v} (hk : Keeps kp s) :
    Keeps kp (setEnable v s) := by
  simp (maxDischargeDepth := 40) [setEnable, hk]

@[simp] theorem tracePush_keeps {s : State} {d} {bytes} (hk : Keeps kp s) :
    Keeps kp (tracePush d bytes s) := by
  simp (maxDischargeDepth := 40) [tracePush, hk]

@[simp] theorem traceGroup_keeps {s : State} {kind} {g} {u} {tag} {status} {invoc} {pass} {btag} (hk : Keeps kp s) :
    Keeps kp (traceGroup kind g u tag status invoc pass btag s) := by
  simp (maxDischargeDepth := 40) [traceGroup, hk]

@[simp] theorem traceFrame_keeps {s : State} {kind} {pg} {lane} {h} {stamp} (hk : Keeps kp s) :
    Keeps kp (traceFrame kind pg lane h stamp s) := by
  simp (maxDischargeDepth := 40) [traceFrame, hk]

@[simp] theorem traceDamper_keeps {s : State} {src} {serial} {origin} (hk : Keeps kp s) :
    Keeps kp (traceDamper src serial origin s) := by
  simp (maxDischargeDepth := 40) [traceDamper, hk]

@[simp] theorem abandonRun_keeps {s : State} {g} {u} {r} (hk : Keeps kp s) :
    Keeps kp (abandonRun g u r s) := by
  simp +contextual (maxDischargeDepth := 40) [abandonRun, hk]

@[simp] theorem spreadDamper_keeps {s : State} {serial} {origin} {time} {except_} (hk : Keeps kp s) :
    Keeps kp (spreadDamper serial origin time except_ s) := by
  simp +contextual (maxDischargeDepth := 40) [spreadDamper, hk]

@[simp] theorem stopGroup_keeps {s : State} {g} (hk : Keeps kp s) :
    Keeps kp (stopGroup g s) := by
  unfold stopGroup
  refine foldOver_keeps (by simp [hk]) fun s x hs => ?_
  (repeat' split) <;> simp (maxDischargeDepth := 40) [hs]

@[simp] theorem setPause_keeps {s : State} {l} {want} (hk : Keeps kp s) :
    Keeps kp (setPause l want s) := by
  simp (maxDischargeDepth := 40) [setPause, hk]

@[simp] theorem pauseAll_keeps {s : State} {l} (hk : Keeps kp s) :
    Keeps kp (pauseAll l s) := by
  simp (maxDischargeDepth := 40) [pauseAll, hk]

@[simp] theorem markDamper_keeps {s : State} {src} {serial} {origin} {time} (hk : Keeps kp s) :
    Keeps kp (markDamper src serial origin time s) := by
  simp (maxDischargeDepth := 40) [markDamper, hk]

@[simp] theorem freezeNow_keeps {s : State} (hk : Keeps kp s) :
    Keeps kp (freezeNow s) := by
  simp (maxDischargeDepth := 40) [freezeNow, hk]

@[simp] theorem stopApply_keeps {s : State} (hk : Keeps kp s) :
    Keeps kp (stopApply s) := by
  unfold stopApply
  (repeat' split) <;> simp (maxDischargeDepth := 40) [hk]

@[simp] theorem stopCopy_keeps {s : State} (hk : Keeps kp s) :
    Keeps kp (stopCopy s) := by
  unfold stopCopy
  (repeat' split) <;> simp (maxDischargeDepth := 40) [hk]

@[simp] theorem damperNow_keeps {s : State} {src} {serial} {origin} {time} {from_} (hk : Keeps kp s) :
    Keeps kp (damperNow src serial origin time from_ s) := by
  simp +contextual (maxDischargeDepth := 40) [damperNow, hk]

@[simp] theorem raiseDamper_keeps {s : State} {src} {serial} {origin} {time} {from_} (hk : Keeps kp s) :
    Keeps kp (raiseDamper src serial origin time from_ s) := by
  simp (maxDischargeDepth := 40) [raiseDamper, hk]

@[simp] theorem raiseOwn_keeps {s : State} {src} {serial} (hk : Keeps kp s) :
    Keeps kp (raiseOwn src serial s) := by
  simp (maxDischargeDepth := 40) [raiseOwn, hk]

end Sys2Proof.Machine
end

