-- ==== Sys2Proof/Laws/Mirror.lean ====
section
/-! SUPPORT. What the functions of Machine/Mirror.lean keep: the queue of waiting commands, the memory's canonical form,
and the fuses. -/

namespace Sys2Proof.Machine

open Sys2Proof

variable {kp : ToKeep}

@[simp] theorem inHalf_keeps {s : State} {kind} {n} {op} (hk : Keeps kp s) (ho : Keeps kp (op s).2) :
    Keeps kp (inHalf kind n op s).2 := by
  unfold inHalf
  split <;> assumption

@[simp] theorem twinArrive_keeps {s : State} {sub} {b} (hk : Keeps kp s) :
    Keeps kp (twinArrive sub b s) := by
  simp (maxDischargeDepth := 40) [twinArrive, hk]

@[simp] theorem twinEmit_keeps {s : State} {sub} {mtype} {mseq} {body} (hk : Keeps kp s) :
    Keeps kp (twinEmit sub mtype mseq body s) := by
  simp (maxDischargeDepth := 40) [twinEmit, hk]

@[simp] theorem subSent_keeps {s : State} {n} (hk : Keeps kp s) :
    Keeps kp (subSent n s) := by
  simp (maxDischargeDepth := 40) [subSent, hk]

@[simp] theorem helloNow_keeps {s : State} (hk : Keeps kp s) :
    Keeps kp (helloNow s) := by
  simp +contextual (maxDischargeDepth := 40) [helloNow, hk]

@[simp] theorem mirrorPush_keeps {s : State} {mtype} {body} (hk : Keeps kp s) :
    Keeps kp (mirrorPush mtype body s) := by
  unfold mirrorPush
  (repeat' split) <;> simp (maxDischargeDepth := 40) [hk]

@[simp] theorem mirrorSend_keeps {s : State} {mtype} {body} (hk : Keeps kp s) :
    Keeps kp (mirrorSend mtype body s) := by
  simp (maxDischargeDepth := 40) [mirrorSend, hk]

@[simp] theorem mirrorCtx_keeps {s : State} {c} (hk : Keeps kp s) :
    Keeps kp (mirrorCtx c s) := by
  unfold mirrorCtx
  (repeat' split) <;> simp (maxDischargeDepth := 40) [hk]

@[simp] theorem mirrorMgrp_keeps {s : State} {m} (hk : Keeps kp s) :
    Keeps kp (mirrorMgrp m s) := by
  simp (maxDischargeDepth := 40) [mirrorMgrp, hk]

@[simp] theorem mirrorTally_keeps {s : State} {t} (hk : Keeps kp s) :
    Keeps kp (mirrorTally t s) := by
  simp (maxDischargeDepth := 40) [mirrorTally, hk]

@[simp] theorem mirrorLayer_keeps {s : State} {l} (hk : Keeps kp s) :
    Keeps kp (mirrorLayer l s) := by
  simp (maxDischargeDepth := 40) [mirrorLayer, hk]

@[simp] theorem mirrorPlace_keeps {s : State} {b} {l} {e} {v} (hk : Keeps kp s) :
    Keeps kp (mirrorPlace b l e v s) := by
  simp (maxDischargeDepth := 40) [mirrorPlace, hk]

@[simp] theorem mirrorRoute_keeps {s : State} {a} {v} (hk : Keeps kp s) :
    Keeps kp (mirrorRoute a v s) := by
  simp (maxDischargeDepth := 40) [mirrorRoute, hk]

@[simp] theorem mirrorEpochs_keeps {s : State} (hk : Keeps kp s) :
    Keeps kp (mirrorEpochs s) := by
  simp (maxDischargeDepth := 40) [mirrorEpochs, hk]

@[simp] theorem routeStore_keeps {s : State} {a} {v} (hk : Keeps kp s) :
    Keeps kp (routeStore a v s) := by
  simp (maxDischargeDepth := 40) [routeStore, hk]

@[simp] theorem sendCopy_keeps {s : State} {resync} {msgs} (hk : Keeps kp s) :
    Keeps kp (sendCopy resync msgs s) := by
  simp +contextual (maxDischargeDepth := 40) [sendCopy, hk]

@[simp] theorem fullCopy_keeps {s : State} (hk : Keeps kp s) :
    Keeps kp (fullCopy s) := by
  simp (maxDischargeDepth := 40) [fullCopy, hk]

@[simp] theorem fetchOne_keeps {s : State} {kind} {n} (hk : Keeps kp s) :
    Keeps kp (fetchOne kind n s) := by
  simp (maxDischargeDepth := 40) [fetchOne, hk]

@[simp] theorem fetchFailed_keeps {s : State} {kind} {n} (hk : Keeps kp s) :
    Keeps kp (fetchFailed kind n s) := by
  simp (maxDischargeDepth := 40) [fetchFailed, hk]

@[simp] theorem objectLost_keeps {s : State} {kind} {n} (hk : Keeps kp s) :
    Keeps kp (objectLost kind n s) := by
  simp (maxDischargeDepth := 40) [objectLost, hk]

@[simp] theorem fetched_keeps {s : State} {kind} {n} (hk : Keeps kp s) :
    Keeps kp (fetched kind n s) := by
  simp (maxDischargeDepth := 40) [fetched, hk]

@[simp] theorem twinReassign_keeps {s0 : State} {n} (hk : Keeps kp s0) :
    Keeps kp (twinReassign n s0) := by
  unfold twinReassign
  dsimp only
  (repeat' split) <;> simp +contextual (maxDischargeDepth := 40) [hk]

@[simp] theorem takeoverBegin_keeps {s : State} (hk : Keeps kp s) :
    Keeps kp (takeoverBegin s) := by
  simp (maxDischargeDepth := 40) [takeoverBegin, hk]

@[simp] theorem setPairEpoch_keeps {s : State} {e} (hk : Keeps kp s) :
    Keeps kp (setPairEpoch e s) := by
  simp (maxDischargeDepth := 40) [setPairEpoch, hk]

@[simp] theorem partnerLost_keeps {s : State} (hk : Keeps kp s) :
    Keeps kp (partnerLost s) := by
  simp (maxDischargeDepth := 40) [partnerLost, hk]

@[simp] theorem judgePartner_keeps {s : State} (hk : Keeps kp s) :
    Keeps kp (judgePartner s) := by
  simp (maxDischargeDepth := 40) [judgePartner, hk]

@[simp] theorem sublinkUp_keeps {s : State} (hk : Keeps kp s) :
    Keeps kp (sublinkUp s) := by
  simp (maxDischargeDepth := 40) [sublinkUp, hk]

@[simp] theorem judgeSublink_keeps {s : State} {n} (hk : Keeps kp s) :
    Keeps kp (judgeSublink n s) := by
  simp (maxDischargeDepth := 40) [judgeSublink, hk]

end Sys2Proof.Machine
end

