-- ==== Sys2Proof/Laws/Time.lean ====
section
/-! SUPPORT. What the functions of Machine/Time.lean keep: the queue of waiting commands, the memory's canonical form,
and the fuses. -/

namespace Sys2Proof.Machine

open Sys2Proof

variable {kp : ToKeep}

@[simp] theorem timerTick_keeps {s : State} (hk : Keeps kp s) :
    Keeps kp (timerTick s) := by
  simp (maxDischargeDepth := 40) [timerTick, hk]

@[simp] theorem ftcTick_keeps {s : State} (hk : Keeps kp s) :
    Keeps kp (ftcTick s) := by
  simp (maxDischargeDepth := 40) [ftcTick, hk]

@[simp] theorem tick_keeps {s0 : State} (hk : Keeps kp s0) :
    Keeps kp (tick s0) := by
  simp (maxDischargeDepth := 40) [tick, hk]

@[simp] theorem tempoMeasure_keeps {s : State} {groups} {flue} (hk : Keeps kp s) :
    Keeps kp (tempoMeasure groups flue s) := by
  simp (maxDischargeDepth := 40) [tempoMeasure, hk]

@[simp] theorem underrunCheck_keeps {s : State} {g} (hk : Keeps kp s) :
    Keeps kp (underrunCheck g s) := by
  simp (maxDischargeDepth := 40) [underrunCheck, hk]

@[simp] theorem givePermits_keeps {s : State} {g} {n} (hk : Keeps kp s) :
    Keeps kp (givePermits g n s) := by
  simp (maxDischargeDepth := 40) [givePermits, hk]

@[simp] theorem pacerTick_keeps {s : State} {d} (hk : Keeps kp s) :
    Keeps kp (pacerTick d s) := by
  simp +contextual (maxDischargeDepth := 40) [pacerTick, hk]

@[simp] theorem governorApply_keeps {s : State} (hk : Keeps kp s) :
    Keeps kp (governorApply s) := by
  unfold governorApply
  (repeat' split) <;> simp +contextual (maxDischargeDepth := 40) [hk]

@[simp] theorem govCtrlWrite_keeps {s0 : State} {v} (hk : Keeps kp s0) :
    Keeps kp (govCtrlWrite v s0).2 := by
  simp (maxDischargeDepth := 40) [govCtrlWrite, hk]

@[simp] theorem ftcSet_keeps {s : State} {v} (hk : Keeps kp s) :
    Keeps kp (ftcSet v s).2 := by
  simp (maxDischargeDepth := 40) [ftcSet, hk]

@[simp] theorem applyOffset_keeps {s : State} {o} (hk : Keeps kp s) :
    Keeps kp (applyOffset o s) := by
  simp (maxDischargeDepth := 40) [applyOffset, hk]

@[simp] theorem syncStart_keeps {s : State} (hk : Keeps kp s) :
    Keeps kp (syncStart s) := by
  unfold syncStart
  (repeat' split) <;> simp (maxDischargeDepth := 40) [hk]

@[simp] theorem timeReq_keeps {s : State} {l} {xid} (hk : Keeps kp s) :
    Keeps kp (timeReq l xid s) := by
  simp (maxDischargeDepth := 40) [timeReq, hk]

@[simp] theorem timeRsp_keeps {s : State} {l} {xid} {t2} {dt} (hk : Keeps kp s) :
    Keeps kp (timeRsp l xid t2 dt s) := by
  unfold timeRsp
  (repeat' split) <;> simp (maxDischargeDepth := 40) [hk]

@[simp] theorem ppsOffset_keeps {s : State} (hk : Keeps kp s) :
    Keeps kp (ppsOffset s).2 := by
  simp (maxDischargeDepth := 40) [ppsOffset, hk]

@[simp] theorem auxEdge_keeps {s : State} (hk : Keeps kp s) :
    Keeps kp (auxEdge s) := by
  simp (maxDischargeDepth := 40) [auxEdge, hk]

end Sys2Proof.Machine
end

