-- ==== Sys2Proof/Laws/Flags.lean ====
section
/-! SUPPORT. What the functions of Machine/Flags.lean keep: the queue of waiting commands, the memory's canonical form,
and the fuses. -/

namespace Sys2Proof.Machine

open Sys2Proof

variable {kp : ToKeep}

@[simp] theorem countConv_keeps {s : State} {g} {f} (hk : Keeps kp s) :
    Keeps kp (countConv g f s) := by
  unfold countConv
  (repeat' split) <;> simp (maxDischargeDepth := 40) [hk]

@[simp] theorem convList_keeps {s : State} {g} {format} {vs} (hk : Keeps kp s) :
    Keeps kp (convList g format vs s).2 := by
  simp +contextual (maxDischargeDepth := 40) [convList, hk]

end Sys2Proof.Machine
end

