-- ==== Sys2Proof/Laws/Operands.lean ====
section
/-! SUPPORT. What the functions of Machine/Operands.lean keep: the queue of waiting commands, the memory's canonical form,
and the fuses. -/

namespace Sys2Proof.Machine

open Sys2Proof

variable {kp : ToKeep}

@[simp] theorem noteDense_keeps {s : State} {g} {unit} {tag} {k} (hk : Keeps kp s) :
    Keeps kp (noteDense g unit tag k s) := by
  unfold noteDense
  (repeat' split) <;> simp (maxDischargeDepth := 40) [hk]

@[simp] theorem compressTile_keeps {s : State} {g} {unit} {t} (hk : Keeps kp s) :
    Keeps kp (compressTile g unit t s).2 := by
  unfold compressTile
  (repeat' split) <;> simp (maxDischargeDepth := 40) [hk]

@[simp] theorem logClinker_keeps {s : State} {g} {u} {tag} {kind} {arg} (hk : Keeps kp s) :
    Keeps kp (logClinker g u tag kind arg s) := by
  simp (maxDischargeDepth := 40) [logClinker, hk]

end Sys2Proof.Machine
end

