-- ==== Sys2Proof/Laws/Link.lean ====
section
/-! SUPPORT. What the functions of Machine/Link.lean keep: the queue of waiting commands, the memory's canonical form,
and the fuses. -/

namespace Sys2Proof.Machine

open Sys2Proof

variable {kp : ToKeep}

@[simp] theorem modLink_keeps {s : State} {l} {f} (hk : Keeps kp s) :
    Keeps kp (modLink s l f) := by
  simp (maxDischargeDepth := 40) [modLink, hk]

@[simp] theorem toTraining_keeps {s : State} {k} (hk : Keeps kp s) :
    Keeps kp (toTraining k s) := by
  simp (maxDischargeDepth := 40) [toTraining, hk]

@[simp] theorem bringUpFail_keeps {s : State} {k} {cause} (hk : Keeps kp s) :
    Keeps kp (bringUpFail k cause s) := by
  simp (maxDischargeDepth := 40) [bringUpFail, hk]

@[simp] theorem modFrame_keeps {s : State} {uid} {f} (hk : Keeps kp s) :
    Keeps kp (modFrame uid f s) := by
  unfold modFrame
  (repeat' split) <;> simp (maxDischargeDepth := 40) [hk]

@[simp] theorem newFrame_keeps {s : State} {f} (hk : Keeps kp s) :
    Keeps kp (newFrame f s).2 := by
  simp (maxDischargeDepth := 40) [newFrame, hk]

@[simp] theorem buildRet_keeps {s : State} {g} {h} {payload} (hk : Keeps kp s) :
    Keeps kp (buildRet g h payload s) := by
  simp (maxDischargeDepth := 40) [buildRet, hk]

@[simp] theorem sendNotice_keeps {s : State} {pg} {pin} {src} {dst} {ch} (hk : Keeps kp s) :
    Keeps kp (sendNotice pg pin src dst ch s) := by
  simp (maxDischargeDepth := 40) [sendNotice, hk]

@[simp] theorem setWindow_keeps {s : State} {k} {w} (hk : Keeps kp s) :
    Keeps kp (setWindow k w s) := by
  simp (maxDischargeDepth := 40) [setWindow, hk]

@[simp] theorem pinMarks_keeps {s : State} {k} {w} (hk : Keeps kp s) :
    Keeps kp (pinMarks k w s) := by
  simp (maxDischargeDepth := 40) [pinMarks, hk]

@[simp] theorem forgetRx_keeps {s : State} {uid} (hk : Keeps kp s) :
    Keeps kp (forgetRx uid s) := by
  unfold forgetRx
  (repeat' split) <;> simp (maxDischargeDepth := 40) [hk]

@[simp] theorem retag_keeps {s : State} {key} (hk : Keeps kp s) :
    Keeps kp (retag key s) := by
  simp (maxDischargeDepth := 40) [retag, hk]

@[simp] theorem eraseFrame_keeps {s0 : State} {uid} (hk : Keeps kp s0) :
    Keeps kp (eraseFrame uid s0) := by
  unfold eraseFrame
  dsimp only
  (repeat' split) <;> simp (maxDischargeDepth := 40) [hk]

@[simp] theorem dropFrame_keeps {s : State} {uid} (hk : Keeps kp s) :
    Keeps kp (dropFrame uid s) := by
  unfold dropFrame
  (repeat' split) <;> simp (maxDischargeDepth := 40) [hk]

@[simp] theorem cutFrame_keeps {s : State} {uid} (hk : Keeps kp s) :
    Keeps kp (cutFrame uid s) := by
  unfold cutFrame
  (repeat' split) <;> simp (maxDischargeDepth := 40) [hk]

@[simp] theorem lengthCheck_keeps {s : State} {uid} (hk : Keeps kp s) :
    Keeps kp (lengthCheck uid s) := by
  unfold lengthCheck
  (repeat' split) <;> simp (maxDischargeDepth := 40) [hk]

@[simp] theorem pfcUpdate_keeps {s : State} {l} (hk : Keeps kp s) :
    Keeps kp (pfcUpdate l s) := by
  simp (maxDischargeDepth := 40) [pfcUpdate, hk]

@[simp] theorem pfcAll_keeps {s : State} (hk : Keeps kp s) :
    Keeps kp (pfcAll s) := by
  simp +contextual (maxDischargeDepth := 40) [pfcAll, hk]

@[simp] theorem putBack_keeps {s : State} {l} {uid} {f} (hk : Keeps kp s) :
    Keeps kp (putBack l uid f s) := by
  simp (maxDischargeDepth := 40) [putBack, hk]

@[simp] theorem loseCurrent_keeps {s : State} {l} (hk : Keeps kp s) :
    Keeps kp (loseCurrent l s) := by
  unfold loseCurrent
  refine foldOver_keeps (by simp [hk]) fun s x hs => ?_
  dsimp only
  (repeat' split) <;> simp (maxDischargeDepth := 40) [hs]

@[simp] theorem frameEnd_keeps {s : State} {l} {ch} (hk : Keeps kp s) :
    Keeps kp (frameEnd l ch s) := by
  unfold frameEnd
  (repeat' split) <;> simp (maxDischargeDepth := 40) [hk]

@[simp] theorem losePartial_keeps {s : State} {l} (hk : Keeps kp s) :
    Keeps kp (losePartial l s) := by
  unfold losePartial
  refine foldOver_keeps (by simp [hk]) fun s x hs => ?_
  (repeat' split) <;> simp (maxDischargeDepth := 40) [hs]

@[simp] theorem linkDown_keeps {s : State} {l} {cause} (hk : Keeps kp s) :
    Keeps kp (linkDown l cause s) := by
  unfold linkDown
  (repeat' split) <;> simp (maxDischargeDepth := 40) [hk]

@[simp] theorem adminRise_keeps {s : State} {l} (hk : Keeps kp s) :
    Keeps kp (adminRise l s) := by
  simp (maxDischargeDepth := 40) [adminRise, hk]

@[simp] theorem adminFall_keeps {s : State} {l} (hk : Keeps kp s) :
    Keeps kp (adminFall l s) := by
  unfold adminFall
  (repeat' split) <;> simp (maxDischargeDepth := 40) [hk]

@[simp] theorem lnkCfgWrite_keeps {s : State} {l} {v} (hk : Keeps kp s) :
    Keeps kp (lnkCfgWrite l v s).2 := by
  simp (maxDischargeDepth := 40) [lnkCfgWrite, hk]

@[simp] theorem orderlyClose_keeps {s : State} {l} (hk : Keeps kp s) :
    Keeps kp (orderlyClose l s) := by
  unfold orderlyClose
  (repeat' split) <;> simp (maxDischargeDepth := 40) [hk]

@[simp] theorem trainingDone_keeps {s : State} {l} {test} {loss} (hk : Keeps kp s) :
    Keeps kp (trainingDone l test loss s) := by
  simp (maxDischargeDepth := 40) [trainingDone, hk]

@[simp] theorem alignmentLock_keeps {s : State} {l} (hk : Keeps kp s) :
    Keeps kp (alignmentLock l s) := by
  simp (maxDischargeDepth := 40) [alignmentLock, hk]

@[simp] theorem stepTimeout_keeps {s : State} {l} (hk : Keeps kp s) :
    Keeps kp (stepTimeout l s) := by
  unfold stepTimeout
  (repeat' split) <;> simp (maxDischargeDepth := 40) [hk]

@[simp] theorem retryTimer_keeps {s : State} {l} (hk : Keeps kp s) :
    Keeps kp (retryTimer l s) := by
  simp (maxDischargeDepth := 40) [retryTimer, hk]

@[simp] theorem sendVersion_keeps {s : State} {l} (hk : Keeps kp s) :
    Keeps kp (sendVersion l s) := by
  simp (maxDischargeDepth := 40) [sendVersion, hk]

@[simp] theorem versionTimer_keeps {s : State} {l} (hk : Keeps kp s) :
    Keeps kp (versionTimer l s) := by
  simp (maxDischargeDepth := 40) [versionTimer, hk]

@[simp] theorem peerJudge_keeps {s : State} {l} {chip} (hk : Keeps kp s) :
    Keeps kp (peerJudge l chip s) := by
  unfold peerJudge
  (repeat' split) <;> simp (maxDischargeDepth := 40) [hk]

@[simp] theorem linkUp_keeps {s : State} {l} {rev} {chip} (hk : Keeps kp s) :
    Keeps kp (linkUp l rev chip s) := by
  unfold linkUp
  (repeat' split) <;> simp (maxDischargeDepth := 40) [hk]

@[simp] theorem versionRx_keeps {s : State} {l} {b} (hk : Keeps kp s) :
    Keeps kp (versionRx l b s) := by
  unfold versionRx
  dsimp only
  (repeat' split) <;> simp (maxDischargeDepth := 40) [hk]

@[simp] theorem pcsLinkUp_keeps {s : State} {l} (hk : Keeps kp s) :
    Keeps kp (pcsLinkUp l s) := by
  simp (maxDischargeDepth := 40) [pcsLinkUp, hk]

@[simp] theorem laneLost_keeps {s : State} {l} {lane} {alignment} (hk : Keeps kp s) :
    Keeps kp (laneLost l lane alignment s) := by
  unfold laneLost
  (repeat' split) <;> simp (maxDischargeDepth := 40) [hk]

@[simp] theorem closeRx_keeps {s : State} {l} {cause} (hk : Keeps kp s) :
    Keeps kp (closeRx l cause s) := by
  unfold closeRx
  (repeat' split) <;> simp (maxDischargeDepth := 40) [hk]

@[simp] theorem raiseGrant_keeps {s : State} {l} {c} (hk : Keeps kp s) :
    Keeps kp (raiseGrant l c s) := by
  simp (maxDischargeDepth := 40) [raiseGrant, hk]

@[simp] theorem creditIfDue_keeps {s : State} {l} {c} (hk : Keeps kp s) :
    Keeps kp (creditIfDue l c s) := by
  simp (maxDischargeDepth := 40) [creditIfDue, hk]

@[simp] theorem creditTimer_keeps {s : State} {l} (hk : Keeps kp s) :
    Keeps kp (creditTimer l s) := by
  simp +contextual (maxDischargeDepth := 40) [creditTimer, hk]

@[simp] theorem creditRx_keeps {s : State} {l} {q} {gs} (hk : Keeps kp s) :
    Keeps kp (creditRx l q gs s) := by
  simp (maxDischargeDepth := 40) [creditRx, hk]

@[simp] theorem queueAck_keeps {s : State} {l} (hk : Keeps kp s) :
    Keeps kp (queueAck l s) := by
  simp (maxDischargeDepth := 40) [queueAck, hk]

@[simp] theorem ackTimer_keeps {s : State} {l} (hk : Keeps kp s) :
    Keeps kp (ackTimer l s) := by
  simp (maxDischargeDepth := 40) [ackTimer, hk]

@[simp] theorem ackRx_keeps {s : State} {l} {seq} (hk : Keeps kp s) :
    Keeps kp (ackRx l seq s) := by
  unfold ackRx
  dsimp only
  (repeat' split) <;> simp (maxDischargeDepth := 40) [hk]

@[simp] theorem resendFrom_keeps {s : State} {l} {bs} (hk : Keeps kp s) :
    Keeps kp (resendFrom l bs s) := by
  simp (maxDischargeDepth := 40) [resendFrom, hk]

@[simp] theorem nakRx_keeps {s : State} {l} {seq} (hk : Keeps kp s) :
    Keeps kp (nakRx l seq s) := by
  unfold nakRx
  (repeat' split) <;> simp (maxDischargeDepth := 40) [hk]

@[simp] theorem replayTimeout_keeps {s : State} {l} (hk : Keeps kp s) :
    Keeps kp (replayTimeout l s) := by
  simp (maxDischargeDepth := 40) [replayTimeout, hk]

@[simp] theorem unknownSym_keeps {s : State} {l} (hk : Keeps kp s) :
    Keeps kp (unknownSym l s) := by
  unfold unknownSym
  (repeat' split) <;> simp (maxDischargeDepth := 40) [hk]

@[simp] theorem damperSym_keeps {s : State} {l} {serial} {origin} {time} (hk : Keeps kp s) :
    Keeps kp (damperSym l serial origin time s) := by
  simp (maxDischargeDepth := 40) [damperSym, hk]

@[simp] theorem symbolRx_keeps {s : State} {l} {c} (hk : Keeps kp s) :
    Keeps kp (symbolRx l c s) := by
  unfold symbolRx
  (repeat' split) <;> simp (maxDischargeDepth := 40) [hk]

@[simp] theorem protocolError_keeps {s : State} {l} (hk : Keeps kp s) :
    Keeps kp (protocolError l s) := by
  unfold protocolError
  (repeat' split) <;> simp (maxDischargeDepth := 40) [hk]

@[simp] theorem sendNak_keeps {s : State} {l} (hk : Keeps kp s) :
    Keeps kp (sendNak l s) := by
  simp (maxDischargeDepth := 40) [sendNak, hk]

@[simp] theorem frameStart_keeps {s : State} {l} {ch} {bytes} {whole} (hk : Keeps kp s) :
    Keeps kp (frameStart l ch bytes whole s) := by
  simp (maxDischargeDepth := 40) [frameStart, hk]

@[simp] theorem sparkFill_keeps {s : State} {uid} {bytes} (hk : Keeps kp s) :
    Keeps kp (sparkFill uid bytes s) := by
  simp (maxDischargeDepth := 40) [sparkFill, hk]

@[simp] theorem dropRest_keeps {s : State} {l} {ch} {last} (hk : Keeps kp s) :
    Keeps kp (dropRest l ch last s) := by
  simp (maxDischargeDepth := 40) [dropRest, hk]

@[simp] theorem frameMore_keeps {s0 : State} {l} {ch} {uid} {bytes} {last} (hk : Keeps kp s0) :
    Keeps kp (frameMore l ch uid bytes last s0) := by
  unfold frameMore
  dsimp only
  (repeat' split) <;> simp (maxDischargeDepth := 40) [hk]

@[simp] theorem blockPayload_keeps {s0 : State} {l} {b} (hk : Keeps kp s0) :
    Keeps kp (blockPayload l b s0) := by
  unfold blockPayload
  dsimp only
  (repeat' split) <;> simp (maxDischargeDepth := 40) [hk]

@[simp] theorem blockMessage_keeps {s : State} {n} {b} (hk : Keeps kp s) :
    Keeps kp (blockMessage n b s) := by
  unfold blockMessage
  dsimp only
  (repeat' split) <;> simp (maxDischargeDepth := 40) [hk]

@[simp] theorem acceptBlock_keeps {s : State} {l} {b} (hk : Keeps kp s) :
    Keeps kp (acceptBlock l b s) := by
  unfold acceptBlock
  (repeat' split) <;> simp (maxDischargeDepth := 40) [hk]

@[simp] theorem dataBlock_keeps {s : State} {l} {b} (hk : Keeps kp s) :
    Keeps kp (dataBlock l b s) := by
  simp (maxDischargeDepth := 40) [dataBlock, hk]

@[simp] theorem blockReceive_keeps {s : State} {l} {bytes} {fecBad} (hk : Keeps kp s) :
    Keeps kp (blockReceive l bytes fecBad s) := by
  simp +contextual (maxDischargeDepth := 40) [blockReceive, hk]

@[simp] theorem stampSym_keeps {s : State} {l} {c} (hk : Keeps kp s) :
    Keeps kp (stampSym l c s).2 := by
  unfold stampSym
  (repeat' split) <;> simp (maxDischargeDepth := 40) [hk]

@[simp] theorem sendControl_keeps {s : State} {l} (hk : Keeps kp s) :
    Keeps kp (sendControl l s) := by
  simp +contextual (maxDischargeDepth := 40) [sendControl, hk]

@[simp] theorem sendFrameBlock_keeps {s : State} {l} {ch} {c} (hk : Keeps kp s) :
    Keeps kp (sendFrameBlock l ch c s) := by
  unfold sendFrameBlock
  (repeat' split) <;> simp (maxDischargeDepth := 40) [hk]

@[simp] theorem readFrame_keeps {s : State} {uid} {tag} {a} {n} (hk : Keeps kp s) :
    Keeps kp (readFrame uid tag a n s).2 := by
  simp (maxDischargeDepth := 40) [readFrame, hk]

@[simp] theorem sendNextBlock_keeps {s : State} {l} {ch} {c} (hk : Keeps kp s) :
    Keeps kp (sendNextBlock l ch c s) := by
  unfold sendNextBlock
  (repeat' split) <;> simp (maxDischargeDepth := 40) [hk]

@[simp] theorem sendMsgBlock_keeps {s0 : State} {n} {m} (hk : Keeps kp s0) :
    Keeps kp (sendMsgBlock n m s0) := by
  simp (maxDischargeDepth := 40) [sendMsgBlock, hk]

@[simp] theorem blockOut_keeps {s : State} {l} (hk : Keeps kp s) :
    Keeps kp (blockOut l s) := by
  unfold blockOut
  dsimp only
  (repeat' split) <;> simp (maxDischargeDepth := 40) [hk]

@[simp] theorem blockSend_keeps {s : State} {l} (hk : Keeps kp s) :
    Keeps kp (blockSend l s) := by
  unfold blockSend
  dsimp only
  (repeat' split) <;> simp (maxDischargeDepth := 40) [hk]

@[simp] theorem pfcApply_keeps {s : State} {l} {body} (hk : Keeps kp s) :
    Keeps kp (pfcApply l body s) := by
  simp (maxDischargeDepth := 40) [pfcApply, hk]

@[simp] theorem ethReceive_keeps {s : State} {l} {b} {fcsBad} (hk : Keeps kp s) :
    Keeps kp (ethReceive l b fcsBad s) := by
  unfold ethReceive
  dsimp only
  (repeat' split) <;> simp (maxDischargeDepth := 40) [hk]

@[simp] theorem pauseExpire_keeps {s : State} {l} {pri} (hk : Keeps kp s) :
    Keeps kp (pauseExpire l pri s) := by
  simp (maxDischargeDepth := 40) [pauseExpire, hk]

end Sys2Proof.Machine
end

