-- ==== Sys2Proof/Laws/Switch.lean ====
section
/-! SUPPORT. What the functions of Machine/Switch.lean keep: the queue of waiting commands, the memory's canonical form,
and the fuses. -/

namespace Sys2Proof.Machine

open Sys2Proof

variable {kp : ToKeep}

@[simp] theorem readTables_keeps {s : State} {as} {tag} (hk : Keeps kp s) :
    Keeps kp (readTables as tag s) := by
  simp +contextual (maxDischargeDepth := 40) [readTables, hk]

@[simp] theorem assignSseq_keeps {s0 : State} {die} {h} (hk : Keeps kp s0) :
    Keeps kp (assignSseq die h s0).2 := by
  unfold assignSseq
  dsimp only
  (repeat' split) <;> simp (maxDischargeDepth := 40) [hk]

@[simp] theorem notePin_keeps {s0 : State} {pin} {flow} {life} (hk : Keeps kp s0) :
    Keeps kp (notePin pin flow life s0) := by
  simp (maxDischargeDepth := 40) [notePin, hk]

@[simp] theorem actNotice_keeps {s : State} {dst} {n} (hk : Keeps kp s) :
    Keeps kp (actNotice dst n s) := by
  simp (maxDischargeDepth := 40) [actNotice, hk]

@[simp] theorem pinExpire_keeps {s : State} {src} {dst} {ch} (hk : Keeps kp s) :
    Keeps kp (pinExpire src dst ch s) := by
  unfold pinExpire
  (repeat' split) <;> simp (maxDischargeDepth := 40) [hk]

@[simp] theorem sparkSample_keeps {s : State} {uid} {l} {raw} {stamp} (hk : Keeps kp s) :
    Keeps kp (sparkSample uid l raw stamp s) := by
  simp (maxDischargeDepth := 40) [sparkSample, hk]

@[simp] theorem route_keeps {s : State} {src} {h} (hk : Keeps kp s) :
    Keeps kp (route src h s).2 := by
  unfold route
  (repeat' split) <;> simp (maxDischargeDepth := 40) [hk]

@[simp] theorem unqueueHeader_keeps {s : State} {src} {uid} (hk : Keeps kp s) :
    Keeps kp (unqueueHeader src uid s) := by
  unfold unqueueHeader
  (repeat' split) <;> simp (maxDischargeDepth := 40) [hk]

@[simp] theorem police_keeps {s : State} {src} {tc} {n} (hk : Keeps kp s) :
    Keeps kp (police src tc n s).2 := by
  unfold police
  (repeat' split) <;> simp (maxDischargeDepth := 40) [hk]

@[simp] theorem convertHdr_keeps {s : State} {src} {r} (hk : Keeps kp s) :
    Keeps kp (convertHdr src r s).2 := by
  simp (maxDischargeDepth := 40) [convertHdr, hk]

@[simp] theorem flueRound_keeps {s : State} {pg} (hk : Keeps kp s) :
    Keeps kp (flueRound pg s) := by
  unfold flueRound
  dsimp only
  (repeat' split) <;> simp (maxDischargeDepth := 40) [hk]

@[simp] theorem stage_keeps {s : State} {uid} {src} {h} {d} {last} (hk : Keeps kp s) :
    Keeps kp (stage uid src h d last s) := by
  simp (maxDischargeDepth := 40) [stage, hk]

@[simp] theorem acceptRoute_keeps {s0 : State} {uid} {src} {h} (hk : Keeps kp s0) :
    Keeps kp (acceptRoute uid src h s0) := by
  unfold acceptRoute
  dsimp only
  (repeat' split) <;> simp (maxDischargeDepth := 40) [hk]

@[simp] theorem acceptChecks_keeps {s : State} {uid} {src} {f} (hk : Keeps kp s) :
    Keeps kp (acceptChecks uid src f s) := by
  simp (maxDischargeDepth := 40) [acceptChecks, hk]

@[simp] theorem acceptFrame_keeps {s : State} {uid} {src} {f} (hk : Keeps kp s) :
    Keeps kp (acceptFrame uid src f s) := by
  unfold acceptFrame
  (repeat' split) <;> simp (maxDischargeDepth := 40) [hk]

@[simp] theorem neverAccepted_keeps {s : State} {uid} {src} (hk : Keeps kp s) :
    Keeps kp (neverAccepted uid src s) := by
  simp (maxDischargeDepth := 40) [neverAccepted, hk]

@[simp] theorem acceptEth_keeps {s : State} {uid} {l} {src} {f} (hk : Keeps kp s) :
    Keeps kp (acceptEth uid l src f s) := by
  unfold acceptEth
  (repeat' split) <;> simp (maxDischargeDepth := 40) [hk]

@[simp] theorem headerAccept_keeps {s : State} {src} (hk : Keeps kp s) :
    Keeps kp (headerAccept src s) := by
  unfold headerAccept
  (repeat' split) <;> simp (maxDischargeDepth := 40) [hk]

@[simp] theorem returnSend_keeps {s : State} {g} (hk : Keeps kp s) :
    Keeps kp (returnSend g s) := by
  unfold returnSend
  (repeat' split) <;> simp (maxDischargeDepth := 40) [hk]

@[simp] theorem joinEgress_keeps {s : State} {l} {t} {uid} (hk : Keeps kp s) :
    Keeps kp (joinEgress l t uid s) := by
  unfold joinEgress
  dsimp only
  (repeat' split) <;> simp (maxDischargeDepth := 40) [hk]

@[simp] theorem release_keeps {s : State} {uid} (hk : Keeps kp s) :
    Keeps kp (release uid s) := by
  unfold release
  (repeat' split) <;> simp (maxDischargeDepth := 40) [hk]

@[simp] theorem drainRun_keeps {s : State} {n : Nat} {w : Window} (hk : Keeps kp s) :
    Keeps kp (drainRun n w s).2 := by
  induction n generalizing w s with
  | zero => exact hk
  | succ n ih =>
    unfold drainRun
    split
    · exact hk
    · exact ih (release_keeps hk)

@[simp] theorem skipTo_keeps {s : State} {pg} {nb} {w} (hk : Keeps kp s) :
    Keeps kp (skipTo pg nb w s).2 := by
  simp +contextual (maxDischargeDepth := 40) [skipTo, hk]

@[simp] theorem windowJudge_keeps {s : State} {uid} {seq} {w} (hk : Keeps kp s) :
    Keeps kp (windowJudge uid seq w s).2 := by
  simp (maxDischargeDepth := 40) [windowJudge, hk]

@[simp] theorem windowArrive_keeps {s0 : State} {k} {pg} {uid} {h} {w0} (hk : Keeps kp s0) :
    Keeps kp (windowArrive k pg uid h w0 s0) := by
  simp +contextual (maxDischargeDepth := 40) [windowArrive, hk]

theorem findWindow_keeps {s : State} {k : Nat} {h : Hdr} {r : Window × State} (hr : findWindow k h s = some r)
    (hk : Keeps kp s) : Keeps kp r.2 := by
  unfold findWindow at hr
  dsimp only at hr
  (repeat' split at hr) <;> cases hr <;> simp [hk]

@[simp] theorem enterQueue_keeps {s : State} {uid} (hk : Keeps kp s) :
    Keeps kp (enterQueue uid s) := by
  unfold enterQueue
  dsimp only
  (repeat' split) <;>
    first
      | exact hk
      | exact writeSram_keeps hk
      | exact release_keeps (writeSram_keeps hk)
      | exact release_keeps (count_keeps (writeSram_keeps hk))
      | exact windowArrive_keeps (findWindow_keeps ‹_› (writeSram_keeps hk))

@[simp] theorem writeRound_keeps {s : State} {pg} (hk : Keeps kp s) :
    Keeps kp (writeRound pg s).2 := by
  unfold writeRound
  dsimp only
  (repeat' split) <;> simp (maxDischargeDepth := 40) [hk]

@[simp] theorem unstage_keeps {s : State} {uid} (hk : Keeps kp s) :
    Keeps kp (unstage uid s) := by
  simp (maxDischargeDepth := 40) [unstage, hk]

@[simp] theorem flueRounds_keeps {s : State} (hk : Keeps kp s) :
    Keeps kp (flueRounds s) := by
  simp +contextual (maxDischargeDepth := 40) [flueRounds, hk]

@[simp] theorem outputWrite_keeps {s0 : State} {pg} (hk : Keeps kp s0) :
    Keeps kp (outputWrite pg s0) := by
  unfold outputWrite
  dsimp only
  (repeat' split) <;> simp (maxDischargeDepth := 40) [hk]

@[simp] theorem intakeEnqueue_keeps {s0 : State} {g} (hk : Keeps kp s0) :
    Keeps kp (intakeEnqueue g s0) := by
  unfold intakeEnqueue
  dsimp only
  (repeat' split) <;> simp (maxDischargeDepth := 40) [hk]

@[simp] theorem gapTimeout_keeps {s : State} {k} (hk : Keeps kp s) :
    Keeps kp (gapTimeout k s) := by
  unfold gapTimeout
  dsimp only
  (repeat' split) <;> simp (maxDischargeDepth := 40) [hk]

@[simp] theorem pinResend_keeps {s : State} {k} (hk : Keeps kp s) :
    Keeps kp (pinResend k s) := by
  unfold pinResend
  (repeat' split) <;> simp (maxDischargeDepth := 40) [hk]

@[simp] theorem windowExpire_keeps {s : State} {k} (hk : Keeps kp s) :
    Keeps kp (windowExpire k s) := by
  unfold windowExpire
  (repeat' split) <;> simp (maxDischargeDepth := 40) [hk]

@[simp] theorem putWrite_keeps {s : State} {h} {payload} (hk : Keeps kp s) :
    Keeps kp (putWrite h payload s) := by
  simp (maxDischargeDepth := 40) [putWrite, hk]

@[simp] theorem getAnswer_keeps {s : State} {pg} {src} {h} {payload} (hk : Keeps kp s) :
    Keeps kp (getAnswer pg src h payload s) := by
  simp (maxDischargeDepth := 40) [getAnswer, hk]

@[simp] theorem memoryHandle_keeps {s : State} {pg} {f} (hk : Keeps kp s) :
    Keeps kp (memoryHandle pg f s) := by
  unfold memoryHandle
  dsimp only
  (repeat' split) <;> simp (maxDischargeDepth := 40) [hk]

@[simp] theorem memoryTake_keeps {s : State} {d} (hk : Keeps kp s) :
    Keeps kp (memoryTake d s) := by
  unfold memoryTake
  (repeat' split) <;> simp (maxDischargeDepth := 40) [hk]

@[simp] theorem popHead_keeps {s : State} {l} {t} (hk : Keeps kp s) :
    Keeps kp (popHead l t s) := by
  simp (maxDischargeDepth := 40) [popHead, hk]

@[simp] theorem shaperTake_keeps {s : State} {l} {t} {n} (hk : Keeps kp s) :
    Keeps kp (shaperTake l t n s) := by
  simp (maxDischargeDepth := 40) [shaperTake, hk]

@[simp] theorem macOut_keeps {s : State} {l} {b} (hk : Keeps kp s) :
    Keeps kp (macOut l b s) := by
  simp (maxDischargeDepth := 40) [macOut, hk]

@[simp] theorem startFrame_keeps {s : State} {l} {uid} {f} (hk : Keeps kp s) :
    Keeps kp (startFrame l uid f s) := by
  simp (maxDischargeDepth := 40) [startFrame, hk]

@[simp] theorem egressSelect_keeps {s : State} {l} (hk : Keeps kp s) :
    Keeps kp (egressSelect l s) := by
  unfold egressSelect
  (repeat' split) <;> simp (maxDischargeDepth := 40) [hk]

@[simp] theorem portFlush_keeps {s : State} {l} {v} (hk : Keeps kp s) :
    Keeps kp (portFlush l v s).2 := by
  simp +contextual (maxDischargeDepth := 40) [portFlush, hk]

@[simp] theorem sampleQueue_keeps {s : State} {l} {t} (hk : Keeps kp s) :
    Keeps kp (sampleQueue l t s) := by
  simp (maxDischargeDepth := 40) [sampleQueue, hk]

@[simp] theorem queueSample_keeps {s : State} (hk : Keeps kp s) :
    Keeps kp (queueSample s) := by
  simp +contextual (maxDischargeDepth := 40) [queueSample, hk]

end Sys2Proof.Machine
end

