-- ==== Sys2Proof/Laws/Mem.lean ====
section
/-! SUPPORT. What the functions of Machine/Mem.lean keep: the queue of waiting commands, the memory's canonical form,
and the fuses. -/

namespace Sys2Proof.Machine

open Sys2Proof

variable {kp : ToKeep}

@[simp] theorem patrolSlot_keeps {s : State} {site} (hk : Keeps kp s) :
    Keeps kp (patrolSlot site s) := by
  simp (maxDischargeDepth := 40) [patrolSlot, hk]

@[simp] theorem sramScrub_keeps {s : State} (hk : Keeps kp s) :
    Keeps kp (sramScrub s) := by
  simp +contextual (maxDischargeDepth := 40) [sramScrub, hk]

@[simp] theorem hbmSpareWrite_keeps {s : State} {v} (hk : Keeps kp s) :
    Keeps kp (hbmSpareWrite v s).2 := by
  simp (maxDischargeDepth := 40) [hbmSpareWrite, hk]

@[simp] theorem spareCopyDone_keeps {s : State} (hk : Keeps kp s) :
    Keeps kp (spareCopyDone s) := by
  unfold spareCopyDone
  (repeat' split) <;> simp (maxDischargeDepth := 40) [hk]

end Sys2Proof.Machine
end

