-- ==== Sys2Proof/Laws/Invoc.lean ====
section
/-! SUPPORT. What the functions of Machine/Invoc.lean keep: the queue of waiting commands, the memory's canonical form,
and the fuses. -/

namespace Sys2Proof.Machine

open Sys2Proof

variable {kp : ToKeep}

@[simp] theorem settleShare_keeps {s : State} {g} {h} (hk : Keeps kp s) :
    Keeps kp (settleShare g h s) := by
  unfold settleShare
  (repeat' split) <;> simp (maxDischargeDepth := 40) [hk]

@[simp] theorem releaseTile_keeps {s : State} {g} {h} {unit} {heir} (hk : Keeps kp s) :
    Keeps kp (releaseTile g h unit heir s) := by
  unfold releaseTile
  (repeat' split) <;> simp (maxDischargeDepth := 40) [hk]

@[simp] theorem takeSteps_keeps {s : State} {g} {u} {n} (hk : Keeps kp s) :
    Keeps kp (takeSteps g u n s) := by
  simp (maxDischargeDepth := 40) [takeSteps, hk]

@[simp] theorem takePortStep_keeps {s : State} {g} {k} (hk : Keeps kp s) :
    Keeps kp (takePortStep g k s) := by
  simp (maxDischargeDepth := 40) [takePortStep, hk]

@[simp] theorem takeSeqStep_keeps {s : State} {g} (hk : Keeps kp s) :
    Keeps kp (takeSeqStep g s) := by
  simp (maxDischargeDepth := 40) [takeSeqStep, hk]

@[simp] theorem takeIntakeStep_keeps {s : State} {g} (hk : Keeps kp s) :
    Keeps kp (takeIntakeStep g s) := by
  simp (maxDischargeDepth := 40) [takeIntakeStep, hk]

@[simp] theorem inPoolOrder_keeps {s : State} {g issuer last : Nat} {skip op} (hk : Keeps kp s)
    (hs : ∀ n s, Keeps kp s → Keeps kp (skip n s)) (ho : Keeps kp (op s)) :
    Keeps kp (inPoolOrder g issuer last skip op s) := by
  unfold inPoolOrder
  dsimp only
  (repeat' split) <;> simp (maxDischargeDepth := 40) [hk, hs, ho]

@[simp] theorem unitTurn_keeps {s : State} {g u : Nat} {op} (hk : Keeps kp s) (ho : Keeps kp (op s)) :
    Keeps kp (unitTurn g u op s) := inPoolOrder_keeps hk (fun _ _ h => modUnit_keeps h) ho

@[simp] theorem seqTurn_keeps {s : State} {g issuer : Nat} {op} (hk : Keeps kp s) (ho : Keeps kp (op s)) :
    Keeps kp (seqTurn g issuer op s) := inPoolOrder_keeps hk (fun _ _ h => modGroup_keeps h) ho

@[simp] theorem intakeTurn_keeps {s : State} {g : Nat} {op} (hk : Keeps kp s) (ho : Keeps kp (op s)) :
    Keeps kp (intakeTurn g op s) := inPoolOrder_keeps hk (fun _ _ h => modGroup_keeps h) ho

@[simp] theorem failRun_keeps {s : State} {g} {u} {r} {st} (hk : Keeps kp s) :
    Keeps kp (failRun g u r st s) := by
  simp (maxDischargeDepth := 40) [failRun, hk]

@[simp] theorem purgeQueue_keeps {s : State} {g} {u} {taken} {p} {q} (hk : Keeps kp s) :
    Keeps kp (purgeQueue g u taken p q s).2 := by
  unfold purgeQueue
  refine foldOver_keeps (by simp [hk]) fun s x hs => ?_
  (repeat' split) <;> simp (maxDischargeDepth := 40) [hs]

@[simp] theorem purgeUnit_keeps {s : State} {g} {u} {p} (hk : Keeps kp s) :
    Keeps kp (purgeUnit g u p s) := by
  simp (maxDischargeDepth := 40) [purgeUnit, hk]

@[simp] theorem releaseHeld_keeps {s : State} {g} {h} (hk : Keeps kp s) :
    Keeps kp (releaseHeld g h s) := by
  unfold releaseHeld
  (repeat' split) <;> simp (maxDischargeDepth := 40) [hk]

@[simp] theorem purgeHolds_keeps {s : State} {g} {p} (hk : Keeps kp s) :
    Keeps kp (purgeHolds g p s) := by
  simp +contextual (maxDischargeDepth := 40) [purgeHolds, hk]

@[simp] theorem purgeOffers_keeps {s : State} {own} {g} {p} (hk : Keeps kp s) :
    Keeps kp (purgeOffers own g p s) := by
  simp +contextual (maxDischargeDepth := 40) [purgeOffers, hk]

@[simp] theorem purgeGroup_keeps {s : State} {g} {p} (hk : Keeps kp s) :
    Keeps kp (purgeGroup g p s) := by
  simp +contextual (maxDischargeDepth := 40) [purgeGroup, hk]

@[simp] theorem deliverTile_keeps {s : State} {g} {u} {portB} {q} {handoff} {step} (hk : Keeps kp s) :
    Keeps kp (deliverTile g u portB q handoff step s) := by
  unfold deliverTile
  (repeat' split) <;> simp (maxDischargeDepth := 40) [hk]

end Sys2Proof.Machine
end

