-- ==== Sys2Proof/Laws/Context.lean ====
section
/-! SUPPORT. What the functions of Machine/Context.lean keep: the queue of waiting commands, the memory's canonical form,
and the fuses. -/

namespace Sys2Proof.Machine

open Sys2Proof

variable {kp : ToKeep}

@[simp] theorem setCtx_keeps {s : State} {c} {x} (hk : Keeps kp s) :
    Keeps kp (setCtx c x s) := by
  simp (maxDischargeDepth := 40) [setCtx, hk]

@[simp] theorem modCtx_keeps {s : State} {c} {f} (hk : Keeps kp s) :
    Keeps kp (modCtx c f s) := by
  unfold modCtx
  (repeat' split) <;> simp (maxDischargeDepth := 40) [hk]

@[simp] theorem setTally_keeps {s : State} {t} {x} (hk : Keeps kp s) :
    Keeps kp (setTally t x s) := by
  simp (maxDischargeDepth := 40) [setTally, hk]

@[simp] theorem releaseTileTo_keeps {s : State} {t} {r} {epoch} {seq} {tick} {chip} (hk : Keeps kp s) :
    Keeps kp (releaseTileTo t r epoch seq tick chip s) := by
  simp (maxDischargeDepth := 40) [releaseTileTo, hk]

@[simp] theorem sendRelease_keeps {s : State} {t} (hk : Keeps kp s) :
    Keeps kp (sendRelease t s) := by
  simp +contextual (maxDischargeDepth := 40) [sendRelease, hk]

@[simp] theorem fireOnce_keeps {s : State} {t} (hk : Keeps kp s) :
    Keeps kp (fireOnce t s) := by
  simp (maxDischargeDepth := 40) [fireOnce, hk]

@[simp] theorem fireLoop_keeps {s : State} {t n : Nat} (hk : Keeps kp s) : Keeps kp (fireLoop t n s) := by
  induction n generalizing s with
  | zero => exact hk
  | succ n ih =>
    unfold fireLoop
    dsimp only
    split
    · exact ih (fireOnce_keeps hk)
    · exact fireOnce_keeps hk

@[simp] theorem readTally_keeps {s : State} {t} (hk : Keeps kp s) :
    Keeps kp (readTally t s) := by
  simp (maxDischargeDepth := 40) [readTally, hk]

@[simp] theorem tallyAdd_keeps {s : State} {t n : Nat} (hk : Keeps kp s) : Keeps kp (tallyAdd t n s) := by
  unfold tallyAdd
  dsimp only
  (repeat' split) <;> simp (maxDischargeDepth := 40) [hk]

@[simp] theorem tallyValueWrite_keeps {s : State} {t v} (hk : Keeps kp s) :
    Keeps kp (tallyValueWrite t v s).2 := by
  simp (maxDischargeDepth := 40) [tallyValueWrite, hk]

@[simp] theorem tallyCfgWrite_keeps {s : State} {t v} (hk : Keeps kp s) :
    Keeps kp (tallyCfgWrite t v s).2 := by
  simp (maxDischargeDepth := 40) [tallyCfgWrite, hk]

@[simp] theorem tallyReleaseWrite_keeps {s : State} {t v} (hk : Keeps kp s) :
    Keeps kp (tallyReleaseWrite t v s).2 := by
  refine inHalf_keeps hk ?_
  dsimp only
  split <;> simp (maxDischargeDepth := 40) [hk]

@[simp] theorem markBanking_keeps {s : State} {c} (hk : Keeps kp s) : Keeps kp (markBanking c s) := by
  simp (maxDischargeDepth := 40) [markBanking, hk]

@[simp] theorem markVictim_keeps {s : State} {v} (hk : Keeps kp s) :
    Keeps kp (markVictim v s) := by
  unfold markVictim
  (repeat' split) <;> simp (maxDischargeDepth := 40) [hk]

@[simp] theorem needCtx_keeps {s : State} {c} (hk : Keeps kp s) : Keeps kp (needCtx c s) := by
  unfold needCtx
  dsimp only
  (repeat' split) <;> simp (maxDischargeDepth := 40) [hk]

@[simp] theorem fillNeeds_keeps {s : State} (hk : Keeps kp s) :
    Keeps kp (fillNeeds s) := by
  simp +contextual (maxDischargeDepth := 40) [fillNeeds, hk]

@[simp] theorem eraseCtx_keeps {s : State} {c} (hk : Keeps kp s) :
    Keeps kp (eraseCtx c s) := by
  simp (maxDischargeDepth := 40) [eraseCtx, hk]

@[simp] theorem storeBank_keeps {s : State} {c} (hk : Keeps kp s) :
    Keeps kp (storeBank c s) := by
  unfold storeBank
  (repeat' split) <;> simp (maxDischargeDepth := 40) [hk]

@[simp] theorem ctxLost_keeps {s : State} {c} (hk : Keeps kp s) :
    Keeps kp (ctxLost c s) := by
  simp (maxDischargeDepth := 40) [ctxLost, hk]

@[simp] theorem readCtx_keeps {s : State} {reader} {unit} {tag} {c} (hk : Keeps kp s) :
    Keeps kp (readCtx reader unit tag c s) := by
  unfold readCtx
  (repeat' split) <;> simp (maxDischargeDepth := 40) [hk]

@[simp] theorem readMembers_keeps {s : State} {c} {unit} {tag} (hk : Keeps kp s) :
    Keeps kp (readMembers c unit tag s) := by
  unfold readMembers
  (repeat' split) <;> simp (maxDischargeDepth := 40) [hk]

@[simp] theorem readBank_keeps {s : State} {c} (hk : Keeps kp s) :
    Keeps kp (readBank c s) := by
  unfold readBank
  (repeat' split) <;> simp (maxDischargeDepth := 40) [hk]

@[simp] theorem touchCtx_keeps {s : State} {c} (hk : Keeps kp s) :
    Keeps kp (touchCtx c s) := by
  simp (maxDischargeDepth := 40) [touchCtx, hk]

@[simp] theorem bankAtBoundary_keeps {s0 : State} {c} (hk : Keeps kp s0) :
    Keeps kp (bankAtBoundary c s0) := by
  unfold bankAtBoundary
  dsimp only
  (repeat' split) <;> simp (maxDischargeDepth := 40) [hk]

@[simp] theorem swapIn_keeps {s : State} {c} {n} (hk : Keeps kp s) :
    Keeps kp (swapIn c n s) := by
  unfold swapIn
  (repeat' split) <;> simp (maxDischargeDepth := 40) [hk]

@[simp] theorem swapInComplete_keeps {s : State} {c} (hk : Keeps kp s) :
    Keeps kp (swapInComplete c s) := by
  unfold swapInComplete
  (repeat' split) <;> simp (maxDischargeDepth := 40) [hk]

@[simp] theorem freeOwned_keeps {s : State} {c} (hk : Keeps kp s) :
    Keeps kp (freeOwned c s) := by
  simp +contextual (maxDischargeDepth := 40) [freeOwned, hk]

@[simp] theorem setBook_keeps {s : State} {l} {b} (hk : Keeps kp s) :
    Keeps kp (setBook l b s) := by
  simp (maxDischargeDepth := 40) [setBook, hk]

@[simp] theorem setLedger_keeps {s : State} {l} {b} (hk : Keeps kp s) :
    Keeps kp (setLedger l b s) := by
  simp (maxDischargeDepth := 40) [setLedger, hk]

@[simp] theorem freeStep_keeps {s : State} {l} {step} {hs} (hk : Keeps kp s) :
    Keeps kp (freeStep l step hs s) := by
  simp +contextual (maxDischargeDepth := 40) [freeStep, hk]

@[simp] theorem dropRouteWait_keeps {s : State} {c} (hk : Keeps kp s) :
    Keeps kp (dropRouteWait c s) := by
  unfold dropRouteWait
  refine foldOver_keeps (by simp [hk]) fun s x hs => ?_
  (repeat' split) <;> simp (maxDischargeDepth := 40) [hs]

@[simp] theorem endGateStep_keeps {s : State} {l} (hk : Keeps kp s) :
    Keeps kp (endGateStep l s) := by
  simp (maxDischargeDepth := 40) [endGateStep, hk]

@[simp] theorem endCombineStep_keeps {s : State} {l} (hk : Keeps kp s) :
    Keeps kp (endCombineStep l s) := by
  simp (maxDischargeDepth := 40) [endCombineStep, hk]

@[simp] theorem endLayerStep_keeps {s : State} {c} (hk : Keeps kp s) :
    Keeps kp (endLayerStep c s) := by
  simp +contextual (maxDischargeDepth := 40) [endLayerStep, hk]

@[simp] theorem doomRuns_keeps {s : State} {c} (hk : Keeps kp s) : Keeps kp (doomRuns c s) := by
  refine foldOver_keeps hk fun s g hs => foldOver_keeps hs fun s u hu => ?_
  dsimp only
  (repeat' split) <;> simp (maxDischargeDepth := 40) [hu]

@[simp] theorem endHolds_keeps {s : State} {c} (hk : Keeps kp s) :
    Keeps kp (endHolds c s) := by
  unfold endHolds
  refine foldOver_keeps (by simp [hk]) fun s x hs => ?_
  (repeat' split) <;> simp (maxDischargeDepth := 40) [hs]

@[simp] theorem timeoutEffects_keeps {s0 : State} {c} (hk : Keeps kp s0) :
    Keeps kp (timeoutEffects c s0) := by
  unfold timeoutEffects
  dsimp only
  (repeat' split) <;> simp +contextual (maxDischargeDepth := 40) [hk]

@[simp] theorem roundTimeout_keeps {s : State} {c} (hk : Keeps kp s) :
    Keeps kp (roundTimeout c s) := by
  unfold roundTimeout
  (repeat' split) <;> simp (maxDischargeDepth := 40) [hk]

@[simp] theorem countInRound_keeps {s : State} {c} {t} {stamp} (hk : Keeps kp s) :
    Keeps kp (countInRound c t stamp s) := by
  unfold countInRound
  (repeat' split) <;> simp (maxDischargeDepth := 40) [hk]

@[simp] theorem acceptEffects_keeps {s0 : State} {c} {t} {stamp} (hk : Keeps kp s0) :
    Keeps kp (acceptEffects c t stamp s0) := by
  unfold acceptEffects
  (repeat' split) <;> simp (maxDischargeDepth := 40) [hk]

@[simp] theorem ctxAction_keeps {code c m : Nat} {r : Status × State} (hk : Keeps kp r.2) :
    Keeps kp (ctxAction code c m r).2 := by
  simp (maxDischargeDepth := 40) [ctxAction, hk]

@[simp] theorem leaveQueue_keeps {s : State} {g} {uid} (hk : Keeps kp s) :
    Keeps kp (leaveQueue g uid s) := by
  simp (maxDischargeDepth := 40) [leaveQueue, hk]

@[simp] theorem purgeQueued_keeps {s : State} {g p f} (hk : Keeps kp s) (hf : ∀ s, Keeps kp s → Keeps kp (f s)) :
    Keeps kp (purgeQueued g p f s) := by
  unfold purgeQueued
  refine foldOver_keeps hk fun s x hs => ?_
  (repeat' split) <;> simp (maxDischargeDepth := 40) [hs, hf]

@[simp] theorem purgeIntake_keeps {s : State} {g} {ctr} {p} (hk : Keeps kp s) :
    Keeps kp (purgeIntake g ctr p s) := by
  unfold purgeIntake
  refine foldOver_keeps (by simp [hk]) fun s x hs => ?_
  (repeat' split) <;> simp (maxDischargeDepth := 40) [hs]

@[simp] theorem purgeStale_keeps {s : State} {g} {p} (hk : Keeps kp s) :
    Keeps kp (purgeStale g p s) := by
  simp (maxDischargeDepth := 40) [purgeStale, hk]

@[simp] theorem restartStreams_keeps {s : State} {bound} (hk : Keeps kp s) :
    Keeps kp (restartStreams bound s) := by
  simp +contextual (maxDischargeDepth := 40) [restartStreams, hk]

@[simp] theorem reformApply_keeps {s : State} {m e chips} (hk : Keeps kp s) :
    Keeps kp (reformApply m e chips s) := by
  refine foldOver_keeps (mirrorMgrp_keeps (count_keeps (logEv_keeps (foldOver_keeps (restartStreams_keeps
    (foldOver_keeps (foldOver_keeps ?_ fun s c hs => ?_) fun s g hs => ?_)) fun s x hs => ?_)))) fun s c hs =>
    mirrorCtx_keeps (storeBank_keeps hs)
  · refine writeSram_keeps ((keeps_mk (kp := kp)).mpr (Keeps.by_ (s := foldOver _ _ _)
      (foldOver_keeps hk fun s c hs => ?_)))
    dsimp only
    (repeat' split) <;> simp (maxDischargeDepth := 40) [hs]
  all_goals simp (maxDischargeDepth := 40) [hs]

@[simp] theorem reform_keeps {s : State} {m} {e} (hk : Keeps kp s) :
    Keeps kp (reform m e s).2 := by
  simp (maxDischargeDepth := 40) [reform, hk]

@[simp] theorem define_keeps {s : State} {c} (hk : Keeps kp s) : Keeps kp (define c s).2 := by
  refine ctxAction_keeps (inHalf_keeps hk ?_)
  dsimp only
  (repeat' split) <;> simp (maxDischargeDepth := 40) [hk]

@[simp] theorem undefine_keeps {s : State} {c} (hk : Keeps kp s) : Keeps kp (undefine c s).2 := by
  have h := touchCtx_keeps (c := c) hk
  unfold undefine
  dsimp only
  generalize touchCtx c s = u at h ⊢
  refine ctxAction_keeps ?_
  (repeat' split) <;> try simp (maxDischargeDepth := 40) [h]
  exact mirrorCtx_keeps (eraseCtx_keeps (freeOwned_keeps (dropRouteWait_keeps (foldOver_keeps h fun s g hs =>
    purgeQueued_keeps (purgeGroup_keeps hs) fun _ h => h))))

@[simp] theorem bank_keeps {s : State} {c} (hk : Keeps kp s) : Keeps kp (bank c s).2 := by
  refine ctxAction_keeps ?_
  (repeat' split) <;> simp (maxDischargeDepth := 40) [hk]

@[simp] theorem unbank_keeps {s0 : State} {c} (hk : Keeps kp s0) :
    Keeps kp (unbank c s0).2 := by
  unfold unbank
  dsimp only
  (repeat' split) <;> simp (maxDischargeDepth := 40) [hk]

@[simp] theorem advance_keeps {s0 : State} {c} (hk : Keeps kp s0) :
    Keeps kp (advance c s0).2 := by
  unfold advance
  dsimp only
  (repeat' split) <;> simp (maxDischargeDepth := 40) [hk]

@[simp] theorem setStep_keeps {s0 : State} {c} (hk : Keeps kp s0) :
    Keeps kp (setStep c s0).2 := by
  unfold setStep
  dsimp only
  (repeat' split) <;> simp (maxDischargeDepth := 40) [hk]

@[simp] theorem ctxActionWrite_keeps {s : State} {v} (hk : Keeps kp s) :
    Keeps kp (ctxActionWrite v s).2 := by
  simp (maxDischargeDepth := 40) [ctxActionWrite, hk]

end Sys2Proof.Machine
end

