-- ==== Sys2Proof/Laws/Moe.lean ====
section
/-! SUPPORT. What the functions of Machine/Moe.lean keep: the queue of waiting commands, the memory's canonical form,
and the fuses. -/

namespace Sys2Proof.Machine

open Sys2Proof

variable {kp : ToKeep}

@[simp] theorem cacheEntry_keeps {s : State} {k} (hk : Keeps kp s) :
    Keeps kp (cacheEntry k s) := by
  simp (maxDischargeDepth := 40) [cacheEntry, hk]

@[simp] theorem placeLost_keeps {s : State} {k} (hk : Keeps kp s) :
    Keeps kp (placeLost k s) := by
  simp (maxDischargeDepth := 40) [placeLost, hk]

@[simp] theorem lookPlace_keeps {s : State} {g} {l} {e} (hk : Keeps kp s) :
    Keeps kp (lookPlace g l e s) := by
  unfold lookPlace
  dsimp only
  (repeat' split) <;> simp (maxDischargeDepth := 40) [hk]

@[simp] theorem readPlaces_keeps {s : State} {g} {l} {e} {n} (hk : Keeps kp s) :
    Keeps kp (readPlaces g l e n s) := by
  unfold readPlaces
  (repeat' split) <;> simp +contextual (maxDischargeDepth := 40) [hk]

@[simp] theorem moeStatus_keeps {s : State} {l} {check} {st} (hk : Keeps kp s) :
    Keeps kp (moeStatus l check st s).2 := by
  simp (maxDischargeDepth := 40) [moeStatus, hk]

@[simp] theorem layerWrite_keeps {s : State} {l} {w} {v} (hk : Keeps kp s) :
    Keeps kp (layerWrite l w v s).2 := by
  unfold layerWrite
  dsimp only
  (repeat' split) <;> simp (maxDischargeDepth := 40) [hk]

@[simp] theorem placeStore_keeps {s : State} {b} {l} {e} {v} (hk : Keeps kp s) :
    Keeps kp (placeStore b l e v s) := by
  unfold placeStore
  (repeat' split) <;> simp (maxDischargeDepth := 40) [hk]

@[simp] theorem placeWrite_keeps {s : State} {b} {l} {e} {v} (hk : Keeps kp s) :
    Keeps kp (placeWrite b l e v s).2 := by
  simp (maxDischargeDepth := 40) [placeWrite, hk]

@[simp] theorem sendRouting_keeps {s : State} {g} {l} {chip} {ch} {plane} {off} {t} (hk : Keeps kp s) :
    Keeps kp (sendRouting g l chip ch plane off t s) := by
  simp (maxDischargeDepth := 40) [sendRouting, hk]

@[simp] theorem routeBad_keeps {s : State} {g} {l} {h} (hk : Keeps kp s) :
    Keeps kp (routeBad g l h s) := by
  simp (maxDischargeDepth := 40) [routeBad, hk]

@[simp] theorem setTileStep_keeps {s : State} {g} {h} {step} (hk : Keeps kp s) :
    Keeps kp (setTileStep g h step s) := by
  unfold setTileStep
  (repeat' split) <;> simp (maxDischargeDepth := 40) [hk]

@[simp] theorem bookOffer_keeps {s : State} {g} {u} {portB} {h} {share} {step} (hk : Keeps kp s) :
    Keeps kp (bookOffer g u portB h share step s) := by
  simp (maxDischargeDepth := 40) [bookOffer, hk]

@[simp] theorem bookClose_keeps {s : State} {l} (hk : Keeps kp s) :
    Keeps kp (bookClose l s) := by
  simp (maxDischargeDepth := 40) [bookClose, hk]

@[simp] theorem bookTake_keeps {s : State} {g} {l} {h} {t} {c} (hk : Keeps kp s) :
    Keeps kp (bookTake g l h t c s) := by
  simp (maxDischargeDepth := 40) [bookTake, hk]

@[simp] theorem returnTake_keeps {s : State} {g} {l} {h} {t} {c} (hk : Keeps kp s) :
    Keeps kp (returnTake g l h t c s) := by
  simp (maxDischargeDepth := 40) [returnTake, hk]

@[simp] theorem ledgerTake_keeps {s : State} {g} {l} {h} {t} {c} (hk : Keeps kp s) :
    Keeps kp (ledgerTake g l h t c s) := by
  simp (maxDischargeDepth := 40) [ledgerTake, hk]

@[simp] theorem readLayer_keeps {s : State} {g} {l} {tag} (hk : Keeps kp s) :
    Keeps kp (readLayer g l tag s) := by
  simp +contextual (maxDischargeDepth := 40) [readLayer, hk]

@[simp] theorem routingTake_keeps {s0 : State} {g} {l} {h} {p} {t} {c} (hk : Keeps kp s0) :
    Keeps kp (routingTake g l h p t c s0) := by
  unfold routingTake
  (repeat' split) <;> simp (maxDischargeDepth := 40) [hk]

@[simp] theorem bookStatistics_keeps {s : State} {l} (hk : Keeps kp s) : Keeps kp (bookStatistics l s) := by
  unfold bookStatistics
  dsimp only
  split
  · exact hk
  · split
    · exact hk
    · refine setBook_keeps ?_
      split
      · refine foldOver_keeps hk fun s x hs => ?_
        (repeat' split) <;> simp [hs]
      · exact hk

@[simp] theorem bookGateDeliver_keeps {s : State} {l} (hk : Keeps kp s) :
    Keeps kp (bookGateDeliver l s) := by
  unfold bookGateDeliver
  dsimp only
  (repeat' split) <;> simp +contextual (maxDischargeDepth := 40) [hk]

@[simp] theorem sendClaims_keeps {s : State} {l} {step} {cs} {j} (hk : Keeps kp s) :
    Keeps kp (sendClaims l step cs s j) := by
  simp +contextual (maxDischargeDepth := 40) [sendClaims, hk]

@[simp] theorem bookClaims_keeps {s : State} {l} (hk : Keeps kp s) :
    Keeps kp (bookClaims l s) := by
  simp +contextual (maxDischargeDepth := 40) [bookClaims, hk]

@[simp] theorem ledgerVerdict_keeps {s : State} {l} (hk : Keeps kp s) : Keeps kp (ledgerVerdict l s) := by
  unfold ledgerVerdict
  dsimp only
  split
  · exact hk
  · split
    · simp (maxDischargeDepth := 40) [hk]
    · refine setLedger_keeps (foldOver_keeps (readPlaces_keeps hk) fun s e hs => ?_)
      split <;> simp (maxDischargeDepth := 40) [hs]

@[simp] theorem sendCounts_keeps {s : State} {l} {step} {ds} {chip} (hk : Keeps kp s) :
    Keeps kp (sendCounts l step ds s chip) := by
  simp (maxDischargeDepth := 40) [sendCounts, hk]

theorem poolAlloc_eq_keeps {s : State} {g bytes owner r} (he : poolAlloc g bytes owner s = r) (hk : Keeps kp s) :
    Keeps kp r.2 := he ▸ poolAlloc_keeps hk

theorem deliverDispatch_keeps {o : Option State} {l step acts d} (hk : KeepsOpt kp o) :
    KeepsOpt kp (deliverDispatch l step acts o d) := by
  refine keepsOpt_bind hk fun s hs => ?_
  dsimp only
  split
  · refine keepsOpt_some (bookOffer_keeps (bookOffer_keeps (setTile_keeps ?_)))
    exact poolAlloc_eq_keeps ‹_› hs
  · exact keepsOpt_none

@[simp] theorem bookApply_keeps {s : State} {l} (hk : Keeps kp s) : Keeps kp (bookApply l s) := by
  unfold bookApply
  dsimp only
  split
  · exact hk
  · split
    · rename_i he
      refine foldl_keepsOpt (keepsOpt_some (foldOver_keeps ?_ fun s c hs => ?_)) (fun o d ho => deliverDispatch_keeps ho)
        _ he
      all_goals simp (maxDischargeDepth := 40) [*]
    · exact readPlaces_keeps hk

theorem offerNew_keeps {o : Option State} {g u portB c t step} (hk : KeepsOpt kp o) :
    KeepsOpt kp (offerNew g u portB c t step o) := by
  refine keepsOpt_bind hk fun s hs => ?_
  split
  · refine keepsOpt_some (bookOffer_keeps (setTile_keeps ?_))
    exact poolAlloc_eq_keeps ‹_› hs
  · exact keepsOpt_none

theorem combineOne_keeps {o : Option State} {l b a} (hk : KeepsOpt kp o) :
    KeepsOpt kp (combineOne l b o a) := by
  refine keepsOpt_bind hk fun s hs => ?_
  refine offerNew_keeps (foldl_keepsOpt (keepsOpt_some ?_) fun o j ho => offerNew_keeps ho)
  split
  · exact bookOffer_keeps hs
  · exact hs

@[simp] theorem bookRelease_keeps {s : State} {g} {l} {h} (hk : Keeps kp s) :
    Keeps kp (bookRelease g l h s) := by
  unfold bookRelease
  (repeat' split) <;> simp (maxDischargeDepth := 40) [hk]

@[simp] theorem bookCombine_keeps {s : State} {l} (hk : Keeps kp s) : Keeps kp (bookCombine l s) := by
  unfold bookCombine
  dsimp only
  split
  · exact hk
  · split
    · exact hk
    · rename_i he
      have h1 := foldl_keepsOpt (keepsOpt_some hk) (fun o d ho => combineOne_keeps ho) _ he
      refine foldOver_keeps (setBook_keeps (foldOver_keeps h1 fun s d hs => ?_)) fun s a hs => bookRelease_keeps hs
      split <;> simp [hs]

end Sys2Proof.Machine
end

