-- ==== Sys2Proof/Laws/Hearth.lean ====
section
/-! SUPPORT. What the functions of Machine/Hearth.lean keep: the queue of waiting commands, the memory's canonical form,
and the fuses. -/

namespace Sys2Proof.Machine

open Sys2Proof

variable {kp : ToKeep}

@[simp] theorem leaveIntake_keeps {s : State} {uid} {g} (hk : Keeps kp s) :
    Keeps kp (leaveIntake uid g s) := by
  simp (maxDischargeDepth := 40) [leaveIntake, hk]

@[simp] theorem intakeDrop_keeps {s : State} {g} {blk} {ctr} {k} {uid} (hk : Keeps kp s) :
    Keeps kp (intakeDrop g blk ctr k uid s) := by
  simp (maxDischargeDepth := 40) [intakeDrop, hk]

@[simp] theorem intakeDiscard_keeps {s : State} {g} {blk} {ctr} {k} {uid} {tag} (hk : Keeps kp s) :
    Keeps kp (intakeDiscard g blk ctr k uid tag s) := by
  simp (maxDischargeDepth := 40) [intakeDiscard, hk]

@[simp] theorem intakeWait_keeps {s : State} {g} (hk : Keeps kp s) :
    Keeps kp (intakeWait g s) := by
  simp (maxDischargeDepth := 40) [intakeWait, hk]

@[simp] theorem intakeStore_keeps {s : State} {g} {h} {uid} {f} {t} (hk : Keeps kp s) :
    Keeps kp (intakeStore g h uid f t s).2 := by
  unfold intakeStore
  dsimp only
  (repeat' split) <;> simp (maxDischargeDepth := 40) [hk]

@[simp] theorem routeStored_keeps {s : State} {g} (hk : Keeps kp s) :
    Keeps kp (routeStored g s) := by
  unfold routeStored
  (repeat' split) <;> simp (maxDischargeDepth := 40) [hk]

@[simp] theorem intakeAccept_keeps {s : State} {g c x uid f t} (hk : Keeps kp s) :
    Keeps kp (intakeAccept g c x uid f t s) := by
  unfold intakeAccept
  split
  · simp (maxDischargeDepth := 40) [hk]
  · have h1 := poolAlloc_eq_keeps ‹_› hk
    dsimp only at h1 ⊢
    (repeat' split) <;> simp (maxDischargeDepth := 40) [h1]

@[simp] theorem intakeHead_keeps {s : State} {g uid f} (hk : Keeps kp s) :
    Keeps kp (intakeHead g uid f s) := by
  unfold intakeHead
  extract_lets r t c u discard
  have hu : Keeps kp u := by
    simp only [u]
    split <;> simp (maxDischargeDepth := 40) [hk]
  have hd : ∀ k s, Keeps kp s → Keeps kp (discard k s) := fun k s hs => intakeDiscard_keeps hs
  clear_value r t c u discard
  split
  · exact intakeDiscard_keeps hu
  split
  · exact hd _ _ hu
  split
  · exact hd _ _ hu
  dsimp only
  (repeat' split) <;> simp (maxDischargeDepth := 40) [hu, hd]

@[simp] theorem intakeTake_keeps {s : State} {g} (hk : Keeps kp s) :
    Keeps kp (intakeTake g s) := by
  unfold intakeTake
  (repeat' split) <;> simp (maxDischargeDepth := 40) [hk]

@[simp] theorem settleOffer_keeps {s : State} {g} {o} (hk : Keeps kp s) :
    Keeps kp (settleOffer g o s) := by
  unfold settleOffer
  (repeat' split) <;> simp (maxDischargeDepth := 40) [hk]

@[simp] theorem offerQueued_keeps {s : State} {g} {o} (hk : Keeps kp s) :
    Keeps kp (offerQueued g o s) := by
  unfold offerQueued
  (repeat' split) <;> simp (maxDischargeDepth := 40) [hk]

@[simp] theorem offerFails_keeps {s : State} {g} {o} {tag} {quiet} (hk : Keeps kp s) :
    Keeps kp (offerFails g o tag quiet s) := by
  simp (maxDischargeDepth := 40) [offerFails, hk]

@[simp] theorem steerHold_keeps {s : State} {g} {o} (hk : Keeps kp s) :
    Keeps kp (steerHold g o s) := by
  unfold steerHold
  (repeat' split) <;> simp (maxDischargeDepth := 40) [hk]

@[simp] theorem setGrant_keeps {s : State} {g} {u} {portB} {r} (hk : Keeps kp s) :
    Keeps kp (setGrant g u portB r s) := by
  simp (maxDischargeDepth := 40) [setGrant, hk]

@[simp] theorem portArbitrate_keeps {s : State} {g} {u} {portB} {offer} {up} (hk : Keeps kp s) :
    Keeps kp (portArbitrate g u portB offer up s).2 := by
  unfold portArbitrate
  (repeat' split) <;> simp (maxDischargeDepth := 40) [hk]

@[simp] theorem portRound_keeps {s : State} {g} {u} {portB} {o} (hk : Keeps kp s) :
    Keeps kp (portRound g u portB o s) := by
  simp (maxDischargeDepth := 40) [portRound, hk]

@[simp] theorem stationDeliver_keeps {s : State} {g} {u} {portB} (hk : Keeps kp s) :
    Keeps kp (stationDeliver g u portB s) := by
  unfold stationDeliver
  (repeat' split) <;> simp (maxDischargeDepth := 40) [hk]

@[simp] theorem steerPair_keeps {s : State} {g} (hk : Keeps kp s) :
    Keeps kp (steerPair g s) := by
  unfold steerPair
  dsimp only
  (repeat' split) <;> simp (maxDischargeDepth := 40) [hk]

@[simp] theorem fetchTile_keeps {s : State} {reader} {g} {u} {tag} {off} (hk : Keeps kp s) :
    Keeps kp (fetchTile reader g u tag off s).2 := by
  unfold fetchTile
  dsimp only
  (repeat' split) <;> simp (maxDischargeDepth := 40) [hk]

@[simp] theorem takeCmd_keeps {s : State} {g want op} (hk : Keeps kp s)
    (ho : ∀ r s, Keeps kp s → Keeps kp (op r s)) : Keeps kp (takeCmd g want op s) := by
  unfold takeCmd
  split
  · exact hk
  · split
    · exact hk
    · dsimp only
      split
      · simp (maxDischargeDepth := 40) [hk]
      · exact ho _ _ (by simp (maxDischargeDepth := 40) [hk])

@[simp] theorem stationAbsent_keeps {s : State} {g} {opc} {r} (hk : Keeps kp s) :
    Keeps kp (stationAbsent g opc r s) := by
  simp (maxDischargeDepth := 40) [stationAbsent, hk]

@[simp] theorem invokeCmd_keeps {s : State} {g} {r} (hk : Keeps kp s) :
    Keeps kp (invokeCmd g r s) := by
  simp (maxDischargeDepth := 40) [invokeCmd, hk]

@[simp] theorem holdCmd_keeps {s : State} {g} {r} (hk : Keeps kp s) :
    Keeps kp (holdCmd g r s) := by
  unfold holdCmd
  dsimp only
  (repeat' split) <;> simp (maxDischargeDepth := 40) [hk]

@[simp] theorem holdRelease_keeps {s0 : State} {g} (hk : Keeps kp s0) :
    Keeps kp (holdRelease g s0) := by
  unfold holdRelease
  dsimp only
  (repeat' split) <;> simp (maxDischargeDepth := 40) [hk]

@[simp] theorem poolCmd_keeps {s : State} {g op r} (hk : Keeps kp s)
    (ho : ∀ i r s, Keeps kp s → Keeps kp (op i r s).2.2) : Keeps kp (poolCmd g op r s) := by
  unfold poolCmd
  split
  · exact completeSeq_keeps (ho _ _ _ hk)
  · exact completeSeq_keeps hk

@[simp] theorem poolAllocOp_keeps {s : State} {g o r} (hk : Keeps kp s) :
    Keeps kp (poolAllocOp g o r s).2.2 := by
  unfold poolAllocOp
  split <;> exact poolAlloc_eq_keeps ‹_› hk

@[simp] theorem poolShareOp_keeps {s : State} {g i r} (hk : Keeps kp s) :
    Keeps kp (poolShareOp g i r s).2.2 := by
  simp [poolShareOp, hk]

@[simp] theorem poolHandoffOp_keeps {s : State} {g} {o} {r} (hk : Keeps kp s) :
    Keeps kp (poolHandoffOp g o r s).2.2 := by
  simp (maxDischargeDepth := 40) [poolHandoffOp, hk]

@[simp] theorem poolDropOp_keeps {s : State} {g} {o} {r} (hk : Keeps kp s) :
    Keeps kp (poolDropOp g o r s).2.2 := by
  simp (maxDischargeDepth := 40) [poolDropOp, hk]

@[simp] theorem poolFreeOp_keeps {s : State} {g} {o} {r} (hk : Keeps kp s) :
    Keeps kp (poolFreeOp g o r s).2.2 := by
  simp (maxDischargeDepth := 40) [poolFreeOp, hk]

@[simp] theorem operandCmd_keeps {s : State} {g r} (hk : Keeps kp s) : Keeps kp (operandCmd g r s) := by
  unfold operandCmd
  extract_lets u portB c owner done x
  have hd : ∀ st s, Keeps kp s → Keeps kp (done st s) := fun st s hs =>
    completeSeq_keeps (logEv_keeps hs)
  have hx : Keeps kp x.2 := fetchTile_keeps hk
  clear_value done x
  (repeat' split) <;> simp (maxDischargeDepth := 40) [hk, hx, hd]

@[simp] theorem nopCmd_keeps {s : State} {g} {r} (hk : Keeps kp s) :
    Keeps kp (nopCmd g r s) := by
  simp (maxDischargeDepth := 40) [nopCmd, hk]

@[simp] theorem spareCtrlWrite_keeps {s : State} {g} {v} (hk : Keeps kp s) :
    Keeps kp (spareCtrlWrite g v s).2 := by
  simp (maxDischargeDepth := 40) [spareCtrlWrite, hk]

@[simp] theorem spareTakeover_keeps {s : State} {g} (hk : Keeps kp s) :
    Keeps kp (spareTakeover g s) := by
  unfold spareTakeover
  (repeat' split) <;> simp (maxDischargeDepth := 40) [hk]

end Sys2Proof.Machine
end

