-- ==== Sys2Proof/Laws/SlotCore.lean ====
section
/-! SUPPORT. What the functions of Machine/SlotCore.lean keep: the queue of waiting commands, the memory's canonical form,
and the fuses. -/

namespace Sys2Proof.Machine

open Sys2Proof

variable {kp : ToKeep}

@[simp] theorem slotOk_keeps {s : State} {cost} {r} (hk : Keeps kp s) :
    Keeps kp (slotOk cost r s).st := by
  simp (maxDischargeDepth := 40) [slotOk, hk]

@[simp] theorem slotFail_keeps {s : State} {e} {r} (hk : Keeps kp s) :
    Keeps kp (slotFail e r s).st := by
  simp (maxDischargeDepth := 40) [slotFail, hk]

@[simp] theorem loadTile_keeps {s : State} {g} {u} {h} {tag} {t} (hk : Keeps kp s) :
    Keeps kp (loadTile g u h tag t s).2 := by
  unfold loadTile
  dsimp only
  (repeat' split) <;> simp (maxDischargeDepth := 40) [hk]

@[simp] theorem with1_keeps {s : State} {g i r k} (hk : Keeps kp s)
    (ho : ∀ h t s, Keeps kp s → Keeps kp (k h t s).st) : Keeps kp (with1 g i r s k).st := by
  unfold with1
  split
  · exact ho _ _ _ (loadTile_keeps hk)
  · exact hk

@[simp] theorem with2_keeps {s : State} {g i j r k} (hk : Keeps kp s)
    (ho : ∀ t u s, Keeps kp s → Keeps kp (k t u s).st) : Keeps kp (with2 g i j r s k).st :=
  with1_keeps hk fun _ _ _ hs => with1_keeps hs fun _ _ _ hs => ho _ _ _ hs

@[simp] theorem newOut_keeps {s : State} {g u a cost cl t post r} (hk : Keeps kp s)
    (hp : ∀ s, Keeps kp s → Keeps kp (post s)) : Keeps kp (newOut g u a cost cl t post r s).st := by
  unfold newOut
  extract_lets t1
  clear_value t1
  split
  · simp [slotFail, hk]
  · split
    · exact poolAlloc_eq_keeps ‹_› hk
    · have h1 := poolAlloc_eq_keeps ‹_› hk
      dsimp only [slotOk]
      split
      · exact logClinker_keeps (setTile_keeps h1)
      · exact hp _ (setTile_keeps h1)

@[simp] theorem changeOut_keeps {s : State} {g} {u} {h} {cost} {cl} {old} {t} {r} (hk : Keeps kp s) :
    Keeps kp (changeOut g u h cost cl old t r s).st := by
  unfold changeOut
  (repeat' split) <;> simp (maxDischargeDepth := 40) [hk]

@[simp] theorem readAcc_keeps {s : State} {g} {u} {tag} {e} (hk : Keeps kp s) :
    Keeps kp (readAcc g u tag e s).2 := by
  unfold readAcc
  dsimp only
  (repeat' split) <;> simp (maxDischargeDepth := 40) [hk]

@[simp] theorem readLocal_keeps {s : State} {g} {u} {tag} (hk : Keeps kp s) :
    Keeps kp (readLocal g u tag s).2 := by
  simp +contextual (maxDischargeDepth := 40) [readLocal, hk]

@[simp] theorem writeLocal_keeps {s : State} {g} {u} {m} (hk : Keeps kp s) :
    Keeps kp (writeLocal g u m s) := by
  simp +contextual (maxDischargeDepth := 40) [writeLocal, hk]

@[simp] theorem accOp_keeps {s : State} {g} {u} {a} {cost} {long} {rows} {cols} {cl} {f} {r} (hk : Keeps kp s) :
    Keeps kp (accOp g u a cost long rows cols cl f r s).st := by
  unfold accOp
  (repeat' split) <;> simp (maxDischargeDepth := 40) [hk]

end Sys2Proof.Machine
end

