-- ==== Sys2Proof/Laws/SlotMove.lean ====
section
/-! SUPPORT. What the functions of Machine/SlotMove.lean keep: the queue of waiting commands, the memory's canonical form,
and the fuses. -/

namespace Sys2Proof.Machine

open Sys2Proof

variable {kp : ToKeep}

@[simp] theorem slotTake_keeps {s : State} {g} {u} {a} {portB} {r} (hk : Keeps kp s) :
    Keeps kp (slotTake g u a portB r s).st := by
  unfold slotTake
  dsimp only
  (repeat' split) <;> simp (maxDischargeDepth := 40) [hk]

@[simp] theorem slotAlloc_keeps {s : State} {g} {u} {a} {b} {r} (hk : Keeps kp s) :
    Keeps kp (slotAlloc g u a b r s).st := by
  simp (maxDischargeDepth := 40) [slotAlloc, hk]

@[simp] theorem slotRead_keeps {s : State} {g u a b c r} (hk : Keeps kp s) :
    Keeps kp (slotRead g u a b c r s).st := by
  unfold slotRead
  extract_lets x
  have hx : Keeps kp x.2 := fetchTile_keeps hk
  clear_value x
  split
  · exact hx
  · split
    · exact poolAlloc_eq_keeps ‹_› hx
    · have h1 := poolAlloc_eq_keeps ‹_› hx
      refine setTile_keeps (compressTile_keeps ?_)
      split <;> simp [h1]

@[simp] theorem slotHold_keeps {s : State} {g} {a} {b} {r} (hk : Keeps kp s) :
    Keeps kp (slotHold g a b r s).st := by
  unfold slotHold
  dsimp only
  (repeat' split) <;> simp (maxDischargeDepth := 40) [hk]

@[simp] theorem slotTrans_keeps {s : State} {g} {u} {a} {b} {r} (hk : Keeps kp s) :
    Keeps kp (slotTrans g u a b r s).st := by
  simp +contextual (maxDischargeDepth := 40) [slotTrans, hk]

@[simp] theorem slotSlice_keeps {s : State} {g} {u} {a} {b} {c} {r} (hk : Keeps kp s) :
    Keeps kp (slotSlice g u a b c r s).st := by
  simp +contextual (maxDischargeDepth := 40) [slotSlice, hk]

@[simp] theorem slotRefmt_keeps {s : State} {g} {u} {a} {b} {imm} {r} (hk : Keeps kp s) :
    Keeps kp (slotRefmt g u a b imm r s).st := by
  simp +contextual (maxDischargeDepth := 40) [slotRefmt, hk]

@[simp] theorem slotGather_keeps {s : State} {g} {u} {a} {b} {c} {r} (hk : Keeps kp s) :
    Keeps kp (slotGather g u a b c r s).st := by
  simp +contextual (maxDischargeDepth := 40) [slotGather, hk]

@[simp] theorem slotScatter_keeps {s : State} {g} {u} {a} {b} {c} {r} (hk : Keeps kp s) :
    Keeps kp (slotScatter g u a b c r s).st := by
  simp +contextual (maxDischargeDepth := 40) [slotScatter, hk]

@[simp] theorem slotCopy_keeps {s : State} {g} {u} {a} {b} {r} (hk : Keeps kp s) :
    Keeps kp (slotCopy g u a b r s).st := by
  simp +contextual (maxDischargeDepth := 40) [slotCopy, hk]

@[simp] theorem slotSort_keeps {s : State} {g} {u} {a} {b} {imm} {r} (hk : Keeps kp s) :
    Keeps kp (slotSort g u a b imm r s).st := by
  simp +contextual (maxDischargeDepth := 40) [slotSort, hk]

@[simp] theorem slotTopk_keeps {s : State} {g} {u} {a} {b} {c} {imm} {r} (hk : Keeps kp s) :
    Keeps kp (slotTopk g u a b c imm r s).st := by
  simp +contextual (maxDischargeDepth := 40) [slotTopk, hk]

@[simp] theorem slotSelect_keeps {s : State} {g} {u} {a} {b} {c} {r} (hk : Keeps kp s) :
    Keeps kp (slotSelect g u a b c r s).st := by
  simp +contextual (maxDischargeDepth := 40) [slotSelect, hk]

@[simp] theorem slotThresh_keeps {s : State} {g} {u} {a} {b} {c} {imm} {r} (hk : Keeps kp s) :
    Keeps kp (slotThresh g u a b c imm r s).st := by
  simp +contextual (maxDischargeDepth := 40) [slotThresh, hk]

@[simp] theorem slotMeta_keeps {s : State} {g} {a} {f} {r} (hk : Keeps kp s) :
    Keeps kp (slotMeta g a f r s).st := by
  unfold slotMeta
  (repeat' split) <;> simp (maxDischargeDepth := 40) [hk]

@[simp] theorem slotSetCtx_keeps {s : State} {g} {a} {b} {r} (hk : Keeps kp s) :
    Keeps kp (slotSetCtx g a b r s).st := by
  simp (maxDischargeDepth := 40) [slotSetCtx, hk]

@[simp] theorem slotSetSeq_keeps {s : State} {g} {a} {b} {r} (hk : Keeps kp s) :
    Keeps kp (slotSetSeq g a b r s).st := by
  simp (maxDischargeDepth := 40) [slotSetSeq, hk]

@[simp] theorem slotNextSeq_keeps {s : State} {g} {a} {imm} {r} (hk : Keeps kp s) :
    Keeps kp (slotNextSeq g a imm r s).st := by
  unfold slotNextSeq
  dsimp only
  (repeat' split) <;> simp (maxDischargeDepth := 40) [hk]

@[simp] theorem slotSetAux_keeps {s : State} {g} {a} {b} {r} (hk : Keeps kp s) :
    Keeps kp (slotSetAux g a b r s).st := by
  simp (maxDischargeDepth := 40) [slotSetAux, hk]

@[simp] theorem slotMark_keeps {s : State} {g} {a} {imm} {r} (hk : Keeps kp s) :
    Keeps kp (slotMark g a imm r s).st := by
  simp (maxDischargeDepth := 40) [slotMark, hk]

@[simp] theorem slotStep_keeps {s : State} {g} {a} {r} (hk : Keeps kp s) :
    Keeps kp (slotStep g a r s).st := by
  simp (maxDischargeDepth := 40) [slotStep, hk]

@[simp] theorem slotEmit_keeps {s : State} {a} {f} {r} (hk : Keeps kp s) :
    Keeps kp (slotEmit a f r s).st := by
  unfold slotEmit
  (repeat' split) <;> simp (maxDischargeDepth := 40) [hk]

@[simp] theorem slotNext_keeps {s : State} {g} {u} {a} {imm} {r} (hk : Keeps kp s) :
    Keeps kp (slotNext g u a imm r s).st := by
  unfold slotNext
  (repeat' split) <;> simp (maxDischargeDepth := 40) [hk]

@[simp] theorem slotSend_keeps {s : State} {a} {b} {r} (hk : Keeps kp s) :
    Keeps kp (slotSend a b r s).st := by
  simp (maxDischargeDepth := 40) [slotSend, hk]

@[simp] theorem slotPut_keeps {s : State} {g} {a} {b} {c} {r} (hk : Keeps kp s) :
    Keeps kp (slotPut g a b c r s).st := by
  unfold slotPut
  (repeat' split) <;> simp (maxDischargeDepth := 40) [hk]

@[simp] theorem slotWrite_keeps {s : State} {a} {b} {c} {r} (hk : Keeps kp s) :
    Keeps kp (slotWrite a b c r s).st := by
  simp (maxDischargeDepth := 40) [slotWrite, hk]

@[simp] theorem slotDiscard_keeps {s : State} {a} {r} (hk : Keeps kp s) :
    Keeps kp (slotDiscard a r s).st := by
  simp (maxDischargeDepth := 40) [slotDiscard, hk]

@[simp] theorem slotSignal_keeps {s : State} {a} {imm} {r} (hk : Keeps kp s) :
    Keeps kp (slotSignal a imm r s).st := by
  simp (maxDischargeDepth := 40) [slotSignal, hk]

end Sys2Proof.Machine
end

