-- ==== Sys2Proof/Laws/SlotMath.lean ====
section
/-! SUPPORT. What the functions of Machine/SlotMath.lean keep: the queue of waiting commands, the memory's canonical form,
and the fuses. -/

namespace Sys2Proof.Machine

open Sys2Proof

variable {kp : ToKeep}

@[simp] theorem slotZero_keeps {s : State} {a} {r} (hk : Keeps kp s) :
    Keeps kp (slotZero a r s).st := by
  simp (maxDischargeDepth := 40) [slotZero, hk]

@[simp] theorem slotRadd_keeps {s : State} {g} {u} {a} {b} {r} (hk : Keeps kp s) :
    Keeps kp (slotRadd g u a b r s).st := by
  simp +contextual (maxDischargeDepth := 40) [slotRadd, hk]

@[simp] theorem slotRwadd_keeps {s : State} {g} {u} {a} {b} {c} {r} (hk : Keeps kp s) :
    Keeps kp (slotRwadd g u a b c r s).st := by
  simp +contextual (maxDischargeDepth := 40) [slotRwadd, hk]

@[simp] theorem slotRmerge_keeps {s : State} {g u a b r} (hk : Keeps kp s) :
    Keeps kp (slotRmerge g u a b r s).st := by
  refine with1_keeps hk fun h t s hk => ?_
  dsimp only
  (repeat' split) <;> simp (maxDischargeDepth := 40) [slotFail, slotOk, hk]

@[simp] theorem accOut_keeps {s : State} {g u a cost x t post r} (hk : Keeps kp s)
    (hp : ∀ s, Keeps kp s → Keeps kp (post s)) : Keeps kp (accOut g u a cost x t post r s).st :=
  newOut_keeps hk hp

@[simp] theorem slotRound_keeps {s : State} {g} {u} {a} {b} {imm} {stats} {r} (hk : Keeps kp s) :
    Keeps kp (slotRound g u a b imm stats r s).st := by
  unfold slotRound
  dsimp only
  (repeat' split) <;> simp +contextual (maxDischargeDepth := 40) [hk]

@[simp] theorem slotPartout_keeps {s : State} {g} {u} {a} {b} {r} (hk : Keeps kp s) :
    Keeps kp (slotPartout g u a b r s).st := by
  unfold slotPartout
  dsimp only
  (repeat' split) <;> simp (maxDischargeDepth := 40) [hk]

@[simp] theorem slotParity_keeps {s : State} {g} {u} {a} {b} {coef} {r} (hk : Keeps kp s) :
    Keeps kp (slotParity g u a b coef r s).st := by
  simp +contextual (maxDischargeDepth := 40) [slotParity, hk]

@[simp] theorem logMetadata_keeps {s : State} {g} {u} {t} (hk : Keeps kp s) :
    Keeps kp (logMetadata g u t s) := by
  simp (maxDischargeDepth := 40) [logMetadata, hk]

@[simp] theorem productOp_keeps {s : State} {g} {u} {a} {cost} {t} {w} {ins} {pick} {r} (hk : Keeps kp s) :
    Keeps kp (productOp g u a cost t w ins pick r s).st := by
  unfold productOp
  dsimp only
  (repeat' split) <;> simp (maxDischargeDepth := 40) [hk]

@[simp] theorem slotMatmul_keeps {s : State} {g} {u} {a} {b} {c} {r} (hk : Keeps kp s) :
    Keeps kp (slotMatmul g u a b c r s).st := by
  simp +contextual (maxDischargeDepth := 40) [slotMatmul, hk]

@[simp] theorem slotMaskmm_keeps {s : State} {g} {u} {a} {b} {c} {imm} {r} (hk : Keeps kp s) :
    Keeps kp (slotMaskmm g u a b c imm r s).st := by
  simp +contextual (maxDischargeDepth := 40) [slotMaskmm, hk]

@[simp] theorem slotKindle_keeps {s : State} {g u a b c imm r} (hk : Keeps kp s) :
    Keeps kp (slotKindle g u a b c imm r s).st := by
  refine with2_keeps hk fun t w s hk => ?_
  extract_lets p rows cl s1 hdr cost k kept words
  have h1 : Keeps kp s1 := by
    unfold s1
    clear_value cl
    split <;> simp [hk]
  clear_value s1 cl rows
  dsimp only
  split
  · exact hk
  · split
    · exact newOut_keeps h1 fun s hs => countN_keeps (countN_keeps (countN_keeps hs))
    · exact newOut_keeps h1 fun s hs => hs

@[simp] theorem slotRowscale_keeps {s : State} {g} {u} {a} {b} {r} (hk : Keeps kp s) :
    Keeps kp (slotRowscale g u a b r s).st := by
  simp +contextual (maxDischargeDepth := 40) [slotRowscale, hk]

@[simp] theorem slotQuant_keeps {s : State} {g} {u} {a} {b} {imm} {r} (hk : Keeps kp s) :
    Keeps kp (slotQuant g u a b imm r s).st := by
  simp +contextual (maxDischargeDepth := 40) [slotQuant, hk]

end Sys2Proof.Machine
end

