-- ==== Sys2Proof/Laws/Programs.lean ====
section
/-! SUPPORT. What the functions of Machine/Programs.lean keep: the queue of waiting commands, the memory's canonical form,
and the fuses. -/

namespace Sys2Proof.Machine

open Sys2Proof

variable {kp : ToKeep}

@[simp] theorem pstoreWrite_keeps {s : State} {g} {off} {v} (hk : Keeps kp s) :
    Keeps kp (pstoreWrite g off v s).2 := by
  simp (maxDischargeDepth := 40) [pstoreWrite, hk]

@[simp] theorem progStatus_keeps {s : State} {g} {p} {st} {detail} {bundle} (hk : Keeps kp s) :
    Keeps kp (progStatus g p st detail bundle s) := by
  simp (maxDischargeDepth := 40) [progStatus, hk]

@[simp] theorem programLoad_keeps {s : State} {g} {v} (hk : Keeps kp s) :
    Keeps kp (programLoad g v s).2 := by
  unfold programLoad
  dsimp only
  (repeat' split) <;> simp (maxDischargeDepth := 40) [hk]

@[simp] theorem programUnload_keeps {s : State} {g} {v} (hk : Keeps kp s) :
    Keeps kp (programUnload g v s).2 := by
  unfold programUnload
  dsimp only
  (repeat' split) <;> simp (maxDischargeDepth := 40) [hk]

@[simp] theorem progCtrlWrite_keeps {s : State} {g} {v} (hk : Keeps kp s) :
    Keeps kp (progCtrlWrite g v s).2 := by
  simp (maxDischargeDepth := 40) [progCtrlWrite, hk]

@[simp] theorem patch_keeps {s : State} {g} {p} {f} (hk : Keeps kp s) :
    Keeps kp (patch g p f s).2 := by
  simp (maxDischargeDepth := 40) [patch, hk]

@[simp] theorem paramWrite_keeps {s : State} {g p i v} (hk : Keeps kp s) :
    Keeps kp (paramWrite g p i v s).2 := patch_keeps hk

@[simp] theorem replayCountWrite_keeps {s : State} {g p v} (hk : Keeps kp s) :
    Keeps kp (replayCountWrite g p v s).2 := patch_keeps hk

@[simp] theorem maintWrite_keeps {s : State} {g} {v} (hk : Keeps kp s) :
    Keeps kp (maintWrite g v s).2 := by
  simp (maxDischargeDepth := 40) [maintWrite, hk]

@[simp] theorem arithDebugWrite_keeps {s : State} {v} (hk : Keeps kp s) :
    Keeps kp (arithDebugWrite v s).2 := by
  simp (maxDischargeDepth := 40) [arithDebugWrite, hk]

@[simp] theorem accPeek_keeps {s : State} {v} (hk : Keeps kp s) :
    Keeps kp (accPeek v s).2 := by
  simp (maxDischargeDepth := 40) [accPeek, hk]

@[simp] theorem accPeekComplete_keeps {s : State} (hk : Keeps kp s) :
    Keeps kp (accPeekComplete s) := by
  simp (maxDischargeDepth := 40) [accPeekComplete, hk]

@[simp] theorem steerWrite_keeps {s : State} {g} {v} (hk : Keeps kp s) :
    Keeps kp (steerWrite g v s).2 := by
  simp (maxDischargeDepth := 40) [steerWrite, hk]

@[simp] theorem beginInvoc_keeps {s : State} {g} {u} {inv} {rest} (hk : Keeps kp s) :
    Keeps kp (beginInvoc g u inv rest s) := by
  simp (maxDischargeDepth := 40) [beginInvoc, hk]

@[simp] theorem invocationStart_keeps {s : State} {g} {u} (hk : Keeps kp s) :
    Keeps kp (invocationStart g u s) := by
  unfold invocationStart
  (repeat' split) <;> simp (maxDischargeDepth := 40) [hk]

@[simp] theorem loadSlot_keeps {s : State} {g} {u} {op} {a} {b} {c} {imm} {r} (hk : Keeps kp s) :
    Keeps kp (loadSlot g u op a b c imm r s).st := by
  unfold loadSlot
  (repeat' split) <;> simp (maxDischargeDepth := 40) [hk]

@[simp] theorem permSlot_keeps {s : State} {g} {u} {op} {a} {b} {c} {imm} {r} (hk : Keeps kp s) :
    Keeps kp (permSlot g u op a b c imm r s).st := by
  unfold permSlot
  (repeat' split) <;> simp (maxDischargeDepth := 40) [hk]

@[simp] theorem mathSlot_keeps {s : State} {g} {u} {op} {a} {b} {c} {imm} {r} (hk : Keeps kp s) :
    Keeps kp (mathSlot g u op a b c imm r s).st := by
  unfold mathSlot
  (repeat' split) <;> simp (maxDischargeDepth := 40) [hk]

@[simp] theorem scaleSlot_keeps {s : State} {g} {u} {op} {a} {b} {imm} {r} (hk : Keeps kp s) :
    Keeps kp (scaleSlot g u op a b imm r s).st := by
  unfold scaleSlot
  (repeat' split) <;> simp (maxDischargeDepth := 40) [hk]

@[simp] theorem metaSlot_keeps {s : State} {g} {op} {a} {b} {imm} {r} (hk : Keeps kp s) :
    Keeps kp (metaSlot g op a b imm r s).st := by
  unfold metaSlot
  (repeat' split) <;> simp (maxDischargeDepth := 40) [hk]

@[simp] theorem emitSlot_keeps {s : State} {g} {u} {op} {a} {b} {c} {imm} {r} (hk : Keeps kp s) :
    Keeps kp (emitSlot g u op a b c imm r s).st := by
  unfold emitSlot
  (repeat' split) <;> simp (maxDischargeDepth := 40) [hk]

@[simp] theorem tallySlot_keeps {s : State} {op} {a} {imm} {r} (hk : Keeps kp s) :
    Keeps kp (tallySlot op a imm r s).st := by
  unfold tallySlot
  (repeat' split) <;> simp (maxDischargeDepth := 40) [hk]

@[simp] theorem runSlot_keeps {s : State} {g} {u} {x} {r} (hk : Keeps kp s) :
    Keeps kp (runSlot g u x r s).st := by
  unfold runSlot
  (repeat' split) <;> simp (maxDischargeDepth := 40) [hk]

@[simp] theorem runSlots_keeps {s : State} {g u l cost r} (hk : Keeps kp s) :
    Keeps kp (runSlots g u l cost r s).st := by
  induction l generalizing cost r s with
  | nil => exact hk
  | cons x xs ih =>
    unfold runSlots
    dsimp only
    split
    · exact runSlot_keeps hk
    · exact ih (runSlot_keeps hk)

@[simp] theorem readWaits_keeps {s : State} {r} {slots} (hk : Keeps kp s) :
    Keeps kp (readWaits r slots s) := by
  simp +contextual (maxDischargeDepth := 40) [readWaits, hk]

@[simp] theorem waitStep_keeps {s : State} {g} {u} {r} (hk : Keeps kp s) :
    Keeps kp (waitStep g u r s) := by
  simp (maxDischargeDepth := 40) [waitStep, hk]

@[simp] theorem bundle_keeps {s0 : State} {g} {u} (hk : Keeps kp s0) :
    Keeps kp (bundle g u s0) := by
  unfold bundle
  dsimp only
  (repeat' split) <;> simp (maxDischargeDepth := 40) [hk]

@[simp] theorem sendTile_keeps {s : State} {g} {h} {off} {t} (hk : Keeps kp s) :
    Keeps kp (sendTile g h off t s) := by
  simp (maxDischargeDepth := 40) [sendTile, hk]

@[simp] theorem sendPlaced_keeps {s0 : State} {g} {u} {route} {t} (hk : Keeps kp s0) :
    Keeps kp (sendPlaced g u route t s0) := by
  simp (maxDischargeDepth := 40) [sendPlaced, hk]

@[simp] theorem writeTile_keeps {s : State} {g} {u} {tag} {off} {t} (hk : Keeps kp s) :
    Keeps kp (writeTile g u tag off t s) := by
  simp (maxDischargeDepth := 40) [writeTile, hk]

@[simp] theorem issueEmit_keeps {s : State} {g} {u} {tag} {e} (hk : Keeps kp s) :
    Keeps kp (issueEmit g u tag s e) := by
  unfold issueEmit
  dsimp only
  (repeat' split) <;> simp (maxDischargeDepth := 40) [hk]

@[simp] theorem handNext_keeps {s : State} {g} {u} {stamp} {step} {d} {h} (hk : Keeps kp s) :
    Keeps kp (handNext g u stamp step d s h) := by
  unfold handNext
  (repeat' split) <;> simp (maxDischargeDepth := 40) [hk]

@[simp] theorem releaseTaken_keeps {s : State} {g} {u} {r} {nexts} (hk : Keeps kp s) :
    Keeps kp (releaseTaken g u r nexts s) := by
  simp +contextual (maxDischargeDepth := 40) [releaseTaken, hk]

@[simp] theorem commitRun_keeps {s : State} {g} {u} {r} (hk : Keeps kp s) :
    Keeps kp (commitRun g u r s) := by
  unfold commitRun
  dsimp only
  (repeat' split) <;> simp +contextual (maxDischargeDepth := 40) [hk]

@[simp] theorem commitRound_keeps {s : State} {g} {stamp} {d} (hk : Keeps kp s) :
    Keeps kp (commitRound g stamp d s).2 := by
  simp (maxDischargeDepth := 40) [commitRound, hk]

@[simp] theorem commitInto_keeps {s : State} {g} {u} {r} {d} {n} (hk : Keeps kp s) :
    Keeps kp (commitInto g u r d n s) := by
  simp (maxDischargeDepth := 40) [commitInto, hk]

@[simp] theorem commitOut_keeps {s : State} {g} {u} {r} (hk : Keeps kp s) :
    Keeps kp (commitOut g u r s) := by
  simp (maxDischargeDepth := 40) [commitOut, hk]

@[simp] theorem invocationCommit_keeps {s : State} {g} {u} (hk : Keeps kp s) :
    Keeps kp (invocationCommit g u s) := by
  unfold invocationCommit
  dsimp only
  (repeat' split) <;> simp (maxDischargeDepth := 40) [hk]

end Sys2Proof.Machine
end

