-- ==== Sys2Proof/Laws/Cord.lean ====
section
/-! SUPPORT. What the functions of Machine/Cord.lean keep: the queue of waiting commands, the memory's canonical form,
and the fuses. -/

namespace Sys2Proof.Machine

open Sys2Proof

variable {kp : ToKeep}

@[simp] theorem cordStage_keeps {s : State} {off} {v} (hk : Keeps kp s) :
    Keeps kp (cordStage off v s).2 := by
  simp (maxDischargeDepth := 40) [cordStage, hk]

@[simp] theorem showFail_keeps {s : State} {e} (hk : Keeps kp s) :
    Keeps kp (showFail e s) := by
  simp (maxDischargeDepth := 40) [showFail, hk]

@[simp] theorem showOk_keeps {s : State} (hk : Keeps kp s) :
    Keeps kp (showOk s) := by
  simp (maxDischargeDepth := 40) [showOk, hk]

@[simp] theorem cordVerify_keeps {s : State} (hk : Keeps kp s) :
    Keeps kp (cordVerify s).2 := by
  unfold cordVerify
  (repeat' split) <;> simp (maxDischargeDepth := 40) [hk]

@[simp] theorem cordLoad_keeps {s : State} (hk : Keeps kp s) :
    Keeps kp (cordLoad s).2 := by
  unfold cordLoad
  dsimp only
  (repeat' split) <;> simp (maxDischargeDepth := 40) [hk]

@[simp] theorem cordCtrlWrite_keeps {s : State} {v} (hk : Keeps kp s) :
    Keeps kp (cordCtrlWrite v s).2 := by
  simp (maxDischargeDepth := 40) [cordCtrlWrite, hk]

@[simp] theorem emptyOutputs_keeps {s : State} (hk : Keeps kp s) :
    Keeps kp (emptyOutputs s) := by
  simp +contextual (maxDischargeDepth := 40) [emptyOutputs, hk]

@[simp] theorem freeAllBuffers_keeps {s : State} (hk : Keeps kp s) :
    Keeps kp (freeAllBuffers s) := by
  simp +contextual (maxDischargeDepth := 40) [freeAllBuffers, hk]

@[simp] theorem zeroLocal_keeps {s : State} {g} (hk : Keeps kp s) :
    Keeps kp (zeroLocal g s) := by
  simp (maxDischargeDepth := 40) [zeroLocal, hk]

@[simp] theorem clearSlots_keeps {s : State} (hk : Keeps kp s) :
    Keeps kp (clearSlots s) := by
  simp (maxDischargeDepth := 40) [clearSlots, hk]

@[simp] theorem clearTables_keeps {s : State} (hk : Keeps kp s) :
    Keeps kp (clearTables s) := by
  simp (maxDischargeDepth := 40) [clearTables, hk]

@[simp] theorem resizeTables_keeps {s : State} {old} {new_} (hk : Keeps kp s) :
    Keeps kp (resizeTables old new_ s) := by
  simp +contextual (maxDischargeDepth := 40) [resizeTables, hk]

@[simp] theorem resetPorts_keeps {s : State} {new_} (hk : Keeps kp s) :
    Keeps kp (resetPorts new_ s) := by
  simp +contextual (maxDischargeDepth := 40) [resetPorts, hk]

@[simp] theorem resetShape_keeps {s : State} {old} {new_} {g} (hk : Keeps kp s) :
    Keeps kp (resetShape old new_ s g) := by
  simp +contextual (maxDischargeDepth := 40) [resetShape, hk]

@[simp] theorem stopTimer_keeps {s : State} {r} (hk : Keeps kp s) :
    Keeps kp (stopTimer r s) := by
  unfold stopTimer
  (repeat' split) <;> simp (maxDischargeDepth := 40) [hk]

@[simp] theorem timerOn_keeps {s : State} {c} (hk : Keeps kp s) :
    Keeps kp (timerOn c s) := by
  simp (maxDischargeDepth := 40) [timerOn, hk]

@[simp] theorem replaceBindings_keeps {s : State} {c} (hk : Keeps kp s) :
    Keeps kp (replaceBindings c s) := by
  simp +contextual (maxDischargeDepth := 40) [replaceBindings, hk]

@[simp] theorem logUnknown_keeps {s : State} {img} (hk : Keeps kp s) :
    Keeps kp (logUnknown img s) := by
  simp +contextual (maxDischargeDepth := 40) [logUnknown, hk]

@[simp] theorem applyCord_keeps {s : State} {img} {c} (hk : Keeps kp s) :
    Keeps kp (applyCord img c s) := by
  simp +contextual (maxDischargeDepth := 40) [applyCord, hk]

@[simp] theorem reapplyCord_keeps {s : State} (hk : Keeps kp s) :
    Keeps kp (reapplyCord s) := by
  simp (maxDischargeDepth := 40) [reapplyCord, hk]

@[simp] theorem cordApply_keeps {s : State} (hk : Keeps kp s) :
    Keeps kp (cordApply s) := by
  unfold cordApply
  (repeat' split) <;> simp (maxDischargeDepth := 40) [hk]

@[simp] theorem bindReq_keeps {s : State} {v} (hk : Keeps kp s) :
    Keeps kp (bindReq v s).2 := by
  simp (maxDischargeDepth := 40) [bindReq, hk]

@[simp] theorem unbindReq_keeps {s : State} {v} (hk : Keeps kp s) :
    Keeps kp (unbindReq v s).2 := by
  unfold unbindReq
  dsimp only
  (repeat' split) <;> simp (maxDischargeDepth := 40) [hk]

@[simp] theorem cordBindWrite_keeps {s : State} {v} (hk : Keeps kp s) :
    Keeps kp (cordBindWrite v s).2 := by
  simp (maxDischargeDepth := 40) [cordBindWrite, hk]

@[simp] theorem floorWrite_keeps {s : State} {v} (hk : Keeps kp s) :
    Keeps kp (floorWrite v s).2 := by
  simp (maxDischargeDepth := 40) [floorWrite, hk]

end Sys2Proof.Machine
end

