-- ==== Sys2Proof/Laws/Power.lean ====
section
/-! SUPPORT. What the functions of Machine/Power.lean keep: the queue of waiting commands, the memory's canonical form,
and the fuses. -/

namespace Sys2Proof.Machine

open Sys2Proof

variable {kp : ToKeep}

@[simp] theorem coreOff_keeps {s : State} (hk : Keeps kp s) :
    Keeps kp (coreOff s) := by
  simp (maxDischargeDepth := 40) [coreOff, hk]

@[simp] theorem coldReset_keeps {s : State} (hk : Keeps kp s) :
    Keeps kp (coldReset s) := by
  simp (maxDischargeDepth := 40) [coldReset, hk]

@[simp] theorem beginRemoval_keeps {s : State} (hk : Keeps kp s) :
    Keeps kp (beginRemoval s) := by
  simp (maxDischargeDepth := 40) [beginRemoval, hk]

@[simp] theorem sendVid_keeps {s : State} {c} (hk : Keeps kp s) :
    Keeps kp (sendVid c s) := by
  simp (maxDischargeDepth := 40) [sendVid, hk]

@[simp] theorem railEnableNext_keeps {s : State} (hk : Keeps kp s) :
    Keeps kp (railEnableNext s) := by
  unfold railEnableNext
  (repeat' split) <;> simp (maxDischargeDepth := 40) [hk]

@[simp] theorem railDisableNext_keeps {s : State} (hk : Keeps kp s) :
    Keeps kp (railDisableNext s) := by
  simp (maxDischargeDepth := 40) [railDisableNext, hk]

@[simp] theorem logStartFail_keeps {s : State} {cause} (hk : Keeps kp s) :
    Keeps kp (logStartFail cause s) := by
  simp (maxDischargeDepth := 40) [logStartFail, hk]

@[simp] theorem startFails_keeps {s : State} {cause} (hk : Keeps kp s) :
    Keeps kp (startFails cause s) := by
  simp (maxDischargeDepth := 40) [startFails, hk]

@[simp] theorem coldFrom_keeps {s : State} {fallback} (hk : Keeps kp s) :
    Keeps kp (coldFrom fallback s) := by
  simp (maxDischargeDepth := 40) [coldFrom, hk]

@[simp] theorem fallBack_keeps {s : State} {cause} (hk : Keeps kp s) :
    Keeps kp (fallBack cause s) := by
  simp (maxDischargeDepth := 40) [fallBack, hk]

@[simp] theorem stepFails_keeps {s : State} {cause} (hk : Keeps kp s) :
    Keeps kp (stepFails cause s) := by
  simp (maxDischargeDepth := 40) [stepFails, hk]

@[simp] theorem bringUpAll_keeps {s : State} (hk : Keeps kp s) :
    Keeps kp (bringUpAll s) := by
  simp +contextual (maxDischargeDepth := 40) [bringUpAll, hk]

@[simp] theorem zeroCounters_keeps {s : State} (hk : Keeps kp s) :
    Keeps kp (zeroCounters s) := by
  simp (maxDischargeDepth := 40) [zeroCounters, hk]

@[simp] theorem startEnds_keeps {s : State} {kind} {ms} (hk : Keeps kp s) :
    Keeps kp (startEnds kind ms s) := by
  simp (maxDischargeDepth := 40) [startEnds, hk]

@[simp] theorem runFirmware_keeps {s : State} (hk : Keeps kp s) :
    Keeps kp (runFirmware s) := by
  simp (maxDischargeDepth := 40) [runFirmware, hk]

@[simp] theorem enterRecovery_keeps {s : State} (hk : Keeps kp s) :
    Keeps kp (enterRecovery s) := by
  simp (maxDischargeDepth := 40) [enterRecovery, hk]

@[simp] theorem ddrTrained_keeps {s : State} {r} (hk : Keeps kp s) :
    Keeps kp (ddrTrained r s) := by
  simp (maxDischargeDepth := 40) [ddrTrained, hk]

@[simp] theorem hostLanesTested_keeps {s : State} {r} (hk : Keeps kp s) :
    Keeps kp (hostLanesTested r s) := by
  simp (maxDischargeDepth := 40) [hostLanesTested, hk]

@[simp] theorem nextStep_keeps {s : State} (hk : Keeps kp s) :
    Keeps kp (nextStep s) := by
  simp (maxDischargeDepth := 40) [nextStep, hk]

@[simp] theorem coldStep_keeps {s : State} {r} (hk : Keeps kp s) :
    Keeps kp (coldStep r s) := by
  simp (maxDischargeDepth := 40) [coldStep, hk]

@[simp] theorem restartStep_keeps {s : State} {r} (hk : Keeps kp s) :
    Keeps kp (restartStep r s) := by
  simp (maxDischargeDepth := 40) [restartStep, hk]

@[simp] theorem startStepComplete_keeps {s : State} {r} (hk : Keeps kp s) :
    Keeps kp (startStepComplete r s) := by
  simp (maxDischargeDepth := 40) [startStepComplete, hk]

@[simp] theorem powerCmd_keeps {s : State} {n op} (hk : Keeps kp s) (ho : Keeps kp (op s).2) :
    Keeps kp (powerCmd n op s).2 := by
  simp (maxDischargeDepth := 40) [powerCmd, ho]

@[simp] theorem cmdOff_keeps {s : State} (hk : Keeps kp s) :
    Keeps kp (cmdOff s).2 := by
  simp (maxDischargeDepth := 40) [cmdOff, hk]

@[simp] theorem cmdCold_keeps {s : State} (hk : Keeps kp s) :
    Keeps kp (cmdCold s).2 := by
  simp (maxDischargeDepth := 40) [cmdCold, hk]

@[simp] theorem closeAll_keeps {s : State} (hk : Keeps kp s) :
    Keeps kp (closeAll s) := by
  simp (maxDischargeDepth := 40) [closeAll, hk]

@[simp] theorem cmdBank_keeps {s : State} (hk : Keeps kp s) :
    Keeps kp (cmdBank s).2 := by
  simp (maxDischargeDepth := 40) [cmdBank, hk]

@[simp] theorem bankCloses_keeps {s : State} (hk : Keeps kp s) :
    Keeps kp (bankCloses s) := by
  simp +contextual (maxDischargeDepth := 40) [bankCloses, hk]

@[simp] theorem bankedEntry_keeps {s : State} (hk : Keeps kp s) :
    Keeps kp (bankedEntry s) := by
  simp (maxDischargeDepth := 40) [bankedEntry, hk]

@[simp] theorem restartEmpties_keeps {s : State} (hk : Keeps kp s) :
    Keeps kp (restartEmpties s) := by
  simp +contextual (maxDischargeDepth := 40) [restartEmpties, hk]

@[simp] theorem cmdRestart_keeps {s : State} (hk : Keeps kp s) :
    Keeps kp (cmdRestart s).2 := by
  simp (maxDischargeDepth := 40) [cmdRestart, hk]

@[simp] theorem cmdIdle_keeps {s : State} (hk : Keeps kp s) :
    Keeps kp (cmdIdle s).2 := by
  unfold cmdIdle
  (repeat' split) <;> simp (maxDischargeDepth := 40) [hk]

@[simp] theorem cmdActive_keeps {s : State} (hk : Keeps kp s) :
    Keeps kp (cmdActive s).2 := by
  unfold cmdActive
  (repeat' split) <;> simp (maxDischargeDepth := 40) [hk]

@[simp] theorem cmdBlaze_keeps {s : State} (hk : Keeps kp s) :
    Keeps kp (cmdBlaze s).2 := by
  unfold cmdBlaze
  (repeat' split) <;> simp (maxDischargeDepth := 40) [hk]

@[simp] theorem stateCmdWrite_keeps {s : State} {v} (hk : Keeps kp s) :
    Keeps kp (stateCmdWrite v s).2 := by
  unfold stateCmdWrite
  (repeat' split) <;> simp (maxDischargeDepth := 40) [hk]

@[simp] theorem vsetWrite_keeps {s : State} {v} (hk : Keeps kp s) :
    Keeps kp (vsetWrite v s).2 := by
  simp (maxDischargeDepth := 40) [vsetWrite, hk]

@[simp] theorem vidStep_keeps {s : State} (hk : Keeps kp s) :
    Keeps kp (vidStep s) := by
  unfold vidStep
  dsimp only
  (repeat' split) <;> simp (maxDischargeDepth := 40) [hk]

@[simp] theorem groupGateWrite_keeps {s : State} {v} (hk : Keeps kp s) :
    Keeps kp (groupGateWrite v s).2 := by
  simp (maxDischargeDepth := 40) [groupGateWrite, hk]

@[simp] theorem undoLoss_keeps {s : State} (hk : Keeps kp s) :
    Keeps kp (undoLoss s) := by
  unfold undoLoss
  (repeat' split) <;> simp (maxDischargeDepth := 40) [hk]

@[simp] theorem protectiveHalt_keeps {s0 : State} {cause} (hk : Keeps kp s0) :
    Keeps kp (protectiveHalt cause s0) := by
  simp (maxDischargeDepth := 40) [protectiveHalt, hk]

@[simp] theorem blazeLife_keeps {s : State} (hk : Keeps kp s) :
    Keeps kp (blazeLife s) := by
  simp (maxDischargeDepth := 40) [blazeLife, hk]

@[simp] theorem blazeMarks_keeps {s : State} {old} {u} (hk : Keeps kp s) :
    Keeps kp (blazeMarks old u s) := by
  simp (maxDischargeDepth := 40) [blazeMarks, hk]

@[simp] theorem blazeTick_keeps {s : State} (hk : Keeps kp s) :
    Keeps kp (blazeTick s) := by
  simp (maxDischargeDepth := 40) [blazeTick, hk]

@[simp] theorem blazePersist_keeps {s : State} (hk : Keeps kp s) :
    Keeps kp (blazePersist s) := by
  simp (maxDischargeDepth := 40) [blazePersist, hk]

@[simp] theorem logSensors_keeps {s : State} {samples} (hk : Keeps kp s) :
    Keeps kp (logSensors samples s) := by
  simp +contextual (maxDischargeDepth := 40) [logSensors, hk]

@[simp] theorem thermWarn_keeps {s : State} {tj} (hk : Keeps kp s) :
    Keeps kp (thermWarn tj s) := by
  simp (maxDischargeDepth := 40) [thermWarn, hk]

@[simp] theorem sensorSample_keeps {s : State} {samples} (hk : Keeps kp s) :
    Keeps kp (sensorSample samples s) := by
  unfold sensorSample
  dsimp only
  (repeat' split) <;> simp (maxDischargeDepth := 40) [hk]

@[simp] theorem powerGoodLost_keeps {s : State} {r} (hk : Keeps kp s) :
    Keeps kp (powerGoodLost r s) := by
  simp (maxDischargeDepth := 40) [powerGoodLost, hk]

@[simp] theorem porstLow_keeps {s : State} (hk : Keeps kp s) :
    Keeps kp (porstLow s) := by
  simp (maxDischargeDepth := 40) [porstLow, hk]

@[simp] theorem powerApplied_keeps {s : State} (hk : Keeps kp s) :
    Keeps kp (powerApplied s) := by
  simp (maxDischargeDepth := 40) [powerApplied, hk]

end Sys2Proof.Machine
end

