-- ==== Sys2Proof/Laws/Mss.lean ====
section
/-! SUPPORT. What the functions of Machine/Mss.lean keep: the queue of waiting commands, the memory's canonical form,
and the fuses. -/

namespace Sys2Proof.Machine

open Sys2Proof

variable {kp : ToKeep}

@[simp] theorem smbusSelect_keeps {s : State} {w} {pec} (hk : Keeps kp s) :
    Keeps kp (smbusSelect w pec s) := by
  simp (maxDischargeDepth := 40) [smbusSelect, hk]

@[simp] theorem smbusRead_keeps {s : State} (hk : Keeps kp s) :
    Keeps kp (smbusRead s) := by
  unfold smbusRead
  (repeat' split) <;> simp (maxDischargeDepth := 40) [hk]

@[simp] theorem logPersist_keeps {s : State} {r} (hk : Keeps kp s) :
    Keeps kp (logPersist r s).2 := by
  simp (maxDischargeDepth := 40) [logPersist, hk]

@[simp] theorem logMove_keeps {s : State} (hk : Keeps kp s) :
    Keeps kp (logMove s) := by
  unfold logMove
  (repeat' split) <;> simp (maxDischargeDepth := 40) [hk]

@[simp] theorem logSealed_keeps {s : State} (hk : Keeps kp s) :
    Keeps kp (logSealed s) := by
  unfold logSealed
  (repeat' split) <;> simp (maxDischargeDepth := 40) [hk]

@[simp] theorem logPersistWrite_keeps {s : State} (hk : Keeps kp s) :
    Keeps kp (logPersistWrite s) := by
  simp (maxDischargeDepth := 40) [logPersistWrite, hk]

@[simp] theorem logSelect_keeps {s : State} {v} (hk : Keeps kp s) :
    Keeps kp (logSelect v s).2 := by
  unfold logSelect
  dsimp only
  (repeat' split) <;> simp (maxDischargeDepth := 40) [hk]

@[simp] theorem updShow_keeps {s : State} {st} {detail} (hk : Keeps kp s) :
    Keeps kp (updShow st detail s).2 := by
  simp (maxDischargeDepth := 40) [updShow, hk]

@[simp] theorem updBegin_keeps {s : State} {v} (hk : Keeps kp s) :
    Keeps kp (updBegin v s).2 := by
  simp (maxDischargeDepth := 40) [updBegin, hk]

@[simp] theorem updFail_keeps {s : State} {st} {detail} (hk : Keeps kp s) :
    Keeps kp (updFail st detail s).2 := by
  simp (maxDischargeDepth := 40) [updFail, hk]

@[simp] theorem updCommit_keeps {s : State} (hk : Keeps kp s) :
    Keeps kp (updCommit s).2 := by
  unfold updCommit
  (repeat' split) <;> simp (maxDischargeDepth := 40) [hk]

@[simp] theorem sealWaiting_keeps {s : State} (hk : Keeps kp s) : Keeps kp (sealWaiting s) := by
  unfold sealWaiting
  split
  · exact writeCopy_keeps (keepsBy_of hk)
  · exact hk

@[simp] theorem updProgrammed_keeps {s : State} {ok} (hk : Keeps kp s) :
    Keeps kp (updProgrammed ok s) := by
  simp (maxDischargeDepth := 40) [updProgrammed, hk]

@[simp] theorem updAbort_keeps {s : State} (hk : Keeps kp s) :
    Keeps kp (updAbort s).2 := by
  simp (maxDischargeDepth := 40) [updAbort, hk]

@[simp] theorem svnCommit_keeps {s : State} (hk : Keeps kp s) : Keeps kp (svnCommit s).2 := by
  unfold svnCommit
  split
  · simp [hk]
  · exact updShow_keeps ⟨{ hk.by_ with floor := Nat.le_trans hk.by_.floor (Nat.le_max_left ..) }⟩

@[simp] theorem revokeSlot_keeps {s : State} {n} (hk : Keeps kp s) : Keeps kp (revokeSlot n s).2 := by
  unfold revokeSlot
  dsimp only
  (repeat' split)
  · simp [hk]
  · simp [hk]
  · simp [hk]
  · refine updShow_keeps ⟨{ hk.by_ with revoked := ?_ }⟩
    have h := hk.by_.revoked
    rw [BitVec.and_or_distrib_left, h]
    ext i hi
    simp only [BitVec.getElem_or, BitVec.getElem_and]
    cases kp.revoked[i] <;> simp

@[simp] theorem updCtrlWrite_keeps {s : State} {v} (hk : Keeps kp s) :
    Keeps kp (updCtrlWrite v s).2 := by
  unfold updCtrlWrite
  (repeat' split) <;> simp (maxDischargeDepth := 40) [hk]

@[simp] theorem bulkStore_keeps {s : State} {stream} {off} {data} (hk : Keeps kp s) :
    Keeps kp (bulkStore stream off data s) := by
  simp (maxDischargeDepth := 40) [bulkStore, hk]

end Sys2Proof.Machine
end

