-- ==== Sys2Proof/Laws/Hop.lean ====
section
/-! SUPPORT. What the functions of Machine/Hop.lean keep: the queue of waiting commands, the memory's canonical form,
and the fuses. -/

namespace Sys2Proof.Machine

open Sys2Proof

variable {kp : ToKeep}

@[simp] theorem setHop_keeps {s : State} {h} {x} (hk : Keeps kp s) :
    Keeps kp (setHop h x s) := by
  unfold setHop
  (repeat' split) <;> simp (maxDischargeDepth := 40) [hk]

@[simp] theorem modHop_keeps {s : State} {h} {f} (hk : Keeps kp s) :
    Keeps kp (modHop h f s) := by
  simp (maxDischargeDepth := 40) [modHop, hk]

@[simp] theorem emitPkt_keeps {s : State} {h} {p} (hk : Keeps kp s) :
    Keeps kp (emitPkt h p s) := by
  simp (maxDischargeDepth := 40) [emitPkt, hk]

@[simp] theorem dnDown_keeps {s : State} (hk : Keeps kp s) :
    Keeps kp (dnDown s) := by
  simp (maxDischargeDepth := 40) [dnDown, hk]

@[simp] theorem upDown_keeps {s : State} (hk : Keeps kp s) :
    Keeps kp (upDown s) := by
  simp (maxDischargeDepth := 40) [upDown, hk]

@[simp] theorem hopDown_keeps {s : State} {h} (hk : Keeps kp s) :
    Keeps kp (hopDown h s) := by
  unfold hopDown
  (repeat' split) <;> simp (maxDischargeDepth := 40) [hk]

@[simp] theorem hopSigned_keeps {s : State} {h} {loss} (hk : Keeps kp s) :
    Keeps kp (hopSigned h loss s) := by
  simp (maxDischargeDepth := 40) [hopSigned, hk]

@[simp] theorem helloDone_keeps {s : State} {h} (hk : Keeps kp s) :
    Keeps kp (helloDone h s) := by
  unfold helloDone
  dsimp only
  (repeat' split) <;> simp (maxDischargeDepth := 40) [hk]

@[simp] theorem sendHello_keeps {s : State} {h} (hk : Keeps kp s) :
    Keeps kp (sendHello h s) := by
  simp (maxDischargeDepth := 40) [sendHello, hk]

@[simp] theorem hopTrained_keeps {s : State} {h} {loss} (hk : Keeps kp s) :
    Keeps kp (hopTrained h loss s) := by
  simp (maxDischargeDepth := 40) [hopTrained, hk]

@[simp] theorem hopSend_keeps {s : State} {h} {p} (hk : Keeps kp s) :
    Keeps kp (hopSend h p s) := by
  simp (maxDischargeDepth := 40) [hopSend, hk]

@[simp] theorem refillTallies_keeps {s : State} (hk : Keeps kp s) :
    Keeps kp (refillTallies s) := by
  simp +contextual (maxDischargeDepth := 40) [refillTallies, hk]

@[simp] theorem refillHeld_keeps {s : State} (hk : Keeps kp s) : Keeps kp (refillHeld s) := by
  unfold refillHeld
  refine foldOver_keeps (foldOver_keeps hk fun s g hs => foldOver_keeps ?_ fun s u hu => ?_) fun s c hs => ?_
  · split
    · dsimp only
      split <;> simp (maxDischargeDepth := 40) [hs]
    · exact hs
  · split
    · dsimp only
      split <;> simp (maxDischargeDepth := 40) [hu]
    · exact hu
  · dsimp only
    split <;> simp (maxDischargeDepth := 40) [hs]

@[simp] theorem handCpl_keeps {s : State} (hk : Keeps kp s) :
    Keeps kp (handCpl s) := by
  simp (maxDischargeDepth := 40) [handCpl, hk]

@[simp] theorem hopTurn_keeps {s : State} {h} {t} (hk : Keeps kp s) :
    Keeps kp (hopTurn h t s) := by
  unfold hopTurn
  (repeat' split) <;> simp (maxDischargeDepth := 40) [hk]

@[simp] theorem hopDrain_keeps {s : State} {h n} (hk : Keeps kp s) : Keeps kp (hopDrain h n s) := by
  induction n generalizing s with
  | zero => exact hk
  | succ n ih =>
    unfold hopDrain
    split
    · exact hk
    · split
      · exact hk
      · exact ih (hopTurn_keeps hk)

@[simp] theorem hopFlush_keeps {s : State} {h} (hk : Keeps kp s) :
    Keeps kp (hopFlush h s) := by
  simp (maxDischargeDepth := 40) [hopFlush, hk]

@[simp] theorem sendOwn_keeps {s : State} {p} (hk : Keeps kp s) :
    Keeps kp (sendOwn p s) := by
  simp (maxDischargeDepth := 40) [sendOwn, hk]

@[simp] theorem sendCpl_keeps {s : State} (hk : Keeps kp s) :
    Keeps kp (sendCpl s) := by
  simp (maxDischargeDepth := 40) [sendCpl, hk]

@[simp] theorem forwardOn_keeps {s : State} {h} {p} (hk : Keeps kp s) :
    Keeps kp (forwardOn h p s) := by
  simp (maxDischargeDepth := 40) [forwardOn, hk]

@[simp] theorem hopAck_keeps {s : State} {h} {q} (hk : Keeps kp s) :
    Keeps kp (hopAck h q s) := by
  unfold hopAck
  (repeat' split) <;> simp (maxDischargeDepth := 40) [hk]

@[simp] theorem hopResend_keeps {s : State} {h} {l} (hk : Keeps kp s) :
    Keeps kp (hopResend h l s) := by
  simp +contextual (maxDischargeDepth := 40) [hopResend, hk]

@[simp] theorem hopNak_keeps {s : State} {h} {q} (hk : Keeps kp s) :
    Keeps kp (hopNak h q s) := by
  unfold hopNak
  (repeat' split) <;> simp (maxDischargeDepth := 40) [hk]

@[simp] theorem hopTimeout_keeps {s : State} {h} (hk : Keeps kp s) :
    Keeps kp (hopTimeout h s) := by
  simp (maxDischargeDepth := 40) [hopTimeout, hk]

@[simp] theorem pktMalformed_keeps {s : State} {p} (hk : Keeps kp s) :
    Keeps kp (pktMalformed p s) := by
  simp (maxDischargeDepth := 40) [pktMalformed, hk]

@[simp] theorem hopHeard_keeps {s : State} {h} (hk : Keeps kp s) :
    Keeps kp (hopHeard h s) := by
  unfold hopHeard
  (repeat' split) <;> simp (maxDischargeDepth := 40) [hk]

@[simp] theorem sendLinkAck_keeps {s : State} {h} (hk : Keeps kp s) :
    Keeps kp (sendLinkAck h s) := by
  simp (maxDischargeDepth := 40) [sendLinkAck, hk]

@[simp] theorem sendLinkNak_keeps {s : State} {h} (hk : Keeps kp s) :
    Keeps kp (sendLinkNak h s) := by
  simp (maxDischargeDepth := 40) [sendLinkNak, hk]

@[simp] theorem received_keeps {s : State} {h b op} (hk : Keeps kp s) (ho : ∀ p, Keeps kp (op p s)) :
    Keeps kp (received h b op s) := by
  unfold received
  (repeat' split) <;> simp [hk, ho]

@[simp] theorem oneHopPacket_keeps {s : State} {h p op} (hk : Keeps kp s) (ho : ∀ s, Keeps kp s → Keeps kp (op s)) :
    Keeps kp (oneHopPacket h p op s) := by
  unfold oneHopPacket
  (repeat' split) <;> simp [hk, ho]

@[simp] theorem helloPkt_keeps {s : State} {h p} (hk : Keeps kp s) : Keeps kp (helloPkt h p s) := by
  unfold helloPkt
  split
  · refine oneHopPacket_keeps hk fun s hs => ?_
    dsimp only
    split <;> simp [hs]
  · exact hk

@[simp] theorem linkPkt_keeps {s : State} {h kind op p} (hk : Keeps kp s)
    (ho : ∀ q s, Keeps kp s → Keeps kp (op h q s)) : Keeps kp (linkPkt h kind op p s) := by
  unfold linkPkt
  split
  · exact oneHopPacket_keeps hk fun s hs => ho _ _ hs
  · exact hk

@[simp] theorem hopOutOfTurn_keeps {s : State} {h} {hseq} (hk : Keeps kp s) :
    Keeps kp (hopOutOfTurn h hseq s) := by
  simp (maxDischargeDepth := 40) [hopOutOfTurn, hk]

@[simp] theorem hopAccept_keeps {s : State} {h} (hk : Keeps kp s) :
    Keeps kp (hopAccept h s) := by
  simp (maxDischargeDepth := 40) [hopAccept, hk]

@[simp] theorem hopReceive_keeps {s : State} {h hseq op} (hk : Keeps kp s)
    (ho : ∀ s, Keeps kp s → Keeps kp (op s)) : Keeps kp (hopReceive h hseq op s) := by
  unfold hopReceive
  dsimp only
  (repeat' split) <;> simp (maxDischargeDepth := 40) [hk, ho]

@[simp] theorem hopAstray_keeps {s : State} {h} {p} (hk : Keeps kp s) :
    Keeps kp (hopAstray h p s) := by
  simp (maxDischargeDepth := 40) [hopAstray, hk]

@[simp] theorem enumReply_keeps {s : State} {p} (hk : Keeps kp s) :
    Keeps kp (enumReply p s) := by
  simp (maxDischargeDepth := 40) [enumReply, hk]

@[simp] theorem enumPkt_keeps {s : State} {p} (hk : Keeps kp s) :
    Keeps kp (enumPkt p s) := by
  simp (maxDischargeDepth := 40) [enumPkt, hk]

@[simp] theorem routeDown_keeps {s : State} {p} (hk : Keeps kp s) :
    Keeps kp (routeDown p s) := by
  simp (maxDischargeDepth := 40) [routeDown, hk]

@[simp] theorem routeUp_keeps {s : State} {p} (hk : Keeps kp s) :
    Keeps kp (routeUp p s) := by
  simp (maxDischargeDepth := 40) [routeUp, hk]

@[simp] theorem handleHere_keeps {s : State} {p op} (hk : Keeps kp s)
    (ho : ∀ s, Keeps kp s → Keeps kp (op s)) : Keeps kp (handleHere p op s) := by
  unfold handleHere
  (repeat' split) <;> simp [hk, ho]

@[simp] theorem upPacket_keeps {s : State} {ty op p} (hk : Keeps kp s)
    (ho : ∀ s, Keeps kp s → Keeps kp (op p s)) : Keeps kp (upPacket ty op p s) := by
  unfold upPacket
  split
  · exact hk
  · refine hopReceive_keeps hk fun s hs => ?_
    split
    · exact handleHere_keeps hs ho
    · exact routeDown_keeps hs

@[simp] theorem forwardPkt_keeps {s : State} {h} {p} (hk : Keeps kp s) :
    Keeps kp (forwardPkt h p s) := by
  unfold forwardPkt
  (repeat' split) <;> simp +contextual (maxDischargeDepth := 40) [hk]

@[simp] theorem malformedPkt_keeps {s : State} {h p} (hk : Keeps kp s) : Keeps kp (malformedPkt h p s) := by
  unfold malformedPkt
  (repeat' split) <;> try exact hk
  · exact oneHopPacket_keeps hk fun _ h => h
  · exact hopReceive_keeps hk fun _ hs => pktMalformed_keeps hs

end Sys2Proof.Machine
end

