-- ==== Sys2Proof/Laws/Spdm.lean ====
section
/-! SUPPORT. What the functions of Machine/Spdm.lean keep: the queue of waiting commands, the memory's canonical form,
and the fuses. -/

namespace Sys2Proof.Machine

open Sys2Proof

variable {kp : ToKeep}

@[simp] theorem noteRsp_keeps {s : State} {r} (hk : Keeps kp s) :
    Keeps kp (noteRsp r s) := by
  simp (maxDischargeDepth := 40) [noteRsp, hk]

@[simp] theorem sendRsp_keeps {s : State} {r} (hk : Keeps kp s) :
    Keeps kp (sendRsp r s) := by
  simp (maxDischargeDepth := 40) [sendRsp, hk]

@[simp] theorem spdmReply_keeps {s : State} {r} (hk : Keeps kp s) :
    Keeps kp (spdmReply r s) := by
  simp (maxDischargeDepth := 40) [spdmReply, hk]

@[simp] theorem spdmRequest_keeps {s : State} {needs fields op} (hk : Keeps kp s)
    (ho : ∀ s, Keeps kp s → Keeps kp (op s)) : Keeps kp (spdmRequest needs fields op s) := by
  unfold spdmRequest
  split
  · exact spdmReply_keeps hk
  · exact ho _ (by simp [hk])

@[simp] theorem spdmPacket_keeps {s : State} {op} (hk : Keeps kp s)
    (ho : ∀ s, Keeps kp s → Keeps kp (op s)) : Keeps kp (spdmPacket op s) := by
  unfold spdmPacket
  refine hopReceive_keeps hk fun s hs => ?_
  split
  · exact badDst_keeps hs
  · exact ho s hs

@[simp] theorem spdmVersion_keeps {s : State} (hk : Keeps kp s) :
    Keeps kp (spdmVersion s) := by
  simp +contextual (maxDischargeDepth := 40) [spdmVersion, hk]

@[simp] theorem spdmCapabilities_keeps {s : State} (hk : Keeps kp s) :
    Keeps kp (spdmCapabilities s) := by
  simp +contextual (maxDischargeDepth := 40) [spdmCapabilities, hk]

@[simp] theorem spdmAlgorithms_keeps {s : State} (hk : Keeps kp s) :
    Keeps kp (spdmAlgorithms s) := by
  simp +contextual (maxDischargeDepth := 40) [spdmAlgorithms, hk]

@[simp] theorem spdmDigests_keeps {s : State} (hk : Keeps kp s) :
    Keeps kp (spdmDigests s) := by
  simp +contextual (maxDischargeDepth := 40) [spdmDigests, hk]

@[simp] theorem spdmCertificate_keeps {s : State} {slot} {off} {len} (hk : Keeps kp s) :
    Keeps kp (spdmCertificate slot off len s) := by
  simp +contextual (maxDischargeDepth := 40) [spdmCertificate, hk]

@[simp] theorem takeNonce_keeps {s : State} (hk : Keeps kp s) :
    Keeps kp (takeNonce s).2 := by
  simp (maxDischargeDepth := 40) [takeNonce, hk]

@[simp] theorem spdmSign_keeps {s : State} {r} (hk : Keeps kp s) :
    Keeps kp (spdmSign r s).2 := by
  simp (maxDischargeDepth := 40) [spdmSign, hk]

@[simp] theorem spdmChallenge_keeps {s : State} {slot} {kind} (hk : Keeps kp s) :
    Keeps kp (spdmChallenge slot kind s) := by
  simp +contextual (maxDischargeDepth := 40) [spdmChallenge, hk]

@[simp] theorem spdmSend_keeps {s : State} {r} {size} (hk : Keeps kp s) :
    Keeps kp (spdmSend r size s) := by
  simp (maxDischargeDepth := 40) [spdmSend, hk]

@[simp] theorem spdmMeasure_keeps {s : State} {i} {signed} (hk : Keeps kp s) :
    Keeps kp (spdmMeasure i signed s) := by
  unfold spdmMeasure
  (repeat' split) <;> simp (maxDischargeDepth := 40) [hk]

@[simp] theorem spdmChunk_keeps {s : State} {handle} {seq} (hk : Keeps kp s) :
    Keeps kp (spdmChunk handle seq s) := by
  unfold spdmChunk
  (repeat' split) <;> simp (maxDischargeDepth := 40) [hk]

end Sys2Proof.Machine
end

