-- ==== Sys2Proof/Laws/Twin.lean ====
section
/-! SUPPORT. What the functions of Machine/Twin.lean keep: the queue of waiting commands, the memory's canonical form,
and the fuses. -/

namespace Sys2Proof.Machine

open Sys2Proof

variable {kp : ToKeep}

@[simp] theorem twinEngage_keeps {s : State} {v} (hk : Keeps kp s) :
    Keeps kp (twinEngage v s).2 := by
  simp (maxDischargeDepth := 40) [twinEngage, hk]

@[simp] theorem twinDisengage_keeps {s : State} {v} (hk : Keeps kp s) :
    Keeps kp (twinDisengage v s).2 := by
  simp +contextual (maxDischargeDepth := 40) [twinDisengage, hk]

@[simp] theorem twnCfgWrite_keeps {s : State} {v} (hk : Keeps kp s) :
    Keeps kp (twnCfgWrite v s).2 := by
  simp (maxDischargeDepth := 40) [twnCfgWrite, hk]

@[simp] theorem hbToggle_keeps {s : State} (hk : Keeps kp s) :
    Keeps kp (hbToggle s) := by
  simp (maxDischargeDepth := 40) [hbToggle, hk]

@[simp] theorem hbEdge_keeps {s : State} (hk : Keeps kp s) :
    Keeps kp (hbEdge s) := by
  simp (maxDischargeDepth := 40) [hbEdge, hk]

@[simp] theorem hbMiss_keeps {s : State} (hk : Keeps kp s) :
    Keeps kp (hbMiss s) := by
  simp (maxDischargeDepth := 40) [hbMiss, hk]

@[simp] theorem closePorts_keeps {s : State} (hk : Keeps kp s) :
    Keeps kp (closePorts s) := by
  simp (maxDischargeDepth := 40) [closePorts, hk]

@[simp] theorem fenceSelf_keeps {s : State} (hk : Keeps kp s) :
    Keeps kp (fenceSelf s) := by
  simp (maxDischargeDepth := 40) [fenceSelf, hk]

@[simp] theorem helloTimer_keeps {s : State} (hk : Keeps kp s) :
    Keeps kp (helloTimer s) := by
  simp (maxDischargeDepth := 40) [helloTimer, hk]

@[simp] theorem takeMsg_keeps {s : State} {mtype named op} (hk : Keeps kp s)
    (ho : ∀ n m s, Keeps kp s → Keeps kp (op n m s)) : Keeps kp (takeMsg mtype named op s) := by
  unfold takeMsg
  (repeat' split) <;> simp [hk, ho]

@[simp] theorem raiseEpoch_keeps {s : State} {e} (hk : Keeps kp s) :
    Keeps kp (raiseEpoch e s) := by
  simp (maxDischargeDepth := 40) [raiseEpoch, hk]

@[simp] theorem pairUp_keeps {s : State} {m} (hk : Keeps kp s) :
    Keeps kp (pairUp m s) := by
  simp +contextual (maxDischargeDepth := 40) [pairUp, hk]

@[simp] theorem helloRx_keeps {s : State} {n} {m} (hk : Keeps kp s) :
    Keeps kp (helloRx n m s) := by
  unfold helloRx
  dsimp only
  (repeat' split) <;> simp (maxDischargeDepth := 40) [hk]

@[simp] theorem twinAckRx_keeps {s : State} {q} (hk : Keeps kp s) :
    Keeps kp (twinAckRx q s) := by
  simp (maxDischargeDepth := 40) [twinAckRx, hk]

@[simp] theorem sendTwinAck_keeps {s : State} (hk : Keeps kp s) :
    Keeps kp (sendTwinAck s) := by
  unfold sendTwinAck
  (repeat' split) <;> simp (maxDischargeDepth := 40) [hk]

@[simp] theorem twinAckTick_keeps {s : State} (hk : Keeps kp s) :
    Keeps kp (twinAckTick s) := by
  simp (maxDischargeDepth := 40) [twinAckTick, hk]

@[simp] theorem modMirror_keeps {s : State} {f} (hk : Keeps kp s) :
    Keeps kp (modMirror f s) := by
  simp (maxDischargeDepth := 40) [modMirror, hk]

@[simp] theorem installCtx_keeps {s : State} {c} {arg0} {timeout} {step} (hk : Keeps kp s) :
    Keeps kp (installCtx c arg0 timeout step s) := by
  simp (maxDischargeDepth := 40) [installCtx, hk]

@[simp] theorem installTally_keeps {s : State} {t} {x} (hk : Keeps kp s) :
    Keeps kp (installTally t x s) := by
  simp (maxDischargeDepth := 40) [installTally, hk]

@[simp] theorem mirrorWrite_keeps {s : State} {o} {b} (hk : Keeps kp s) :
    Keeps kp (mirrorWrite o b s) := by
  unfold mirrorWrite
  (repeat' split) <;> simp (maxDischargeDepth := 40) [hk]

@[simp] theorem mirrorRead_keeps {s : State} {o} {n} (hk : Keeps kp s) :
    Keeps kp (mirrorRead o n s).2 := by
  unfold mirrorRead
  (repeat' split) <;> simp (maxDischargeDepth := 40) [hk]

@[simp] theorem installLayer_keeps {s : State} {l} {ws} (hk : Keeps kp s) :
    Keeps kp (installLayer l ws s) := by
  simp +contextual (maxDischargeDepth := 40) [installLayer, hk]

@[simp] theorem applyCtx_keeps {s : State} {b} (hk : Keeps kp s) :
    Keeps kp (applyCtx b s) := by
  simp (maxDischargeDepth := 40) [applyCtx, hk]

@[simp] theorem applyGone_keeps {s : State} {b} (hk : Keeps kp s) :
    Keeps kp (applyGone b s) := by
  simp (maxDischargeDepth := 40) [applyGone, hk]

@[simp] theorem applyMgrp_keeps {s : State} {b} (hk : Keeps kp s) :
    Keeps kp (applyMgrp b s) := by
  simp (maxDischargeDepth := 40) [applyMgrp, hk]

@[simp] theorem applyTally_keeps {s : State} {b} (hk : Keeps kp s) :
    Keeps kp (applyTally b s) := by
  simp (maxDischargeDepth := 40) [applyTally, hk]

@[simp] theorem applyRoute_keeps {s : State} {b} (hk : Keeps kp s) :
    Keeps kp (applyRoute b s) := by
  simp (maxDischargeDepth := 40) [applyRoute, hk]

@[simp] theorem placesFail_keeps {s : State} {l} (hk : Keeps kp s) :
    Keeps kp (placesFail l s) := by
  simp +contextual (maxDischargeDepth := 40) [placesFail, hk]

@[simp] theorem applyPlace_keeps {s : State} {b} (hk : Keeps kp s) :
    Keeps kp (applyPlace b s) := by
  simp (maxDischargeDepth := 40) [applyPlace, hk]

@[simp] theorem applyLayer_keeps {s : State} {b} (hk : Keeps kp s) :
    Keeps kp (applyLayer b s) := by
  simp (maxDischargeDepth := 40) [applyLayer, hk]

@[simp] theorem applyEpochs_keeps {s : State} {b} (hk : Keeps kp s) :
    Keeps kp (applyEpochs b s) := by
  simp +contextual (maxDischargeDepth := 40) [applyEpochs, hk]

@[simp] theorem mirrorSift_keeps {s : State} {keys} {place} {n} {drop} (hk : Keeps kp s) :
    Keeps kp (mirrorSift keys place n drop s) := by
  simp +contextual (maxDischargeDepth := 40) [mirrorSift, hk]

@[simp] theorem mirrorCheck_keeps {s0 : State} (hk : Keeps kp s0) :
    Keeps kp (mirrorCheck s0) := by
  simp +contextual (maxDischargeDepth := 40) [mirrorCheck, hk]

@[simp] theorem applyFetch_keeps {s0 : State} {epoch} {b} (hk : Keeps kp s0) :
    Keeps kp (applyFetch epoch b s0) := by
  simp +contextual (maxDischargeDepth := 40) [applyFetch, hk]

@[simp] theorem clearHalf_keeps {s : State} {own} {places} (hk : Keeps kp s) :
    Keeps kp (clearHalf own places s) := by
  simp +contextual (maxDischargeDepth := 40) [clearHalf, hk]

@[simp] theorem dropHalfCtxs_keeps {s : State} {own} (hk : Keeps kp s) :
    Keeps kp (dropHalfCtxs own s) := by
  simp +contextual (maxDischargeDepth := 40) [dropHalfCtxs, hk]

@[simp] theorem clearRoutes_keeps {s : State} (hk : Keeps kp s) :
    Keeps kp (clearRoutes s) := by
  simp (maxDischargeDepth := 40) [clearRoutes, hk]

@[simp] theorem applyCopyBegin_keeps {s : State} {b} (hk : Keeps kp s) :
    Keeps kp (applyCopyBegin b s) := by
  unfold applyCopyBegin
  dsimp only
  (repeat' split) <;> simp (maxDischargeDepth := 40) [hk]

@[simp] theorem applyCopyEnd_keeps {s : State} (hk : Keeps kp s) :
    Keeps kp (applyCopyEnd s) := by
  simp (maxDischargeDepth := 40) [applyCopyEnd, hk]

@[simp] theorem applyMirror_keeps {s : State} {mtype} {epoch} {b} (hk : Keeps kp s) :
    Keeps kp (applyMirror mtype epoch b s) := by
  unfold applyMirror
  (repeat' split) <;> simp (maxDischargeDepth := 40) [hk]

@[simp] theorem applyInTurn_keeps {s : State} {mtype} {epoch} {b} (hk : Keeps kp s) :
    Keeps kp (applyInTurn mtype epoch b s) := by
  simp (maxDischargeDepth := 40) [applyInTurn, hk]

@[simp] theorem drainEarly_keeps {s : State} {n} (hk : Keeps kp s) : Keeps kp (drainEarly n s) := by
  induction n generalizing s with
  | zero => exact hk
  | succ n ih =>
    unfold drainEarly
    split
    · exact hk
    · exact ih (applyInTurn_keeps (by simp [hk]))

@[simp] theorem mirrorRx_keeps {s : State} {n m} (hk : Keeps kp s) : Keeps kp (mirrorRx n m s) := by
  unfold mirrorRx
  dsimp only
  (repeat' split) <;> simp (maxDischargeDepth := 40) [hk]

@[simp] theorem adoptCtx_keeps {s : State} {e} (hk : Keeps kp s) :
    Keeps kp (adoptCtx s e) := by
  simp (maxDischargeDepth := 40) [adoptCtx, hk]

@[simp] theorem takeoverFinish_keeps {s0 : State} (hk : Keeps kp s0) :
    Keeps kp (takeoverFinish s0) := by
  simp +contextual (maxDischargeDepth := 40) [takeoverFinish, hk]

@[simp] theorem twinAct_keeps {s : State} {code e cond perform} (hk : Keeps kp s)
    (hp : ∀ s, Keeps kp s → Keeps kp (perform s)) : Keeps kp (twinAct code e cond perform s).2 := by
  unfold twinAct
  dsimp only
  (repeat' split) <;> simp (maxDischargeDepth := 40) [hk, hp]

@[simp] theorem actTakeover_keeps {s : State} {e} (hk : Keeps kp s) :
    Keeps kp (actTakeover e s).2 := by
  simp +contextual (maxDischargeDepth := 40) [actTakeover, hk]

@[simp] theorem actGiveback_keeps {s : State} {e} (hk : Keeps kp s) :
    Keeps kp (actGiveback e s).2 := by
  simp +contextual (maxDischargeDepth := 40) [actGiveback, hk]

@[simp] theorem dropAdopted_keeps {s : State} (hk : Keeps kp s) :
    Keeps kp (dropAdopted s) := by
  simp +contextual (maxDischargeDepth := 40) [dropAdopted, hk]

@[simp] theorem givebackDone_keeps {s : State} (hk : Keeps kp s) :
    Keeps kp (givebackDone s) := by
  simp (maxDischargeDepth := 40) [givebackDone, hk]

@[simp] theorem actResync_keeps {s : State} {e} (hk : Keeps kp s) :
    Keeps kp (actResync e s).2 := by
  simp +contextual (maxDischargeDepth := 40) [actResync, hk]

@[simp] theorem sendFence_keeps {s : State} (hk : Keeps kp s) :
    Keeps kp (sendFence s) := by
  unfold sendFence
  (repeat' split) <;> simp +contextual (maxDischargeDepth := 40) [hk]

@[simp] theorem actFencePartner_keeps {s : State} {e} (hk : Keeps kp s) :
    Keeps kp (actFencePartner e s).2 := by
  simp +contextual (maxDischargeDepth := 40) [actFencePartner, hk]

@[simp] theorem actUnfence_keeps {s : State} {e} (hk : Keeps kp s) :
    Keeps kp (actUnfence e s).2 := by
  simp +contextual (maxDischargeDepth := 40) [actUnfence, hk]

@[simp] theorem actSetEpoch_keeps {s : State} {e} (hk : Keeps kp s) :
    Keeps kp (actSetEpoch e s).2 := by
  simp (maxDischargeDepth := 40) [actSetEpoch, hk]

@[simp] theorem twnActionWrite_keeps {s : State} {v} (hk : Keeps kp s) :
    Keeps kp (twnActionWrite v s).2 := by
  unfold twnActionWrite
  (repeat' split) <;> simp (maxDischargeDepth := 40) [hk]

end Sys2Proof.Machine
end

