-- ==== Sys2Proof/Laws/RegRead.lean ====
section
/-! SUPPORT. What the functions of Machine/RegRead.lean keep: the queue of waiting commands, the memory's canonical form,
and the fuses. -/

namespace Sys2Proof.Machine

open Sys2Proof

variable {kp : ToKeep}

@[simp] theorem regTouch_keeps {s : State} {a} (hk : Keeps kp s) :
    Keeps kp (regTouch a s) := by
  unfold regTouch
  (repeat' split) <;> simp (maxDischargeDepth := 40) [hk]

end Sys2Proof.Machine
end

