-- ==== Sys2Proof/Laws/Debug.lean ====
section
/-! SUPPORT. What the functions of Machine/Debug.lean keep: the queue of waiting commands, the memory's canonical form,
and the fuses. -/

namespace Sys2Proof.Machine

open Sys2Proof

variable {kp : ToKeep}

@[simp] theorem damperRaise_keeps {s : State} {serial} (hk : Keeps kp s) :
    Keeps kp (damperRaise serial s).2 := by
  simp (maxDischargeDepth := 40) [damperRaise, hk]

@[simp] theorem releaseShift_keeps {s : State} (hk : Keeps kp s) :
    Keeps kp (releaseShift s) := by
  simp (maxDischargeDepth := 40) [releaseShift, hk]

@[simp] theorem resumeOne_keeps {s : State} {g} {u} {r0} (hk : Keeps kp s) :
    Keeps kp (resumeOne g u r0 s) := by
  simp (maxDischargeDepth := 40) [resumeOne, hk]

@[simp] theorem resumeGroup_keeps {s : State} {g} (hk : Keeps kp s) :
    Keeps kp (resumeGroup g s) := by
  simp +contextual (maxDischargeDepth := 40) [resumeGroup, hk]

@[simp] theorem damperRelease_keeps {s : State} (hk : Keeps kp s) :
    Keeps kp (damperRelease s).2 := by
  simp +contextual (maxDischargeDepth := 40) [damperRelease, hk]

@[simp] theorem damperCtrlWrite_keeps {s : State} {v} (hk : Keeps kp s) :
    Keeps kp (damperCtrlWrite v s).2 := by
  unfold damperCtrlWrite
  (repeat' split) <;> simp (maxDischargeDepth := 40) [hk]



@[simp] theorem scanLog_keeps {v s : State} (hk : Keeps kp s) : Keeps kp (scanLog v s) :=
  foldOver_keeps hk fun _ _ h => logEv_keeps h

@[simp] theorem scanShow_keeps {s : State} {st} (hk : Keeps kp s) :
    Keeps kp (scanShow st s).2 := by
  simp (maxDischargeDepth := 40) [scanShow, hk]

@[simp] theorem scanSizeAct_keeps {s : State} {v} (hk : Keeps kp s) :
    Keeps kp (scanSizeAct v s).2 := by
  simp (maxDischargeDepth := 40) [scanSizeAct, hk]

@[simp] theorem scanStart_keeps {s : State} {v} (hk : Keeps kp s) :
    Keeps kp (scanStart v s).2 := by
  simp (maxDischargeDepth := 40) [scanStart, hk]

@[simp] theorem scanCtrlWrite_keeps {s : State} {v} (hk : Keeps kp s) :
    Keeps kp (scanCtrlWrite v s).2 := by
  unfold scanCtrlWrite
  (repeat' split) <;> simp (maxDischargeDepth := 40) [hk]

@[simp] theorem sendBulk_keeps {s : State} {img} (hk : Keeps kp s) :
    Keeps kp (sendBulk img s) := by
  simp +contextual (maxDischargeDepth := 40) [sendBulk, hk]

@[simp] theorem scanDone_keeps {s : State} (hk : Keeps kp s) : Keeps kp (scanDone s) := by
  unfold scanDone
  split
  · exact hk
  · extract_lets c img s0 s1
    have h0 : Keeps kp s0 := scanLog_keeps hk
    have h1 : Keeps kp s1 := by
      unfold s1
      split
      · exact sendBulk_keeps h0
      · exact writeMem_keeps h0
    clear_value s1
    simp [h1]

@[simp] theorem traceDrain_keeps {s : State} {d} (hk : Keeps kp s) :
    Keeps kp (traceDrain d s) := by
  unfold traceDrain
  (repeat' split) <;> simp (maxDischargeDepth := 40) [hk]

@[simp] theorem traceRingWrite_keeps {s : State} {d} {v} (hk : Keeps kp s) :
    Keeps kp (traceRingWrite d v s).2 := by
  simp (maxDischargeDepth := 40) [traceRingWrite, hk]

@[simp] theorem ctrClear_keeps {s : State} {v} (hk : Keeps kp s) :
    Keeps kp (ctrClear v s).2 := by
  simp (maxDischargeDepth := 40) [ctrClear, hk]

@[simp] theorem snapshot_keeps {s : State} (hk : Keeps kp s) :
    Keeps kp (snapshot s) := by
  simp (maxDischargeDepth := 40) [snapshot, hk]

@[simp] theorem snapCtrlWrite_keeps {s : State} {v} (hk : Keeps kp s) :
    Keeps kp (snapCtrlWrite v s).2 := by
  simp (maxDischargeDepth := 40) [snapCtrlWrite, hk]

@[simp] theorem snapPeriod_keeps {s : State} (hk : Keeps kp s) :
    Keeps kp (snapPeriod s) := by
  simp (maxDischargeDepth := 40) [snapPeriod, hk]

@[simp] theorem sparkPop_keeps {s : State} (hk : Keeps kp s) :
    Keeps kp (sparkPop s).2 := by
  simp (maxDischargeDepth := 40) [sparkPop, hk]

end Sys2Proof.Machine
end

