-- ==== Sys2Proof/Laws/Regs.lean ====
section
/-! SUPPORT. What the functions of Machine/Regs.lean keep: the queue of waiting commands, the memory's canonical form,
and the fuses. -/

namespace Sys2Proof.Machine

open Sys2Proof

variable {kp : ToKeep}

@[simp] theorem storeIf_keeps {s : State} {ok} {a} {mask} {v} (hk : Keeps kp s) :
    Keeps kp (storeIf ok a mask v s).2 := by
  simp (maxDischargeDepth := 40) [storeIf, hk]

@[simp] theorem ite_app_keeps {c : Prop} [Decidable c] {s : State} {f g : State → Status × State} :
    Keeps kp ((if c then f else g) s).2 ↔ (c → Keeps kp (f s).2) ∧ (¬c → Keeps kp (g s).2) := by
  split <;> simp_all

@[simp] theorem arrayWrite_keeps {s : State} {o base step n f rest} (hf : ∀ i, Keeps kp (f i s).2)
    (hr : Keeps kp (rest s).2) : Keeps kp (arrayWrite o base step n f rest s).2 := by
  unfold arrayWrite
  cases arrayIx o base step n with
  | none => exact hr
  | some i => exact hf i

@[simp] theorem ignored_keeps {s : State} (hk : Keeps kp s) :
    Keeps kp (ignored s).2 := by
  simp (maxDischargeDepth := 40) [ignored, hk]

@[simp] theorem writeMss_keeps {s : State} {o v} (hk : Keeps kp s) : Keeps kp (writeMss o v s).2 := by
  simp (maxDischargeDepth := 40) [writeMss, hk]

@[simp] theorem wdCfgWrite_keeps {s : State} {v} (hk : Keeps kp s) :
    Keeps kp (wdCfgWrite v s).2 := by
  simp (maxDischargeDepth := 40) [wdCfgWrite, hk]

@[simp] theorem writeHlk_keeps {s : State} {o v} (hk : Keeps kp s) : Keeps kp (writeHlk o v s).2 := by
  simp (maxDischargeDepth := 40) [writeHlk, hk]

@[simp] theorem discCtrlWrite_keeps {s : State} {v} (hk : Keeps kp s) :
    Keeps kp (discCtrlWrite v s).2 := by
  simp (maxDischargeDepth := 40) [discCtrlWrite, hk]

@[simp] theorem discStatusWrite_keeps {s : State} {v} (hk : Keeps kp s) :
    Keeps kp (discStatusWrite v s).2 := by
  simp (maxDischargeDepth := 40) [discStatusWrite, hk]

@[simp] theorem writeFtc_keeps {s : State} {o v} (hk : Keeps kp s) : Keeps kp (writeFtc o v s).2 := by
  simp (maxDischargeDepth := 40) [writeFtc, hk]

@[simp] theorem routeWrite_keeps {s : State} {a} {v} (hk : Keeps kp s) :
    Keeps kp (routeWrite a v s).2 := by
  simp (maxDischargeDepth := 40) [routeWrite, hk]

@[simp] theorem fwdCfgWrite_keeps {s : State} {v} (hk : Keeps kp s) :
    Keeps kp (fwdCfgWrite v s).2 := by
  simp (maxDischargeDepth := 40) [fwdCfgWrite, hk]

@[simp] theorem sparkCtrlWrite_keeps {s : State} {v} (hk : Keeps kp s) :
    Keeps kp (sparkCtrlWrite v s).2 := by
  simp (maxDischargeDepth := 40) [sparkCtrlWrite, hk]

@[simp] theorem entryWrite_keeps {s : State} {a} {rack} {v} (hk : Keeps kp s) :
    Keeps kp (entryWrite a rack v s).2 := by
  simp (maxDischargeDepth := 40) [entryWrite, hk]

@[simp] theorem slotWrite__keeps {s : State} {i} {v} (hk : Keeps kp s) :
    Keeps kp (slotWrite_ i v s).2 := by
  simp (maxDischargeDepth := 40) [slotWrite_, hk]

@[simp] theorem policeWrite_keeps {s : State} {l} {t} {v} (hk : Keeps kp s) :
    Keeps kp (policeWrite l t v s).2 := by
  simp (maxDischargeDepth := 40) [policeWrite, hk]

@[simp] theorem writePort_keeps {s : State} {l} {w} {v} (hk : Keeps kp s) :
    Keeps kp (writePort l w v s).2 := by
  simp (maxDischargeDepth := 40) [writePort, hk]

@[simp] theorem obCfgWrite_keeps {s : State} {n} {v} (hk : Keeps kp s) :
    Keeps kp (obCfgWrite n v s).2 := by
  simp (maxDischargeDepth := 40) [obCfgWrite, hk]

@[simp] theorem writeSwc_keeps {s : State} {o v} (hk : Keeps kp s) : Keeps kp (writeSwc o v s).2 := by
  simp (maxDischargeDepth := 40) [writeSwc, hk]

@[simp] theorem shapeWrite_keeps {s : State} {l} {t} {v} (hk : Keeps kp s) :
    Keeps kp (shapeWrite l t v s).2 := by
  simp (maxDischargeDepth := 40) [shapeWrite, hk]

@[simp] theorem writeSchPort_keeps {s : State} {l} {w} {v} (hk : Keeps kp s) :
    Keeps kp (writeSchPort l w v s).2 := by
  simp (maxDischargeDepth := 40) [writeSchPort, hk]

@[simp] theorem writeSch_keeps {s : State} {o v} (hk : Keeps kp s) : Keeps kp (writeSch o v s).2 := by
  simp (maxDischargeDepth := 40) [writeSch, hk]

@[simp] theorem writeBpm_keeps {s : State} {o v} (hk : Keeps kp s) : Keeps kp (writeBpm o v s).2 := by
  simp (maxDischargeDepth := 40) [writeBpm, hk]

@[simp] theorem writeHth_keeps {s : State} {o v} (hk : Keeps kp s) : Keeps kp (writeHth o v s).2 := by
  simp (maxDischargeDepth := 40) [writeHth, hk]

@[simp] theorem stnArbWrite_keeps {s : State} {g} {v} (hk : Keeps kp s) :
    Keeps kp (stnArbWrite g v s).2 := by
  simp (maxDischargeDepth := 40) [stnArbWrite, hk]

@[simp] theorem seqctrWrite_keeps {s : State} {g} {u} {k} {v} (hk : Keeps kp s) :
    Keeps kp (seqctrWrite g u k v s).2 := by
  simp (maxDischargeDepth := 40) [seqctrWrite, hk]

@[simp] theorem writeStn_keeps {s : State} {g o v} (hk : Keeps kp s) : Keeps kp (writeStn g o v s).2 := by
  simp (maxDischargeDepth := 40) [writeStn, hk]

@[simp] theorem tallyWrite_keeps {s : State} {t w v} (hk : Keeps kp s) : Keeps kp (tallyWrite t w v s).2 := by
  match w with
  | 0 => exact tallyValueWrite_keeps hk
  | 1 => exact tallyCfgWrite_keeps hk
  | 2 => exact tallyReleaseWrite_keeps hk
  | _ + 3 => exact hk

@[simp] theorem writeCtx_keeps {s : State} {o v} (hk : Keeps kp s) : Keeps kp (writeCtx o v s).2 := by
  simp (maxDischargeDepth := 40) [writeCtx, hk]

@[simp] theorem writeMoe_keeps {s : State} {o v} (hk : Keeps kp s) : Keeps kp (writeMoe o v s).2 := by
  simp (maxDischargeDepth := 40) [writeMoe, hk]

@[simp] theorem writeSpr_keeps {s : State} {o v} (hk : Keeps kp s) : Keeps kp (writeSpr o v s).2 := by
  simp (maxDischargeDepth := 40) [writeSpr, hk]

@[simp] theorem writeCrd_keeps {s : State} {o v} (hk : Keeps kp s) : Keeps kp (writeCrd o v s).2 := by
  simp (maxDischargeDepth := 40) [writeCrd, hk]

@[simp] theorem writeTwn_keeps {s : State} {o v} (hk : Keeps kp s) : Keeps kp (writeTwn o v s).2 := by
  simp (maxDischargeDepth := 40) [writeTwn, hk]

@[simp] theorem writeDbg_keeps {s : State} {o v} (hk : Keeps kp s) : Keeps kp (writeDbg o v s).2 := by
  simp (maxDischargeDepth := 40) [writeDbg, hk]

@[simp] theorem writePwr_keeps {s : State} {o v} (hk : Keeps kp s) : Keeps kp (writePwr o v s).2 := by
  simp (maxDischargeDepth := 40) [writePwr, hk]

@[simp] theorem regWriteAt_keeps {s : State} {a v} (hk : Keeps kp s) : Keeps kp (regWriteAt a v s).2 := by
  unfold regWriteAt
  generalize a / 0x100000000 = b
  match b with
  | 0 | 1 | 2 | 3 | 4 | 5 | 6 | 7 | 8 | 9 | 10 | 11 | 12 | 13 | 14 => simp [hk]
  | _ + 15 => exact hk

@[simp] theorem regWrite_keeps {s : State} {a} {v} (hk : Keeps kp s) :
    Keeps kp (regWrite a v s).2 := by
  simp (maxDischargeDepth := 40) [regWrite, hk]

end Sys2Proof.Machine
end

