-- ==== Sys2Proof/Laws/HostLink.lean ====
section
/-! SUPPORT. What the functions of Machine/HostLink.lean keep: the queue of waiting commands, the memory's canonical form,
and the fuses. -/

namespace Sys2Proof.Machine

open Sys2Proof

variable {kp : ToKeep}

@[simp] theorem readWords_keeps {s : State} {a n} (hk : Keeps kp s) : Keeps kp (readWords n a s).2 := by
  induction n generalizing a s with
  | zero => exact hk
  | succ n ih => exact ih (regTouch_keeps hk)

@[simp] theorem rdPkt_keeps {s : State} {p} (hk : Keeps kp s) :
    Keeps kp (rdPkt p s) := by
  simp (maxDischargeDepth := 40) [rdPkt, hk]

@[simp] theorem writeWords_keeps {s : State} {ws a n} (hk : Keeps kp s) :
    Keeps kp (writeWords ws a n s).2.2 := by
  induction ws generalizing a n s with
  | nil => exact hk
  | cons w ws ih =>
    unfold writeWords
    dsimp only
    split
    · exact ih (regWrite_keeps hk)
    · exact regWrite_keeps hk

@[simp] theorem wrPkt_keeps {s : State} {p} (hk : Keeps kp s) : Keeps kp (wrPkt p s) :=
  sendOwn_keeps (withStatus_keeps (writeWords_keeps hk))

@[simp] theorem completeEntry_keeps {s : State} {g} {r} {st} (hk : Keeps kp s) :
    Keeps kp (completeEntry g r st s) := by
  simp (maxDischargeDepth := 40) [completeEntry, hk]

@[simp] theorem enterRecord_keeps {s : State} {r} (hk : Keeps kp s) :
    Keeps kp (enterRecord r s) := by
  simp (maxDischargeDepth := 40) [enterRecord, hk]

@[simp] theorem cmdPkt_keeps {s : State} {p} (hk : Keeps kp s) :
    Keeps kp (cmdPkt p s) := by
  simp +contextual (maxDischargeDepth := 40) [cmdPkt, hk]

@[simp] theorem bulkPkt_keeps {s : State} {p} (hk : Keeps kp s) :
    Keeps kp (bulkPkt p s) := by
  simp (maxDischargeDepth := 40) [bulkPkt, hk]

@[simp] theorem watchExpire_keeps {s : State} (hk : Keeps kp s) :
    Keeps kp (watchExpire s) := by
  simp (maxDischargeDepth := 40) [watchExpire, hk]

end Sys2Proof.Machine
end

