-- ==== Sys2Proof/Laws/Signatures.lean ====
section
/-! SUPPORT. Images whose signatures verify, for the witnesses of what follows a good image. The signature under a
degenerate key pair (the neutral point of Ed25519; an ML-DSA-65 key whose vector t1 is zero) can be written down for any
message, so the verification is shown by proof and not evaluated. -/

namespace Sys2Proof.Laws

open Sys2Proof Sys2Proof.Machine

/-! ### Ed25519 under the neutral point -/

/-- A point that is neutral, in whatever coordinates. -/
def EdNeutral (u : EdPoint) : Prop := u.x = 0 ∧ u.t = 0 ∧ u.y = u.z ∧ u.z < edP

theorem edNeutral_zero : EdNeutral EdPoint.zero := by unfold EdNeutral; decide

theorem edNeutral_add {u v : EdPoint} (hu : EdNeutral u) (hv : EdNeutral v) : EdNeutral (u.add v) := by
  obtain ⟨hx, ht, hy, hz⟩ := hu
  obtain ⟨kx, kt, ky, kz⟩ := hv
  have hp : 0 < edP := by decide
  unfold EdPoint.add EdNeutral subMod
  simp only [hx, kx, ht, kt, hy, ky, Nat.mul_zero, Nat.zero_mul, Nat.zero_mod, Nat.add_zero, Nat.sub_zero,
    Nat.add_mod_right, Nat.mod_eq_of_lt hz, Nat.mod_eq_of_lt kz]
  refine ⟨?_, ?_, ?_, Nat.mod_lt _ hp⟩
  · simp
  · simp
  · rw [Nat.mod_mod, Nat.mul_mod, Nat.mod_mod, ← Nat.two_mul, ← Nat.mul_mod_mod, Nat.mod_mod]
    simp [Nat.mul_mod, Nat.mul_assoc]

theorem edNeutral_mul {u : EdPoint} (hu : EdNeutral u) (n k : Nat) : EdNeutral (EdPoint.mul n k u) := by
  induction n generalizing k u with
  | zero => exact edNeutral_zero
  | succ n ih =>
    unfold EdPoint.mul
    have h := ih (edNeutral_add hu hu) (k / 2)
    by_cases hk : k % 2 = 1
    · simpa only [hk, if_true] using edNeutral_add h hu
    · simpa only [hk, if_false] using h

theorem edMul_none (n : Nat) (u : EdPoint) : EdPoint.mul n 0 u = EdPoint.zero := by
  induction n generalizing u with
  | zero => rfl
  | succ n ih => simp [EdPoint.mul, ih]

theorem edNeutral_same {u v : EdPoint} (hu : EdNeutral u) (hv : EdNeutral v) : EdPoint.same u v = true := by
  simp [EdPoint.same, hu.1, hv.1, hu.2.2.1, hv.2.2.1, Nat.mul_comm]

/-- The neutral point as a public key, and as the commitment of a signature. -/
def edKey : List Byte := 1 :: zeros 31

theorem ed25519_neutral (m : List Byte) : ed25519Verify edKey m (edKey ++ zeros 32) = true := by
  have hd : edDecode edKey = some EdPoint.zero := by decide +kernel
  have hl : edKey.length = 32 := by decide
  have h0 : fromLe (zeros 32) = 0 := by decide
  have e1 : (edKey ++ zeros 32).take 32 = edKey := List.take_left' hl
  have e2 : (edKey ++ zeros 32).drop 32 = zeros 32 := List.drop_left' hl
  have hs : EdPoint.same (EdPoint.mul 4 8 (EdPoint.mul 256 0 EdPoint.base))
      (EdPoint.mul 4 8 (EdPoint.zero.add (EdPoint.mul 256
        (fromLe (sha512 (edKey ++ edKey ++ m)) % edL) EdPoint.zero))) = true :=
    edNeutral_same (by rw [edMul_none]; exact edNeutral_mul edNeutral_zero _ _)
      (edNeutral_mul (edNeutral_add edNeutral_zero (edNeutral_mul edNeutral_zero _ _)) _ _)
  unfold ed25519Verify
  simp only [e1, e2, h0, hd, hs, Bool.and_true, Bool.and_eq_true, beq_iff_eq, decide_eq_true_eq]
  exact ⟨⟨hl, by decide⟩, by decide⟩

/-! ### ML-DSA-65 with t1 zero -/

theorem dsaNtt_length (k : Nat) : ∀ (m : Nat) (w : List Nat), w.length = 2 ^ k → (dsaNtt k m w).length = 2 ^ k := by
  induction k with
  | zero => intro m w h; exact h
  | succ k ih =>
    intro m w h
    have h2 : 2 ^ (k + 1) = 2 ^ k + 2 ^ k := by omega
    simp only [dsaNtt, List.length_append]
    rw [ih, ih, h2] <;> simp [h, h2]

theorem dsaBallGo_length (signs : Nat) (l : List Byte) :
    ∀ (i : Nat) (c : List Nat), (dsaBallGo signs l i c).length = c.length := by
  induction l with
  | nil => intro i c; rfl
  | cons b l ih =>
    intro i c
    unfold dsaBallGo
    split
    · rfl
    · split
      · exact ih i c
      · rw [ih]; simp

/-- The challenge, transformed, has 256 coefficients. -/
theorem dsaBall_length (seed : List Byte) : (ntt (dsaBall seed)).length = 256 :=
  dsaNtt_length 8 1 _ (by rw [dsaBall, dsaBallGo_length]; exact List.length_replicate)

theorem polyMul_zeros (c : List Nat) : polyMul c (List.replicate c.length 0) = List.replicate c.length 0 := by
  induction c with
  | nil => rfl
  | cons x c ih => simpa [polyMul, List.replicate_succ] using ih

theorem ntt_zeros : ntt (List.replicate 256 0) = List.replicate 256 0 := by decide +kernel

/-- With t1 zero a row of the commitment does not depend on the challenge. -/
theorem dsaRow_free (rho : List Byte) (z : List (List Nat)) (c hints : List Nat) (r : Nat) (h : c.length = 256) :
    dsaRow rho z c (List.replicate 256 0) hints r =
      dsaRow rho z (List.replicate 256 0) (List.replicate 256 0) hints r := by
  have e : (List.replicate 256 0).map (fun x => x * 8192 % dsaQ) = List.replicate 256 0 := by decide +kernel
  have p : polyMul c (List.replicate 256 0) = List.replicate 256 0 := by rw [← h]; exact polyMul_zeros c
  have q : polyMul (List.replicate 256 0) (List.replicate 256 0) = List.replicate 256 0 := by decide +kernel
  simp only [dsaRow, e, ntt_zeros, p, q]

theorem leBytes_length (n v : Nat) : (leBytes n v).length = n := by
  induction n generalizing v with
  | zero => rfl
  | succ n ih => simp [leBytes, ih]

theorem keccakRound_length (a : List Nat) (rc : Nat) : (keccakRound a rc).length = 25 := by simp [keccakRound, upTo]

theorem keccakF_length (a : List Nat) : (keccakF a).length = 25 := by
  simp only [keccakF, keccakRc, List.cons_append, List.foldl_cons, List.foldl_nil, List.nil_append, keccakRound_length]

theorem foldl_keeps_length {β : Type} (f : List Nat → β → List Nat) (n : Nat)
    (hf : ∀ st b, st.length = n → (f st b).length = n) :
    ∀ (l : List β) (st : List Nat), st.length = n → (l.foldl f st).length = n := by
  intro l
  induction l with
  | nil => intro st h; exact h
  | cons b l ih => intro st h; exact ih _ (hf _ _ h)

theorem flatten_length_of {α : Type} (k : Nat) : ∀ (ls : List (List α)), (∀ l ∈ ls, l.length = k) →
    ls.flatten.length = ls.length * k := by
  intro ls
  induction ls with
  | nil => intro _; simp
  | cons l ls ih =>
    intro h
    simp only [List.flatten_cons, List.length_append, List.length_cons, h l (by simp)]
    rw [ih (fun x hx => h x (List.mem_cons_of_mem _ hx)), Nat.add_mul, Nat.one_mul, Nat.add_comm]

/-- One block of SHAKE256 output has 136 octets. -/
theorem shake256_length (m : List Byte) : (shake 136 1 m).length = 136 := by
  have h : ((upTo ((shakePad 136 m).length / 136)).foldl
      (fun st i => shakeAbsorb 136 st (slice (shakePad 136 m) (136 * i) 136)) (List.replicate 25 0)).length = 25 :=
    foldl_keeps_length _ 25 (fun st b _ => keccakF_length _) _ _ List.length_replicate
  simp only [shake, shakeSqueeze, List.append_nil]
  rw [flatten_length_of 8 _ (by intro l hl; obtain ⟨v, -, rfl⟩ := List.mem_map.1 hl; exact leBytes_length 8 v)]
  rw [List.length_map, List.length_take, h]; rfl

/-- A public key with t1 zero, and the fields of a signature under it with z zero and no hint. -/
def dsaKey : List Byte := zeros 1952

def dsaZ : List Byte := packBits 20 (List.replicate 256 524288)

/-- The rows of the commitment, the same for every message. -/
def dsaRows : List (List Nat) := (upTo 6).map (fun r =>
  dsaRow (zeros 32) (List.replicate 5 (List.replicate 256 0)) (List.replicate 256 0) (List.replicate 256 0) [] r)

/-- The challenge seed that closes the signature of a message. -/
def dsaSeed (m : List Byte) : List Byte :=
  let mu := (shake 136 1 ((shake 136 1 dsaKey).take 64 ++ [0, 0] ++ m)).take 64
  (shake 136 1 (mu ++ (dsaRows.map dsaPack4).flatten)).take 48

theorem dsaSeed_length (m : List Byte) : (dsaSeed m).length = 48 := by
  rw [dsaSeed, List.length_take, shake256_length]; rfl

/-- What follows the challenge seed. -/
def dsaTail : List Byte := (List.replicate 5 dsaZ).flatten ++ zeros 61

def dsaSig (m : List Byte) : List Byte := dsaSeed m ++ dsaTail

theorem dsaTail_facts : dsaTail.length = 3261 ∧ dsaTail.drop 3200 = zeros 61 ∧
    (upTo 5).map (fun i => unpackBits 20 (slice dsaTail (640 * i) 640)) =
      List.replicate 5 (List.replicate 256 524288) := by decide +kernel

theorem mldsa_zero (m : List Byte) : mldsaVerify dsaKey m (dsaSig m) = true := by
  have hl := dsaSeed_length m
  obtain ⟨tl, td, tp⟩ := dsaTail_facts
  have e1 : (dsaSig m).take 48 = dsaSeed m := List.take_left' hl
  have e2 (i : Nat) : (dsaSig m).drop (48 + i) = dsaTail.drop i := by
    rw [← List.drop_drop, dsaSig, List.drop_left' hl]
  have e3 : (dsaSig m).length = 3309 := by simp [dsaSig, hl, tl]
  have e4 (r : Nat) (h : r < 6) : unpackBits 10 (slice dsaKey (32 + 320 * r) 320) = List.replicate 256 0 := by
    have h' : ∀ r, r < 6 → unpackBits 10 (slice dsaKey (32 + 320 * r) 320) = List.replicate 256 0 := by decide +kernel
    exact h' r h
  have e5 (r : Nat) (h : r < 6) : dsaHintOf (zeros 61) r = [] := by
    have h' : ∀ r, r < 6 → dsaHintOf (zeros 61) r = [] := by decide +kernel
    exact h' r h
  have e6 : (upTo 5).map (fun i => unpackBits 20 (slice (dsaSig m) (48 + 640 * i) 640)) =
      List.replicate 5 (List.replicate 256 524288) := by simpa only [slice, e2] using tp
  have e7 : (List.replicate 5 (List.replicate 256 524288)).map
      (fun l => ntt (l.map (fun v => subMod dsaQ 524288 v))) = List.replicate 5 (List.replicate 256 0) := by
    decide +kernel
  have rows : (upTo 6).map (fun r => dsaRow (zeros 32) (List.replicate 5 (List.replicate 256 0))
      (ntt (dsaBall (dsaSeed m)))
      (unpackBits 10 (slice dsaKey (32 + 320 * r) 320)) (dsaHintOf (zeros 61) r) r) = dsaRows := by
    apply List.map_congr_left
    intro r hr
    have h : r < 6 := List.mem_range.1 hr
    rw [e4 r h, e5 r h, dsaRow_free _ _ _ _ _ (dsaBall_length _)]
  have ky : dsaKey.take 32 = zeros 32 := by decide +kernel
  have d : (dsaSig m).drop 3248 = zeros 61 := (e2 3200).trans td
  unfold mldsaVerify
  simp only [e1, e3, e6, e7, ky, d, rows, Bool.and_eq_true, beq_iff_eq]
  refine ⟨⟨⟨⟨by decide +kernel, trivial⟩, by decide +kernel⟩, by decide +kernel⟩, ?_⟩
  rw [dsaSeed]

/-! ### A store that holds an image -/

/-- The octets of a list as a store from place k on, zero octets left out. -/
def storeOf : Nat → List Byte → Map Byte
  | _, [] => []
  | k, b :: l => if b = 0 then storeOf (k + 1) l else (k, b) :: storeOf (k + 1) l

theorem storeOf_before (l : List Byte) : ∀ (k i : Nat), i < k → Map.get? (storeOf k l) i = none := by
  induction l with
  | nil => intro k i _; rfl
  | cons b l ih =>
    intro k i h
    have h1 := ih (k + 1) i (by omega)
    unfold storeOf
    split
    · exact h1
    · simpa [Map.get?, show k ≠ i by omega] using h1

theorem storeOf_getD (l : List Byte) : ∀ (k i : Nat), Map.getD (storeOf k l) (k + i) 0 = nthD l i 0 := by
  induction l with
  | nil => intro k i; rfl
  | cons b l ih =>
    intro k i
    cases i with
    | zero =>
      unfold storeOf
      split
      · next hb => simp [hb, Map.getD, storeOf_before l (k + 1) k (by omega), nthD]
      · simp [Map.getD, Map.get?, nthD]
    | succ i =>
      have h := ih (k + 1) i
      rw [show k + 1 + i = k + (i + 1) by omega] at h
      unfold storeOf
      split
      · simpa [nthD] using h
      · simpa [Map.getD, Map.get?, nthD] using h

/-- A store that holds an image is read back as the image. -/
theorem storeOf_read (l : List Byte) :
    (upTo l.length).map (fun i => Map.getD (storeOf 0 l) i 0) = l := by
  apply List.ext_getElem
  · simp [upTo]
  · intro i h1 h2
    have h := storeOf_getD l 0 i
    rw [Nat.zero_add] at h
    simp only [upTo, List.getElem_map, List.getElem_range, h]
    simp [nthD, h2]

/-! ### A firmware image -/

/-- The signature block after signed octets, under the degenerate keys: scheme 1, the keys, the signatures, padding. -/
def signBlock (m : List Byte) : List Byte :=
  [1, 0, 0, 0] ++ edKey ++ (edKey ++ zeros 32) ++ dsaKey ++
    ((upTo 48).map (fun i => nthD (dsaSeed m) i 0) ++ dsaTail) ++ zeros 7

/-- The signed octets of an image: version 1, security version 1, one cord key, for every grade. -/
def fwHead : List Byte :=
  [0x56, 0x46, 0x46, 0x57, 1, 0, 7, 0xB1] ++ leBytes 4 1 ++ [1, 1, 0, 0] ++ leBytes 4 5496 ++ leBytes 4 128 ++ zeros 104

def fwImage : List Byte := fwHead ++ signBlock (sha512 fwHead)

/-- The digest of the key pair. -/
def keyPairDigest : List Byte := sha512 (edKey ++ dsaKey)

theorem seed_octets (m : List Byte) : (upTo 48).map (fun i => nthD (dsaSeed m) i 0) = dsaSeed m := by
  apply List.ext_getElem
  · simp [upTo, dsaSeed_length]
  · intro i h1 h2
    simp [upTo, nthD, h2]

theorem signBlock_length (m : List Byte) : (signBlock m).length = 5368 := by
  simp only [signBlock, seed_octets, List.length_append, dsaSeed_length, dsaTail_facts.1]
  decide +kernel

theorem slice_right (a b : List Byte) (k n : Nat) (h : a.length = k) (i : Nat) :
    slice (a ++ b) (k + i) n = slice b i n := by
  simp [slice, ← h, ← List.drop_drop]

theorem slice_whole (a b : List Byte) (n : Nat) (h : a.length = n) : slice (a ++ b) 0 n = a := by
  simp [slice, ← h]

/-- What a check of the block reads of it. -/
theorem signBlock_slices (m : List Byte) :
    slice (signBlock m) 4 32 = edKey ∧ slice (signBlock m) 36 64 = edKey ++ zeros 32 ∧
      slice (signBlock m) 100 1952 = dsaKey ∧ slice (signBlock m) 2052 3309 = dsaSig m := by
  have l1 : ([1, 0, 0, 0] : List Byte).length = 4 := rfl
  have l2 : edKey.length = 32 := by decide
  have l3 : (edKey ++ zeros 32).length = 64 := by decide
  have l4 : dsaKey.length = 1952 := by decide +kernel
  have l5 : (dsaSig m).length = 3309 := by simp [dsaSig, dsaSeed_length, dsaTail_facts.1]
  have e : signBlock m = [1, 0, 0, 0] ++ (edKey ++ ((edKey ++ zeros 32) ++ (dsaKey ++ (dsaSig m ++ zeros 7)))) := by
    simp only [signBlock, seed_octets, dsaSig, List.append_assoc]
  rw [e]
  refine ⟨?_, ?_, ?_, ?_⟩
  · rw [slice_right _ _ 4 32 l1 0, slice_whole _ _ 32 l2]
  · rw [slice_right _ _ 4 64 l1 32, slice_right _ _ 32 64 l2 0, slice_whole _ _ 64 l3]
  · rw [slice_right _ _ 4 1952 l1 96, slice_right _ _ 32 1952 l2 64, slice_right _ _ 64 1952 l3 0,
      slice_whole _ _ 1952 l4]
  · rw [slice_right _ _ 4 3309 l1 2048, slice_right _ _ 32 3309 l2 2016, slice_right _ _ 64 3309 l3 1952,
      slice_right _ _ 1952 3309 l4 0, slice_whole _ _ 3309 l5]

theorem fwImage_parts : fwSigned fwImage = 128 ∧ fwImage.drop 128 = signBlock (sha512 fwHead) ∧
    fwImage.take 128 = fwHead ∧ fwImage.length = 5496 := by
  have h : fwHead.length = 128 := by decide +kernel
  exact ⟨by decide +kernel, List.drop_left' h, List.take_left' h, by simp [fwImage, h, signBlock_length]⟩

/-- The image passes every check of Table 16.7 on a device of grade 0 that fuses its key pair in slot 0. -/
theorem fwImage_passes (s : State) (rest : List (List Byte)) (hk : s.mss.keyDigests = keyPairDigest :: rest)
    (hr : s.mss.revoked = 0) (hf : s.mss.svnFloor ≤ 1) (hg : s.mss.grade = 0) : fwChecks s fwImage 5496 = none := by
  obtain ⟨p1, p2, p3, -⟩ := fwImage_parts
  obtain ⟨s1, s2, s3, s4⟩ := signBlock_slices (sha512 fwHead)
  have slot : (fwSlot s fwImage).isSome = true := by
    simp [fwSlot, p1, p2, s1, s3, hk, hr, upTo, List.range_succ, keyPairDigest]
  have c3 : (leAt fwImage 4 1 == 1) = true := by decide +kernel
  have c4 : (leAt (signBlock (sha512 fwHead)) 0 2 == 1) = true := by decide +kernel
  have c8 : leAt fwImage 12 1 = 1 := by decide +kernel
  have c9 : leAt fwImage 6 1 = 7 ∧ leAt fwImage 7 1 = 0xB1 := by decide +kernel
  simp only [fwChecks, p1, p2, fwDigest, p3, s1, s2, s3, s4, slot, c3, c4, c8, c9, ed25519_neutral, mldsa_zero, hf, hg]
  rfl

/-! ### A cord image -/

/-- A section's directory entry. -/
def dirEntry (ty off : Nat) (body : List Byte) : List Byte :=
  leBytes 2 ty ++ [0, 0] ++ leBytes 4 off ++ leBytes 4 body.length ++ leBytes 4 (crc32c body).toNat

def cordPorts : List Byte := zeros 512
/-- The default split of table SRAM, with 1,024 spray counters. -/
def cordSram : List Byte := leBytes 2 48 ++ leBytes 2 32 ++ leBytes 2 64 ++ zeros 10 ++ leBytes 4 1024 ++ zeros 12
def cordPools : List Byte := zeros 512
/-- A local store of 256 KiB and no program store for every unit. -/
def cordUnits : List Byte := (List.replicate 208 (leBytes 4 256 ++ zeros 4)).flatten

/-- The header: four sections, serial 7. -/
def cordTop : List Byte :=
  [0x56, 0x43, 0x52, 0x44, 1, 0] ++ leBytes 2 4 ++ leBytes 4 8216 ++ leBytes 4 2848 ++ [7, 0xB1] ++ zeros 6 ++
    leBytes 8 7 ++ zeros 32

def cordHead : List Byte :=
  cordTop ++ (dirEntry 1 128 cordPorts ++ (dirEntry 2 640 cordSram ++ (dirEntry 3 672 cordPools ++
    (dirEntry 4 1184 cordUnits ++ (cordPorts ++ (cordSram ++ (cordPools ++ cordUnits)))))))

def cordImage : List Byte := cordHead ++ signBlock (sha512 cordHead)

theorem cordImage_parts : cordSigned cordImage = 2848 ∧ cordImage.drop 2848 = signBlock (sha512 cordHead) ∧
    cordImage.take 2848 = cordHead ∧ cordImage.length = 8216 := by
  have h : cordHead.length = 2848 := by decide +kernel
  exact ⟨by decide +kernel, List.drop_left' h, List.take_left' h, by simp [cordImage, h, signBlock_length]⟩

theorem fromLe_leBytes (n : Nat) : ∀ v, fromLe (leBytes n v) = v % 256 ^ n := by
  induction n with
  | zero => intro v; simp [leBytes, fromLe, Nat.mod_one]
  | succ n ih =>
    intro v
    simp only [leBytes, fromLe, ih, BitVec.toNat_ofNat, Nat.reducePow]
    rw [Nat.pow_succ, Nat.mul_comm (256 ^ n), Nat.mod_mul]

theorem dirEntry_length (ty off : Nat) (b : List Byte) : (dirEntry ty off b).length = 16 := by
  simp [dirEntry, leBytes_length]

/-- The check symbol an entry holds. -/
theorem dirEntry_crc (ty off : Nat) (b rest : List Byte) :
    leAt (dirEntry ty off b ++ rest) 12 4 = (crc32c b).toNat := by
  have e : dirEntry ty off b ++ rest = (leBytes 2 ty ++ [0, 0] ++ leBytes 4 off ++ leBytes 4 b.length) ++
      (leBytes 4 (crc32c b).toNat ++ rest) := by simp only [dirEntry, List.append_assoc]
  rw [e, leAt, slice_right _ _ 12 4 (by simp [leBytes_length]) 0, slice_whole _ _ 4 (leBytes_length _ _),
    fromLe_leBytes]
  exact Nat.mod_eq_of_lt (crc32c b).isLt

theorem leAt_right (a b : List Byte) (k n : Nat) (h : a.length = k) (i : Nat) :
    leAt (a ++ b) (k + i) n = leAt b i n := by
  rw [leAt, leAt, slice_right a b k n h]

/-- The directory. -/
theorem cordImage_dir : cordDir cordImage =
    [ { ty := 1, flags := 0, zero := 0, off := 128, len := 512, crc := (crc32c cordPorts).toNat },
      { ty := 2, flags := 0, zero := 0, off := 640, len := 32, crc := (crc32c cordSram).toNat },
      { ty := 3, flags := 0, zero := 0, off := 672, len := 512, crc := (crc32c cordPools).toNat },
      { ty := 4, flags := 0, zero := 0, off := 1184, len := 1664, crc := (crc32c cordUnits).toNat } ] := by
  have n : cordSections cordImage = 4 := by decide +kernel
  have t : cordTop.length = 64 := by decide
  have d := dirEntry_length
  have c1 : leAt cordImage 76 4 = (crc32c cordPorts).toNat := by
    rw [cordImage, cordHead, List.append_assoc, leAt_right _ _ 64 4 t 12, List.append_assoc, dirEntry_crc]
  have c2 : leAt cordImage 92 4 = (crc32c cordSram).toNat := by
    rw [cordImage, cordHead, List.append_assoc, leAt_right _ _ 64 4 t 28, List.append_assoc,
      leAt_right _ _ 16 4 (d ..) 12, List.append_assoc, dirEntry_crc]
  have c3 : leAt cordImage 108 4 = (crc32c cordPools).toNat := by
    rw [cordImage, cordHead, List.append_assoc, leAt_right _ _ 64 4 t 44, List.append_assoc,
      leAt_right _ _ 16 4 (d ..) 28, List.append_assoc, leAt_right _ _ 16 4 (d ..) 12, List.append_assoc, dirEntry_crc]
  have c4 : leAt cordImage 124 4 = (crc32c cordUnits).toNat := by
    rw [cordImage, cordHead, List.append_assoc, leAt_right _ _ 64 4 t 60, List.append_assoc,
      leAt_right _ _ 16 4 (d ..) 44, List.append_assoc, leAt_right _ _ 16 4 (d ..) 28, List.append_assoc,
      leAt_right _ _ 16 4 (d ..) 12, List.append_assoc, dirEntry_crc]
  have f : (upTo 4).map (fun k => [leAt cordImage (64 + 16 * k) 2, leAt cordImage (66 + 16 * k) 1,
      leAt cordImage (67 + 16 * k) 1, leAt cordImage (68 + 16 * k) 4, leAt cordImage (72 + 16 * k) 4]) =
      [[1, 0, 0, 128, 512], [2, 0, 0, 640, 32], [3, 0, 0, 672, 512], [4, 0, 0, 1184, 1664]] := by decide +kernel
  simp only [upTo, List.range_succ, List.range_zero, List.map_cons, List.map_nil, List.nil_append,
    List.cons_append, List.cons.injEq, and_true, Nat.reduceAdd, Nat.reduceMul] at f
  simp only [cordDir, n, upTo, List.range_succ, List.range_zero, List.map_cons, List.map_nil,
    List.nil_append, List.cons_append, Nat.reduceAdd, Nat.reduceMul, f, c1, c2, c3, c4]

theorem cordImage_slices : slice cordImage 128 512 = cordPorts ∧ slice cordImage 640 32 = cordSram ∧
    slice cordImage 672 512 = cordPools ∧ slice cordImage 1184 1664 = cordUnits := by
  decide +kernel

theorem cordImage_dirOk :
    (upTo (cordSections cordImage)).find? (fun k => !dirOk cordImage (cordDir cordImage) k) = none := by
  obtain ⟨s1, s2, s3, s4⟩ := cordImage_slices
  have n : cordSections cordImage = 4 := by decide +kernel
  simp only [n, upTo, List.range_succ, List.range_zero, List.nil_append, List.cons_append]
  simp [dirOk, cordImage_dir, cordImage_parts.1, s1, s2, s3, s4]

/-- What the image's directory gives of its sections. -/
theorem cordImage_bodies : (upTo 7).map (fun k => cordBody cordImage (k + 1)) =
    [cordPorts, cordSram, cordPools, cordUnits, [], [], []] := by
  obtain ⟨s1, s2, s3, s4⟩ := cordImage_slices
  simp [upTo, List.range_succ, cordBody, cordImage_dir, s1, s2, s3, s4]

theorem cordImage_sections : (upTo 7).map (fun k => hasSection cordImage (k + 1)) =
    [true, true, true, true, false, false, false] := by
  simp [upTo, List.range_succ, hasSection, cordImage_dir]

theorem drop_repeated (r : List Byte) (k : Nat) :
    ∀ n, (List.replicate (k + n) r).flatten.drop (r.length * k) = (List.replicate n r).flatten := by
  induction k with
  | zero => intro n; simp
  | succ k ih =>
    intro n
    rw [show k + 1 + n = (k + n) + 1 by omega, List.replicate_succ, List.flatten_cons, Nat.mul_succ, Nat.add_comm,
      ← List.drop_drop, List.drop_left, ih]

theorem cordUnits_records (n u : Nat) (hn : n < 16) (hu : u < 13) : unitsRec cordUnits n u = (256, 0, 0) := by
  have h : cordUnits.drop (8 * (13 * n + u)) =
      (leBytes 4 256 ++ zeros 4) ++ (List.replicate (207 - (13 * n + u)) (leBytes 4 256 ++ zeros 4)).flatten := by
    have e := drop_repeated (leBytes 4 256 ++ zeros 4) (13 * n + u) (207 - (13 * n + u) + 1)
    rw [show 13 * n + u + (207 - (13 * n + u) + 1) = 208 by omega, List.replicate_succ, List.flatten_cons] at e
    exact e
  simp only [unitsRec, leAt, slice, ← List.drop_drop, h]
  rfl

theorem cordUnits_ok : unitsOk State.reset cordUnits cordPools 32 = true := by
  have l : cordUnits.length = 1664 := by decide +kernel
  have p : ∀ n, n < 16 → poolsBytes cordPools n = 0 := by decide +kernel
  have m : ∀ u, u < 13 → localMin u ≤ 256 := by decide
  simp only [unitsOk, l, BEq.rfl, Bool.true_and, List.all_eq_true, upTo, List.mem_range]
  intro n hn
  have us : ∀ u ∈ (upTo 13).filter (unitPresent State.reset), u < 13 := by
    intro u hu
    exact List.mem_range.1 (List.mem_filter.1 hu).1
  have sum : ((upTo 13).filter (unitPresent State.reset)).map (fun u => (unitsRec cordUnits n u).1) =
      ((upTo 13).filter (unitPresent State.reset)).map (fun _ => 256) :=
    List.map_congr_left fun u hu => by rw [cordUnits_records n u hn (us u hu)]
  have total : (((upTo 13).filter (unitPresent State.reset)).map (fun _ => 256)).foldl (· + ·) 0 ≤ 3328 := by
    decide +kernel
  simp only [unitsGroupOk, sum, p n hn, Bool.and_eq_true, List.all_eq_true, decide_eq_true_eq]
  refine ⟨fun u hu => ⟨⟨?_, ?_⟩, fun v hv => ?_⟩, ?_⟩
  · rw [cordUnits_records n u hn (us u hu)]; exact m u (us u hu)
  · simp only [cordUnits_records n u hn (us u hu)]; simp
  · rw [cordUnits_records n u hn (us u hu), cordUnits_records n v hn (us v hv)]; simp [sharesMeet]
  · rw [Nat.add_zero]
    exact Nat.le_trans (Nat.mul_le_mul_right 1024 total) (by decide)

theorem cordStructure_passes (s : State) (hg : s.mss.grade = 0) :
    (structureChecks s cordImage).all (fun o => o.isNone) = true := by
  have h : unitPresent s = unitPresent State.reset := by
    funext u
    simp only [unitPresent, hg]
    rfl
  have hu : unitsGroupOk s = unitsGroupOk State.reset := by
    funext b p x n
    simp only [unitsGroupOk, h]
  have e : structureChecks s cordImage = structureChecks State.reset cordImage := by
    simp only [structureChecks, sectionOk, unitsOk, hu, h]
  have b := cordImage_bodies
  have d := cordImage_sections
  simp only [upTo, List.range_succ, List.range_zero, List.map_cons, List.map_nil, List.nil_append,
    List.cons_append, List.cons.injEq, and_true, Nat.reduceAdd] at b d
  obtain ⟨b1, b2, b3, b4, b5, b6, b7⟩ := b
  obtain ⟨d1, d2, d3, d4, d5, d6, d7⟩ := d
  have u : unitsOk State.reset cordUnits cordPools 32 = true := cordUnits_ok
  have q : portsOk cordPorts = true ∧ sramOk cordSram = true ∧ poolsOk cordPools 32 = true ∧
      leAt cordSram 2 2 = 32 := by
    decide +kernel
  rw [e]
  simp [structureChecks, sectionOk, cordH, b1, b2, b3, b4, b5, b6, d1, d2, d3, d4, d5, d6, d7, u, q]
  refine ⟨?_, by decide +kernel, by decide +kernel⟩
  have all_ : (upTo 13).all (fun u => unitPresent State.reset u) = true := by decide +kernel
  have pres (u : Nat) (hu : u ∈ upTo 13) : unitPresent State.reset u = true := List.all_eq_true.1 all_ u hu
  rw [cordCheck, if_pos]
  simp only [List.all_eq_true]
  intro n _ u hu
  rw [pres u hu, Bool.true_or]

/-- The image passes every check of Table 13.5 on a device of grade 0 whose firmware holds its key pair's digest. -/
theorem cordImage_passes (s : State) (hk : s.mss.fw.cordKeys = [keyPairDigest]) (hf : s.cord.floor.toNat ≤ 7)
    (hg : s.mss.grade = 0) : cordVerdict s cordImage = none := by
  obtain ⟨p1, p2, p3, -⟩ := cordImage_parts
  obtain ⟨s1, s2, s3, s4⟩ := signBlock_slices (sha512 cordHead)
  have serial : (cordSerialOf cordImage).toNat = 7 := by decide +kernel
  have d := cordImage_sections
  simp only [upTo, List.range_succ, List.range_zero, List.map_cons, List.map_nil, List.nil_append,
    List.cons_append, List.cons.injEq, and_true, Nat.reduceAdd] at d
  obtain ⟨d1, d2, d3, d4, d5, d6, d7⟩ := d
  have key : [keyPairDigest].contains (sha512 (edKey ++ dsaKey)) = true := by simp [keyPairDigest]
  have rest := cordStructure_passes s hg
  rw [cordVerdict, List.findSome?_eq_none_iff]
  intro x hx
  rcases List.mem_append.1 hx with h | h
  · simp only [containerChecks, p1, p2, cordDigest, p3, s1, s2, s3, s4, hk, key, ed25519_neutral, mldsa_zero, serial,
      hf, hg, List.mem_cons, List.not_mem_nil, or_false] at h
    have ok (c : Bool) (e : CordFail) (hc : c = true) : cordCheck c e = none := by rw [cordCheck, if_pos hc]
    rcases h with h | h | h | h | h | h | h | h | h | h | h | h <;> rw [id, h]
    · exact ok _ _ (by decide +kernel)
    · exact ok _ _ (by decide +kernel)
    · exact ok _ _ (by decide +kernel)
    · exact ok _ _ (by decide +kernel)
    · rfl
    · rfl
    · rfl
    · exact ok _ _ (by decide +kernel)
    · exact ok _ _ (by decide +kernel)
    · rw [cordImage_dirOk]; rfl
    · rw [cordImage_dir]; rfl
    · simp [d1, d2, d3, d4]
  · simpa using List.all_eq_true.1 rest x h

/-- The staged copy that holds the image is read as the image. -/
theorem cordImage_staged (s : State) (h : s.cord.staged = storeOf 0 cordImage) : stagedImage s = cordImage := by
  have g (i : Nat) : Map.getD (storeOf 0 cordImage) i 0 = nthD cordImage i 0 := by
    simpa using storeOf_getD cordImage 0 i
  have n : min (max (fromLe ((upTo 4).map (fun i => nthD cordImage (8 + i) 0))) 64) 4194304 = cordImage.length := by
    rw [cordImage_parts.2.2.2]
    decide +kernel
  have r := storeOf_read cordImage
  simp only [g] at r
  simp only [stagedImage, h, g, n, r]

/-- The firmware region that holds the image is read as the image. -/
theorem fwImage_flash (s : State) (h : s.mss.flash = storeOf 0 fwImage) : flashImage s = fwImage := by
  have g (i : Nat) : Map.getD (storeOf 0 fwImage) i 0 = nthD fwImage i 0 := by
    simpa using storeOf_getD fwImage 0 i
  have n : min (max (fromLe ((upTo 4).map (fun i => nthD fwImage (16 + i) 0))) 64) 12582912 = fwImage.length := by
    rw [fwImage_parts.2.2.2]
    decide +kernel
  have r := storeOf_read fwImage
  simp only [g] at r
  simp only [flashImage, h, g, n, r]

theorem romVerdict_of {s : State} (h : fwChecks s (flashImage s) (leAt (flashImage s) 16 4) = none) :
    romVerdict s = 0 := by
  rw [romVerdict, h, imageCause]

theorem fwImage_total : leAt fwImage 16 4 = 5496 := by decide +kernel

/-- A start finds the image good. -/
theorem fwImage_starts (s : State) (rest : List (List Byte)) (h : s.mss.flash = storeOf 0 fwImage)
    (hk : s.mss.keyDigests = keyPairDigest :: rest) (hr : s.mss.revoked = 0) (hf : s.mss.svnFloor ≤ 1)
    (hg : s.mss.grade = 0) : romVerdict s = 0 := by
  apply romVerdict_of
  rw [fwImage_flash s h, fwImage_total]
  exact fwImage_passes s rest hk hr hf hg

/-- The image that a staged update of 5,496 octets holds. -/
theorem fwImage_staged (s : State) (h : s.mss.staging = storeOf 0 fwImage) (n : s.mss.stagedLen = 5496) :
    stagedFw s = fwImage := by
  have r := storeOf_read fwImage
  rw [fwImage_parts.2.2.2] at r
  simp only [stagedFw, h, n, r]

end Sys2Proof.Laws
end

