-- ==== Sys2Proof/Laws/State.lean ====
section
/-! SUPPORT. What the named updates of the state change and what they leave: one equation for each field and update. -/

namespace Sys2Proof.Machine

open Sys2Proof

/-! ### Fields an update leaves -/

@[simp] theorem setReg_time (s : State) (a : Nat) (v : W64) : (setReg s a v).time = s.time := rfl
@[simp] theorem setReg_ports (s : State) (a : Nat) (v : W64) : (setReg s a v).ports = s.ports := rfl
@[simp] theorem setReg_sw (s : State) (a : Nat) (v : W64) : (setReg s a v).sw = s.sw := rfl
@[simp] theorem setReg_mem (s : State) (a : Nat) (v : W64) : (setReg s a v).mem = s.mem := rfl
@[simp] theorem setReg_bpm (s : State) (a : Nat) (v : W64) : (setReg s a v).bpm = s.bpm := rfl
@[simp] theorem setReg_groups (s : State) (a : Nat) (v : W64) : (setReg s a v).groups = s.groups := rfl
@[simp] theorem setReg_ctx (s : State) (a : Nat) (v : W64) : (setReg s a v).ctx = s.ctx := rfl
@[simp] theorem setReg_moe (s : State) (a : Nat) (v : W64) : (setReg s a v).moe = s.moe := rfl
@[simp] theorem setReg_cord (s : State) (a : Nat) (v : W64) : (setReg s a v).cord = s.cord := rfl
@[simp] theorem setReg_host (s : State) (a : Nat) (v : W64) : (setReg s a v).host = s.host := rfl
@[simp] theorem setReg_pwr (s : State) (a : Nat) (v : W64) : (setReg s a v).pwr = s.pwr := rfl
@[simp] theorem setReg_mss (s : State) (a : Nat) (v : W64) : (setReg s a v).mss = s.mss := rfl
@[simp] theorem setReg_twn (s : State) (a : Nat) (v : W64) : (setReg s a v).twn = s.twn := rfl
@[simp] theorem setReg_dbg (s : State) (a : Nat) (v : W64) : (setReg s a v).dbg = s.dbg := rfl
@[simp] theorem setReg_lastStatus (s : State) (a : Nat) (v : W64) : (setReg s a v).lastStatus = s.lastStatus := rfl
@[simp] theorem setReg_freeCtr (s : State) (a : Nat) (v : W64) : (setReg s a v).freeCtr = s.freeCtr := rfl
@[simp] theorem setReg_wire (s : State) (a : Nat) (v : W64) : (setReg s a v).wire = s.wire := rfl
@[simp] theorem setReg_pending (s : State) (a : Nat) (v : W64) : (setReg s a v).pending = s.pending := rfl

@[simp] theorem setPort_regs (s : State) (k : Nat) (p : Port) : (setPort s k p).regs = s.regs := rfl
@[simp] theorem setPort_time (s : State) (k : Nat) (p : Port) : (setPort s k p).time = s.time := rfl
@[simp] theorem setPort_sw (s : State) (k : Nat) (p : Port) : (setPort s k p).sw = s.sw := rfl
@[simp] theorem setPort_mem (s : State) (k : Nat) (p : Port) : (setPort s k p).mem = s.mem := rfl
@[simp] theorem setPort_bpm (s : State) (k : Nat) (p : Port) : (setPort s k p).bpm = s.bpm := rfl
@[simp] theorem setPort_groups (s : State) (k : Nat) (p : Port) : (setPort s k p).groups = s.groups := rfl
@[simp] theorem setPort_ctx (s : State) (k : Nat) (p : Port) : (setPort s k p).ctx = s.ctx := rfl
@[simp] theorem setPort_moe (s : State) (k : Nat) (p : Port) : (setPort s k p).moe = s.moe := rfl
@[simp] theorem setPort_cord (s : State) (k : Nat) (p : Port) : (setPort s k p).cord = s.cord := rfl
@[simp] theorem setPort_host (s : State) (k : Nat) (p : Port) : (setPort s k p).host = s.host := rfl
@[simp] theorem setPort_pwr (s : State) (k : Nat) (p : Port) : (setPort s k p).pwr = s.pwr := rfl
@[simp] theorem setPort_mss (s : State) (k : Nat) (p : Port) : (setPort s k p).mss = s.mss := rfl
@[simp] theorem setPort_twn (s : State) (k : Nat) (p : Port) : (setPort s k p).twn = s.twn := rfl
@[simp] theorem setPort_dbg (s : State) (k : Nat) (p : Port) : (setPort s k p).dbg = s.dbg := rfl
@[simp] theorem setPort_lastStatus (s : State) (k : Nat) (p : Port) : (setPort s k p).lastStatus = s.lastStatus := rfl
@[simp] theorem setPort_freeCtr (s : State) (k : Nat) (p : Port) : (setPort s k p).freeCtr = s.freeCtr := rfl
@[simp] theorem setPort_wire (s : State) (k : Nat) (p : Port) : (setPort s k p).wire = s.wire := rfl
@[simp] theorem setPort_pending (s : State) (k : Nat) (p : Port) : (setPort s k p).pending = s.pending := rfl

@[simp] theorem modPort_regs (s : State) (k : Nat) (f : Port → Port) : (modPort s k f).regs = s.regs := rfl
@[simp] theorem modPort_time (s : State) (k : Nat) (f : Port → Port) : (modPort s k f).time = s.time := rfl
@[simp] theorem modPort_sw (s : State) (k : Nat) (f : Port → Port) : (modPort s k f).sw = s.sw := rfl
@[simp] theorem modPort_mem (s : State) (k : Nat) (f : Port → Port) : (modPort s k f).mem = s.mem := rfl
@[simp] theorem modPort_bpm (s : State) (k : Nat) (f : Port → Port) : (modPort s k f).bpm = s.bpm := rfl
@[simp] theorem modPort_groups (s : State) (k : Nat) (f : Port → Port) : (modPort s k f).groups = s.groups := rfl
@[simp] theorem modPort_ctx (s : State) (k : Nat) (f : Port → Port) : (modPort s k f).ctx = s.ctx := rfl
@[simp] theorem modPort_moe (s : State) (k : Nat) (f : Port → Port) : (modPort s k f).moe = s.moe := rfl
@[simp] theorem modPort_cord (s : State) (k : Nat) (f : Port → Port) : (modPort s k f).cord = s.cord := rfl
@[simp] theorem modPort_host (s : State) (k : Nat) (f : Port → Port) : (modPort s k f).host = s.host := rfl
@[simp] theorem modPort_pwr (s : State) (k : Nat) (f : Port → Port) : (modPort s k f).pwr = s.pwr := rfl
@[simp] theorem modPort_mss (s : State) (k : Nat) (f : Port → Port) : (modPort s k f).mss = s.mss := rfl
@[simp] theorem modPort_twn (s : State) (k : Nat) (f : Port → Port) : (modPort s k f).twn = s.twn := rfl
@[simp] theorem modPort_dbg (s : State) (k : Nat) (f : Port → Port) : (modPort s k f).dbg = s.dbg := rfl
@[simp] theorem modPort_lastStatus (s : State) (k : Nat) (f : Port → Port) : (modPort s k f).lastStatus = s.lastStatus := rfl
@[simp] theorem modPort_freeCtr (s : State) (k : Nat) (f : Port → Port) : (modPort s k f).freeCtr = s.freeCtr := rfl
@[simp] theorem modPort_wire (s : State) (k : Nat) (f : Port → Port) : (modPort s k f).wire = s.wire := rfl
@[simp] theorem modPort_pending (s : State) (k : Nat) (f : Port → Port) : (modPort s k f).pending = s.pending := rfl

@[simp] theorem modLink_regs (s : State) (l : LinkId) (f : Port → Port) : (modLink s l f).regs = s.regs := rfl
@[simp] theorem modLink_time (s : State) (l : LinkId) (f : Port → Port) : (modLink s l f).time = s.time := rfl
@[simp] theorem modLink_sw (s : State) (l : LinkId) (f : Port → Port) : (modLink s l f).sw = s.sw := rfl
@[simp] theorem modLink_mem (s : State) (l : LinkId) (f : Port → Port) : (modLink s l f).mem = s.mem := rfl
@[simp] theorem modLink_bpm (s : State) (l : LinkId) (f : Port → Port) : (modLink s l f).bpm = s.bpm := rfl
@[simp] theorem modLink_groups (s : State) (l : LinkId) (f : Port → Port) : (modLink s l f).groups = s.groups := rfl
@[simp] theorem modLink_ctx (s : State) (l : LinkId) (f : Port → Port) : (modLink s l f).ctx = s.ctx := rfl
@[simp] theorem modLink_moe (s : State) (l : LinkId) (f : Port → Port) : (modLink s l f).moe = s.moe := rfl
@[simp] theorem modLink_cord (s : State) (l : LinkId) (f : Port → Port) : (modLink s l f).cord = s.cord := rfl
@[simp] theorem modLink_host (s : State) (l : LinkId) (f : Port → Port) : (modLink s l f).host = s.host := rfl
@[simp] theorem modLink_pwr (s : State) (l : LinkId) (f : Port → Port) : (modLink s l f).pwr = s.pwr := rfl
@[simp] theorem modLink_mss (s : State) (l : LinkId) (f : Port → Port) : (modLink s l f).mss = s.mss := rfl
@[simp] theorem modLink_twn (s : State) (l : LinkId) (f : Port → Port) : (modLink s l f).twn = s.twn := rfl
@[simp] theorem modLink_dbg (s : State) (l : LinkId) (f : Port → Port) : (modLink s l f).dbg = s.dbg := rfl
@[simp] theorem modLink_lastStatus (s : State) (l : LinkId) (f : Port → Port) : (modLink s l f).lastStatus = s.lastStatus := rfl
@[simp] theorem modLink_freeCtr (s : State) (l : LinkId) (f : Port → Port) : (modLink s l f).freeCtr = s.freeCtr := rfl
@[simp] theorem modLink_wire (s : State) (l : LinkId) (f : Port → Port) : (modLink s l f).wire = s.wire := rfl
@[simp] theorem modLink_pending (s : State) (l : LinkId) (f : Port → Port) : (modLink s l f).pending = s.pending := rfl

@[simp] theorem setGroup_regs (s : State) (g : Nat) (x : GroupSt) : (setGroup s g x).regs = s.regs := rfl
@[simp] theorem setGroup_time (s : State) (g : Nat) (x : GroupSt) : (setGroup s g x).time = s.time := rfl
@[simp] theorem setGroup_ports (s : State) (g : Nat) (x : GroupSt) : (setGroup s g x).ports = s.ports := rfl
@[simp] theorem setGroup_sw (s : State) (g : Nat) (x : GroupSt) : (setGroup s g x).sw = s.sw := rfl
@[simp] theorem setGroup_mem (s : State) (g : Nat) (x : GroupSt) : (setGroup s g x).mem = s.mem := rfl
@[simp] theorem setGroup_bpm (s : State) (g : Nat) (x : GroupSt) : (setGroup s g x).bpm = s.bpm := rfl
@[simp] theorem setGroup_ctx (s : State) (g : Nat) (x : GroupSt) : (setGroup s g x).ctx = s.ctx := rfl
@[simp] theorem setGroup_moe (s : State) (g : Nat) (x : GroupSt) : (setGroup s g x).moe = s.moe := rfl
@[simp] theorem setGroup_cord (s : State) (g : Nat) (x : GroupSt) : (setGroup s g x).cord = s.cord := rfl
@[simp] theorem setGroup_host (s : State) (g : Nat) (x : GroupSt) : (setGroup s g x).host = s.host := rfl
@[simp] theorem setGroup_pwr (s : State) (g : Nat) (x : GroupSt) : (setGroup s g x).pwr = s.pwr := rfl
@[simp] theorem setGroup_mss (s : State) (g : Nat) (x : GroupSt) : (setGroup s g x).mss = s.mss := rfl
@[simp] theorem setGroup_twn (s : State) (g : Nat) (x : GroupSt) : (setGroup s g x).twn = s.twn := rfl
@[simp] theorem setGroup_dbg (s : State) (g : Nat) (x : GroupSt) : (setGroup s g x).dbg = s.dbg := rfl
@[simp] theorem setGroup_lastStatus (s : State) (g : Nat) (x : GroupSt) : (setGroup s g x).lastStatus = s.lastStatus := rfl
@[simp] theorem setGroup_freeCtr (s : State) (g : Nat) (x : GroupSt) : (setGroup s g x).freeCtr = s.freeCtr := rfl
@[simp] theorem setGroup_wire (s : State) (g : Nat) (x : GroupSt) : (setGroup s g x).wire = s.wire := rfl
@[simp] theorem setGroup_pending (s : State) (g : Nat) (x : GroupSt) : (setGroup s g x).pending = s.pending := rfl

@[simp] theorem modGroup_regs (s : State) (g : Nat) (f : GroupSt → GroupSt) : (modGroup s g f).regs = s.regs := rfl
@[simp] theorem modGroup_time (s : State) (g : Nat) (f : GroupSt → GroupSt) : (modGroup s g f).time = s.time := rfl
@[simp] theorem modGroup_ports (s : State) (g : Nat) (f : GroupSt → GroupSt) : (modGroup s g f).ports = s.ports := rfl
@[simp] theorem modGroup_sw (s : State) (g : Nat) (f : GroupSt → GroupSt) : (modGroup s g f).sw = s.sw := rfl
@[simp] theorem modGroup_mem (s : State) (g : Nat) (f : GroupSt → GroupSt) : (modGroup s g f).mem = s.mem := rfl
@[simp] theorem modGroup_bpm (s : State) (g : Nat) (f : GroupSt → GroupSt) : (modGroup s g f).bpm = s.bpm := rfl
@[simp] theorem modGroup_ctx (s : State) (g : Nat) (f : GroupSt → GroupSt) : (modGroup s g f).ctx = s.ctx := rfl
@[simp] theorem modGroup_moe (s : State) (g : Nat) (f : GroupSt → GroupSt) : (modGroup s g f).moe = s.moe := rfl
@[simp] theorem modGroup_cord (s : State) (g : Nat) (f : GroupSt → GroupSt) : (modGroup s g f).cord = s.cord := rfl
@[simp] theorem modGroup_host (s : State) (g : Nat) (f : GroupSt → GroupSt) : (modGroup s g f).host = s.host := rfl
@[simp] theorem modGroup_pwr (s : State) (g : Nat) (f : GroupSt → GroupSt) : (modGroup s g f).pwr = s.pwr := rfl
@[simp] theorem modGroup_mss (s : State) (g : Nat) (f : GroupSt → GroupSt) : (modGroup s g f).mss = s.mss := rfl
@[simp] theorem modGroup_twn (s : State) (g : Nat) (f : GroupSt → GroupSt) : (modGroup s g f).twn = s.twn := rfl
@[simp] theorem modGroup_dbg (s : State) (g : Nat) (f : GroupSt → GroupSt) : (modGroup s g f).dbg = s.dbg := rfl
@[simp] theorem modGroup_lastStatus (s : State) (g : Nat) (f : GroupSt → GroupSt) : (modGroup s g f).lastStatus = s.lastStatus := rfl
@[simp] theorem modGroup_freeCtr (s : State) (g : Nat) (f : GroupSt → GroupSt) : (modGroup s g f).freeCtr = s.freeCtr := rfl
@[simp] theorem modGroup_wire (s : State) (g : Nat) (f : GroupSt → GroupSt) : (modGroup s g f).wire = s.wire := rfl
@[simp] theorem modGroup_pending (s : State) (g : Nat) (f : GroupSt → GroupSt) : (modGroup s g f).pending = s.pending := rfl

@[simp] theorem setUnit_regs (s : State) (g u : Nat) (x : UnitSt) : (setUnit s g u x).regs = s.regs := rfl
@[simp] theorem setUnit_time (s : State) (g u : Nat) (x : UnitSt) : (setUnit s g u x).time = s.time := rfl
@[simp] theorem setUnit_ports (s : State) (g u : Nat) (x : UnitSt) : (setUnit s g u x).ports = s.ports := rfl
@[simp] theorem setUnit_sw (s : State) (g u : Nat) (x : UnitSt) : (setUnit s g u x).sw = s.sw := rfl
@[simp] theorem setUnit_mem (s : State) (g u : Nat) (x : UnitSt) : (setUnit s g u x).mem = s.mem := rfl
@[simp] theorem setUnit_bpm (s : State) (g u : Nat) (x : UnitSt) : (setUnit s g u x).bpm = s.bpm := rfl
@[simp] theorem setUnit_ctx (s : State) (g u : Nat) (x : UnitSt) : (setUnit s g u x).ctx = s.ctx := rfl
@[simp] theorem setUnit_moe (s : State) (g u : Nat) (x : UnitSt) : (setUnit s g u x).moe = s.moe := rfl
@[simp] theorem setUnit_cord (s : State) (g u : Nat) (x : UnitSt) : (setUnit s g u x).cord = s.cord := rfl
@[simp] theorem setUnit_host (s : State) (g u : Nat) (x : UnitSt) : (setUnit s g u x).host = s.host := rfl
@[simp] theorem setUnit_pwr (s : State) (g u : Nat) (x : UnitSt) : (setUnit s g u x).pwr = s.pwr := rfl
@[simp] theorem setUnit_mss (s : State) (g u : Nat) (x : UnitSt) : (setUnit s g u x).mss = s.mss := rfl
@[simp] theorem setUnit_twn (s : State) (g u : Nat) (x : UnitSt) : (setUnit s g u x).twn = s.twn := rfl
@[simp] theorem setUnit_dbg (s : State) (g u : Nat) (x : UnitSt) : (setUnit s g u x).dbg = s.dbg := rfl
@[simp] theorem setUnit_lastStatus (s : State) (g u : Nat) (x : UnitSt) : (setUnit s g u x).lastStatus = s.lastStatus := rfl
@[simp] theorem setUnit_freeCtr (s : State) (g u : Nat) (x : UnitSt) : (setUnit s g u x).freeCtr = s.freeCtr := rfl
@[simp] theorem setUnit_wire (s : State) (g u : Nat) (x : UnitSt) : (setUnit s g u x).wire = s.wire := rfl
@[simp] theorem setUnit_pending (s : State) (g u : Nat) (x : UnitSt) : (setUnit s g u x).pending = s.pending := rfl

@[simp] theorem modUnit_regs (s : State) (g u : Nat) (f : UnitSt → UnitSt) : (modUnit s g u f).regs = s.regs := rfl
@[simp] theorem modUnit_time (s : State) (g u : Nat) (f : UnitSt → UnitSt) : (modUnit s g u f).time = s.time := rfl
@[simp] theorem modUnit_ports (s : State) (g u : Nat) (f : UnitSt → UnitSt) : (modUnit s g u f).ports = s.ports := rfl
@[simp] theorem modUnit_sw (s : State) (g u : Nat) (f : UnitSt → UnitSt) : (modUnit s g u f).sw = s.sw := rfl
@[simp] theorem modUnit_mem (s : State) (g u : Nat) (f : UnitSt → UnitSt) : (modUnit s g u f).mem = s.mem := rfl
@[simp] theorem modUnit_bpm (s : State) (g u : Nat) (f : UnitSt → UnitSt) : (modUnit s g u f).bpm = s.bpm := rfl
@[simp] theorem modUnit_ctx (s : State) (g u : Nat) (f : UnitSt → UnitSt) : (modUnit s g u f).ctx = s.ctx := rfl
@[simp] theorem modUnit_moe (s : State) (g u : Nat) (f : UnitSt → UnitSt) : (modUnit s g u f).moe = s.moe := rfl
@[simp] theorem modUnit_cord (s : State) (g u : Nat) (f : UnitSt → UnitSt) : (modUnit s g u f).cord = s.cord := rfl
@[simp] theorem modUnit_host (s : State) (g u : Nat) (f : UnitSt → UnitSt) : (modUnit s g u f).host = s.host := rfl
@[simp] theorem modUnit_pwr (s : State) (g u : Nat) (f : UnitSt → UnitSt) : (modUnit s g u f).pwr = s.pwr := rfl
@[simp] theorem modUnit_mss (s : State) (g u : Nat) (f : UnitSt → UnitSt) : (modUnit s g u f).mss = s.mss := rfl
@[simp] theorem modUnit_twn (s : State) (g u : Nat) (f : UnitSt → UnitSt) : (modUnit s g u f).twn = s.twn := rfl
@[simp] theorem modUnit_dbg (s : State) (g u : Nat) (f : UnitSt → UnitSt) : (modUnit s g u f).dbg = s.dbg := rfl
@[simp] theorem modUnit_lastStatus (s : State) (g u : Nat) (f : UnitSt → UnitSt) : (modUnit s g u f).lastStatus = s.lastStatus := rfl
@[simp] theorem modUnit_freeCtr (s : State) (g u : Nat) (f : UnitSt → UnitSt) : (modUnit s g u f).freeCtr = s.freeCtr := rfl
@[simp] theorem modUnit_wire (s : State) (g u : Nat) (f : UnitSt → UnitSt) : (modUnit s g u f).wire = s.wire := rfl
@[simp] theorem modUnit_pending (s : State) (g u : Nat) (f : UnitSt → UnitSt) : (modUnit s g u f).pending = s.pending := rfl

@[simp] theorem setBuf_regs (g h : Nat) (b : Buf) (s : State) : (setBuf g h b s).regs = s.regs := rfl
@[simp] theorem setBuf_time (g h : Nat) (b : Buf) (s : State) : (setBuf g h b s).time = s.time := rfl
@[simp] theorem setBuf_ports (g h : Nat) (b : Buf) (s : State) : (setBuf g h b s).ports = s.ports := rfl
@[simp] theorem setBuf_sw (g h : Nat) (b : Buf) (s : State) : (setBuf g h b s).sw = s.sw := rfl
@[simp] theorem setBuf_mem (g h : Nat) (b : Buf) (s : State) : (setBuf g h b s).mem = s.mem := rfl
@[simp] theorem setBuf_bpm (g h : Nat) (b : Buf) (s : State) : (setBuf g h b s).bpm = s.bpm := rfl
@[simp] theorem setBuf_ctx (g h : Nat) (b : Buf) (s : State) : (setBuf g h b s).ctx = s.ctx := rfl
@[simp] theorem setBuf_moe (g h : Nat) (b : Buf) (s : State) : (setBuf g h b s).moe = s.moe := rfl
@[simp] theorem setBuf_cord (g h : Nat) (b : Buf) (s : State) : (setBuf g h b s).cord = s.cord := rfl
@[simp] theorem setBuf_host (g h : Nat) (b : Buf) (s : State) : (setBuf g h b s).host = s.host := rfl
@[simp] theorem setBuf_pwr (g h : Nat) (b : Buf) (s : State) : (setBuf g h b s).pwr = s.pwr := rfl
@[simp] theorem setBuf_mss (g h : Nat) (b : Buf) (s : State) : (setBuf g h b s).mss = s.mss := rfl
@[simp] theorem setBuf_twn (g h : Nat) (b : Buf) (s : State) : (setBuf g h b s).twn = s.twn := rfl
@[simp] theorem setBuf_dbg (g h : Nat) (b : Buf) (s : State) : (setBuf g h b s).dbg = s.dbg := rfl
@[simp] theorem setBuf_lastStatus (g h : Nat) (b : Buf) (s : State) : (setBuf g h b s).lastStatus = s.lastStatus := rfl
@[simp] theorem setBuf_freeCtr (g h : Nat) (b : Buf) (s : State) : (setBuf g h b s).freeCtr = s.freeCtr := rfl
@[simp] theorem setBuf_wire (g h : Nat) (b : Buf) (s : State) : (setBuf g h b s).wire = s.wire := rfl
@[simp] theorem setBuf_pending (g h : Nat) (b : Buf) (s : State) : (setBuf g h b s).pending = s.pending := rfl

@[simp] theorem freeBuf_regs (g h : Nat) (s : State) : (freeBuf g h s).regs = s.regs := rfl
@[simp] theorem freeBuf_time (g h : Nat) (s : State) : (freeBuf g h s).time = s.time := rfl
@[simp] theorem freeBuf_ports (g h : Nat) (s : State) : (freeBuf g h s).ports = s.ports := rfl
@[simp] theorem freeBuf_sw (g h : Nat) (s : State) : (freeBuf g h s).sw = s.sw := rfl
@[simp] theorem freeBuf_mem (g h : Nat) (s : State) : (freeBuf g h s).mem = s.mem := rfl
@[simp] theorem freeBuf_bpm (g h : Nat) (s : State) : (freeBuf g h s).bpm = s.bpm := rfl
@[simp] theorem freeBuf_ctx (g h : Nat) (s : State) : (freeBuf g h s).ctx = s.ctx := rfl
@[simp] theorem freeBuf_moe (g h : Nat) (s : State) : (freeBuf g h s).moe = s.moe := rfl
@[simp] theorem freeBuf_cord (g h : Nat) (s : State) : (freeBuf g h s).cord = s.cord := rfl
@[simp] theorem freeBuf_host (g h : Nat) (s : State) : (freeBuf g h s).host = s.host := rfl
@[simp] theorem freeBuf_pwr (g h : Nat) (s : State) : (freeBuf g h s).pwr = s.pwr := rfl
@[simp] theorem freeBuf_mss (g h : Nat) (s : State) : (freeBuf g h s).mss = s.mss := rfl
@[simp] theorem freeBuf_twn (g h : Nat) (s : State) : (freeBuf g h s).twn = s.twn := rfl
@[simp] theorem freeBuf_dbg (g h : Nat) (s : State) : (freeBuf g h s).dbg = s.dbg := rfl
@[simp] theorem freeBuf_lastStatus (g h : Nat) (s : State) : (freeBuf g h s).lastStatus = s.lastStatus := rfl
@[simp] theorem freeBuf_freeCtr (g h : Nat) (s : State) : (freeBuf g h s).freeCtr = s.freeCtr := rfl
@[simp] theorem freeBuf_wire (g h : Nat) (s : State) : (freeBuf g h s).wire = s.wire := rfl
@[simp] theorem freeBuf_pending (g h : Nat) (s : State) : (freeBuf g h s).pending = s.pending := rfl

@[simp] theorem emit_regs (s : State) (w : WireOut) : (emit s w).regs = s.regs := rfl
@[simp] theorem emit_time (s : State) (w : WireOut) : (emit s w).time = s.time := rfl
@[simp] theorem emit_ports (s : State) (w : WireOut) : (emit s w).ports = s.ports := rfl
@[simp] theorem emit_sw (s : State) (w : WireOut) : (emit s w).sw = s.sw := rfl
@[simp] theorem emit_mem (s : State) (w : WireOut) : (emit s w).mem = s.mem := rfl
@[simp] theorem emit_bpm (s : State) (w : WireOut) : (emit s w).bpm = s.bpm := rfl
@[simp] theorem emit_groups (s : State) (w : WireOut) : (emit s w).groups = s.groups := rfl
@[simp] theorem emit_ctx (s : State) (w : WireOut) : (emit s w).ctx = s.ctx := rfl
@[simp] theorem emit_moe (s : State) (w : WireOut) : (emit s w).moe = s.moe := rfl
@[simp] theorem emit_cord (s : State) (w : WireOut) : (emit s w).cord = s.cord := rfl
@[simp] theorem emit_host (s : State) (w : WireOut) : (emit s w).host = s.host := rfl
@[simp] theorem emit_pwr (s : State) (w : WireOut) : (emit s w).pwr = s.pwr := rfl
@[simp] theorem emit_mss (s : State) (w : WireOut) : (emit s w).mss = s.mss := rfl
@[simp] theorem emit_twn (s : State) (w : WireOut) : (emit s w).twn = s.twn := rfl
@[simp] theorem emit_dbg (s : State) (w : WireOut) : (emit s w).dbg = s.dbg := rfl
@[simp] theorem emit_lastStatus (s : State) (w : WireOut) : (emit s w).lastStatus = s.lastStatus := rfl
@[simp] theorem emit_freeCtr (s : State) (w : WireOut) : (emit s w).freeCtr = s.freeCtr := rfl
@[simp] theorem emit_pending (s : State) (w : WireOut) : (emit s w).pending = s.pending := rfl

@[simp] theorem withStatus_regs (s : State) (st : Status) : (withStatus s st).regs = s.regs := rfl
@[simp] theorem withStatus_time (s : State) (st : Status) : (withStatus s st).time = s.time := rfl
@[simp] theorem withStatus_ports (s : State) (st : Status) : (withStatus s st).ports = s.ports := rfl
@[simp] theorem withStatus_sw (s : State) (st : Status) : (withStatus s st).sw = s.sw := rfl
@[simp] theorem withStatus_mem (s : State) (st : Status) : (withStatus s st).mem = s.mem := rfl
@[simp] theorem withStatus_bpm (s : State) (st : Status) : (withStatus s st).bpm = s.bpm := rfl
@[simp] theorem withStatus_groups (s : State) (st : Status) : (withStatus s st).groups = s.groups := rfl
@[simp] theorem withStatus_ctx (s : State) (st : Status) : (withStatus s st).ctx = s.ctx := rfl
@[simp] theorem withStatus_moe (s : State) (st : Status) : (withStatus s st).moe = s.moe := rfl
@[simp] theorem withStatus_cord (s : State) (st : Status) : (withStatus s st).cord = s.cord := rfl
@[simp] theorem withStatus_host (s : State) (st : Status) : (withStatus s st).host = s.host := rfl
@[simp] theorem withStatus_pwr (s : State) (st : Status) : (withStatus s st).pwr = s.pwr := rfl
@[simp] theorem withStatus_mss (s : State) (st : Status) : (withStatus s st).mss = s.mss := rfl
@[simp] theorem withStatus_twn (s : State) (st : Status) : (withStatus s st).twn = s.twn := rfl
@[simp] theorem withStatus_dbg (s : State) (st : Status) : (withStatus s st).dbg = s.dbg := rfl
@[simp] theorem withStatus_freeCtr (s : State) (st : Status) : (withStatus s st).freeCtr = s.freeCtr := rfl
@[simp] theorem withStatus_wire (s : State) (st : Status) : (withStatus s st).wire = s.wire := rfl
@[simp] theorem withStatus_pending (s : State) (st : Status) : (withStatus s st).pending = s.pending := rfl

@[simp] theorem setWindow_regs (k : Nat) (w : Window) (s : State) : (setWindow k w s).regs = s.regs := rfl
@[simp] theorem setWindow_time (k : Nat) (w : Window) (s : State) : (setWindow k w s).time = s.time := rfl
@[simp] theorem setWindow_ports (k : Nat) (w : Window) (s : State) : (setWindow k w s).ports = s.ports := rfl
@[simp] theorem setWindow_mem (k : Nat) (w : Window) (s : State) : (setWindow k w s).mem = s.mem := rfl
@[simp] theorem setWindow_bpm (k : Nat) (w : Window) (s : State) : (setWindow k w s).bpm = s.bpm := rfl
@[simp] theorem setWindow_groups (k : Nat) (w : Window) (s : State) : (setWindow k w s).groups = s.groups := rfl
@[simp] theorem setWindow_ctx (k : Nat) (w : Window) (s : State) : (setWindow k w s).ctx = s.ctx := rfl
@[simp] theorem setWindow_moe (k : Nat) (w : Window) (s : State) : (setWindow k w s).moe = s.moe := rfl
@[simp] theorem setWindow_cord (k : Nat) (w : Window) (s : State) : (setWindow k w s).cord = s.cord := rfl
@[simp] theorem setWindow_host (k : Nat) (w : Window) (s : State) : (setWindow k w s).host = s.host := rfl
@[simp] theorem setWindow_pwr (k : Nat) (w : Window) (s : State) : (setWindow k w s).pwr = s.pwr := rfl
@[simp] theorem setWindow_mss (k : Nat) (w : Window) (s : State) : (setWindow k w s).mss = s.mss := rfl
@[simp] theorem setWindow_twn (k : Nat) (w : Window) (s : State) : (setWindow k w s).twn = s.twn := rfl
@[simp] theorem setWindow_dbg (k : Nat) (w : Window) (s : State) : (setWindow k w s).dbg = s.dbg := rfl
@[simp] theorem setWindow_lastStatus (k : Nat) (w : Window) (s : State) : (setWindow k w s).lastStatus = s.lastStatus := rfl
@[simp] theorem setWindow_freeCtr (k : Nat) (w : Window) (s : State) : (setWindow k w s).freeCtr = s.freeCtr := rfl
@[simp] theorem setWindow_wire (k : Nat) (w : Window) (s : State) : (setWindow k w s).wire = s.wire := rfl
@[simp] theorem setWindow_pending (k : Nat) (w : Window) (s : State) : (setWindow k w s).pending = s.pending := rfl

@[simp] theorem setCtx_regs (c : Nat) (x : Ctx) (s : State) : (setCtx c x s).regs = s.regs := rfl
@[simp] theorem setCtx_time (c : Nat) (x : Ctx) (s : State) : (setCtx c x s).time = s.time := rfl
@[simp] theorem setCtx_ports (c : Nat) (x : Ctx) (s : State) : (setCtx c x s).ports = s.ports := rfl
@[simp] theorem setCtx_sw (c : Nat) (x : Ctx) (s : State) : (setCtx c x s).sw = s.sw := rfl
@[simp] theorem setCtx_mem (c : Nat) (x : Ctx) (s : State) : (setCtx c x s).mem = s.mem := rfl
@[simp] theorem setCtx_bpm (c : Nat) (x : Ctx) (s : State) : (setCtx c x s).bpm = s.bpm := rfl
@[simp] theorem setCtx_groups (c : Nat) (x : Ctx) (s : State) : (setCtx c x s).groups = s.groups := rfl
@[simp] theorem setCtx_moe (c : Nat) (x : Ctx) (s : State) : (setCtx c x s).moe = s.moe := rfl
@[simp] theorem setCtx_cord (c : Nat) (x : Ctx) (s : State) : (setCtx c x s).cord = s.cord := rfl
@[simp] theorem setCtx_host (c : Nat) (x : Ctx) (s : State) : (setCtx c x s).host = s.host := rfl
@[simp] theorem setCtx_pwr (c : Nat) (x : Ctx) (s : State) : (setCtx c x s).pwr = s.pwr := rfl
@[simp] theorem setCtx_mss (c : Nat) (x : Ctx) (s : State) : (setCtx c x s).mss = s.mss := rfl
@[simp] theorem setCtx_twn (c : Nat) (x : Ctx) (s : State) : (setCtx c x s).twn = s.twn := rfl
@[simp] theorem setCtx_dbg (c : Nat) (x : Ctx) (s : State) : (setCtx c x s).dbg = s.dbg := rfl
@[simp] theorem setCtx_lastStatus (c : Nat) (x : Ctx) (s : State) : (setCtx c x s).lastStatus = s.lastStatus := rfl
@[simp] theorem setCtx_freeCtr (c : Nat) (x : Ctx) (s : State) : (setCtx c x s).freeCtr = s.freeCtr := rfl
@[simp] theorem setCtx_wire (c : Nat) (x : Ctx) (s : State) : (setCtx c x s).wire = s.wire := rfl
@[simp] theorem setCtx_pending (c : Nat) (x : Ctx) (s : State) : (setCtx c x s).pending = s.pending := rfl

@[simp] theorem setTally_regs (t : Nat) (x : TallySt) (s : State) : (setTally t x s).regs = s.regs := rfl
@[simp] theorem setTally_time (t : Nat) (x : TallySt) (s : State) : (setTally t x s).time = s.time := rfl
@[simp] theorem setTally_ports (t : Nat) (x : TallySt) (s : State) : (setTally t x s).ports = s.ports := rfl
@[simp] theorem setTally_sw (t : Nat) (x : TallySt) (s : State) : (setTally t x s).sw = s.sw := rfl
@[simp] theorem setTally_mem (t : Nat) (x : TallySt) (s : State) : (setTally t x s).mem = s.mem := rfl
@[simp] theorem setTally_bpm (t : Nat) (x : TallySt) (s : State) : (setTally t x s).bpm = s.bpm := rfl
@[simp] theorem setTally_groups (t : Nat) (x : TallySt) (s : State) : (setTally t x s).groups = s.groups := rfl
@[simp] theorem setTally_moe (t : Nat) (x : TallySt) (s : State) : (setTally t x s).moe = s.moe := rfl
@[simp] theorem setTally_cord (t : Nat) (x : TallySt) (s : State) : (setTally t x s).cord = s.cord := rfl
@[simp] theorem setTally_host (t : Nat) (x : TallySt) (s : State) : (setTally t x s).host = s.host := rfl
@[simp] theorem setTally_pwr (t : Nat) (x : TallySt) (s : State) : (setTally t x s).pwr = s.pwr := rfl
@[simp] theorem setTally_mss (t : Nat) (x : TallySt) (s : State) : (setTally t x s).mss = s.mss := rfl
@[simp] theorem setTally_twn (t : Nat) (x : TallySt) (s : State) : (setTally t x s).twn = s.twn := rfl
@[simp] theorem setTally_dbg (t : Nat) (x : TallySt) (s : State) : (setTally t x s).dbg = s.dbg := rfl
@[simp] theorem setTally_lastStatus (t : Nat) (x : TallySt) (s : State) : (setTally t x s).lastStatus = s.lastStatus := rfl
@[simp] theorem setTally_freeCtr (t : Nat) (x : TallySt) (s : State) : (setTally t x s).freeCtr = s.freeCtr := rfl
@[simp] theorem setTally_wire (t : Nat) (x : TallySt) (s : State) : (setTally t x s).wire = s.wire := rfl
@[simp] theorem setTally_pending (t : Nat) (x : TallySt) (s : State) : (setTally t x s).pending = s.pending := rfl

@[simp] theorem setBook_regs (l : Nat) (b : Book) (s : State) : (setBook l b s).regs = s.regs := rfl
@[simp] theorem setBook_time (l : Nat) (b : Book) (s : State) : (setBook l b s).time = s.time := rfl
@[simp] theorem setBook_ports (l : Nat) (b : Book) (s : State) : (setBook l b s).ports = s.ports := rfl
@[simp] theorem setBook_sw (l : Nat) (b : Book) (s : State) : (setBook l b s).sw = s.sw := rfl
@[simp] theorem setBook_mem (l : Nat) (b : Book) (s : State) : (setBook l b s).mem = s.mem := rfl
@[simp] theorem setBook_bpm (l : Nat) (b : Book) (s : State) : (setBook l b s).bpm = s.bpm := rfl
@[simp] theorem setBook_groups (l : Nat) (b : Book) (s : State) : (setBook l b s).groups = s.groups := rfl
@[simp] theorem setBook_ctx (l : Nat) (b : Book) (s : State) : (setBook l b s).ctx = s.ctx := rfl
@[simp] theorem setBook_cord (l : Nat) (b : Book) (s : State) : (setBook l b s).cord = s.cord := rfl
@[simp] theorem setBook_host (l : Nat) (b : Book) (s : State) : (setBook l b s).host = s.host := rfl
@[simp] theorem setBook_pwr (l : Nat) (b : Book) (s : State) : (setBook l b s).pwr = s.pwr := rfl
@[simp] theorem setBook_mss (l : Nat) (b : Book) (s : State) : (setBook l b s).mss = s.mss := rfl
@[simp] theorem setBook_twn (l : Nat) (b : Book) (s : State) : (setBook l b s).twn = s.twn := rfl
@[simp] theorem setBook_dbg (l : Nat) (b : Book) (s : State) : (setBook l b s).dbg = s.dbg := rfl
@[simp] theorem setBook_lastStatus (l : Nat) (b : Book) (s : State) : (setBook l b s).lastStatus = s.lastStatus := rfl
@[simp] theorem setBook_freeCtr (l : Nat) (b : Book) (s : State) : (setBook l b s).freeCtr = s.freeCtr := rfl
@[simp] theorem setBook_wire (l : Nat) (b : Book) (s : State) : (setBook l b s).wire = s.wire := rfl
@[simp] theorem setBook_pending (l : Nat) (b : Book) (s : State) : (setBook l b s).pending = s.pending := rfl

@[simp] theorem setLedger_regs (l : Nat) (b : Ledger) (s : State) : (setLedger l b s).regs = s.regs := rfl
@[simp] theorem setLedger_time (l : Nat) (b : Ledger) (s : State) : (setLedger l b s).time = s.time := rfl
@[simp] theorem setLedger_ports (l : Nat) (b : Ledger) (s : State) : (setLedger l b s).ports = s.ports := rfl
@[simp] theorem setLedger_sw (l : Nat) (b : Ledger) (s : State) : (setLedger l b s).sw = s.sw := rfl
@[simp] theorem setLedger_mem (l : Nat) (b : Ledger) (s : State) : (setLedger l b s).mem = s.mem := rfl
@[simp] theorem setLedger_bpm (l : Nat) (b : Ledger) (s : State) : (setLedger l b s).bpm = s.bpm := rfl
@[simp] theorem setLedger_groups (l : Nat) (b : Ledger) (s : State) : (setLedger l b s).groups = s.groups := rfl
@[simp] theorem setLedger_ctx (l : Nat) (b : Ledger) (s : State) : (setLedger l b s).ctx = s.ctx := rfl
@[simp] theorem setLedger_cord (l : Nat) (b : Ledger) (s : State) : (setLedger l b s).cord = s.cord := rfl
@[simp] theorem setLedger_host (l : Nat) (b : Ledger) (s : State) : (setLedger l b s).host = s.host := rfl
@[simp] theorem setLedger_pwr (l : Nat) (b : Ledger) (s : State) : (setLedger l b s).pwr = s.pwr := rfl
@[simp] theorem setLedger_mss (l : Nat) (b : Ledger) (s : State) : (setLedger l b s).mss = s.mss := rfl
@[simp] theorem setLedger_twn (l : Nat) (b : Ledger) (s : State) : (setLedger l b s).twn = s.twn := rfl
@[simp] theorem setLedger_dbg (l : Nat) (b : Ledger) (s : State) : (setLedger l b s).dbg = s.dbg := rfl
@[simp] theorem setLedger_lastStatus (l : Nat) (b : Ledger) (s : State) : (setLedger l b s).lastStatus = s.lastStatus := rfl
@[simp] theorem setLedger_freeCtr (l : Nat) (b : Ledger) (s : State) : (setLedger l b s).freeCtr = s.freeCtr := rfl
@[simp] theorem setLedger_wire (l : Nat) (b : Ledger) (s : State) : (setLedger l b s).wire = s.wire := rfl
@[simp] theorem setLedger_pending (l : Nat) (b : Ledger) (s : State) : (setLedger l b s).pending = s.pending := rfl

@[simp] theorem setHop_regs (h : Hop) (x : HopSt) (s : State) : (setHop h x s).regs = s.regs := by cases h <;> rfl
@[simp] theorem setHop_time (h : Hop) (x : HopSt) (s : State) : (setHop h x s).time = s.time := by cases h <;> rfl
@[simp] theorem setHop_ports (h : Hop) (x : HopSt) (s : State) : (setHop h x s).ports = s.ports := by cases h <;> rfl
@[simp] theorem setHop_sw (h : Hop) (x : HopSt) (s : State) : (setHop h x s).sw = s.sw := by cases h <;> rfl
@[simp] theorem setHop_mem (h : Hop) (x : HopSt) (s : State) : (setHop h x s).mem = s.mem := by cases h <;> rfl
@[simp] theorem setHop_bpm (h : Hop) (x : HopSt) (s : State) : (setHop h x s).bpm = s.bpm := by cases h <;> rfl
@[simp] theorem setHop_groups (h : Hop) (x : HopSt) (s : State) : (setHop h x s).groups = s.groups := by cases h <;> rfl
@[simp] theorem setHop_ctx (h : Hop) (x : HopSt) (s : State) : (setHop h x s).ctx = s.ctx := by cases h <;> rfl
@[simp] theorem setHop_moe (h : Hop) (x : HopSt) (s : State) : (setHop h x s).moe = s.moe := by cases h <;> rfl
@[simp] theorem setHop_cord (h : Hop) (x : HopSt) (s : State) : (setHop h x s).cord = s.cord := by cases h <;> rfl
@[simp] theorem setHop_pwr (h : Hop) (x : HopSt) (s : State) : (setHop h x s).pwr = s.pwr := by cases h <;> rfl
@[simp] theorem setHop_mss (h : Hop) (x : HopSt) (s : State) : (setHop h x s).mss = s.mss := by cases h <;> rfl
@[simp] theorem setHop_twn (h : Hop) (x : HopSt) (s : State) : (setHop h x s).twn = s.twn := by cases h <;> rfl
@[simp] theorem setHop_dbg (h : Hop) (x : HopSt) (s : State) : (setHop h x s).dbg = s.dbg := by cases h <;> rfl
@[simp] theorem setHop_lastStatus (h : Hop) (x : HopSt) (s : State) : (setHop h x s).lastStatus = s.lastStatus := by cases h <;> rfl
@[simp] theorem setHop_freeCtr (h : Hop) (x : HopSt) (s : State) : (setHop h x s).freeCtr = s.freeCtr := by cases h <;> rfl
@[simp] theorem setHop_wire (h : Hop) (x : HopSt) (s : State) : (setHop h x s).wire = s.wire := by cases h <;> rfl
@[simp] theorem setHop_pending (h : Hop) (x : HopSt) (s : State) : (setHop h x s).pending = s.pending := by cases h <;> rfl

@[simp] theorem modHop_regs (h : Hop) (f : HopSt → HopSt) (s : State) : (modHop h f s).regs = s.regs := by cases h <;> rfl
@[simp] theorem modHop_time (h : Hop) (f : HopSt → HopSt) (s : State) : (modHop h f s).time = s.time := by cases h <;> rfl
@[simp] theorem modHop_ports (h : Hop) (f : HopSt → HopSt) (s : State) : (modHop h f s).ports = s.ports := by cases h <;> rfl
@[simp] theorem modHop_sw (h : Hop) (f : HopSt → HopSt) (s : State) : (modHop h f s).sw = s.sw := by cases h <;> rfl
@[simp] theorem modHop_mem (h : Hop) (f : HopSt → HopSt) (s : State) : (modHop h f s).mem = s.mem := by cases h <;> rfl
@[simp] theorem modHop_bpm (h : Hop) (f : HopSt → HopSt) (s : State) : (modHop h f s).bpm = s.bpm := by cases h <;> rfl
@[simp] theorem modHop_groups (h : Hop) (f : HopSt → HopSt) (s : State) : (modHop h f s).groups = s.groups := by cases h <;> rfl
@[simp] theorem modHop_ctx (h : Hop) (f : HopSt → HopSt) (s : State) : (modHop h f s).ctx = s.ctx := by cases h <;> rfl
@[simp] theorem modHop_moe (h : Hop) (f : HopSt → HopSt) (s : State) : (modHop h f s).moe = s.moe := by cases h <;> rfl
@[simp] theorem modHop_cord (h : Hop) (f : HopSt → HopSt) (s : State) : (modHop h f s).cord = s.cord := by cases h <;> rfl
@[simp] theorem modHop_pwr (h : Hop) (f : HopSt → HopSt) (s : State) : (modHop h f s).pwr = s.pwr := by cases h <;> rfl
@[simp] theorem modHop_mss (h : Hop) (f : HopSt → HopSt) (s : State) : (modHop h f s).mss = s.mss := by cases h <;> rfl
@[simp] theorem modHop_twn (h : Hop) (f : HopSt → HopSt) (s : State) : (modHop h f s).twn = s.twn := by cases h <;> rfl
@[simp] theorem modHop_dbg (h : Hop) (f : HopSt → HopSt) (s : State) : (modHop h f s).dbg = s.dbg := by cases h <;> rfl
@[simp] theorem modHop_lastStatus (h : Hop) (f : HopSt → HopSt) (s : State) : (modHop h f s).lastStatus = s.lastStatus := by cases h <;> rfl
@[simp] theorem modHop_freeCtr (h : Hop) (f : HopSt → HopSt) (s : State) : (modHop h f s).freeCtr = s.freeCtr := by cases h <;> rfl
@[simp] theorem modHop_wire (h : Hop) (f : HopSt → HopSt) (s : State) : (modHop h f s).wire = s.wire := by cases h <;> rfl
@[simp] theorem modHop_pending (h : Hop) (f : HopSt → HopSt) (s : State) : (modHop h f s).pending = s.pending := by cases h <;> rfl

@[simp] theorem modMirror_regs (f : Mirror → Mirror) (s : State) : (modMirror f s).regs = s.regs := rfl
@[simp] theorem modMirror_time (f : Mirror → Mirror) (s : State) : (modMirror f s).time = s.time := rfl
@[simp] theorem modMirror_ports (f : Mirror → Mirror) (s : State) : (modMirror f s).ports = s.ports := rfl
@[simp] theorem modMirror_sw (f : Mirror → Mirror) (s : State) : (modMirror f s).sw = s.sw := rfl
@[simp] theorem modMirror_mem (f : Mirror → Mirror) (s : State) : (modMirror f s).mem = s.mem := rfl
@[simp] theorem modMirror_bpm (f : Mirror → Mirror) (s : State) : (modMirror f s).bpm = s.bpm := rfl
@[simp] theorem modMirror_groups (f : Mirror → Mirror) (s : State) : (modMirror f s).groups = s.groups := rfl
@[simp] theorem modMirror_ctx (f : Mirror → Mirror) (s : State) : (modMirror f s).ctx = s.ctx := rfl
@[simp] theorem modMirror_moe (f : Mirror → Mirror) (s : State) : (modMirror f s).moe = s.moe := rfl
@[simp] theorem modMirror_cord (f : Mirror → Mirror) (s : State) : (modMirror f s).cord = s.cord := rfl
@[simp] theorem modMirror_host (f : Mirror → Mirror) (s : State) : (modMirror f s).host = s.host := rfl
@[simp] theorem modMirror_pwr (f : Mirror → Mirror) (s : State) : (modMirror f s).pwr = s.pwr := rfl
@[simp] theorem modMirror_mss (f : Mirror → Mirror) (s : State) : (modMirror f s).mss = s.mss := rfl
@[simp] theorem modMirror_dbg (f : Mirror → Mirror) (s : State) : (modMirror f s).dbg = s.dbg := rfl
@[simp] theorem modMirror_lastStatus (f : Mirror → Mirror) (s : State) : (modMirror f s).lastStatus = s.lastStatus := rfl
@[simp] theorem modMirror_freeCtr (f : Mirror → Mirror) (s : State) : (modMirror f s).freeCtr = s.freeCtr := rfl
@[simp] theorem modMirror_wire (f : Mirror → Mirror) (s : State) : (modMirror f s).wire = s.wire := rfl
@[simp] theorem modMirror_pending (f : Mirror → Mirror) (s : State) : (modMirror f s).pending = s.pending := rfl

@[simp] theorem countN_regs (b i k n : Nat) (s : State) : (countN b i k n s).regs = s.regs := by
  unfold countN; (repeat' split) <;> rfl
@[simp] theorem countN_time (b i k n : Nat) (s : State) : (countN b i k n s).time = s.time := by
  unfold countN; (repeat' split) <;> rfl
@[simp] theorem countN_ports (b i k n : Nat) (s : State) : (countN b i k n s).ports = s.ports := by
  unfold countN; (repeat' split) <;> rfl
@[simp] theorem countN_sw (b i k n : Nat) (s : State) : (countN b i k n s).sw = s.sw := by
  unfold countN; (repeat' split) <;> rfl
@[simp] theorem countN_mem (b i k n : Nat) (s : State) : (countN b i k n s).mem = s.mem := by
  unfold countN; (repeat' split) <;> rfl
@[simp] theorem countN_bpm (b i k n : Nat) (s : State) : (countN b i k n s).bpm = s.bpm := by
  unfold countN; (repeat' split) <;> rfl
@[simp] theorem countN_groups (b i k n : Nat) (s : State) : (countN b i k n s).groups = s.groups := by
  unfold countN; (repeat' split) <;> rfl
@[simp] theorem countN_ctx (b i k n : Nat) (s : State) : (countN b i k n s).ctx = s.ctx := by
  unfold countN; (repeat' split) <;> rfl
@[simp] theorem countN_moe (b i k n : Nat) (s : State) : (countN b i k n s).moe = s.moe := by
  unfold countN; (repeat' split) <;> rfl
@[simp] theorem countN_cord (b i k n : Nat) (s : State) : (countN b i k n s).cord = s.cord := by
  unfold countN; (repeat' split) <;> rfl
@[simp] theorem countN_host (b i k n : Nat) (s : State) : (countN b i k n s).host = s.host := by
  unfold countN; (repeat' split) <;> rfl
@[simp] theorem countN_pwr (b i k n : Nat) (s : State) : (countN b i k n s).pwr = s.pwr := by
  unfold countN; (repeat' split) <;> rfl
@[simp] theorem countN_mss (b i k n : Nat) (s : State) : (countN b i k n s).mss = s.mss := by
  unfold countN; (repeat' split) <;> rfl
@[simp] theorem countN_twn (b i k n : Nat) (s : State) : (countN b i k n s).twn = s.twn := by
  unfold countN; (repeat' split) <;> rfl
@[simp] theorem countN_lastStatus (b i k n : Nat) (s : State) : (countN b i k n s).lastStatus = s.lastStatus := by
  unfold countN; (repeat' split) <;> rfl
@[simp] theorem countN_freeCtr (b i k n : Nat) (s : State) : (countN b i k n s).freeCtr = s.freeCtr := by
  unfold countN; (repeat' split) <;> rfl
@[simp] theorem countN_wire (b i k n : Nat) (s : State) : (countN b i k n s).wire = s.wire := by
  unfold countN; (repeat' split) <;> rfl
@[simp] theorem countN_pending (b i k n : Nat) (s : State) : (countN b i k n s).pending = s.pending := by
  unfold countN; (repeat' split) <;> rfl

@[simp] theorem count_regs (b i k : Nat) (s : State) : (count b i k s).regs = s.regs := countN_regs b i k 1 s
@[simp] theorem count_time (b i k : Nat) (s : State) : (count b i k s).time = s.time := countN_time b i k 1 s
@[simp] theorem count_ports (b i k : Nat) (s : State) : (count b i k s).ports = s.ports := countN_ports b i k 1 s
@[simp] theorem count_sw (b i k : Nat) (s : State) : (count b i k s).sw = s.sw := countN_sw b i k 1 s
@[simp] theorem count_mem (b i k : Nat) (s : State) : (count b i k s).mem = s.mem := countN_mem b i k 1 s
@[simp] theorem count_bpm (b i k : Nat) (s : State) : (count b i k s).bpm = s.bpm := countN_bpm b i k 1 s
@[simp] theorem count_groups (b i k : Nat) (s : State) : (count b i k s).groups = s.groups := countN_groups b i k 1 s
@[simp] theorem count_ctx (b i k : Nat) (s : State) : (count b i k s).ctx = s.ctx := countN_ctx b i k 1 s
@[simp] theorem count_moe (b i k : Nat) (s : State) : (count b i k s).moe = s.moe := countN_moe b i k 1 s
@[simp] theorem count_cord (b i k : Nat) (s : State) : (count b i k s).cord = s.cord := countN_cord b i k 1 s
@[simp] theorem count_host (b i k : Nat) (s : State) : (count b i k s).host = s.host := countN_host b i k 1 s
@[simp] theorem count_pwr (b i k : Nat) (s : State) : (count b i k s).pwr = s.pwr := countN_pwr b i k 1 s
@[simp] theorem count_mss (b i k : Nat) (s : State) : (count b i k s).mss = s.mss := countN_mss b i k 1 s
@[simp] theorem count_twn (b i k : Nat) (s : State) : (count b i k s).twn = s.twn := countN_twn b i k 1 s
@[simp] theorem count_lastStatus (b i k : Nat) (s : State) : (count b i k s).lastStatus = s.lastStatus := countN_lastStatus b i k 1 s
@[simp] theorem count_freeCtr (b i k : Nat) (s : State) : (count b i k s).freeCtr = s.freeCtr := countN_freeCtr b i k 1 s
@[simp] theorem count_wire (b i k : Nat) (s : State) : (count b i k s).wire = s.wire := countN_wire b i k 1 s
@[simp] theorem count_pending (b i k : Nat) (s : State) : (count b i k s).pending = s.pending := countN_pending b i k 1 s

@[simp] theorem logEv_regs (code sev unit tag args) (s : State) : (logEv code sev unit tag args s).regs = s.regs := by
  unfold logEv; dsimp only; split
  · rfl
  · exact count_regs ..
@[simp] theorem logEv_time (code sev unit tag args) (s : State) : (logEv code sev unit tag args s).time = s.time := by
  unfold logEv; dsimp only; split
  · rfl
  · exact count_time ..
@[simp] theorem logEv_ports (code sev unit tag args) (s : State) : (logEv code sev unit tag args s).ports = s.ports := by
  unfold logEv; dsimp only; split
  · rfl
  · exact count_ports ..
@[simp] theorem logEv_sw (code sev unit tag args) (s : State) : (logEv code sev unit tag args s).sw = s.sw := by
  unfold logEv; dsimp only; split
  · rfl
  · exact count_sw ..
@[simp] theorem logEv_mem (code sev unit tag args) (s : State) : (logEv code sev unit tag args s).mem = s.mem := by
  unfold logEv; dsimp only; split
  · rfl
  · exact count_mem ..
@[simp] theorem logEv_bpm (code sev unit tag args) (s : State) : (logEv code sev unit tag args s).bpm = s.bpm := by
  unfold logEv; dsimp only; split
  · rfl
  · exact count_bpm ..
@[simp] theorem logEv_groups (code sev unit tag args) (s : State) : (logEv code sev unit tag args s).groups = s.groups := by
  unfold logEv; dsimp only; split
  · rfl
  · exact count_groups ..
@[simp] theorem logEv_ctx (code sev unit tag args) (s : State) : (logEv code sev unit tag args s).ctx = s.ctx := by
  unfold logEv; dsimp only; split
  · rfl
  · exact count_ctx ..
@[simp] theorem logEv_moe (code sev unit tag args) (s : State) : (logEv code sev unit tag args s).moe = s.moe := by
  unfold logEv; dsimp only; split
  · rfl
  · exact count_moe ..
@[simp] theorem logEv_cord (code sev unit tag args) (s : State) : (logEv code sev unit tag args s).cord = s.cord := by
  unfold logEv; dsimp only; split
  · rfl
  · exact count_cord ..
@[simp] theorem logEv_host (code sev unit tag args) (s : State) : (logEv code sev unit tag args s).host = s.host := by
  unfold logEv; dsimp only; split
  · rfl
  · exact count_host ..
@[simp] theorem logEv_pwr (code sev unit tag args) (s : State) : (logEv code sev unit tag args s).pwr = s.pwr := by
  unfold logEv; dsimp only; split
  · rfl
  · exact count_pwr ..
@[simp] theorem logEv_twn (code sev unit tag args) (s : State) : (logEv code sev unit tag args s).twn = s.twn := by
  unfold logEv; dsimp only; split
  · rfl
  · exact count_twn ..
@[simp] theorem logEv_lastStatus (code sev unit tag args) (s : State) : (logEv code sev unit tag args s).lastStatus = s.lastStatus := by
  unfold logEv; dsimp only; split
  · rfl
  · exact count_lastStatus ..
@[simp] theorem logEv_freeCtr (code sev unit tag args) (s : State) : (logEv code sev unit tag args s).freeCtr = s.freeCtr := by
  unfold logEv; dsimp only; split
  · rfl
  · exact count_freeCtr ..
@[simp] theorem logEv_wire (code sev unit tag args) (s : State) : (logEv code sev unit tag args s).wire = s.wire := by
  unfold logEv; dsimp only; split
  · rfl
  · exact count_wire ..
@[simp] theorem logEv_pending (code sev unit tag args) (s : State) : (logEv code sev unit tag args s).pending = s.pending := by
  unfold logEv; dsimp only; split
  · rfl
  · exact count_pending ..

@[simp] theorem pushCpl_regs (c : Cpl) (s : State) : (pushCpl c s).2.regs = s.regs := by
  unfold pushCpl; split <;> rfl
@[simp] theorem pushCpl_time (c : Cpl) (s : State) : (pushCpl c s).2.time = s.time := by
  unfold pushCpl; split <;> rfl
@[simp] theorem pushCpl_ports (c : Cpl) (s : State) : (pushCpl c s).2.ports = s.ports := by
  unfold pushCpl; split <;> rfl
@[simp] theorem pushCpl_sw (c : Cpl) (s : State) : (pushCpl c s).2.sw = s.sw := by
  unfold pushCpl; split <;> rfl
@[simp] theorem pushCpl_mem (c : Cpl) (s : State) : (pushCpl c s).2.mem = s.mem := by
  unfold pushCpl; split <;> rfl
@[simp] theorem pushCpl_bpm (c : Cpl) (s : State) : (pushCpl c s).2.bpm = s.bpm := by
  unfold pushCpl; split <;> rfl
@[simp] theorem pushCpl_groups (c : Cpl) (s : State) : (pushCpl c s).2.groups = s.groups := by
  unfold pushCpl; split <;> rfl
@[simp] theorem pushCpl_ctx (c : Cpl) (s : State) : (pushCpl c s).2.ctx = s.ctx := by
  unfold pushCpl; split <;> rfl
@[simp] theorem pushCpl_moe (c : Cpl) (s : State) : (pushCpl c s).2.moe = s.moe := by
  unfold pushCpl; split <;> rfl
@[simp] theorem pushCpl_cord (c : Cpl) (s : State) : (pushCpl c s).2.cord = s.cord := by
  unfold pushCpl; split <;> rfl
@[simp] theorem pushCpl_pwr (c : Cpl) (s : State) : (pushCpl c s).2.pwr = s.pwr := by
  unfold pushCpl; split <;> rfl
@[simp] theorem pushCpl_mss (c : Cpl) (s : State) : (pushCpl c s).2.mss = s.mss := by
  unfold pushCpl; split <;> rfl
@[simp] theorem pushCpl_twn (c : Cpl) (s : State) : (pushCpl c s).2.twn = s.twn := by
  unfold pushCpl; split <;> rfl
@[simp] theorem pushCpl_dbg (c : Cpl) (s : State) : (pushCpl c s).2.dbg = s.dbg := by
  unfold pushCpl; split <;> rfl
@[simp] theorem pushCpl_lastStatus (c : Cpl) (s : State) : (pushCpl c s).2.lastStatus = s.lastStatus := by
  unfold pushCpl; split <;> rfl
@[simp] theorem pushCpl_freeCtr (c : Cpl) (s : State) : (pushCpl c s).2.freeCtr = s.freeCtr := by
  unfold pushCpl; split <;> rfl
@[simp] theorem pushCpl_wire (c : Cpl) (s : State) : (pushCpl c s).2.wire = s.wire := by
  unfold pushCpl; split <;> rfl
@[simp] theorem pushCpl_pending (c : Cpl) (s : State) : (pushCpl c s).2.pending = s.pending := by
  unfold pushCpl; split <;> rfl

/-! ### Reading what an update wrote -/

/-- A register reads as it was stored. -/
theorem reg_setReg_same {s : State} {a : Nat} {v : W64} (h : Map.sorted s.regs = true) : reg (setReg s a v) a = v := by
  unfold reg setReg
  dsimp only
  split
  · rename_i hv
    rw [Map.getD, Map.get?_erase_same h, hv]
  · exact Map.getD_set_same

theorem reg_setReg_other {s : State} {a b : Nat} {v : W64} (h : b ≠ a) : reg (setReg s a v) b = reg s b := by
  unfold reg setReg
  dsimp only
  split
  · rw [Map.getD, Map.get?_erase_other h, Map.getD]
  · exact Map.getD_set_other h

@[simp] theorem getPort_setPort_same {s : State} {k : Nat} {p : Port} : getPort (setPort s k p) k = p := by
  simp [getPort, setPort]

theorem getPort_setPort_other {s : State} {j k : Nat} {p : Port} (h : j ≠ k) :
    getPort (setPort s k p) j = getPort s j := by
  simp [getPort, setPort, Map.getD_set_other h]

@[simp] theorem getPort_modPort_same {s : State} {k : Nat} {f : Port → Port} :
    getPort (modPort s k f) k = f (getPort s k) := by
  simp [modPort]

theorem getPort_modPort_other {s : State} {j k : Nat} {f : Port → Port} (h : j ≠ k) :
    getPort (modPort s k f) j = getPort s j := getPort_setPort_other h

@[simp] theorem getGroup_setGroup_same {s : State} {g : Nat} {x : GroupSt} : getGroup (setGroup s g x) g = x := by
  simp [getGroup, setGroup]

theorem getGroup_setGroup_other {s : State} {g j : Nat} {x : GroupSt} (h : j ≠ g) :
    getGroup (setGroup s g x) j = getGroup s j := by
  simp [getGroup, setGroup, Map.getD_set_other h]

@[simp] theorem getGroup_modGroup_same {s : State} {g : Nat} {f : GroupSt → GroupSt} :
    getGroup (modGroup s g f) g = f (getGroup s g) := by
  simp [modGroup]

theorem getGroup_modGroup_other {s : State} {g j : Nat} {f : GroupSt → GroupSt} (h : j ≠ g) :
    getGroup (modGroup s g f) j = getGroup s j := getGroup_setGroup_other h

@[simp] theorem getBuf_setBuf_same {s : State} {g h : Nat} {b : Buf} : getBuf (setBuf g h b s) g h = some b := by
  simp [getBuf, setBuf]

@[simp] theorem getUnit_setUnit_same {s : State} {g u : Nat} {x : UnitSt} : getUnit (setUnit s g u x) g u = x := by
  simp [getUnit, setUnit]

@[simp] theorem getCtx_setCtx_same {s : State} {c : Nat} {x : Ctx} : getCtx (setCtx c x s) c = some x := by
  simp [getCtx, setCtx]

theorem getTally_setTally_same {s : State} {t : Nat} {x : TallySt} (h : Map.sorted s.ctx.tallies = true) :
    getTally (setTally t x s) t = x := by
  unfold getTally setTally
  dsimp only
  split
  · rename_i hx
    rw [Map.getD, Map.get?_erase_same h, hx]
  · exact Map.getD_set_same

@[simp] theorem getHop_setHop_same {s : State} {h : Hop} {x : HopSt} : getHop (setHop h x s) h = x := by
  cases h <;> rfl

/-! ### Shared outcomes -/

/-- A write's outcome is always a next state, the one the operation leaves with its completion status. -/
theorem finish_next {r : Status × State} : finish r = .next { r.2 with lastStatus := r.1 } := rfl

/-- A fenced device refuses an operation and changes nothing (R362). -/
theorem unfenced_fenced {op : State → Status × State} {s : State} (h : s.twn.fenced = true) :
    unfenced op s = (.twinFenced, s) := by
  simp [unfenced, h]

theorem unfenced_free {op : State → Status × State} {s : State} (h : s.twn.fenced = false) :
    unfenced op s = op s := by
  simp [unfenced, h]

end Sys2Proof.Machine
end

