-- ==== Sys2Proof/Safety.lean ====
section
/-! DEFINITION. What counts as a safe run of the device: every waiting command names something the device has, and the
memory and the register file are in their canonical form, so that equal contents are equal data. -/

namespace Sys2Proof.Machine

open Sys2Proof

/-- Memory cells and stored registers in canonical form (log entry 3). -/
def State.canonical (s : State) : Prop := Memory.wf s.mem.cells ∧ Map.sorted s.regs = true

/-- Every waiting command is well formed. -/
def State.queueOk (s : State) : Bool := s.pending.all Instr.wellFormed

/-- A state from which a step goes on. -/
def State.safe (s : State) : Prop := s.canonical ∧ s.queueOk = true

/-- The outcome is a next state. -/
def goesOn (o : Host.Outcome State Fault Refusal) : Prop :=
  match o with
  | .next _ => True
  | .fault _ => False
  | .refused _ => False

end Sys2Proof.Machine
end

