-- ==== Sys2Proof/Tests/Slice0.lean ====
section
/-! SUPPORT. The model's own tests: ill-formed commands, the spec's worked examples, and for every statement with
premises a small state and operands that meet them. -/

namespace Sys2Proof.Tests

-- one declaration at a time: each kernel evaluation waits for those before it
set_option Elab.async false

open Sys2Proof Sys2Proof.Machine

/-! ### Small states -/

/-- The state a command leads to. -/
def nx (o : Host.Outcome State Fault Refusal) : State :=
  match o with
  | .next t => t
  | _ => State.reset

/-- A structure: one-lane fabric ports, two-lane Ethernet ports in the first octet's second pair, small pools. -/
def cfg0 : CordCfg :=
  { serial := 1, widths := [], ethMaps := [2#8], oMb := 32, hMb := 32, tMb := 32, slotTables := 1, pinEntries := 4,
    windows := 4, sprayCounters := 4, placeCache := 4, pools := List.replicate 96 8,
    unitRecs := List.replicate 208 (16, 0, 16), pipelines := [], bindings := [], enables := 0 }

/-- A device in service: Active, the firmware running, a cord in force, nothing waiting. -/
def live : State :=
  { State.reset with
    pwr := { PowerSt.reset with state := .active, en := 0x3F, pg := 0x3F, porst := true }
    mss := { MssSt.reset with romOnly := false }
    cord := { CordSt.reset with cfg := some cfg0, state := 3 } }

/-- Registers set, in rising order of address. -/
def withRegs (l : Map W64) (s : State) : State := { s with regs := l }

/-- A fabric time. -/
def atTick (n : Nat) (s : State) : State := { s with time := { s.time with ftc := BitVec.ofNat 64 n, raw := n } }

/-- One port of the device as given. -/
def withPort (k : Nat) (p : Port) (s : State) : State := { s with ports := [(k, p)] }

def upPort : Port := { Port.reset with state := .up, rev := 2, lanesUp := 1 }

/-- A run-time binding of a claimant to a resource. -/
def claims (l : List (Nat × Nat)) (s : State) : State :=
  { s with cord := { s.cord with
    claims := l.map (fun e => (e.1, { runtime := true, resource := BitVec.ofNat 8 e.2, base := 0, len := 0 })) } }

def blk (n : BitVec 12) : TxBlock := { seq := n, kind := 1, ch := 0, payload := [] }

/-- A frame that has ended and whose header is not yet accepted. -/
def rawFrame : Frame :=
  { ingress := .port 9 2, rev := 2, raw := [], whole := true, ended := true, hdr := none, stamp := 0, early := none,
    ageShift := 0, dest := none, lastHop := false, begun := false, cutAt := none, link := none }

def withFrames (l : Map Frame) (s : State) : State := { s with sw := { s.sw with frames := l, nextUid := 8 } }

/-- A rev 2 PUT header from chip 9 to chip `dst`, channel 2, TC 3, at OFFSET 64, of `n` payload octets. -/
def putHdr (dst : Chip) (n : Nat) : Hdr :=
  { ver := 2, kind := 1, ch := 2, tc := 3, pinned := false, dst := dst, src := 9, offset := 64, len := n, td := false,
    ep := false, tag := 7, hops := 0, sseq := 5, sgen := 1, plane := 0 }

/-- A frame received whole, and one whose header is accepted. -/
def rxFrame (h : Hdr) (p : List Byte) : Frame :=
  { rawFrame with raw := hdrBytes2 h ++ p ++ beBytes 4 (pcrcOf p).toNat }

def accFrame (h : Hdr) (p : List Byte) (d : Dest) : Frame := { rxFrame h p with hdr := some h, dest := some d }

/-- Group 0 as given, and one unit of it. -/
def withGroup (g : GroupSt) (s : State) : State := { s with groups := [(0, g)] }

def withUnit (k : Nat) (u : UnitSt) (g : GroupSt) : GroupSt := { g with units := [(k, u)] }

/-- An image of one bundle without slots for a reduce station (R164): version 1, kind 0, one bundle, one word; the
bundle's header says it is the last. -/
def image : Map Byte :=
  (([1, 0, 0, 0x55, 1, 0, 0, 0, 1, 0, 0, 0, 0, 0, 0, 0] ++ [0x80, 0, 0, 0] : List Byte).zipIdx.map
    (fun e => (e.2, e.1))).filter (fun e => e.2 != 0)

def prog : Prog := { unit := 0, tagHi := 0x55, addr := 0, bundles := 1, words := [0x80] }

def invoc : Invoc :=
  { unit := 0, prog := 3, replaySel := false, count := 0, tag := 7, context := 0x7FFF, doneTally := 0x3FFF,
    startTick := 0, reached := 0, triggered := false, quiet := false, atStep := 0 }

def running : Run :=
  { inv := invoc, passes := 1, pass := 0, bundle := 0, word := 0, params := [], treg := [], acc := [], emits := [],
    signals := [], overlay := [], outs := [], takenA := 0, takenB := 0, nextSeqs := [], sctr := [], invocNo := 1,
    btag := 0, cost := 0, ended := false, doneAt := none, doomed := false }

/-- Group 0 with program 3 valid at unit 0. -/
def progGroup : GroupSt := { GroupSt.reset with pstore := image, progs := [(3, prog)] }

/-- A command record of Table 14.6: opcode, QUIET 0, TAG 7 and the octets from 8 on. -/
def record (op : Byte) (r : List Byte) : List Byte :=
  let b := [op, 0, 0, 0, 7, 0, 0, 0] ++ r
  b ++ zeros (32 - b.length)

def fifoOf (r : List Byte) : State :=
  withGroup { GroupSt.reset with
    fifo := [r]
    bufs := [(mkHandle 0 1 0, { share := 1, owner := 0x8000, tile := none })] }
    live

/-- A dense tile of one row of 16 elements of FORMAT 6. -/
def tile : Tile :=
  { hver := 1, format := 6, layout := 0, clinker := false, fallback := false, scaled := false, stats := false,
    last := false, rows := 1, cols := 16, ctx := 0, rank := 0, epoch := 0, seq := 0, tag := 7, dataLen := 16,
    mdLen := 0, step := 0, aux := 0, zerosOk := true, data := zeros 16, scales := [], rstats := [], md := []
    ue := none }

/-- A context of group 0 whose member group is this chip alone, its tiles for unit 3, port A, naming no tally. -/
def context : Ctx :=
  { arg0 := 0x0030000000002000#64, timeout := 0, stepInit := 0, state := .active, onChip := true, expSeq := [],
    step := 0, lastAdv := 0, roundOpen := false, openStamp := 0, deadline := 0, arrived := 0, required := none,
    counts := [], payloads := [] }

def withContext (x : Ctx) (s : State) : State :=
  { s with ctx := { s.ctx with table := [(0, x)], groups := [(0, { chips := [0], epoch := 0 })] } }

/-- CTX_BANK is bound, its region at 1 MiB. -/
def banking (x : Ctx) : State :=
  withContext x { live with cord := { live.cord with
    claims := [(0x20, { runtime := true, resource := 0x30, base := 1, len := 64 })] } }

/-- A unit 0 of group 0 that has an invocation waiting. -/
def busy : State := withGroup (withUnit 0 { UnitSt.reset with order := [invoc] } GroupSt.reset) live

def inState (x : PowerState) : State := { live with pwr := { live.pwr with state := x } }

/-- HL_UP up at version 1.1, chain address 3, and HL_DN up. -/
def chained : State :=
  let h : HopSt := { HopSt.reset with trained := true, up := true, version := 2 }
  { live with host := { live.host with hopUp := h, hopDn := h, chainAddr := 3 } }

def pkt (ty : Byte) (dst : Byte) (payload : List Byte) : HostPkt :=
  { ty := ty, dst := dst, src := 0, hseq := 0, len := BitVec.ofNat 16 payload.length, reqId := 9, zero := zeros 6,
    payload := payload }

/-- A packet's octets in turn on a hop that is up: good CRC, HSEQ the one awaited. -/
def inTurn (s : State) (p : HostPkt) : Bool :=
  let b := pktOctets p
  pktCrcOk b && pktOf b == p && s.pwr.porst && s.host.hopUp.up && p.hseq == s.host.hopUp.rxExp && forHere s p &&
    !s.mss.romOnly

def writing : State := { live with mss := { live.mss with updState := 3 } }
/-! ### The whole machine and time: premises met -/

theorem test_IdleStepCountsOneTick_met :
    (live.pending = [] ∧ live.pwr.porst = true ∧ live.time.slewLeft = 0) ∧
    (({ live with time := { live.time with slewLeft := -3 } } : State).time.slewLeft ≠ 0) := by decide

theorem test_ExecLeavesQueue_met : exec .queueSample live = .next (nx (exec .queueSample live)) := rfl

theorem test_StepOnlyBurnsFuses_met : step live = .next (nx (step live)) := rfl

theorem test_FtcSetNeverGoesBack_met : live.pwr.porst = true ∧ live.mss.romOnly = false := by decide

theorem test_StepKeepsCanonicalForm_met :
    Memory.wf live.mem.cells ∧ Map.sorted live.regs = true ∧ step live = .next (nx (step live)) := by
  refine ⟨by decide, by decide, rfl⟩

theorem test_MemoryReadsWhatWasWritten_met :
    Memory.wf live.mem.cells ∧ ∀ w ∈ wordsOf 5 4, Map.get? live.mem.chk w = none := by decide

/-- A governor write held since tick 2,500, ENABLE going to 1. -/
def governed (n : Nat) : State :=
  atTick n { live with time := { live.time with govPending := some 0x0000019000000001, govAt := 2500 } }

theorem test_TempoIsMeasuredAndGoverned_apply_met :
    exec .governorApply (governed 3000) = .next (nx (exec .governorApply (governed 3000))) := rfl

theorem test_TempoIsMeasuredAndGoverned_met :
    (live.pwr.porst = true ∧ live.mss.romOnly = false) ∧
    (let s := governed 3000
     s.time.govPending = some 0x0000019000000001 ∧ s.time.ftc.toNat % 1000 = 0 ∧ s.time.govAt < s.time.ftc.toNat ∧
       powered s = true) ∧
    (live.time.govPending = none ∨ live.time.ftc.toNat % 1000 ≠ 0 ∨ live.time.ftc.toNat ≤ live.time.govAt) ∧
    fld 0x0000019000000000#64 47 32 = 400 ∧ fld 0x0000070800000000#64 47 32 = 1800 ∧
    fld 0x0000018F00000000#64 47 32 < 400 ∧ 1800 < fld 0x0000070900000000#64 47 32 ∧
    (List.replicate 16 (1#16)).length = 16 ∧ ([5, 3, 7, 9] : List (BitVec 16)).length = 4 := by decide

/-- A run whose last bundle has ended, in the paced step whose permit comes. -/
def endedRun : Run := { running with ended := true }

/-- Die 1 before the permits of its 1,000th counted tick, such a run in group 4. -/
def pacing : State :=
  modUnit { live with time := { live.time with active := true, pacerK := [(1, 999)] } } 4 0
    (fun u => { u with run := some endedRun, lastStep := 1 })

theorem test_PacerGivesPermits_met :
    pacing.time.active = true ∧ pacing.dbg.dampered = false ∧ powered pacing = true ∧
      Map.get? pacing.time.pacerAt (1#2 : Die).toNat ≠ some pacing.time.raw ∧
      (getGroup pacing 4).stepLimit ≤ (getGroup pacing 4).permits ∧
      Map.get? (getGroup pacing 4).units 0 = some { UnitSt.reset with run := some endedRun, lastStep := 1 } := by decide

/-- FTC_DISC_CTRL with SOURCE = 0b01, the upstream link 4 and SERVE = 1. -/
def synced : State := withPort 4 upPort (withRegs [(Reg.discCtrl, 0x00040005#64)] live)

/-- An exchange is under way, two before it unanswered. -/
def unanswered : State :=
  { synced with time := { synced.time with awaiting := true, missed := 2, t1 := some 5, lastSlew := 3, xid := 7 } }

/-- AUX_SYNC bound as 1PPS, SOURCE = 0b10; and bound to the damper. -/
def pulse : State := claims [(1, 0x20)] (withRegs [(Reg.discCtrl, 8#64)] live)
def alarmed : State := claims [(2, 0x20)] live

theorem test_TimeIsDisciplined_met :
    (upstream synced = some 4 ∧ synced.time.ftc.toNat % 1000000 = 0 ∧ synced.time.awaiting = false ∧
      (getPort synced 4).state = .up ∧ synced.time.missed < 3) ∧
    (upstream unanswered = some 4 ∧ unanswered.time.ftc.toNat % 1000000 = 0 ∧ unanswered.time.awaiting = true ∧
      unanswered.time.missed = 2 ∧ unanswered.time.t1 = some 5 ∧ upstream unanswered = some (linkKey (.port 4))) ∧
    ((reg synced Reg.discCtrl).getLsbD 0 = true ∧ (getLink synced (.port 4)).state = .up) ∧
    (pulse.pwr.porst = true ∧ auxBinding pulse = 1 ∧
      fld (reg pulse Reg.discCtrl) 3 2 = 2 ∧ (atTick 499999999 pulse).time.ftc.toNat % 1000000000 < 500000000 ∧
      500000000 < (atTick 500000001 pulse).time.ftc.toNat % 1000000000) ∧
    (live.pwr.porst = true ∧ auxBinding live = 0 ∧ live.cord.auxBefore = none ∧ (noteAux alarmed).cord.auxBefore = some (0, 2)) ∧
    (alarmed.pwr.porst = true ∧ auxBinding alarmed = 2 ∧ alarmed.dbg.dampered = false ∧
      alarmed.dbg.serials.contains (BitVec.ofNat 32 (fld (reg alarmed Reg.damperCfg) 31 0)) = false ∧
      Map.sorted alarmed.regs = true) := by decide

/-! ### Links: premises met -/

theorem test_LinksAreBroughtUp_met :
    (live.twn.fenced = false ∧ isFirst live 9 = true ∧ Map.sorted live.regs = true ∧
      fld (reg live (Reg.lnkCfg 9)) 3 2 < 2 ∧ serdesOn live = true ∧ (getPort live 9).state = .down ∧
      (reg live (Reg.lnkCfg 9)).getLsbD 0 = false) ∧
    (let s := withPort 9 { Port.reset with state := .training } (withRegs [(Reg.lnkCfg 9, 1)] live)
     (reg s (Reg.lnkCfg 9)).getLsbD 0 = true ∧ (getPort s 9).state ≠ .down ∧ (getPort s 9).state ≠ .closing ∧
       trains s (.port 9) = true ∧ isFirst s 9 = true) ∧
    (getLink (withPort 9 { Port.reset with state := .aligning } live) (.port 9)).state = .aligning ∧
    (let s := withPort 9 { Port.reset with state := .negotiating } live
     (getLink s (.port 9)).state = .negotiating ∧ (getLink s (.port 9)).versionRx = none ∧
       fabricLink s (.port 9) = true ∧ (getLink s (.port 9)).seenSent = false) ∧
    (let s := withPort 9 { Port.reset with retryWait := true } (withRegs [(Reg.lnkCfg 9, 1)] live)
     adminUp s 9 = true ∧ (getPort s 9).retryWait = true ∧ (getPort s 9).state = .down) := by decide

theorem test_NegotiationSettles_met :
    (let s := withPort 9 { Port.reset with state := .negotiating } live
     (getPort s 9).state = .negotiating ∧ fabricLink s (.port 9) = true ∧ looped s (.port 9) = false ∧
       (2#4) &&& 3#4 ≠ 0 ∧ (4#4) &&& 3#4 = 0) ∧
    (getLink (withPort 1026 { Port.reset with state := .negotiating } live) (.sub 2)).state = .negotiating ∧
    (let s := withPort 1 { Port.reset with state := .negotiating } live
     isFirst s 1 = true ∧ ethMode s 1 = true ∧ (getPort s 1).state = .negotiating) ∧
    (let f := { rawFrame with ingress := .eth 1, dest := some (.intake 0) }
     let s := withFrames [(7, f)] (withPort 1 { Port.reset with state := .negotiating }
       (withRegs [(Reg.obCfg 0, 0)] live))
     let s1 := { s with sw := { s.sw with flueIn := [(0, [7])] } }
     s1.dbg.dampered = false ∧ (0, [7]) ∈ s1.sw.flueIn ∧ 7 ∈ ([7] : List Nat) ∧ getFrame s1 7 = some f ∧
       entryHeld s1 f = true ∧ s.sw.flueIn = [] ∧ s.sw.staging = []) := by decide

theorem test_LinksGoDown_met :
    ((0#3 : BitVec 3).toNat < linkLanes live (.port 9) ∧ (getLink (withPort 9 upPort live) (.port 9)).state = .up) ∧
    ([LinkState.training, .aligning, .negotiating, .down].all (fun x =>
      (getLink (withPort 9 { Port.reset with state := x } live) (.port 9)).state == x)) = true ∧
    (let s := withPort 9 { Port.reset with state := .closing } live
     (getLink s (.port 9)).state = .closing ∧ (getLink s (.port 9)).cur = [] ∧ looped s (.port 9) = false ∧
       ethMode s 9 = false ∧ (reg s (Reg.lnkCfg 9)).getLsbD 0 = false) := by decide

/-- A port up with two blocks unacknowledged. -/
def twoOut : State := withPort 9 { upPort with replay := [blk 3, blk 4], sinceAck := 1, ctrlQ := [.ack 2] } live

theorem test_AcknowledgeAndRetry_met :
    (carrying (getLink twoOut (.port 9)) = true ∧ 0 < (getLink twoOut (.port 9)).sinceAck ∧
      (getLink twoOut (.port 9)).replay = [blk 3] ++ blk 4 :: [] ∧ (blk 4).seq = 4 ∧ (blk 3).seq ≠ 4 ∧
      (getLink twoOut (.port 9)).replay = [] ++ blk 3 :: [blk 4] ∧ (getLink twoOut (.port 9)).resends < 16) ∧
    (let s := withPort 9 { upPort with replay := [blk 3], resends := 16 } live
     carrying (getLink s (.port 9)) = true ∧ (getLink s (.port 9)).replay ≠ [] ∧ 16 ≤ (getLink s (.port 9)).resends) ∧
    (let s := withRegs [(Reg.dbgEnable, 8)] live
     9 ≤ (9#8).toNat ∧ (reg s Reg.dbgEnable).getLsbD 3 = true ∧
       Map.getD s.dbg.counters (ctrKey 3 18 9) 0 < 2 ^ 48 - 2) := by decide

theorem test_CreditsAreCumulative_met :
    carrying (getLink (withPort 9 upPort live) (.port 9)) = true ∧ fabricLink live (.port 9) = true := by decide

/-- A link block with its CRC (Table 3.3): KIND and channel, SEQ 0, and payload octets. -/
def block (kind ch : Nat) (p : List Byte) : List Byte :=
  let b := [BitVec.ofNat 8 (kind * 16 + ch), 0, 0, BitVec.ofNat 8 p.length, 0, 0, 0, 0] ++ p ++ zeros (244 - p.length)
  b ++ beBytes 4 (crc32c b).toNat

/-- KIND 1 on channel 2 with 244 zero octets. -/
def startBlock : List Byte := block 1 2 (zeros 244)

set_option maxRecDepth 100000 in
theorem test_LinkBlockIsReceived_met :
    (let s := withPort 9 upPort live
     let b := parseBlk startBlock
     startBlock.length = 256 ∧ fabricLink s (.port 9) = true ∧ carrying (getLink s (.port 9)) = true ∧
       looped s (.port 9) = false ∧ b.crcOk = true ∧ b.legal = true ∧ b.kind = 1 ∧ b.ackValid = false ∧
       b.seq = (getPort s 9).expected ∧ Map.get? (getPort s 9).rxCur b.ch = none ∧ b.ch = 2) ∧
    (let b := parseBlk (block 2 2 (zeros 244))
     let f := { rawFrame with whole := false, ended := false, raw := zeros 244 }
     let s := withFrames [(7, f)] (withPort 9 { upPort with rxCur := [(2, 7)] } live)
     b.crcOk = true ∧ b.legal = true ∧ b.kind = 2 ∧ Map.get? (getPort s 9).rxCur b.ch = some 7 ∧
       getFrame s 7 = some f ∧ f.whole = false ∧ f.raw.length + b.len ≤ 66560) ∧
    ((parseBlk (block 0 0 [])).kind = 0 ∧ (parseBlk (block 8 0 [])).kind = 8 ∧
      (parseBlk (block 1 2 (zeros 243))).legal = false ∧ (parseBlk (block 1 2 (zeros 243))).crcOk = true ∧
      (parseBlk (zeros 256)).crcOk = false) := by decide +kernel

/-- An ACK of the twin, sixteen octets and the number acknowledged, alone in a block. -/
def twinBlock : List Byte := block 4 0 (twinOctets 2 0 0 (beBytes 8 1))

set_option maxRecDepth 100000 in
theorem test_LinkBlockIsReceived_message_met :
    (let s := withPort 1024 upPort live
     let b := parseBlk twinBlock
     let m := b.payload.take b.len
     twinBlock.length = 256 ∧ carrying (getLink s (.sub 0)) = true ∧ b.crcOk = true ∧ b.legal = true ∧ b.kind = 4 ∧
       b.ch = 0 ∧ b.seq = (getLink s (.sub 0)).expected ∧ (getLink s (.sub 0)).rxMsg = none ∧ 16 ≤ m.length ∧
       bodyAt m 2 2 = m.length - 16 ∧ bodyFits (nthD m 0 0) (m.drop 16) = true) := by decide +kernel

/-- A frame of channel 2 of port 9 that has come whole, its end not told. -/
def wholeOn (f : Frame) : State := withFrames [(7, f)] (withPort 9 { upPort with rxCur := [(2, 7)] } live)

def comeWhole : Frame := { rawFrame with ended := false }

set_option maxRecDepth 100000 in
theorem test_LinkBlockIsReceived_whole_met :
    (let s := wholeOn comeWhole
     let b := parseBlk startBlock
     1 ≤ b.kind ∧ b.kind ≤ 4 ∧ b.ackValid = false ∧ Map.get? (getPort s 9).rxCur b.ch = some 7 ∧
       getFrame s 7 = some comeWhole ∧ comeWhole.whole = true ∧ comeWhole.hdr = none) ∧
    exec (.frameEndReceive 9 2) (wholeOn comeWhole) =
      .next (nx (exec (.frameEndReceive 9 2) (wholeOn comeWhole))) := by
  refine ⟨by decide +kernel, rfl⟩

/-- A whole frame of four octets too many for its header, which is accepted. -/
def overlong : Frame :=
  let f := accFrame (putHdr 4 2) [1, 2] (.egress 9 3)
  { f with ended := false, raw := f.raw ++ zeros 4 }

theorem test_FrameEndIsJudged_met :
    (let s := wholeOn comeWhole
     Map.get? (getPort s 9).rxCur 2 = some 7 ∧ getFrame s 7 = some comeWhole ∧ comeWhole.whole = true ∧
       comeWhole.hdr = none) ∧
    (let s := wholeOn overlong
     Map.get? (getPort s 9).rxCur 2 = some 7 ∧ getFrame s 7 = some overlong ∧ overlong.whole = true ∧
       overlong.hdr = some (putHdr 4 2) ∧ overlong.cutAt = none ∧
       overlong.raw.length ≠ frameHdrLen overlong + (putHdr 4 2).len + 4 ∧ overlong.begun = false ∧
       Map.sorted s.sw.frames = true ∧ 7 < s.sw.nextUid) ∧
    (let f := { overlong with begun := true }
     getFrame (wholeOn f) 7 = some f ∧ f.begun = true ∧ f.whole = true) ∧
    (Map.get? (getPort live 9).rxCur 2).isNone = true := by decide +kernel

/-- A frame in transmission on channel 2 of a port, nothing of it sent. -/
def sending : State :=
  withFrames [(7, accFrame (putHdr 4 2) [1, 2] (.egress 9 3))]
    (withPort 9 { upPort with cur := [(2, { uid := 7, sel := 0, sent := 0 })], grant := [(2, 64)] } live)

set_option maxRecDepth 100000 in
theorem test_LinkBlockIsSent_met :
    (fabricLink twoOut (.port 9) = true ∧ carrying (getLink twoOut (.port 9)) = true ∧
      looped twoOut (.port 9) = false ∧ (getLink twoOut (.port 9)).ctrlQ ≠ []) ∧
    (let s := withPort 9 { upPort with resend := [blk 3] } live
     (getLink s (.port 9)).ctrlQ = [] ∧ (getLink s (.port 9)).resend = blk 3 :: []) ∧
    (let s := sending
     let p := getPort s 9
     let c : CurFrame := { uid := 7, sel := 0, sent := 0 }
     fabricLink s (.port 9) = true ∧ carrying p = true ∧ p.ctrlQ = [] ∧ p.resend = [] ∧ p.replay.length < 2048 ∧
       egressFrozen s (.port 9) = false ∧ s.dbg.dampered = false ∧ p.cur = [(2, c)] ∧ 0 < creditOf p 2 ∧
       blockReady s p c = true ∧ (getFrame s 7).isSome = true ∧ s.bpm.sramChk = [] ∧
       Map.sorted s.sw.frames = true ∧ c.uid < s.sw.nextUid ∧
       (let a := available p.rev.toNat (accFrame (putHdr 4 2) [1, 2] (.egress 9 3))
        a.2 = true ∧ a.1 - c.sent ≤ 244)) ∧
    ((getPort live 9).ctrlQ = [] ∧ (getPort live 9).resend = [] ∧ (getPort live 9).cur = []) ∧
    (let s0 := withPort 1024 { upPort with grant := [(0, 64)] } live
     let s := { s0 with twn := { s0.twn with out := [(0, [1, 2])] } }
     let p := getLink s (.sub 0)
     carrying p = true ∧ p.ctrlQ = [] ∧ p.resend = [] ∧ p.replay.length < 2048 ∧ subMsg s 0 = some [1, 2] ∧
       0 < creditOf p 0) := by decide +kernel

theorem test_LinkBlockIsSent_long_met :
    (let f := accFrame (putHdr 4 300) (zeros 300) (.egress 9 3)
     let c : CurFrame := { uid := 7, sel := 0, sent := 0 }
     let s := withFrames [(7, f)] (withPort 9 { upPort with cur := [(2, c)], grant := [(2, 64)] } live)
     blockReady s (getPort s 9) c = true ∧ ¬ ((available 2 f).2 = true ∧ (available 2 f).1 - c.sent ≤ 244)) := by
  decide +kernel

/-- A PFC frame that pauses priority 3 and resumes priority 2, in 60 octets. -/
def pfcFrame : List Byte :=
  zeros 12 ++ [0x88, 0x08, 1, 1, 0, 0x0C, 0, 0, 0, 0, 0, 0, 0, 5] ++ zeros 34

theorem test_EthernetModeReceives_met :
    (let s := withPort 1 { upPort with rev := 0 } live
     isFirst s 1 = true ∧ ethMode s 1 = true ∧ carrying (getPort s 1) = true ∧ looped s (.port 1) = false) ∧
    pfcFrame.length = 60 ∧ fromBe (slice pfcFrame 12 2) = 0x8808 ∧ fromBe (slice pfcFrame 14 2) = 0x0101 ∧
    (zeros 9212).length = 9212 ∧ fromBe (slice (zeros 60) 12 2) ≠ 0x8808 := by decide +kernel

/-! ### The switch core: premises met -/

/-- A frame whose header waits on port 9, channel 2, with the fabric registers that let it in. -/
def accepting (f : Frame) : State :=
  withFrames [(7, f)] (withPort 9 { upPort with hdrWait := [(2, 7)] } (withRegs [(Reg.fwdCfg, 0x2001)] live))

set_option maxRecDepth 100000 in
theorem test_FrameHeaderIsAccepted_met :
    (let f := rxFrame (putHdr 0 2) [1, 2]
     let s := accepting f
     let r := parseHdr f.raw
     powered s = true ∧ s.dbg.dampered = false ∧ s.twn.fenced = false ∧ flueInFull s (.port 9 2) = false ∧
       nextHeader s (.port 9 2) = some 7 ∧ getFrame s 7 = some f ∧ f.ingress = .port 9 2 ∧
       f.cutAt = none ∧ hdrLen r.ver ≤ f.raw.length ∧ r.hcrcOk = true ∧ r.ver = f.rev.toNat ∧ hdrLegal r = true ∧
       forwarding s = true ∧ r.hdr.hops.toNat + 1 ≤ fld (reg s Reg.fwdCfg) 15 8 ∧
       (reg s (Reg.police 9 r.hdr.tc.toNat)).getLsbD 63 = false ∧ f.raw.length = hdrLen r.ver + r.hdr.len + 4 ∧
       r.hdr.dst.toNat = ownChip s ∧ r.hdr.td = false) := by decide +kernel

/-- The policer of TC 3 at port 9 is on: a bucket of one KiB, with no octet in it or full. -/
def policed (f : Frame) (full : Bool) : State :=
  let s := withRegs [(Reg.fwdCfg, 0x2001), (Reg.police 9 3, 0x8000000000000001)] (accepting f)
  modPort s 9 (fun p => { p with policers := if full then [] else [(3, { tokens := 0, at_ := 0 })] })

set_option maxRecDepth 100000 in
theorem test_FrameHeaderIsAccepted_policed_met :
    (let f := rxFrame (putHdr 0 2) [1, 2]
     let s := policed f false
     (reg s (Reg.police 9 3)).getLsbD 63 = true ∧ forwarding s = true ∧ nextHeader s (.port 9 2) = some 7 ∧
       (Map.get? (getPort s 9).policers 3).map (·.tokens) = some 0 ∧ fld (reg s (Reg.police 9 3)) 45 32 = 0 ∧
       srcLane (.port 9 2) = some (9 : Lane).toNat) ∧
    (let s := policed (rxFrame (putHdr 0 2) [1, 2]) true
     Map.get? (getPort s 9).policers 3 = none ∧ fld (reg s (Reg.police 9 3)) 15 0 = 1 ∧
       ((32 + 2 + 4) * 65536 : Nat) ≤ 1 * 1024 * 65536) := by decide +kernel

/-- A frame built at the return port of G3, for the intake of G15. -/
def retFrame : Frame :=
  { rxFrame { putHdr 0 64 with kind := 4, td := true, offset := 15 } (zeros 64) with ingress := .ret 3 }

def atReturn : State :=
  let s := withFrames [(7, retFrame)] (withRegs [(Reg.fwdCfg, 0x2001)] live)
  { s with sw := { s.sw with retq := [(3, [7])] } }

set_option maxRecDepth 100000 in
theorem test_FrameHeaderIsAccepted_return_met :
    (let r := parseHdr retFrame.raw
     flueInFull atReturn (.ret 3) = false ∧ nextHeader atReturn (.ret 3) = some 7 ∧ getFrame atReturn 7 = some retFrame ∧
       retFrame.ingress = .ret 3 ∧ retFrame.cutAt = none ∧ hdrLen r.ver ≤ retFrame.raw.length ∧ r.hcrcOk = true ∧
       hdrLegal r = true ∧ forwarding atReturn = true ∧ r.ver = 2 ∧ srcLane (.ret 3) = none ∧
       retFrame.raw.length = hdrLen r.ver + r.hdr.len + 4 ∧ r.hdr.dst.toNat = ownChip atReturn ∧ r.hdr.td = true ∧
       r.hdr.offset.toNat < 16) := by decide +kernel

set_option maxRecDepth 100000 in
theorem test_FrameHeaderIsAccepted_intake_met :
    (let r := parseHdr (rxFrame { putHdr 0 64 with kind := 4, td := true, offset := 15 } (zeros 64)).raw
     r.hcrcOk = true ∧ hdrLegal r = true ∧ r.hdr.td = true ∧ r.hdr.offset.toNat = 15) := by decide +kernel

/-- Rack 0 goes by one set of next hops, its only member port 9, which is up. -/
def routed (f : Frame) : State :=
  withFrames [(7, f)] (withPort 9 { upPort with hdrWait := [(2, 7)] } (withRegs
    [(Reg.fwdCfg, 0x2001), (Reg.rtRack 0, 0xA000000000000000),
     (Reg.rtSet 0 0, 0x0000000000000200)] live))

set_option maxRecDepth 100000 in
theorem test_FrameHeaderIsAccepted_egress_met :
    (let s := routed (rxFrame (putHdr 4 2) [1, 2])
     forUs s 4 = false ∧ s.bpm.sramChk = [] ∧
       (routeEntry s 4).map (fun e => (e.getLsbD 59, fld e 58 56)) = some (false, 0) ∧
       liveMembers s 0 = [9]) := by decide +kernel

set_option maxRecDepth 100000 in
theorem test_FrameHeaderIsAccepted_badHcrc_met :
    (let f := { rxFrame (putHdr 0 2) [1, 2] with raw := 0x21#8 :: zeros 40 }
     (parseHdr f.raw).hcrcOk = false ∧ hdrLen (parseHdr f.raw).ver ≤ f.raw.length ∧
       nextHeader (accepting f) (.port 9 2) = some 7) := by decide +kernel

/-- An IPv6 and UDP datagram of eight zero octets to UDP port 0x1234 between zero addresses, its checksum by R71. -/
def datagram : List Byte :=
  zeros 12 ++ [0x86, 0xDD, 0x60, 0, 0, 0, 0, 16, 17, 64] ++ zeros 32 ++ [0, 0, 0x12, 0x34, 0, 16] ++
    beBytes 2 (0xFFFF - (16 + 17 + 0x1234 + 16)) ++ zeros 8

/-- A MAC frame waits on Ethernet-mode port 1. -/
def macWaiting (b : List Byte) : State :=
  withFrames [(7, { rawFrame with ingress := .eth 1, rev := 0, raw := b })]
    (withPort 1 { upPort with rev := 0, hdrWait := [(0, 7)] } (withRegs [(Reg.ethCtrl 1, 0x1234000000000000)] live))

theorem test_FrameHeaderIsAccepted_mac_met :
    (let s := macWaiting datagram
     ethPayload s 1 datagram = some (zeros 8) ∧ flueInFull s (.eth 1) = false ∧ nextHeader s (.eth 1) = some 7 ∧
       ethPayload s 1 (zeros 60) = none) := by decide +kernel

/-- A frame staged for an output buffer. -/
def staged (f : Frame) : State :=
  withFrames [(7, f)] { live with sw := { live.sw with staging := [(16 * 0 + 1, [7])] } }

/-- A reorder window of the flow 9 to 0 on channel 2 at die 0. -/
def window : Window :=
  { pg := 1, base := 5, gen := 1, span := 16, held := [], pinSent := false, lastPin := 0, lastArrival := 0 }

def winKey : WinKey := { die := 0, src := 9, dst := 0, ch := 2 }

def withWindow (w : Window) (s : State) : State :=
  { s with sw := { s.sw with windows := [(winKeyNat winKey, w)] } }

/-- A frame from this device before the flue, on the return port of port group 1. -/
def returning : State :=
  withFrames [(7, accFrame (putHdr 4 2) [1, 2] (.egress 64 3))]
    { live with sw := { live.sw with flueIn := [(3, [7])] } }

set_option maxRecDepth 100000 in
theorem test_FramesCrossTheFlue_met :
    (let f := accFrame (putHdr 4 2) [1, 2] (.egress 64 3)
     let s := staged f
     flueStops s 1 = false ∧ (writeRound 1 (flueRounds s)).1 = some 7 ∧ getFrame s 7 = some f ∧ f.lastHop = false ∧
       s.bpm.sramChk = []) ∧
    (let f := accFrame { putHdr 0 64 with kind := 4, td := true } (zeros 64) (.intake 1)
     let s := withRegs [(Reg.reorderCfg, 0xFFFFF80000300004)] (withWindow window (staged f))
     flueStops s 1 = false ∧ s.cord.state = 3 ∧ s.bpm.sramChk = [] ∧ (writeRound 1 (flueRounds s)).1 = some 7 ∧ getFrame s 7 = some f ∧
       gated s 1 = false ∧ Map.get? s.sw.windows (winCode (dieOf 1) 9 0 2) = some window ∧ window.held = [] ∧
       window.gen = (frameHdr f).sgen ∧ window.base = (frameHdr f).sseq ∧ window.pinSent = false ∧ 0 < window.span ∧
       window.held.length + 1 < fld (reg s Reg.reorderCfg) 43 32) ∧
    (let f := accFrame (putHdr 0 2) [1, 2] (.memory 1 3)
     let s := withRegs [(Reg.reorderCfg, 0xFFFFF80000300004)] (withWindow { window with pg := 0 } (staged f))
     flueStops s 1 = false ∧ (writeRound 1 (flueRounds s)).1 = some 7 ∧ getFrame s 7 = some f ∧
       memqCells s 1 3 + frameCells (frameHdr f) ≤
         (obSize s - usedCells s 1) * 2 ^ fld (reg s (Reg.tcCfg 3)) 27 24 / 64 ∧
       Map.get? s.sw.windows (winCode (dieOf 1) 9 0 2) = some { window with pg := 0 }) ∧
    (entryHeld returning (accFrame (putHdr 4 2) [1, 2] (.egress 64 3)) = false) ∧
    (powered returning = true ∧ (reg returning (Reg.obCfg 1)).getLsbD 56 = false ∧
      Map.getD returning.sw.flueIn 2 [] = [] ∧ Map.getD returning.sw.flueIn 3 [] = [7] ∧
      (Map.getD returning.sw.staging 17 []).length < 64) := by decide +kernel

/-- A tile for G1's intake, number 5 of its flow, and the flow's window as given, in a group gated or not. -/
def arriving (w : Window) (off : Bool) : State :=
  withRegs [(Reg.reorderCfg, 0xFFFFF80000300004), (Reg.groupGate, if off then 2 else 0)] (withWindow w
    (staged (accFrame { putHdr 0 64 with kind := 4, td := true } (zeros 64) (.intake 1))))

set_option maxRecDepth 100000 in
theorem test_FramesCrossTheFlue_window_met :
    (let s := arriving window true
     gated s 1 = true ∧ Map.sorted s.sw.frames = true ∧ s.mss.logFifo.length < 1024 ∧
       (writeRound 1 (flueRounds s)).1 = some 7) ∧
    (let w := { window with base := 4 }
     let d := ((5 : BitVec 16) - w.base).toNat
     Map.get? (arriving w false).sw.windows (winCode (dieOf 1) 9 0 2) = some w ∧ 0 < d ∧ d < 32768 ∧ d < w.span ∧
       w.held = []) ∧
    (let w := { window with base := 4, held := [{ sseq := 5, uid := 6, since := 0 }] }
     w.held.length + 1 < fld (reg (arriving w false) Reg.reorderCfg) 43 32 ∧
       (∃ x ∈ w.held, x.sseq = 5 ∧ x.uid ≠ 7) ∧
       ((arriving w false).sw.windows.all (fun e => e.2.held.all (fun x => x.uid != 7))) = true) ∧
    (32768 ≤ ((5 : BitVec 16) - 6).toNat) := by decide +kernel

set_option maxRecDepth 100000 in
theorem test_FramesCrossTheFlue_full_met :
    (let f := accFrame { putHdr 0 2 with len := 60000000 } [1, 2] (.memory 1 3)
     let s := staged f
     (writeRound 1 (flueRounds s)).1 = some 7 ∧
       (obSize s - usedCells s 1) * 2 ^ fld (reg s (Reg.tcCfg 3)) 27 24 / 64 < memqCells s 1 3 + frameCells (frameHdr f)) ∧
    (let f := accFrame { putHdr 0 64 with kind := 4, td := true } (zeros 64) (.intake 1)
     let s := withRegs [(Reg.obCfg 1, 0)] { returning with sw := { returning.sw with frames := [(7, f)] } }
     entryHeld s f = true ∧ Map.getD s.sw.flueIn 3 [] = [7]) := by decide +kernel

theorem test_FramesCrossTheFlue_deadlines_met :
    (let h : Held := { sseq := 6, uid := 7, since := 0 }
     let s := atTick 5000 (withRegs [(Reg.reorderCfg, 0x0001000000000000)]
       (withWindow { window with held := [h] } live))
     s.dbg.dampered = false ∧ h.since + fld (reg s Reg.reorderCfg) 63 44 < s.time.ftc.toNat ∧
       inTransit s (h.since + fld (reg s Reg.reorderCfg) 63 44) = false) ∧
    (let h : Held := { sseq := 6, uid := 7, since := 0 }
     let w := { window with held := [h], pinSent := true }
     let s := atTick 5000 (withRegs [(Reg.reorderCfg, 0), (Reg.pinCfg, 100)] (withWindow w live))
     fld (reg s Reg.reorderCfg) 31 20 < w.held.length ∧
       w.lastPin + fld (reg s Reg.pinCfg) 19 0 / 2 ≤ s.time.ftc.toNat) ∧
    (let s := atTick 1000000 (withWindow window live)
     Map.get? s.sw.windows (winKeyNat winKey) = some window ∧ window.lastArrival + 1000000 ≤ s.time.ftc.toNat) ∧
    (let s := { live with sw := { live.sw with pins := [(flowKey 9 0 2, 0)] } }
     Map.get? s.sw.pins (flowKey 9 0 2) = some 0 ∧ 0 ≤ s.time.ftc.toNat) := by decide +kernel

/-- A frame in the memory queue of port group 0 for TC 3. -/
def atMemory (f : Frame) : State :=
  withFrames [(7, f)] { live with sw := { live.sw with memq := [(3, [7])] } }

set_option maxRecDepth 100000 in
theorem test_MemoryPortServesFrames_met :
    (let f := accFrame (putHdr 0 2) [1, 2] (.memory 0 3)
     let s := atMemory f
     powered s = true ∧ s.dbg.dampered = false ∧ oldestMem 0 s = some (0, 3, 7, f) ∧ f.ended = true ∧
       isAsh s f = false ∧ memStops s f = false ∧ s.bpm.sramChk = [] ∧ pcrcGood f = true ∧
       (frameHdr f).dst.toNat = ownChip s ∧ rangeOk s (frameHdr f).offset.toNat (framePayload f).length = true) ∧
    (let f := accFrame { putHdr 0 2 with offset := 0xFFFFFFFFFFFF } [1, 2] (.memory 0 3)
     oldestMem 0 (atMemory f) = some (0, 3, 7, f) ∧ memStops (atMemory f) f = false ∧ pcrcGood f = true ∧
       rangeOk (atMemory f) (frameHdr f).offset.toNat (framePayload f).length = false) ∧
    (let f := accFrame { putHdr 0 8 with kind := 2 } [0, 0, 0, 4, 0, 0, 0, 0] (.memory 0 3)
     let s := atMemory f
     oldestMem 0 s = some (0, 3, 7, f) ∧ memStops s f = false ∧ (frameHdr f).len = 8 ∧
       fromBe (slice (framePayload f) 4 4) = 0 ∧ fromBe ((framePayload f).take 4) = 4 ∧
       rangeOk s (frameHdr f).offset.toNat 4 = true ∧ (frameHdr f).kind = 2 ∧ s.mss.logFifo.length < 1024 ∧
       rangeOk s 0xFFFFFFFFFFFF 4 = false ∧
       (∀ w ∈ wordsOf (frameHdr f).offset.toNat 4, Map.get? s.mem.chk w = none)) := by decide +kernel

/-- A frame at the head of a port's egress queue for TC 3. -/
def queued (l : Nat) (p : Port) : State :=
  withFrames [(7, accFrame (putHdr 4 2) [1, 2] (.egress l 3))] (withPort l p
    (withRegs [(Reg.ethCtrl 1, 0x1234000000000002)] { live with sw := { live.sw with egress := [(8 * l + 3, [7])] } }))

set_option maxRecDepth 100000 in
theorem test_EgressRuns_met :
    (let s := queued 9 { upPort with grant := [(2, 64)] }
     powered s = true ∧ s.dbg.dampered = false ∧ (getPort s 9).state = .up ∧ ethMode s 9 = false ∧
       (getPort s 9).rev = 2 ∧ pickQueue s 9 = some 3 ∧ Map.getD s.sw.egress (8 * 9 + 3) [] = [7] ∧
       s.bpm.sramChk = [] ∧ (getFrame s 7).map (isAsh s) = some false) ∧
    (let s := queued 1 { upPort with rev := 0 }
     (getPort s 1).state = .up ∧ ethMode s 1 = true ∧ looped s (.port 1) = false ∧ egressRev s 1 = 2 ∧
       pickQueue s 1 = some 3 ∧ Map.getD s.sw.egress (8 * 1 + 3) [] = [7] ∧
       fld (reg s (Reg.ethCtrl 1)) 63 48 ≠ 0 ∧
       (getFrame s 7).map (fun f => decide ((egressBytes 2 f).length + 70 ≤ 9216)) = some true) ∧
    (live.pwr.porst = true ∧ live.mss.romOnly = false ∧ live.twn.fenced = false ∧ isFirst live 9 = true ∧
      (queued 9 upPort).sw.frames.all (fun e => decide (e.1 < (queued 9 upPort).sw.nextUid)) = true ∧
      (reg (withRegs [(Reg.dbgEnable, 8)] (queued 9 upPort)) Reg.dbgEnable).getLsbD 3 = true) ∧
    (let s := withRegs [(Reg.sampleCtrl, 0x801)] live
     (reg s Reg.sampleCtrl).getLsbD 0 = true ∧ s.time.ftc.toNat % 2 ^ fld (reg s Reg.sampleCtrl) 12 8 = 0) := by
  decide +kernel


/-! ### Memories, pools, the sequencer and its stations: premises met -/

/-- Group 0 whose spare takes over for unit 0, which runs. -/
def spareTaking : State :=
  withGroup (withUnit 0 { UnitSt.reset with run := some running } { GroupSt.reset with taking := some 0 }) live

set_option maxRecDepth 100000 in
theorem test_SparesTakeOver_met :
    (let s := withRegs [(Reg.memScrub, 7)] { live with bpm := { live.bpm with ddrWindow := true, ddrGb := 16 } }
     (5#3).toNat < 6 ∧ ((reg s Reg.memScrub).getLsbD 0 = true ∧ (reg s Reg.memScrub).getLsbD 1 = true ∧
       (reg s Reg.memScrub).getLsbD 2 = true) ∧ powered s = true ∧ s.bpm.ddrWindow = true ∧
       0 < s.bpm.ddrGb.toNat ∧ s.time.ftc.toNat % 1000 = 0 ∧ s.bpm.sramChk = [] ∧
       (∀ w ∈ wordsOf 0 256, Map.get? s.mem.chk w = none)) ∧
    (let v : W64 := 0x0000000700000502
     live.pwr.porst = true ∧ live.mss.romOnly = false ∧ fld v 10 8 < 6 ∧
       isSpared live (fld v 10 8) (fld v 5 0) = false ∧ live.bpm.copy = none ∧ sparedIn live (fld v 10 8) < 4 ∧
       some (0, 1) ≠ some (fld v 10 8, fld v 5 0)) ∧
    (let s : State := { live with bpm := { live.bpm with copy := some (5, 2) } }
     s.bpm.copy = some (5, 2) ∧ siteFrozen s (64 * 5 + 2) = false ∧ ∀ e ∈ s.mem.chk, memSite e.1 ≠ 64 * 5 + 2) ∧
    (let s := withGroup { GroupSt.reset with spareEpoch := 4 } live
     s.twn.fenced = false ∧ fld 0x0000000300000001#64 63 32 < (getGroup s 0).spareEpoch.toNat ∧
       (getGroup s 0).spareEpoch.toNat ≤ fld 0x0000000400000001#64 63 32 ∧ (getGroup s 0).covering = false ∧
       (getGroup s 0).taking = none) ∧
    ((getGroup spareTaking 0).taking = some 0 ∧ (getUnit spareTaking 0 4).run = none ∧
      (getUnit spareTaking 0 0).run = some running) := by decide +kernel

set_option maxRecDepth 100000 in
theorem test_PoolRecordsRun_met :
    (let r := record 3 [1, 0, 0x80, 0, 0, 0, 4, 0]
     let s := fifoOf r
     (getGroup s 0).fifo = [r] ∧ seqReady s 0 = true ∧ seqStepFree s 0 = true ∧ s.twn.fenced = false ∧
       s.host.cplq.length < 4096 ∧ s.bpm.sramChk = [] ∧ isPool 1 r = true ∧ s.time.active = false ∧
       ownerValid (poolIssuer r) = true ∧ recFld r 12 4 = 1024 ∧ fitPool 1024 = 1 ∧ handlePool (mkHandle 0 1 1) = 1 ∧
       lowestFree (getGroup s 0).bufs 0 1 (poolCount s 0 1) ((getGroup s 0).bufs.length + 1) 0 = some 1) ∧
    (let r := record 3 [5, 0, 0x80, 0, 2, 0, 0, 0]
     let s := fifoOf r
     let h := recFld r 12 4
     isPool 5 r = true ∧ handleOk s 0 h = true ∧ (getBuf s 0 h).map (·.share) = some 1 ∧
       (getBuf s 0 h).map (·.owner) = some (poolIssuer r)) ∧
    (let r := record 3 [3, 0, 0x80, 0, 2, 0, 0, 0, 0x40, 3]
     isPool 3 r = true ∧ ownerValid (BitVec.ofNat 16 (recFld r 16 2)) = true ∧ recFld r 12 4 = mkHandle 0 1 0) ∧
    (let gr := { GroupSt.reset with bufs := (List.range 8).map (fun i =>
       (mkHandle 0 1 i, { share := 65535, owner := 0x8001, tile := none })) }
     let s := withGroup gr live
     ([1].all (fun q => lowestFree gr.bufs 0 q (poolCount s 0 q) (gr.bufs.length + 1) 0 == none)) = true ∧
       lowestFree gr.bufs 0 2 (poolCount s 0 2) (gr.bufs.length + 1) 0 = some 0 ∧ handlePool (mkHandle 0 2 0) = 2 ∧
       handleOk s 0 (mkHandle 0 1 3) = true ∧ (getBuf s 0 (mkHandle 0 1 3)).map (·.share) = some 65535) ∧
    ((List.range 6).all (fun q => lowestFree [] 0 q (poolCount State.reset 0 q) 1 0 == none)) = true ∧
    handleOk (fifoOf []) 0 0xFFFFFFFF = false ∧
    (isPool 2 (record 3 [2]) = true ∧ isPool 4 (record 3 [4, 0, 0x80, 1]) = true ∧ isOp 5 (record 5 []) = true) := by
  decide +kernel

def operandRec : List Byte := record 4 [0, 0, 0, 0, 0, 0, 0x7F, 0xFF, 0, 0, 0, 0, 0, 0, 0, 0]

/-- Group 0 with an OPERAND record for unit 0 and the tile at address 0. -/
def operandAt : State :=
  { fifoOf operandRec with mem := { cells := Memory.writeBytes [] 0 (tileBytes false tile), chk := [] } }

def holdOf (timed : Bool) : HoldSt :=
  { tally := 5, gen := 0, timed := timed, ctx := none, tag := 7, quiet := false, metAt := none }

/-- A hold of group 0 on tally 5, and one that waits for the tally's START. -/
def holding (timed : Bool) : State :=
  withGroup { GroupSt.reset with hold := some (holdOf timed) }
    { live with ctx := { live.ctx with tallies := [(5, { TallySt.reset with start := if timed then 9 else 0 })] } }

set_option maxRecDepth 100000 in
theorem test_SequencerCommandsRun_met :
    (let r := record 1 [0, 3, 0, 0, 0, 0, 0, 0, 0x7F, 0xFF, 0x3F, 0xFF]
     let s := fifoOf r
     (getGroup s 0).fifo = [r] ∧ seqReady s 0 = true ∧ seqStepFree s 0 = true ∧ s.twn.fenced = false ∧
       isOp 1 r = true ∧ bits (recFld r 8 1) 3 0 < 12 ∧ unitPresent s (bits (recFld r 8 1) 3 0) = true ∧
       s.bpm.sramChk = []) ∧
    (let r := record 2 [0, 5, 0, 2, 1]
     isOp 2 r = true ∧ (nthD r 12 0).getLsbD 1 = false) ∧
    (let r := record 2 [0, 5, 0, 2, 2]
     let s := withContext { context with state := .timedOut } live
     isOp 2 r = true ∧ (nthD r 12 0).getLsbD 1 = true ∧ bits (recFld r 14 2) 14 0 = 0 ∧
       getCtx s 0 = some { context with state := .timedOut }) ∧
    (let r := operandRec
     (fetchTile 3 0 12 (recTag r) (recFld r 18 6) (fifoOf r)).1 = none ∧
       freeHandle 0 80 { operandAt with cord := CordSt.reset } = none ∧
       ¬ (bits (recFld (record 4 [15]) 8 1) 3 0 < 12)) ∧
    (let r := operandRec
     let s := operandAt
     let x := fetchTile 3 0 12 (recTag r) (recFld r 18 6)
       (takeSeqStep 0 (modGroup s 0 (fun gr => { gr with fifo := [] })))
     isOp 4 r = true ∧ isWide s 0 0 = false ∧ unitPresent s 0 = true ∧ bits (recFld r 14 2) 14 0 = 0x7FFF ∧ s.time.active = false ∧
       readFree (recFld r 18 6) s = true ∧ x.1 = some (tile, none) ∧
       freeHandle 0 (64 + payloadLen tile) x.2 = some (mkHandle 0 0 0)) ∧
    (let h := holdOf false
     let s := holding false
     (getGroup s 0).hold = some h ∧ groupRuns s 0 = true ∧ (getGroup s 0).seqCpl = none ∧
       ((getTally s h.tally).gen - h.gen).toNat < 32768 ∧ s.host.cplq.length < 4096) ∧
    (let s := holding true
     (getGroup s 0).hold = some (holdOf true) ∧ ((getTally s 5).gen - 0).toNat < 32768 ∧
       s.time.ftc.toNat < (getTally s 5).start.toNat) := by decide +kernel

def tileFrame : Frame := accFrame { putHdr 0 80 with kind := 4, td := true } (tileBytes true tile) (.intake 0)

/-- A tile at the head of intake 0 for context 0. -/
def tileHere : State :=
  withContext context (withFrames [(7, tileFrame)] { live with sw := { live.sw with intake := [(0, [7])] } })

def offer : Offer :=
  { unit := 3, portB := false, handle := 0, stamp := 0, cmd := none, fromIntake := true, share := false, cause := none,
    dense := none }

def offered (u : Nat) : State :=
  withGroup { GroupSt.reset with
    offers := [{ offer with unit := u }]
    bufs := [(0, { share := 1, owner := 0x8000, tile := some tile })] } live

def held : QTile := { handle := 0, stamp := 0 }

/-- A pair complete in the steering holds of group 0, its port-A tile in the layout given. -/
def steered (layout : Nat) : State :=
  withGroup { GroupSt.reset with
    steerA := [held], steerB := [held]
    bufs := [(0, { share := 1, owner := 0x8000, tile := some { tile with layout := layout } })] }
    (withRegs [(Reg.steer 0, 9)] live)

/-- Unit 3 follows unit 0 in a pipeline; unit 0 has finished a run that gives it tile 1, at the tick given. -/
def contested (at_ : Nat) : State :=
  let p : Nat × List PipeStation :=
    (1, [{ group := 0, unit := 0, portB := false }, { group := 0, unit := 3, portB := false }])
  let s := modUnit (offered 3) 0 0 (fun u =>
    { u with run := some { running with ended := true, doneAt := some at_, emits := [(0, .next 1)] } })
  modGroup { s with cord := { s.cord with cfg := some { cfg0 with pipelines := [p] } } } 0 (fun gr =>
    { gr with offers := [{ offer with stamp := 5 }] })

/-- Units 0 of groups 0 and 1 in a pipeline. -/
def wide : State :=
  let p : Nat × List PipeStation :=
    (1, [{ group := 0, unit := 0, portB := false }, { group := 1, unit := 0, portB := false }])
  { operandAt with cord := { live.cord with cfg := some { cfg0 with pipelines := [p] } } }

set_option maxRecDepth 100000 in
theorem test_TilesReachStations_contested_met :
    ([4, 6].all (fun x =>
      let s := contested x
      let un := getUnit s 0 3
      groupRuns s 0 && unitPresent s 3 && portStepFree s 0 6 && hasRoom s 0 3 false && !portFrozen s 0 3 &&
        (Map.get? (getGroup s 0).portGrant 6 == none) && (upstreamWaits s 0 3 false == some x) &&
        (List.range 2).all (fun r => decide (Map.getD un.arbA.waits r 0 < max 1 (fld (reg s (Reg.stnArb 0)) 7 0))))) = true ∧
    (let s := modUnit (offered 3) 0 3 (fun u => { u with qa := List.replicate 8 held })
     hasRoom s 0 3 false = false ∧ portFrozen s 0 3 = false) ∧
    (let s := withRegs [(Reg.steer 0, 0x8000000000000009)] (offered 11)
     steerOn s 0 = true ∧ portFrozen s 0 11 = false ∧ (getGroup s 0).steerA.length < 8) ∧
    (let s := withRegs [(Reg.groupGate, 1)] (offered 3)
     groupRuns s 0 = false) ∧
    (let s := modUnit wide 0 0 (fun u => { u with qa := List.replicate 8 held })
     isWide s 0 0 = true ∧ pushRoom s 0 0 false = false) := by decide +kernel

set_option maxRecDepth 100000 in
theorem test_TilesReachStations_met :
    (let f := tileFrame
     let s := tileHere
     let r := tileOfFrame (framePayload f) (frameHdr f).ep
     (groupRuns s 0 = true ∧ s.twn.fenced = false ∧ s.cord.state = 3 ∧ s.bpm.sramChk = [] ∧
       (getGroup s 0).offers = [] ∧ (getGroup s 0).poolWait = none ∧ (getGroup s 0).routeWait = none ∧
       intakeStepFree s 0 = true ∧
       s.time.active = false) ∧
     (Map.getD s.sw.intake 0 [] = [7] ∧ getFrame s 7 = some f ∧ f.ended = true ∧ f.link = none ∧ pcrcGood f = true ∧
       r = (tile, true)) ∧
     getCtx s 0 = some context ∧ CtxArg.group context.arg0 = 0 ∧
     tile.rank.toNat < (ctxMGroup s context).chips.length ∧ context.onChip = true ∧
     tile.epoch = (ctxMGroup s context).epoch ∧ context.state = .active ∧ tile.seq = Map.getD context.expSeq 0 0 ∧
     CtxArg.countsFirst context.arg0 = false ∧ CtxArg.arrivals context.arg0 = 0 ∧
     8192 ≤ CtxArg.tally context.arg0 ∧ routingOf s 0 (auxLtab tile.aux) = none ∧
     (poolAlloc 0 (64 + payloadLen tile) (ownerCtx 0) s).1 = some (mkHandle 0 0 0)) ∧
    ([3, 11].all (fun u =>
      let s := offered u
      groupRuns s 0 && unitPresent s u && !portFrozen s 0 u && portStepFree s 0 (portKey u false) && !steerOn s 0 &&
        ((getGroup s 0).offers.find? (fun o => o.unit == u && o.portB == false) == some { offer with unit := u }) &&
        (getBuf s 0 0).isSome && hasRoom s 0 u false && (upstreamWaits s 0 u false).isNone &&
        (Map.get? (getGroup s 0).portGrant (portKey u false)).isNone &&
        !(reg s (Reg.trigger 0 u)).getLsbD 63)) = true ∧
    ([(0, 9), (1, 11), (2, 11)].all (fun e =>
      let s := steered e.1
      ((getGroup s 0).steerA == [held]) && ((getGroup s 0).steerB == [held]) && groupRuns s 0 && portStepFree s 0 32 &&
        ((if (tileAt s 0 0).any (fun x => x.layout == 1 || x.layout == 2) then 11
          else fld (reg s (Reg.steer 0)) 3 0) == e.2) &&
        !portFrozen s 0 e.2 && decide ((getUnit s 0 e.2).qa.length < 8) && decide ((getUnit s 0 e.2).qb.length < 8) &&
        !(reg s (Reg.trigger 0 e.2)).getLsbD 63)) = true ∧
    (let v : W64 := 0x8000000000000009
     live.pwr.porst = true ∧ live.mss.romOnly = false ∧ live.twn.fenced = false ∧ Map.sorted live.regs = true ∧
       fld v 3 0 = 9 ∧ v.getLsbD 63 = true ∧ unitPresent live 11 = true ∧ unitPresent live 9 = true ∧
       pipelineOf live 0 9 = none ∧ entryOk live 0 11 = true ∧ (getGroup live 0).steerA = [] ∧
       (getGroup (steered 0) 0).steerA ≠ []) := by decide +kernel

/-! ### Station programs: premises met -/

def stored : State := withGroup { GroupSt.reset with pstore := image } live
def loaded : State := withGroup progGroup live

set_option maxRecDepth 100000 in
theorem test_ProgramsAreLoaded_met :
    (live.pwr.porst = true ∧ live.mss.romOnly = false ∧ live.twn.fenced = false) ∧
    (loadCheck stored 0 3 0 0).toOption = some prog ∧
    (match loadCheck live 0 3 0 0 with
      | .ok _ => false
      | .error _ => true) = true ∧
    (Map.get? (getGroup loaded 0).progs 3 = some prog ∧ programBusy loaded 0 3 prog.unit = false) := by decide +kernel

theorem test_ParametersArePatched_met :
    (live.pwr.porst = true ∧ live.mss.romOnly = false ∧ live.twn.fenced = false ∧
      Map.has (getGroup live 0).progs 3 = false) ∧
    (let gr := getGroup (withGroup { progGroup with maint := false } live) 0
     Map.has gr.progs 3 = true ∧ gr.maint = false) ∧
    (let gr := getGroup loaded 0
     Map.has gr.progs 3 = true ∧ gr.maint = true ∧ Map.sorted gr.params = true) := by decide

/-- A peek of accumulator 0 of unit 1 of group 0 asked for, the group's debug bit on or off. -/
def peeking (on : Bool) : State :=
  withRegs [(Reg.peekCtrl, 0x0000010000000000), (Reg.arithDebug, if on then 1 else 0)]
    (withGroup (withUnit 1
      { UnitSt.reset with acc := [(0, { rows := 1, cols := 2, clinker := false, cause := (0, 0), val := .fp [1, 2] })] }
      GroupSt.reset) { live with dbg := { live.dbg with peekPending := true } })

theorem test_MaintenanceShowsAccumulators_met :
    (live.pwr.porst = true ∧ live.mss.romOnly = false ∧ live.twn.fenced = false ∧ Map.sorted live.regs = true) ∧
    ((∀ g, g < 16 → (1#64).getLsbD g = true → (getGroup live g).maint = true) ∧ (1#64).getLsbD 0 = true) ∧
    (let s := withGroup { GroupSt.reset with maint := false } live
     (1#64).getLsbD 0 = true ∧ (getGroup s 0).maint = false) ∧
    (fld 0x0000030000000000#64 43 40 ≤ 3 ∧ 9 ≤ fld 0x00000B0000000000#64 43 40 ∧
      fld 0x00000B0000000000#64 43 40 ≤ 11) ∧
    (let v := reg (peeking true) Reg.peekCtrl
     (peeking true).dbg.peekPending = true ∧ (peeking true).bpm.sramChk = [] ∧ (reg (peeking true) Reg.arithDebug).getLsbD (fld v 51 48) = true ∧
       (reg (peeking false) Reg.arithDebug).getLsbD (fld v 51 48) = false ∧
       unitPresent (peeking true) (fld v 43 40) = true ∧
       (Map.get? (getUnit (peeking true) (fld v 51 48) (fld v 43 40)).acc (fld v 33 32)).isSome = true) := by decide

def startAt (n : Nat) : State :=
  atTick n (withGroup (withUnit 0 { UnitSt.reset with order := [{ invoc with startTick := 5 }] } progGroup) live)

def runs (r : Run) : State := withGroup (withUnit 0 { UnitSt.reset with run := some r } progGroup) live

/-- A run at a bundle whose one slot waits for a tile at port A: word 0 of the program the bundle's header, word 1 the
slot. -/
def waiting : State :=
  withGroup (withUnit 0 { UnitSt.reset with run := some running }
    { progGroup with progs := [(3, { prog with words := [0x01000080, 0x04000000] })] }) live

/-- Units 0 and 1 of group 0 in a pipeline, and a run of unit 0 that gives tile 0 to unit 1. -/
def handing : State :=
  let r := { running with ended := true, doneAt := some 4, emits := [(0, .next 0)] }
  let p : Nat × List PipeStation := 
    (1, [{ group := 0, unit := 0, portB := false }, { group := 0, unit := 1, portB := false }])
  let s := withGroup (withUnit 0 { UnitSt.reset with run := some r }
    { progGroup with bufs := [(0, { share := 1, owner := ownerUnit 0 0, tile := some tile })] }) live
  { s with cord := { s.cord with cfg := some { cfg0 with pipelines := [p] } } }

set_option maxRecDepth 100000 in
theorem test_InvocationsRun_met :
    (let s := startAt 5
     let i := { invoc with startTick := 5 }
     groupRuns s 0 = true ∧ s.bpm.sramChk = [] ∧ stepFree s 0 (getUnit s 0 0).lastStep = true ∧ unitStopped s 0 0 = false ∧
       (getUnit s 0 0).order = [i] ∧ i.startTick.toNat ≤ s.time.ftc.toNat ∧
       (startAt 4).time.ftc.toNat < i.startTick.toNat ∧ invocOk (getGroup s 0) i = true ∧
       invocOk (getGroup live 0) i = false) ∧
    (let s := runs running
     s.time.active = false ∧ (getUnit s 0 0).run = some running ∧
       Map.get? (getGroup s 0).progs running.inv.prog.toNat = some prog ∧ running.ended = false ∧
       ctxReady s running = true ∧ runDead s running = false ∧
       (bundleSlots prog.words running.word).all (waitMet s 0 0 running) = true ∧
       (runSlots 0 0 (execOrder (bundleSlots prog.words running.word)) 0
         { running with btag := runTag (getGroup s 0) running } s).err = none) ∧
    (let p := { prog with words := [0x01000080, 0x04000000] }
     Map.get? (getGroup waiting 0).progs running.inv.prog.toNat = some p ∧
       (bundleSlots p.words running.word).all (waitMet waiting 0 0 running) = false) ∧
    (let r := { running with ended := true }
     let s := runs r
     (getUnit s 0 0).run = some r ∧ ctxReady s r = true ∧ writesFree 0 r s = true ∧ runDead s r = false ∧
       commitFault s 0 0 (nextsOf r) = none ∧ nextsOf r = [] ∧ runDead s { r with doomed := true } = true ∧
       commitFault s 0 0 [0] ≠ none) := by decide +kernel

theorem test_InvocationsRun_next_met :
    (let s := handing
     let r := { running with ended := true, doneAt := some 4, emits := [(0, .next 0)] }
     (getUnit s 0 0).run = some r ∧ groupRuns s 0 = true ∧ ctxReady s r = true ∧ writesFree 0 r s = true ∧
       runDead s r = false ∧ commitFault s 0 0 (nextsOf r) = none ∧ nextsOf r = [0] ∧
       downstream s 0 0 = some { group := 0, unit := 1, portB := false } ∧ hasRoom s 0 1 false = true ∧
       portFrozen s 0 1 = false ∧ portStepFree s 0 (portKey 1 false) = true ∧ (getGroup s 0).offers = [] ∧
       (getGroup s 0).portGrant = [] ∧ (reg s (Reg.trigger 0 1)).getLsbD 63 = false) ∧
    (let s := modUnit handing 0 1 (fun x => { x with qa := List.replicate 8 { handle := 9, stamp := 0 } })
     8 < (portQueue (getUnit s 0 1) false).length + 1 ∧ isWide s 0 0 = false ∧ downstream s 0 0 ≠ none) ∧
    (let p : Nat × List PipeStation :=
       (1, [{ group := 0, unit := 0, portB := false }, { group := 0, unit := 1, portB := false },
            { group := 1, unit := 0, portB := false }])
     isWide { handing with cord := { handing.cord with cfg := some { cfg0 with pipelines := [p] } } } 0 0 = true) := by
  decide +kernel

/-! ### Contexts and tallies: premises met -/

def defining : State := withRegs [(Reg.ctxArg 0, context.arg0)] (withContext context live)

def epochAt (e : BitVec 32) : State :=
  let s := withRegs [(Reg.ctxArg 1, 1)] (withContext context live)
  { s with ctx := { s.ctx with groups := [(0, { chips := stagedChips s 1, epoch := e })] } }

/-- An invocation that names context 0 runs. -/
def ctxBusy : State :=
  withContext context (withGroup (withUnit 0
    { UnitSt.reset with run := some { running with inv := { invoc with context := 0 } } } progGroup) live)

set_option maxRecDepth 100000 in
theorem test_ContextActionsRun_met :
    (let s := epochAt 0
     s.pwr.porst = true ∧ s.mss.romOnly = false ∧ s.twn.fenced = false ∧ s.bpm.sramChk = [] ∧ s.mem.chk = [] ∧
       halfRefused s 5 0 = false ∧
       fld (reg s (Reg.ctxArg 1)) 12 0 = 1 ∧ (getMGroup s 0).epoch < 1#32 ∧ boundCtxs s 0 = [0] ∧
       (getMGroup s 0).chips = stagedChips s 1 ∧ 1#32 < (getMGroup (epochAt 2) 0).epoch) ∧
    (fld 0x1000#64 12 0 = 4096 ∧ fld 1#64 12 0 = 1) ∧
    (let s := defining
     let a := reg s (Reg.ctxArg 0)
     s.bpm.sramChk = [] ∧ s.mem.chk = [] ∧ halfRefused s 3 1 = false ∧ getCtx s 1 = none ∧ s.ctx.table.length < 1024 ∧ claimHeld s 0x20 = false ∧
       unitPresent s (CtxArg.entryUnit a) = true ∧ entryOk s (CtxArg.group a) (CtxArg.entryUnit a) = true ∧
       (getMGroup s (CtxArg.mgrp a)).chips ≠ [] ∧ CtxArg.countsFirst a = false ∧ CtxArg.fast a = false ∧
       CtxArg.resident a = false ∧ onChipCount s + slotsPromised s < 1024) ∧
    (let s := withContext context live
     getCtx s 0 = some context ∧ context.arg0 ≠ reg s (Reg.ctxArg 0) ∧ ctxInUse s 0 = false ∧ s.ctx.needs = [] ∧
       context.roundOpen = false ∧ context.state ≠ .timedOut) ∧
    ctxInUse ctxBusy 0 = true := by decide +kernel

def needing (x : Ctx) (n : Need) : State := { banking x with ctx := { (banking x).ctx with needs := [n] } }

/-- BANK named the context; and one whose record was asked for. -/
def leaving : State :=
  needing { context with state := .banking } { at_ := 0, ctx := none, victim := some 0, waits := false }
def returning0 : State :=
  needing { context with onChip := false, state := .unbanking }
    { at_ := 0, ctx := some 0, victim := none, waits := false }

set_option maxRecDepth 100000 in
theorem test_ContextsAreBanked_met :
    (let s := banking context
     getCtx s 0 = some context ∧ s.bpm.sramChk = [] ∧ s.mem.chk = [] ∧ s.pwr.porst = true ∧ s.mss.romOnly = false ∧ s.twn.fenced = false ∧
       claimHeld s 0x20 = true ∧ CtxArg.resident context.arg0 = false ∧ context.onChip = true ∧
       isVictim s 0 = false ∧ context.state = .active) ∧
    CtxArg.resident { context with arg0 := 0x8030000000002000 }.arg0 = true ∧
    (let x := { context with onChip := false, state := .banked }
     let s := banking x
     getCtx s 0 = some x ∧ isNeeded s 0 = false ∧ onChipCount s + slotsPromised s < 1024) ∧
    (let n : Need := { at_ := 0, ctx := none, victim := some 0, waits := false }
     let s := leaving
     s.bpm.sramChk = [] ∧ s.mem.chk = [] ∧ s.ctx.needs.find? (fun n => n.victim == some 0) = some n ∧ (∀ n ∈ s.ctx.needs, n.waits = false) ∧
       s.dbg.dampered = false ∧ bankFree s 0 = true ∧ atBoundary s 0 = true ∧ bankOffset s 0 = some 0x100000 ∧
       Memory.wf s.mem.cells) ∧
    (let n : Need := { at_ := 0, ctx := some 0, victim := none, waits := false }
     let s := returning0
     headNeed s = some n ∧ (∀ n ∈ s.ctx.needs, n.waits = false) ∧ bankFree s 0 = true ∧
       s.bpm.sramChk = [] ∧ s.mem.chk = []) ∧
    (let n : Need := { at_ := 0, ctx := some 1, victim := some 0, waits := false }
     let s := needing { context with state := .banking } n
     headNeed s = some n ∧ s.ctx.needs.find? (fun n => n.victim == some 0) = some n ∧ atBoundary s 0 = true) := by decide +kernel

/-- One tick past the deadline of a round short of a tile, an invocation naming its context at a wait point. -/
def overdue : Ctx := { context with timeout := 5, roundOpen := true, deadline := 9, required := some 2, arrived := 1 }
def late : State :=
  atTick 10 (withContext overdue (withGroup (withUnit 0
    { UnitSt.reset with run := some { running with inv := { invoc with context := 0 }, ended := true } }
    { progGroup with bufs := [(0, { share := 1, owner := ownerCtx 0, tile := some tile })] }) live))

set_option maxRecDepth 100000 in
theorem test_RoundsTimeOut_met :
    late.bpm.sramChk = [] ∧ late.mem.chk = [] ∧ getCtx late 0 = some overdue ∧ overdue.state = .active ∧ overdue.onChip = true ∧ overdue.roundOpen = true ∧
      overdue.timeout ≠ 0 ∧ overdue.deadline < late.time.ftc.toNat ∧ overdue.required = some 2 ∧ overdue.arrived < 2 ∧
      late.dbg.dampered = false ∧ powered late = true ∧ heldOver late overdue = false ∧
      tileInTransit late overdue 0 = false ∧
      atWaitPoint (getGroup late 0) { running with inv := { invoc with context := 0 }, ended := true } = true := by
  decide +kernel

def counting : State :=
  withRegs [(Reg.tallyCfg 5, 3)]
    { live with ctx := { live.ctx with tallies := [(5, { TallySt.reset with value := 2 })] } }

theorem test_TalliesCountAndFire_met :
    (let s := counting
     halfRefused s 6 5 = false ∧ s.pwr.porst = true ∧ s.mss.romOnly = false ∧ s.twn.fenced = false ∧
       Map.sorted s.regs = true ∧ s.bpm.sramChk = [] ∧ (reg s (Reg.tallyCfg 5)).getLsbD 63 = false ∧
       (reg s (Reg.tallyCfg 5)).getLsbD 62 = false ∧ (reg s (Reg.tallyCfg 5)).getLsbD 61 = false ∧
       (getTally s 5).value.toNat < fld (reg s (Reg.tallyCfg 5)) 47 0 ∧
       fld (reg s (Reg.tallyCfg 5)) 47 0 ≤ (getTally s 5).value.toNat + 1) ∧
    fld 999#64 31 0 < 1000 ∧ 0 < fld 1#64 31 0 ∧ 1000 ≤ fld 1000#64 31 0 := by decide

/-! ### Expert routing: premises met -/

/-- Layer table 0: class I, K = 1, 16 experts of capacity 4 on owner scores, one activation tile, one chunk, the book
and the only ledger in group 0. -/
def layer : Map W64 :=
  [(Reg.layer 0 0, 0xA120001000040000), (Reg.layer 0 2, 0x00010010), (Reg.layer 0 3, 0x0000001075008000),
   (Reg.layer 0 4, 0x0008400000000000)]

/-- The same tile in FORMAT 5, four octets an element. -/
def tile32 : Tile := { tile with format := 5, dataLen := 64, data := zeros 64 }

/-- PLACEMENT bound at 1 MiB, the book and the ledger as given. -/
def routing (b : Book) (d : Ledger) : State :=
  withGroup { GroupSt.reset with bufs := [(0, { share := 1, owner := 0x8000, tile := some tile32 })] }
    (withRegs layer { live with
      cord := { live.cord with claims := [(0x21, { runtime := true, resource := 0x31, base := 1, len := 64 })] }
      moe := { live.moe with books := [(0, b)], ledgers := [(0, d)] } })

def routing0 : State := routing Book.reset Ledger.reset
def opened : State := withContext { context with roundOpen := true } routing0
def cleared : State := setReg routing0 (Reg.layer 0 0) 0

set_option maxRecDepth 100000 in
theorem test_RoutingTablesAreChecked_met :
    (let s := routing0
     let s1 := setReg s (Reg.layer 0 0) (0xA120001000040000 &&& ltMask 0)
     s.pwr.porst = true ∧ s.mss.romOnly = false ∧ s.twn.fenced = false ∧ claimHeld s 0x21 = true ∧
       Map.sorted s.regs = true ∧ halfRefused s 9 0 = false ∧ halfRefused s 8 0 = false ∧ ltValid s1 0 = true ∧
       ltCheck s1 0 = 0 ∧ ltRoundOpen s 0 = false ∧ ltPbank s 0 = 0 ∧ placeOffset s 0 0 0 = some 0x100000 ∧
       Memory.wf s.mem.cells) ∧
    ltCheck (setReg routing0 (Reg.layer 0 2) 0) 0 = 3 ∧
    ([ltCheck (setReg routing0 (Reg.layer 0 0) 0x8120001000040000) 0,
      ltCheck (setReg routing0 (Reg.layer 0 3) 0) 0]).any (fun n => n == 1 || n == 2) = true ∧
    (ltValid cleared 0 = false ∧ Map.sorted cleared.regs = true ∧
      ltValid (setReg cleared (Reg.layer 0 0) (0x0120001000040000 &&& ltMask 0)) 0 = false ∧
      ltWordOk 0 0x0120001000040000 = true ∧ ltWordOk 0 0x0300000000000000 = false ∧
      ltWordOk 2 0x400 = true ∧ ltWordOk 2 0x401 = false) ∧
    ltRoundOpen opened 0 = true := by decide +kernel

def activation : BookTile := { handle := 0, expert := 0, token0 := 4, rows := 1 }

def bookAt (n : BitVec 3) : Book := { Book.reset with phase := n, acts := [activation] }

set_option maxRecDepth 100000 in
theorem test_BooksAndLedgersStep_met :
    (let s := routing Book.reset { Ledger.reset with complete := true }
     (Map.get? s.moe.books 0).isSome = true ∧ ltBookEn s 0 = true ∧ groupRuns s (ltBookGroup s 0) = true ∧ ltNch s 0 = 1 ∧ ltActTiles s 0 = 1 ∧
       ltLedgerEn s 0 = true ∧ (getLedger s 0).complete = true ∧ groupRuns s (ltLedgerGroup s 0) = true ∧
       placesFree s 0 0 (ltExperts s 0) = true ∧ placeOffset s (ltPbank s 0) 0 0 = some 0x100000 ∧ s.mem.chk = [] ∧ s.bpm.sramChk = [] ∧
       ledgerGood s 0 [⟨3, 2, 0, 0⟩, ⟨5, 1, 0, 0⟩] = true ∧ ledgerGood s 0 [⟨5, 2, 0, 0⟩, ⟨3, 1, 0, 0⟩] = false ∧
       ledgerGood s 0 [⟨16, 2, 0, 0⟩] = false) ∧
    (let b := { bookAt 1 with scores := [activation] }
     statsReady (routing b Ledger.reset) 0 b = some activation) ∧
    (let b := { bookAt 2 with scores := [activation], statsDone := [4] }
     b.acts.find? (fun a => b.statsDone.contains a.token0 && !b.gated.contains a.token0) = some activation) ∧
    (let b := { bookAt 2 with gates := [activation] }
     let s := routing b Ledger.reset
     b.phase = 2 ∧ b.acts.length = ltActTiles s 0 ∧ b.gates.length = ltActTiles s 0 * ltNch s 0) ∧
    (let b := { bookAt 4 with closed := true }
     let s := routing b Ledger.reset
     b.phase = 4 ∧ b.closed = true ∧ b.combining = false ∧ (∀ a ∈ b.acts, a.rows ≤ 256) ∧ ltClassT s 0 = false ∧
       dispatchesOf s 0 b.acts (((bookTokens b.acts).map (fun k => (tokenPairs s 0 k (admitI b).1).1)).flatten) = []) ∧
    (let b := { Book.reset with combining := true, returned := true, cActs := [activation] }
     (b.cActs.foldl (combineOne 0 b) (some (routing b Ledger.reset))).isSome = true) := by decide +kernel

/-! ### The cord: premises met -/

/-- LOAD refused: a cord in force and onward on. -/
def onward : State := withRegs [(Reg.fwdCfg, 0x2001)] live
def applying : State :=
  { live with cord := { live.cord with action := .applying [] { cfg0 with enables := 5, serial := 77 } } }

set_option maxRecDepth 100000 in
theorem test_CordIsLoaded_met :
    (live.pwr.porst = true ∧ live.mss.romOnly = false ∧ live.cord.action = .idle ∧
      (cordVerdict live (stagedImage live)).isSome = true ∧ live.cord.cfg ≠ none ∧ reloadOk live = true) ∧
    (onward.cord.action = .idle ∧ onward.cord.cfg ≠ none ∧ reloadOk onward = false) ∧
    (applying.cord.action = .applying [] { cfg0 with enables := 5, serial := 77 } ∧
      Map.sorted applying.regs = true ∧ splitOf applying.cord.cfg = splitOf (some { cfg0 with enables := 5 }) ∧
      splitOf none ≠ splitOf (some cfg0) ∧ splitOf none = splitOf (some { cfg0 with oMb := 48, tMb := 64 })) := by
  decide +kernel

/-- A staged image that passes every check, its signatures among them, on firmware that trusts its keys. -/
def goodCord : State :=
  { live with
    mss := { live.mss with fw := { live.mss.fw with cordKeys := [Laws.keyPairDigest] } }
    cord := { live.cord with staged := Laws.storeOf 0 Laws.cordImage } }

theorem test_CordIsLoaded_passes_met :
    goodCord.pwr.porst = true ∧ goodCord.mss.romOnly = false ∧ goodCord.cord.action = .idle ∧
      reloadOk goodCord = true ∧ cordVerdict goodCord (stagedImage goodCord) = none := by
  refine ⟨rfl, rfl, rfl, by decide +kernel, ?_⟩
  rw [Laws.cordImage_staged goodCord rfl]
  exact Laws.cordImage_passes goodCord rfl (by decide) rfl

/-- CONTEXT_BANK to 64 MiB of HBM4 at 16 MiB, and CRD_BIND without a resource. -/
theorem test_BindingsAndFloor_met :
    (let v : W64 := 0x0020200001000040
     live.pwr.porst = true ∧ live.mss.romOnly = false ∧ live.cord.action = .idle ∧ live.cord.cfg ≠ none ∧
       pairOk (bindOf v) = true ∧ claimHeld live (bindOf v).claimant.toNat = false ∧
       resourceTaken live (bindOf v) = false ∧ pairOk (bindOf 0x0020000000000000) = false) ∧
    (let s := banking context
     let s0 := { s with ctx := { s.ctx with table := [] } }
     bindFieldsOk 0x0020200001000040 = true ∧ bindFieldsOk 0x0022200001000040 = false ∧ (claimOf s 0x20).map (·.runtime) = some true ∧ featureOn s0 (fld 0x0020200001000040#64 55 48) = false ∧
       claimHeld s 0x20 = true ∧ featureOn (banking { context with onChip := false }) 0x20 = true) ∧
    (let s : State := { live with cord := { live.cord with floor := 5 } }
     (4#64).toNat < s.cord.floor.toNat ∧ s.cord.floor.toNat ≤ (5#64).toNat ∧ programming s = false) := by
  decide +kernel

/-! ### Host link, registers: premises met -/

/-- HL_UP trained, the peer's HELLO as given. -/
def trained (hello : Option Byte) : State :=
  { live with host := { live.host with hopUp := { HopSt.reset with trained := true, helloRx := hello } } }

/-- Two packets unacknowledged on HL_UP, of HSEQ 4 and 5. -/
def unacked (n : Nat) : State :=
  { chained with host := { chained.host with
    hopUp := { chained.host.hopUp with unacked := [(4, pkt 0x02 0 []), (5, pkt 0x02 0 [])], resends := n } } }

def helloPkt : List Byte := pktOctets { pkt 0x0B 0 [3, 0, 0, 0, 0, 0, 0, 0] with reqId := 0 }
def linkPkt (nak : Bool) (n : Byte) : List Byte :=
  pktOctets { pkt 0x0C 0 [if nak then 2 else 1, n, 0, 0, 0, 0, 0, 0] with reqId := 0 }

set_option maxRecDepth 100000 in
theorem test_HostHopsRun_met :
    (live.pwr.porst = true ∧ hopMayTrain live .up = true ∧ (getHop live .up).up = false) ∧
    (let s := trained (some 3)
     hopMayTrain s .up = true ∧ (getHop s .up).up = false ∧ (getHop s .up).trained = true ∧
       (getHop s .up).helloRx = some 3 ∧ commonVersion (hopOffers s .up) 3 ≠ 0 ∧ (getHop s .up).seenSent = false) ∧
    (pktCrcOk helloPkt = true ∧ (pktOf helloPkt).ty = 0x0B ∧ oneHopOk (pktOf helloPkt) = true) ∧
    ([(false, 5), (true, 5), (true, 4)].all (fun e =>
      let b := linkPkt e.1 e.2
      pktCrcOk b && (pktOf b).ty == 0x0C && oneHopOk (pktOf b) && payloadByte (pktOf b) 1 == e.2 &&
        payloadByte (pktOf b) 0 == (if e.1 then 2 else 1))) = true ∧
    (let s := unacked 0
     let q := pkt 0x02 0 []
     (getHop s .up).trained = true ∧ (getHop s .up).up = true ∧
       (getHop s .up).unacked = [(4, q)] ++ (5, q) :: [] ∧ (getHop s .up).unacked = [] ++ (4, q) :: [(5, q)] ∧
       (∀ x ∈ [(4#8, q)], x.1 ≠ 5) ∧ some (5, q) ≠ [(4, q)].head? ∧ (getHop s .up).own = [] ∧
       (getHop s .up).fwd = [] ∧ (getHop s .up).resends < 16) ∧
    (let s := unacked 16
     (getHop s .up).up = true ∧ (getHop s .up).unacked ≠ [] ∧ 16 ≤ (getHop s .up).resends) := by decide +kernel

/-- A read of PWR_RAILS, and one of a monitor image. -/
def railsRead : HostPkt := pkt 0x01 3 [0, 14, 0, 0, 0, 0x40, 1, 0]

/-- A firmware image of eight octets is being staged. -/
def updating : State := { chained with mss := { chained.mss with updState := 1, stagedLen := 8 } }

set_option maxRecDepth 100000 in
theorem test_HostPacketsAreHandled_met :
    (let p := pkt 0x07 0xFF [5, 0, 0, 0, 0, 0, 0, 0]
     let s := { chained with host := { chained.host with chainAddr := 0xFF } }
     inTurn s p = true ∧ pktOk s p = true ∧ payloadByte p 0 ≠ 0 ∧ (payloadByte p 0).toNat ≤ 32 ∧
       s.host.chainAddr = 0xFF) ∧
    (let p := railsRead
     inTurn chained p = true ∧ pktOk chained p = true ∧ chained.host.hopUp.own = [] ∧ chained.host.hopUp.fwd = [] ∧
       chained.host.hopUp.unacked.length < 128 ∧ pktCount p = 1 ∧ 0x800200000 ≤ pktAddr p ∧
       none ∉ chained.host.hopUp.own) ∧
    (let p := pkt 0x03 3 ([0, 14, 0, 0, 0, 0x40, 1, 0] ++ zeros 8)
     inTurn chained p = true ∧ pktOk chained p = true ∧ pktOk chained { p with len := 15 } = false ∧
       inTurn chained { p with len := 15 } = true ∧ oneHop { p with len := 15 } = false) ∧
    (let p := pkt 0x05 3 (record 5 [])
     inTurn chained p = true ∧ pktOk chained p = true ∧ p.payload.length = 32 ∧ recordOk p.payload = true ∧
       chained.twn.fenced = false ∧ (getGroup chained (recFld p.payload 1 1)).fifo.length < 256) ∧
    (let p := pkt 0x0A 3 (zeros 16)
     let s := updating
     inTurn s p = true ∧ pktOk s p = true ∧ fromBe (slice p.payload 0 2) = 0 ∧ s.mss.updState = 1 ∧
       fromBe (slice p.payload 2 6) % 8 = 0 ∧ (p.payload.drop 8).length % 8 = 0 ∧
       fromBe (slice p.payload 2 6) + (p.payload.drop 8).length ≤ s.mss.stagedLen) := by decide +kernel

set_option maxRecDepth 100000 in
theorem test_HostPacketsAreHandled_hops_met :
    (let p := pkt 0x0B 0 [3, 0, 0, 0, 0, 0, 0, 0, 0]
     pktCrcOk (pktOctets p) = true ∧ oneHop p = true ∧ oneHopOk p = false ∧
       (getHop (trained none) .up).trained = true) ∧
    (let p := pkt 0x01 4 []
     oneHop p = false ∧ p.hseq = chained.host.hopUp.rxExp ∧ chained.host.chainAddr ≠ 0xFF ∧
       chained.host.chainAddr.toNat < p.dst.toNat ∧ p.dst.toNat ≤ 32 ∧ chained.host.hopDn.up = true ∧
       chained.host.hopDn.own = [] ∧ chained.host.hopDn.fwd = [] ∧ chained.host.hopDn.unacked.length < 128) ∧
    (let p := pkt 0x02 0 []
     pktCrcOk (pktOctets p) = true ∧ pktOf (pktOctets p) = p ∧ oneHop p = false ∧
       p.hseq = chained.host.hopDn.rxExp ∧ p.dst = 0 ∧ chained.host.hopUp.up = true) ∧
    (pktCrcOk (zeros 24) = false ∧ chained.host.hopUp.nakPending = false) ∧
    (let c : Cpl :=
       { kind := 1, status := .ok, group := 0, opcode := 5, tag := 7, pass := 0, btag := 0, result := 0, ftime := 0 }
     let s := { chained with host := { chained.host with cplq := [c] } }
     s.host.hopUp.up = true ∧ s.host.hopUp.unacked.length < 128 ∧ s.host.cplq ≠ []) ∧
    (let s := claims [(0x13, 0x10)] (withRegs [(Reg.wdCfg, 0x8000000000000005)] live)
     s.pwr.porst = true ∧ (reg s Reg.wdCfg).getLsbD 63 = true ∧ (timerHeld s 0x13).isSome = true) := by decide +kernel

set_option maxRecDepth 100000 in
theorem test_RailsAreShown_met :
    inTurn chained railsRead = true ∧ pktOk chained railsRead = true ∧ railsRead.ty = 0x01 ∧
      pktAddr railsRead = 0xE00000040 ∧ pktCount railsRead = 1 ∧ chained.host.hopUp.own = [] ∧
      chained.host.hopUp.fwd = [] ∧ chained.host.hopUp.unacked.length < 128 ∧ chained.pwr.pgOpen = 0 := by decide +kernel

theorem test_RegisterWritesFollowTheirTables_met :
    (let s : State := { live with twn := { live.twn with fenced := true } }
     s.pwr.porst = true ∧ s.mss.romOnly = false ∧ s.twn.fenced = true) ∧
    (([0x300000000, 0x400000000, 0x700000000, 0x800000000, 0x900000000, 0xAFFFFFFF8] : List Nat).all
      (fun a => a % 8 == 0 && [3, 4, 7, 8, 9, 10].contains (a / 0x100000000))) = true ∧
    (15 ≤ 0xF00000000 / 0x100000000 ∧ 0x600000204 % 8 ≠ 0) ∧ Map.sorted live.regs = true ∧ fld 64#64 6 0 ≤ 64 ∧
    64 < fld 65#64 6 0 ∧ 1067 ≤ fld 1067#64 15 0 ∧ fld 1850#64 15 0 ≤ 1850 ∧ fld 1066#64 15 0 < 1067 := by decide

/-! ### Power and start: premises met -/

def banked0 : State := { inState .idle with pwr := { (inState .idle).pwr with bankEntry := true } }

theorem test_PowerCommands_met :
    (let s := inState .off
     s.pwr.porst = true ∧ s.mss.romOnly = false ∧ s.pwr.state = .off ∧ s.mss.updState ≠ 3 ∧ live.pwr.state ≠ .off ∧
       (inState .halted).pwr.state = .halted) ∧
    (let s := inState .idle
     s.pwr.state = .idle ∧ s.pwr.bankEntry = false ∧ (reg s Reg.fwdCfg).getLsbD 0 = false ∧ anyBusy s = false ∧
       cordRunning s = false ∧ s.bpm.copy = none) ∧
    (banked0.pwr.state = .idle ∧ banked0.pwr.bankEntry = true ∧ ∀ e ∈ banked0.ports, e.2.state ≠ .closing) ∧
    ((inState .banked).pwr.state = .banked ∧ (inState .banked).mss.updState ≠ 3) ∧
    (writing.mss.updState = 3 ∧ writing.pwr.state ≠ .banked ∧ writing.pwr.state ≠ .bankedRestarting) ∧
    (busy.pwr.state = .active ∧ anyBusy busy = true ∧ anyBusy (inState .blaze) = false ∧
      (inState .blaze).pwr.state = .blaze) ∧
    (let s := claims [(0x10, 0x10)] live
     s.pwr.state = .active ∧ claimHeld s 0x10 = true ∧ s.pwr.blazeU < 120000 ∧ cordRunning s = false ∧
       claimHeld live 0x10 = false) := by decide +kernel

/-- A start at a step, with a firmware image in flash and a firmware digest sealed. -/
def atStep (x : PowerState) (n : BitVec 4) : State :=
  { live with
    pwr := { live.pwr with state := x, startStep := n }
    mss := { live.mss with flashValid := true, store := { live.mss.store with valid := true } } }

def passed : StepResult :=
  { cause := 0, bistRows := [], ddrPresent := 0, ddrUsable := 0, ddrGb := [], durationMs := 0, hostLoss := [] }

/-- Step 2, with an image in flash whose keys are fused. -/
def goodImage : State :=
  let s := atStep .coldStarting 2
  { s with mss := { s.mss with keyDigests := [Laws.keyPairDigest], flash := Laws.storeOf 0 Laws.fwImage } }

theorem test_StartsRunTheirSteps_passes_met :
    goodImage.pwr.porst = true ∧ goodImage.pwr.state = .coldStarting ∧ goodImage.pwr.startStep = 2 ∧
      passed.cause = 0 ∧ romVerdict goodImage = 0 := by
  exact ⟨rfl, rfl, rfl, rfl, Laws.fwImage_starts goodImage [] rfl rfl rfl (by decide) rfl⟩

theorem test_StartsRunTheirSteps_met :
    (([1, 2, 3, 4, 5, 6, 7, 9] : List (BitVec 4)).all (fun n =>
      let s := atStep .coldStarting n
      s.pwr.porst && (s.pwr.state == .coldStarting) && s.pwr.startStep == n && passed.cause == 0 && s.pwr.en == 0x3F &&
        s.mss.flashValid)) = true ∧
    (let s := atStep .coldStarting 4
     tooManyRows (repairRows (s.bpm.fusedRows ++ passed.bistRows) s.bpm.sramMarks) = false) ∧
    (let r := { passed with ddrPresent := 0xFF, ddrUsable := 0xFF, ddrGb := List.replicate 8 32 }
     usableChannels r = 0xFF ∧ usableChannels passed ≠ 0xFF) ∧
    ((atStep .bankedRestarting 5).pwr.state = .bankedRestarting ∧ (atStep .bankedRestarting 5).pwr.startStep = 5 ∧
      { passed with cause := 4 }.cause ≠ 0) := by decide +kernel

/-- The last step of a banked restart, with the digest given sealed for the cord. -/
def restartAtEnd (d : List Byte) : State :=
  { atStep .bankedRestarting 8 with mss := { live.mss with store := { live.mss.store with
      valid := true, cordDigest := d } } }

theorem restartAtEnd_cord (d : List Byte) : (restartAtEnd d).cord.activeImg = live.cord.activeImg := rfl

theorem restartAtEnd_digest (d : List Byte) : (restartAtEnd d).mss.store.cordDigest = d := rfl

theorem test_StartsRunTheirSteps_bankedEnd_met :
    ∃ s : State, s.pwr.porst = true ∧ s.pwr.state = .bankedRestarting ∧ s.pwr.startStep = 8 ∧ s.mss.store.valid = true ∧
      cordDigest s.cord.activeImg = s.mss.store.cordDigest :=
  ⟨restartAtEnd (cordDigest live.cord.activeImg), rfl, rfl, rfl, rfl, by
    rw [restartAtEnd_cord, restartAtEnd_digest]⟩

theorem test_GroupsAreGated_met :
    (busy.pwr.porst = true ∧ busy.mss.romOnly = false ∧ Map.sorted busy.regs = true ∧ (1#64).getLsbD 0 = true ∧
      (reg busy Reg.groupGate).getLsbD 0 = false ∧ groupBusy busy 0 = true) ∧
    (groupBusy busy 3 = false ∧ (inState .idle).pwr.state = .idle ∧ (inState .idle).pwr.bankEntry = false ∧
      busy.pwr.state = .active) := by decide +kernel

/-- A cold start in step 1 with some enables asserted, all but the last good. -/
def enabling (en pg : BitVec 6) : State :=
  { atStep .coldStarting 1 with pwr := { (atStep .coldStarting 1).pwr with en := en, pg := pg } }

theorem test_RailsAndVoltage_met :
    (Map.sorted live.regs = true ∧ 660 ≤ fld 660#64 15 0 ∧ fld 660#64 15 0 % 5 = 0 ∧ fld 655#64 15 0 < 660 ∧
      fld 760#64 15 0 ≤ 760 ∧ fld 760#64 15 0 % 5 = 0 ∧ 760 < fld 765#64 15 0) ∧
    (let s := { live with pwr := { live.pwr with vidTarget := 60, vidCode := 44 } }
     s.pwr.en.getLsbD 0 = true ∧ s.pwr.vidCode.toNat ≠ s.pwr.vidTarget.toNat) ∧
    (let s := enabling 3 1
     starting s = true ∧ s.pwr.startStep = 1 ∧ s.pwr.dropping = false ∧ (∀ k, k < 2 → s.pwr.en.getLsbD k = true) ∧
       s.pwr.en.getLsbD 2 = false ∧ s.pwr.en ≠ s.pwr.pg ∧ s.pwr.en ≠ 0) ∧
    (let s := enabling 0x1F 0xF
     (∀ k, k < 5 → s.pwr.en.getLsbD k = true) ∧ s.pwr.en.getLsbD 5 = false) ∧
    (starting (enabling 0 0) = true ∧ (enabling 0 0).pwr.en = 0) ∧
    (let s := { live with pwr := { live.pwr with dropping := true } }
     s.pwr.dropping = true ∧ s.pwr.en ≠ 0) ∧
    (bankRemoving banked0 = true ∧ banked0.pwr.dropping = false ∧ banked0.pwr.en &&& 7#6 ≠ 0) ∧
    (live.pwr.en.getLsbD ((6#3).toNat - 1) = true ∧ live.pwr.en.getLsbD ((1#3).toNat - 1) = true ∧
      live.pwr.dropping = false) ∧
    (storeInForce live.mss).isSome = true := by decide

/-- The hottest of 32 junctions, the last, at `v` eighths of a degree. -/
def samples (v : BitVec 16) : List (Option (BitVec 16)) := List.replicate 31 (some 0) ++ List.replicate 33 (some v)

theorem test_BlazeAndHeat_samples (v : BitVec 16) : ∀ x ∈ (samples v).take 32, x = some 0 ∨ x = some v := by
  intro x hx
  have h := List.mem_of_mem_take hx
  simp only [samples, List.mem_append, List.mem_replicate] at h
  exact h.imp And.right And.right

def blazing (u : Nat) : State := { inState .blaze with pwr := { (inState .blaze).pwr with blazeU := u } }

theorem test_BlazeAndHeat_met :
    (tickState live ≠ .blaze ∧ tickState (blazing 168000) = .blaze ∧ (blazing 0).pwr.state = .blaze ∧
      168000 < (blazing 168000).pwr.blazeU + 4 ∧ (blazing 167996).pwr.blazeU + 4 ≤ 168000 ∧
      (blazing 168000).dbg.serials.contains 0 = false ∧ programming live = false ∧ programming writing = true) ∧
    (([799, 800, 839, 840, 919, 920] : List (BitVec 16)).all (fun v =>
      (samples v).length == 64 && ((samples v).take 32).contains (some v) && decide ((0#16).toInt ≤ v.toInt))) = true ∧
    ((799#16).toInt < 800 ∧ (839#16).toInt < 840 ∧ (919#16).toInt < 920 ∧ 840 ≤ (840#16).toInt ∧
      920 ≤ (920#16).toInt ∧ tickState (inState .banked) = .banked ∧ live.pwr.thermArmed = true) := by decide +kernel


/-- A sample in which die 2 gives no reading. -/
def blindDie : List (Option (BitVec 16)) := List.replicate 16 (some 0) ++ List.replicate 8 none ++ List.replicate 40 (some 0)

theorem test_BlazeAndHeat_blind_met :
    blindDie.length = 64 ∧ (∀ i, i < 8 → blindDie[8 * 2 + i]? = some none) ∧ diesPowered (tickState live) = true := by
  decide

/-- A start whose firmware does not run yet. -/
theorem test_PowerCommands_start_met :
    (let s : State := { inState .coldStarting with mss := { live.mss with romOnly := true } }
     s.pwr.porst = true ∧ s.mss.romOnly = true ∧ starting s = true ∧ s.pwr.state ≠ .off) := by decide

/-! ### Management: premises met -/

/-- The check value the standard's own polynomial has: the octets of "123456789" (SMBus 3.1's CRC-8). -/
theorem test_packet_error_code :
    smbusPec (([0x31, 0x32, 0x33, 0x34, 0x35, 0x36, 0x37, 0x38, 0x39] : List Byte)) = 0xF4 := by decide +kernel

/-- SHA-512 of "abc" (FIPS 180-4's example), its first 8 octets. -/
theorem test_sha512_abc :
    (sha512 ([0x61, 0x62, 0x63] : List Byte)).take 8 = [0xDD, 0xAF, 0x35, 0xA1, 0x93, 0x61, 0x7A, 0xBA] := by
  decide +kernel

/-- RFC 8032, 7.1, TEST 1: the empty message. -/
theorem test_ed25519_rfc8032 :
    ed25519Verify
      (leBytes 32 0x1A5107F7681A02AF2523A6DAF372E10E3A0764C9D3FE4BD5B70AB18201985AD7) []
      (leBytes 32 0x5501492265E073D874D9E5B81E7F87848A826E80CCE2869072AC60C3004356E5 ++
        leBytes 32 0x0B107A8E4341516524BE5B59F0F55BD26BB4F91C70391EC6AC3BA3901582B85F) = true := by decide +kernel

/-- A register selected on the SMBus. -/
def selected (w : BitVec 16) : State :=
  { live with mss := { live.mss with smbusSel := some w, sensors := [(63, some 40)] } }

theorem test_SmbusReadsRegisters_met :
    (([0, 8, 0x3F8, 0x8008, 0x8030] : List (BitVec 16)).all (fun w => (selected w).mss.smbusSel == some w)) = true ∧
    (live.pwr.porst = true ∧ live.mss.smbusSel = none ∧
      (selected (BitVec.ofNat 16 (0x200 + 8 * 63))).mss.smbusSel = some 0x3F8 ∧
      Map.get? (selected 0x3F8).mss.sensors 63 = some (some 40)) := by decide

def logged : LogRec :=
  { lseq := 0, code := 0x0582, sev := 1, unit := 0xFF, tag := none, lost := false, persist := false, ftime := 0
    args := [] }

/-- An entry of tick 0 waits at tick 1, the mark at 9 and the next number as given. -/
def logAt (n : BitVec 32) : State :=
  atTick 1 { live with mss := { live.mss with
    logFifo := [logged], nextLseq := n, store := { live.mss.store with logMark := 9 } } }

/-- A seal under way, and a record of LSEQ 3 in the ring. -/
def sealing : State := { live with mss := { live.mss with sealing := some 5, ring := [{ logged with lseq := 3 }] } }

theorem test_LogIsKept_met :
    (let s := logAt 8
     s.mss.logFifo = logged :: [] ∧ logged.ftime ≠ s.time.ftc ∧ 0 < (s.mss.store.logMark - s.mss.nextLseq).toInt ∧
       s.mss.persistQ.length < 4096 ∧ logged.code ≠ 0x0004) ∧
    ((logAt 9).mss.store.logMark - (logAt 9).mss.nextLseq).toInt ≤ 0 ∧
    (logged.sev.toNat < fld (reg (withRegs [(Reg.logCfg, 2)] live) Reg.logCfg) 1 0 ∧
      fld (reg (withRegs [(Reg.logCfg, 1)] live) Reg.logCfg) 1 0 ≤ logged.sev.toNat) ∧
    (sealing.mss.sealing = some 5 ∧ sealing.mss.updState ≠ 3 ∧ writing.mss.updState = 3 ∧
      (sealing.mss.ring.find? (fun x => decide (x.lseq.toNat = fld 3#64 31 0))).isSome = true ∧
      (∀ r ∈ sealing.mss.ring ++ sealing.mss.logStore, r.lseq.toNat ≠ fld 4#64 31 0)) := by decide

theorem test_LogIsKept_full_met :
    (List.replicate 4096 logged).length = 4096 := List.length_replicate

/-- An update of eight octets in the state given. -/
def update (n : Nat) (words : List Nat) : State :=
  { live with mss := { live.mss with updState := BitVec.ofNat 3 n, stagedLen := 8, words := words } }

/-- An update whose staged image passes every check, every word of it received. -/
def goodUpdate : State :=
  let s := update 1 (upTo 687)
  { s with mss := { s.mss with
    stagedLen := 5496, staging := Laws.storeOf 0 Laws.fwImage, keyDigests := [Laws.keyPairDigest] } }

theorem test_FirmwareIsUpdated_passes_met :
    goodUpdate.pwr.porst = true ∧ goodUpdate.mss.updState = 1 ∧
      goodUpdate.mss.words.length * 8 = goodUpdate.mss.stagedLen ∧
      fwChecks goodUpdate (stagedFw goodUpdate) goodUpdate.mss.stagedLen = none := by
  refine ⟨rfl, rfl, by decide +kernel, ?_⟩
  rw [Laws.fwImage_staged goodUpdate rfl rfl]
  exact Laws.fwImage_passes goodUpdate [] rfl rfl (by decide) rfl

theorem test_FirmwareIsUpdated_met :
    (live.pwr.porst = true ∧ live.mss.updState ≠ 2 ∧ live.mss.updState ≠ 3 ∧ fld 5496#64 23 0 % 8 = 0 ∧
      5496 ≤ fld 5496#64 23 0 ∧ fld 12582912#64 23 0 ≤ 12582912 ∧ fld 12582912#64 23 0 % 8 = 0 ∧
      fld 5488#64 23 0 < 5496 ∧ 12582912 < fld 12582920#64 23 0 ∧ fld 5497#64 23 0 % 8 ≠ 0) ∧
    (let s := update 1 [0]
     s.mss.updState = 1 ∧ s.mss.words.length * 8 = s.mss.stagedLen ∧
       (fwChecks s (stagedFw s) s.mss.stagedLen).isSome = true) ∧
    (update 1 []).mss.words.length * 8 ≠ (update 1 []).mss.stagedLen ∧
    ((update 2 []).mss.updState = 2 ∧ (update 3 []).mss.updState = 3 ∧ (update 4 []).mss.updState = 4) ∧
    (live.mss.romOnly = false ∧ live.mss.revoked.getLsbD 2 = false ∧ live.mss.fw.slot ≠ 2 ∧
      live.mss.revoked.getLsbD 3 = false ∧ live.mss.revoked.getLsbD live.mss.fw.slot.toNat = false) ∧
    State.reset.mss.romOnly = true := by decide +kernel

/-- HL_UP up at version 1.1, an SPDM connection at the stage given, the cord in force. -/
def spdmAt (n : Nat) : State := { chained with mss := { chained.mss with spdmStage := n } }

def big : SpdmLarge := { handle := 1, data := zeros 5000 }

set_option maxRecDepth 100000 in
theorem test_SpdmAnswers_met :
    (chained.pwr.porst = true ∧ chained.mss.romOnly = false ∧ chained.host.hopUp.up = true ∧ chained.host.hopUp.own = [] ∧
      chained.host.hopUp.fwd = [] ∧ chained.host.hopUp.unacked.length < 128 ∧
      (let s := { chained with mss := { chained.mss with romOnly := true } }
       s.pwr.porst = true ∧ s.mss.romOnly = true ∧ s.host.hopUp.up = true)) ∧
    (1 ≤ (spdmAt 1).mss.spdmStage ∧ 2 ≤ (spdmAt 2).mss.spdmStage ∧ (spdmAt 2).mss.spdmStage < 3 ∧
      3 ≤ (spdmAt 3).mss.spdmStage) ∧
    (let s := spdmAt 3
     measurement s 4 = some (.rawBits, measureState s) ∧ (measureState s).length + 121 ≤ 4104 ∧
       s.host.hopUp.version = 2) ∧
    (let s := { spdmAt 3 with mss := { (spdmAt 3).mss with cosig := zeros 4096 } }
     measurement s 0xEF = some (.rawBits, zeros 4096) ∧ 4104 < (zeros 4096).length + 57) ∧
    (let s := { chained with mss := { chained.mss with large := some big } }
     s.mss.large = some big ∧ (1#16).toNat * (4104 - 16) < big.data.length) := by decide +kernel

/-! ### Twin pair: premises met -/

/-- TWN_CFG of a first device with partner chip 5, MISS 100, HALF 10, and its ENGAGE and AUTO bits. -/
def twnCfg : W64 := 0xC00000050064000A

/-- The same without ENGAGE, without AUTO, and with another partner. -/
def twnOff : W64 := 0x400000050064000A
def twnManual : W64 := 0x800000050064000A
def twnOther : W64 := 0xC00000060064000A

def cordDig : List Byte := 1 :: zeros 63

/-- The claims engagement asks for, sublink 0 up. -/
def twinReady : State :=
  withPort 1024 upPort (withRegs [(Reg.redCfg, 0)] { live with cord := { live.cord with
    digest := cordDig
    claims := [(0x11, { runtime := true, resource := 0x10, base := 0, len := 0 }),
      (0x20, { runtime := true, resource := 0x20, base := 0, len := 160 }),
      (0x21, { runtime := true, resource := 0x20, base := 160, len := 64 })] } })

def withTwin (f : TwinSt → TwinSt) (s : State) : State := { s with twn := f s.twn }

/-- The pair engaged, in a TWN_STATUS.STATE, and with every sublink down. -/
def pair (x : BitVec 4) : State :=
  { setReg twinReady Reg.twnCfg twnCfg with twn := { TwinSt.reset with state := x } }
def cut (s : State) : State := withPort 1024 Port.reset s

def aliveNow (b : Bool) (s : State) : State := withTwin (fun t => { t with hbAlive := b }) s

theorem test_TwinEngagesAndBeats_met :
    (let s := twinReady
     Map.sorted s.regs = true ∧ s.pwr.porst = true ∧ s.mss.romOnly = false ∧ twnCfgOk twnCfg = true ∧
       engaged s = false ∧ engageOk s twnCfg = true ∧ upSublinks s ≠ [] ∧ engageOk live twnCfg = false ∧
       twnCfgOk 0x8000000500010001 = false) ∧
    (engageOk (cut twinReady) twnCfg = true ∧ upSublinks (cut twinReady) = [] ∧
      (aliveNow true (cut twinReady)).twn.hbAlive = true ∧ (cut twinReady).twn.hbAlive = false ∧
      twnManual.getLsbD 62 = false ∧ twnCfg.getLsbD 62 = true ∧ twnCfgOk twnManual = true ∧
      engageOk (cut twinReady) twnManual = true ∧ twinReady.twn.fenced = false ∧ twinReady.twn.tookOver = false) ∧
    (let s := pair 2
     Map.sorted s.regs = true ∧ engaged s = true ∧ twnCfgOk twnOff = true ∧ twnCfgOk twnOther = true ∧
       twnFixedChanged (reg s Reg.twnCfg) twnCfg = false ∧ twnFixedChanged (reg s Reg.twnCfg) twnOther = true ∧
       twnFixedChanged (reg s Reg.twnCfg) twnOff = false ∧ s.twn.tookOver = false ∧ s.twn.fetching = [] ∧
       claimHeld s 0x11 = true ∧ powered s = true ∧ s.twn.lastEdge = none) ∧
    (let s := aliveNow true (pair 2)
     s.twn.hbAlive = true ∧ upSublinks s = [0] ∧ s.mss.logFifo.length < 1024) ∧
    (let s := atTick 199 (withTwin (fun t => { t with lastEdge := some 0 }) (pair 2))
     s.twn.lastEdge = some 0 ∧ s.time.raw < 0 + 200 ∧ 0 + 200 ≤ (atTick 200 s).time.raw) ∧
    (let s := cut (aliveNow true (pair 2))
     engaged s = true ∧ upSublinks s = [] ∧ s.twn.state ≠ 5 ∧ (reg s Reg.twnCfg).getLsbD 62 = true ∧
       s.twn.fenced = false ∧ s.twn.tookOver = false) := by decide +kernel

/-- A message received on sublink 0. -/
def inboxed (mtype : Byte) (mseq : Nat) (epoch : BitVec 32) (body : List Byte) (s : State) : State :=
  withTwin (fun t => { t with inbox := [(0, twinOctets mtype mseq epoch body)] }) s

/-- The octets of a HELLO of chip 5, flags SIDE 1, TOOK_OVER 2, FENCED 4. -/
def helloOctets (chip : Byte) (flags vmin : Byte) (d : List Byte) : List Byte :=
  [vmin, 1, flags, 0, 0, chip, 0, 0] ++ d

def hello : TwinHelloMsg :=
  { vmin := 1, vmax := 1, side := true, tookOver := false, fenced := true, chip := 5, digest := cordDig, epoch := 3 }

def mirrorMsg : MirrorMsg := { mseq := 4, mtype := 3, body := [], sub := 0 }

/-- Four messages sent, the fourth unacknowledged, with and without a copy put off. -/
def unackedTwin (recopy : Bool) : State :=
  withTwin (fun t => { t with sentMseq := 4, txq := [mirrorMsg], sinceAck := 1, recopy := recopy }) (pair 2)

set_option maxRecDepth 100000 in
theorem test_TwinsPair_met :
    (let s := inboxed 1 0 3 (helloOctets 5 5 1 cordDig) (pair 1)
     let m := twinMsgOf (twinOctets 1 0 3 (helloOctets 5 5 1 cordDig))
     engaged s = true ∧ s.pwr.porst = true ∧ s.twn.state ≠ 2 ∧ 0 ∈ upSublinks s ∧ 1 ∉ upSublinks s ∧ m.mtype = 1 ∧
       helloOf m = hello ∧ s.cord.state = 3 ∧ hello.chip.toNat = fld (reg s Reg.twnCfg) 47 32 ∧
       hello.side ≠ (reg s Reg.twnCfg).getLsbD 61 ∧ hello.digest = s.cord.digest ∧ allZero hello.digest = false ∧
       s.twn.epoch.toNat < hello.epoch.toNat ∧ mustFence s hello = false ∧
       mustFence s { hello with tookOver := true } = true ∧ s.mss.logFifo.length < 1024) ∧
    ((helloOf (twinMsgOf (twinOctets 1 0 3 (helloOctets 6 5 1 cordDig)))).chip = 6 ∧
      allZero (helloOf (twinMsgOf (twinOctets 1 0 3 (helloOctets 5 5 1 (zeros 64))))).digest = true ∧
      1 < (helloOf (twinMsgOf (twinOctets 1 0 3 (helloOctets 5 5 2 cordDig)))).vmin.toNat ∧
      (withTwin (fun t => { t with cause := 3 }) (pair 3)).twn.cause = 3) ∧
    (let s := inboxed 2 0 0 (beBytes 8 4) (unackedTwin false)
     let q := bodyAt (twinMsgOf (twinOctets 2 0 0 (beBytes 8 4))).body 0 8
     q = 4 ∧ s.twn.state = 2 ∧ s.twn.ackedMseq < q ∧ q ≤ s.twn.sentMseq ∧ s.twn.recopy = false ∧
       s.twn.sinceAck ≠ 0 ∧ upSublinks s = [0] ∧ (pair 2).twn.sinceAck = 0 ∧ s.twn.sentMseq < 5) ∧
    (let s := unackedTwin true
     s.twn.recopy = true ∧ s.twn.sentMseq - 4 < 4096 ∧ s.twn.fenced = false ∧ 4096 ≤ 4100 - 4) := by decide +kernel

/-- Message 1, the one wanted, of a type and body, with the pair as given. -/
def mirrored (mtype : Byte) (body : List Byte) (f : TwinSt → TwinSt) : State :=
  inboxed mtype 1 0 body (withTwin f (pair 2))

def body5 : List Byte := [2, 0, 0, 1, 0, 0, 0, 9, 0, 5]

set_option maxRecDepth 100000 in
theorem test_MirrorIsKept_met :
    (let s := mirrored 3 (0x20#8 :: zeros 31) id
     let m := twinMsgOf (twinOctets 3 1 0 (0x20#8 :: zeros 31))
     s.pwr.porst = true ∧ s.twn.state = 2 ∧ m.mtype = 3 ∧ m.mseq.toNat = s.twn.rxNext ∧ s.twn.early = [] ∧
       s.twn.sinceAck < 30 ∧ s.twn.inCopy = false ∧ engaged s = true ∧ s.twn.fenced = false ∧ upSublinks s = [0] ∧
       m.body = 0x20#8 :: zeros 31 ∧ Map.sorted s.regs = true ∧ Map.sorted s.ctx.table = true ∧
       Map.sorted s.ctx.tallies = true ∧ s.ctx.needs = [] ∧ s.mss.logFifo.length < 1024 ∧ s.twn.fetching = []) ∧
    (bodyFits 3 (0x20#8 :: zeros 31) = true ∧ bodyAt (0x20#8 :: zeros 31) 0 2 = 8192 ∧
      ownHalf (pair 2) 3 8192 = false ∧ ownHalf (pair 2) 3 0 = true ∧ bodyFits 4 [0x20, 0] = true ∧
      bodyFits 3 [] = false) ∧
    (bodyFits 5 body5 = true ∧ ownHalf (pair 2) 5 512 = false ∧ ownHalf (pair 2) 5 0 = true ∧
      bodyFits 6 (0x10#8 :: zeros 39) = true ∧ ownHalf (pair 2) 6 4096 = false ∧ ownHalf (pair 2) 6 0 = true ∧
      bodyFits 8 ([0, 0x80] ++ zeros 10 : List Byte) = true ∧ ownHalf (pair 2) 8 128 = false ∧
      ownHalf (pair 2) 8 0 = true ∧ bodyFits 9 (0x80#8 :: zeros 71) = true ∧ ownHalf (pair 2) 9 128 = false ∧
      ownHalf (pair 2) 9 0 = true) ∧
    (bodyFits 7 (zeros 16) = true ∧ bodyFits 10 (zeros 72) = true ∧ bodyFits 11 [] = true ∧
      bodyFits 12 (0xFF#8 :: zeros 7) = true ∧ bodyFits 12 (3#8 :: zeros 7) = true ∧ bodyFits 13 [1] = true ∧
      bodyFits 14 (zeros 8) = true) ∧
    (isRouteAddr Reg.fwdCfg = true ∧ isRouteAddr (Reg.rtRack 0) = true ∧ isRouteAddr 0 = false) := by decide +kernel

def mirCtx : MirCtx := { timedOut := false, arg0 := 7, timeout := 5, step := 9 }

set_option maxRecDepth 100000 in
theorem test_MirrorIsKept_order_met :
    (let s := mirrored 13 [1] (fun t => { t with rxNext := 2 })
     (twinMsgOf (twinOctets 13 1 0 [1])).mseq.toNat < s.twn.rxNext) ∧
    (let s := mirrored 13 [1] (fun t => { t with rxNext := 0 })
     s.twn.rxNext < (twinMsgOf (twinOctets 13 1 0 [1])).mseq.toNat ∧ s.twn.early.length < 4096) ∧
    (mirrored 13 [0] (fun t => { t with sinceAck := 31 })).twn.sinceAck = 31 ∧
    (let m2 : TwinMsg := { mtype := 4, mseq := 2, epoch := 0, body := [0x20, 0] }
     let s := mirrored 14 (zeros 8) (fun t => { t with early := [(2, m2)] })
     s.twn.early = [(1 + 1, m2)] ∧ m2.mtype = 4 ∧ ownHalf s 3 (bodyAt m2.body 0 2) = false ∧
       s.twn.fetching.contains (3, bodyAt m2.body 0 2) = false) ∧
    (let s := mirrored 14 (zeros 8) (fun t => { t with inCopy := true, copyResync := true, resyncing := true })
     s.twn.inCopy = true ∧ s.twn.copyResync = true ∧ s.twn.resyncing = true ∧ upSublinks s ≠ []) ∧
    (let s := mirrored 4 [0, 0] (fun t => { t with fetching := [(3, 0)] })
     s.twn.fetching.contains (3, bodyAt [0, 0] 0 2) = true ∧ (3, 0) ∈ s.twn.fetching ∧ s.twn.recopy = false ∧ s.twn.tookOver = false ∧ s.mem.chk = []) ∧
    (let s := mirrored 12 ([3, 0] ++ beBytes 2 8192 ++ zeros 4)
       (fun t => { t with mirror := { Mirror.reset with ctxs := [(8192, mirCtx)] } })
     Map.get? s.twn.mirror.ctxs 8192 = some mirCtx ∧ (∀ e ∈ s.twn.mirror.ctxs, e.1 % 65536 ≠ 8193)) := by
  decide +kernel

/-- The partner lost, epoch 2 with SET_EPOCH recorded; the partner half adopted and the partner fenced and resynced; and
the device itself fenced. -/
def alone : State := cut (withTwin (fun t => { t with epoch := 2, recorded := [6#4] }) (pair 5))
def adopted : State :=
  withTwin (fun t => { t with tookOver := true, partnerHello := some hello, partnerResync := some 3 }) (pair 2)
def fencedBy (m : TwinHelloMsg) : State :=
  withTwin (fun t => { t with fenced := true, partnerHello := some m }) (pair 2)

/-- A takeover under way with a mirror of one context and one layer table, and a give-back with all acknowledged. -/
def adopting : State :=
  withTwin (fun t => { t with
    taking := true, giveback := true
    mirror := { Mirror.reset with ctxs := [(8192, mirCtx)], layers := [(128, List.replicate 8 0xFFFFFFFFFFFFFFFF)] } })
    (pair 5)

theorem test_RecoveryActionsRun_met :
    (let s := alone
     s.pwr.porst = true ∧ s.mss.romOnly = false ∧ (1#32).toNat < s.twn.epoch.toNat ∧
       s.twn.recorded.contains 6#4 = true ∧ s.twn.epoch.toNat < (3#32).toNat ∧ s.twn.recorded.contains 1#4 = false ∧
       engaged s = true ∧ s.twn.fenced = false ∧ s.twn.tookOver = false ∧ s.twn.hbAlive = false ∧ upSublinks s = [] ∧
       engaged live = false) ∧
    (let s := withTwin (fun t => { t with fenced := true, resynced := true }) alone
     s.twn.fenced = true ∧ s.twn.resynced = true ∧ s.twn.hbAlive = false ∧ upSublinks s = []) ∧
    (let s := adopted
     s.twn.recorded.contains 2#4 = false ∧ s.twn.tookOver = true ∧ s.twn.state = 2 ∧
       s.twn.partnerHello = some hello ∧ hello.fenced = true ∧ s.twn.partnerResync = some 3) ∧
    (let m := { hello with tookOver := true }
     let s := fencedBy m
     s.twn.recorded.contains 3#4 = false ∧ s.twn.fenced = true ∧ s.twn.state = 2 ∧ upSublinks s ≠ [] ∧
       s.twn.partnerHello = some m ∧ m.tookOver = true ∧ hello.tookOver = false ∧
       s.twn.recorded.contains 4#4 = false ∧ s.twn.recorded.contains 5#4 = false) ∧
    (let s := adopting
     s.twn.taking = true ∧ s.mem.chk = [] ∧ Map.sorted s.twn.mirror.ctxs = true ∧ Map.sorted s.regs = true ∧
       (∀ k ∈ s.twn.mirror.layers.map (·.1), k < 256) ∧
       (∀ e ∈ s.twn.mirror.ctxs, CtxArg.resident e.2.arg0 = false) ∧ s.ctx.needs = [] ∧ s.twn.giveback = true ∧
       s.twn.ackedMseq = s.twn.sentMseq ∧ Map.sorted s.ctx.table = true) := by decide +kernel

/-! ### Damper, scan-out, traces, counters: premises met -/

/-- A port up on a device whose damper spreads and is accepted. -/
def spreading : State := withPort 9 upPort (withRegs [(Reg.damperCfg, 0xC000000000000000)] live)

/-- A damper is in force, at scan state `x`. -/
def dampered (x : BitVec 2) : State :=
  { live with dbg := { live.dbg with dampered := true, scan := { live.dbg.scan with state := x } } }

/-- An abandoned invocation that a trigger made. -/
def abandoned : State :=
  withGroup { GroupSt.reset with abandoned := [(0, { running with inv := { invoc with triggered := true } })] }
    (dampered 0)

theorem test_DamperIsRaisedAndReleased_met :
    (let s := spreading
     Map.sorted s.ports = true ∧ s.pwr.porst = true ∧ s.mss.romOnly = false ∧ s.dbg.dampered = false ∧
       s.dbg.serials.contains 4 = false ∧ (reg s Reg.damperCfg).getLsbD 62 = true ∧
       (reg s Reg.damperCfg).getLsbD 63 = true ∧ (getPort s 9).state = .up ∧ (getPort s 9).rev ≠ 0) ∧
    (reg (withRegs [(Reg.damperCfg, 0)] live) Reg.damperCfg).getLsbD 63 = false ∧
    ((dampered 1).dbg.scan.state = 1 ∧ live.dbg.scan.state ≠ 1 ∧ live.dbg.dampered = false) ∧
    ((dampered 0).dbg.scan.state ≠ 1 ∧ (dampered 0).dbg.dampered = true ∧
      (∀ g, g < 16 → (getGroup (dampered 0) g).abandoned = [])) ∧
    (let s := abandoned
     s.dbg.dampered = true ∧
       (getGroup s 0).abandoned = [(0, { running with inv := { invoc with triggered := true } })] ∧
       (∀ k, k < 16 → k ≠ 0 → (getGroup s k).abandoned = [])) := by decide +kernel

/-- A dampered device that answers to the host; and a copy running, to the DDR5 window. -/
def scanReady : State := { dampered 0 with host := { live.host with chainAddr := 3 } }
def scanning : State :=
  let s := dampered 1
  { s with dbg := { s.dbg with scan := { s.dbg.scan with dest := false, base := 0x1000 } } }

def traceRec : TraceRec := { bytes := List.replicate 32 7 }

/-- A trace record of die 0 waits, two written, the ring of 1 MiB at 0 as given. -/
def tracing (window : Bool) (r : Map W64) : State :=
  withRegs r { live with
    dbg := { live.dbg with traceFifo := [(0, [traceRec])], traceCount := [(0, 2)] }
    bpm := { live.bpm with ddrWindow := window } }

def ringReg : W64 := 0x0000100000000000

theorem test_DebugStoresAreRead_met :
    (live.pwr.porst = true ∧ live.mss.romOnly = false ∧ fld 0x1000#64 41 0 % 4096 = 0 ∧
      fld 0x1001#64 41 0 % 4096 ≠ 0 ∧ live.dbg.dampered = false) ∧
    (let s := scanReady
     s.dbg.dampered = true ∧ s.pwr.state ≠ .halted ∧ s.dbg.scan.state ≠ 1 ∧
       (0x2000000000000000#64).getLsbD 61 = true ∧ s.host.chainAddr ≠ 0xFF) ∧
    (scanning.dbg.scan.state = 1 ∧ scanning.dbg.scan.dest = false) ∧
    (let s := tracing true [(Reg.traceRing 0, ringReg)]
     Map.getD s.dbg.traceFifo 0 [] = [traceRec] ∧ fld (reg s (Reg.traceRing 0)) 63 44 = 1 ∧ s.bpm.ddrWindow = true ∧
       memFree s (ddrBase + 64) 32 = true ∧
       memFree (tracing true [(Reg.memArb, 0x10000), (Reg.traceRing 0, ringReg)]) (ddrBase + 64) 32 = false ∧
       (tracing false []).bpm.ddrWindow = false ∧
       Map.getD live.dbg.traceFifo 0 [] = []) ∧
    (Map.sorted live.regs = true ∧ fld 0x100000#64 41 0 % 1048576 = 0 ∧ fld 0x80000#64 41 0 % 1048576 ≠ 0) ∧
    (let s := count 3 1 2 (atTick 1 (withRegs [(Reg.dbgEnable, 8)] live))
     (atTick 1 live).dbg.recentAt ≠ (atTick 1 live).time.ftc ∧ s.dbg.recentAt = s.time.ftc ∧
       s.dbg.recent = [(ctrKey 3 1 2, 1)] ∧ (8#64).getLsbD 3 = true) ∧
    (let s := claims [(0x12, 0x10)] (withRegs [(Reg.snapCtrl, 0x8000000000000000)] live)
     (reg s Reg.snapCtrl).getLsbD 63 = true ∧ (timerHeld s 0x12).isSome = true ∧
       (reg live Reg.snapCtrl).getLsbD 63 = false) := by decide +kernel

/-! ### Ill-formed commands: each check refuses one -/

def refuses (o : Host.Outcome State Fault Refusal) : Bool :=
  match o with
  | .refused .illFormedCommand => true
  | _ => false

theorem test_illFormed_refused :
    ([.tempoMeasure (List.replicate 15 0) (List.replicate 4 0), .tempoMeasure (List.replicate 16 0) [],
      .linkBlockReceive (.port 9) (zeros 255) false, .patrolScrubSlot (.hbm 6 0), .stationQueueDeliver 0 12 false,
      .invocationStart 0 12, .bundle 0 13, .invocationCommit 0 15, .sensorSample (List.replicate 63 none),
      .powerGoodLost 0, .powerGoodLost 7] : List Instr).all (fun i => !i.wellFormed &&
        refuses (exec i live)) = true := by decide +kernel

theorem test_wellFormed_accepted :
    ([.tempoMeasure (List.replicate 16 0) (List.replicate 4 0), .linkBlockReceive (.port 9) (zeros 256) false,
      .patrolScrubSlot (.hbm 5 0), .patrolScrubSlot (.ddr 3), .invocationStart 0 11, .sensorSample
        (List.replicate 64 none), .powerGoodLost 1, .powerGoodLost 6] : List Instr).all Instr.wellFormed =
      true := by decide +kernel

/-- The table gives no row any bits: no word spells a command, and withFetchWord leaves a state as it is. -/
theorem test_noWords : decodeTableWord 16 5 = none ∧ live.withFetchWord 16 5 = live := ⟨rfl, rfl⟩

/-! ### The queue (log entry 1) -/

theorem test_step_takesFront :
    step { live with pending := [.ftcSetWrite 9, .nop 0] } =
      exec (.ftcSetWrite 9) { live with pending := [.nop 0] } := rfl

/-! ### Worked examples of the spec; the expected values are the spec's own -/

/-- R385's examples: 0.72 V is 0xA2CE, 0.80 V is 0xA3CF. -/
theorem test_vidFrames : vidFrame (vidCodeOf 720) = 0xA2CE ∧ vidFrame (vidCodeOf 800) = 0xA3CF := by decide

/-- Chapter 5, one symbol corrected: checks 0x0531; the syndrome (2, 4, 8, 3) corrects d1 by 2. -/
theorem test_oneSymbolCorrected :
    checkBits 0x1000000000000010 = 0x0531 ∧ judge 0x3842 = .correctData 1 2 := by decide +kernel

/-- Chapter 5: a poisoned word's syndrome is (1, 0, 0, 1) (R123). -/
theorem test_poison : judge 0x1001 = .poison := by decide

/-- Chapter 8, one BF16 group: products 1.5, -0.75 and two that cancel; 0.125 becomes 0.875. -/
theorem test_groupSum :
    (let p2 := mulVal (.fin false 129 (-17)) (.fin false 129 (-17))
     let ps := [.fin false 3 (-1), .fin true 3 (-2), p2, negVal p2] ++ List.replicate 12 (.fin false 0 0)
     groupSum ps = .fin false 402653183 (-29) ∧ (fpAdd 0x3E000000 (groupSum ps)).1 = 0x3F600000) := by decide +kernel

/-- Chapter 8, five contributions: 2^100, 1, 2^-7, 2^-8 and -2^100 give BF16 0x3F82; FP32 addition gives 0. -/
theorem test_fiveContributions :
    (let vs : List Val := [.fin false 1 100, .fin false 1 0, .fin false 1 (-7), .fin false 1 (-8), .fin true 1 100]
     (longRound 3 (vs.foldl longAdd LongAcc.zero)).1 = 0x3F82 ∧
       vs.foldl (fun a v => (fpAdd a v).1) 0 = 0#32) := by decide +kernel

/-- Chapter 9, four contributions over two devices: both compact partials, and 2.0 after the merge. -/
theorem test_partials :
    (let s0 := [Val.fin false 1 24, .fin false 1 0].foldl longAdd LongAcc.zero
     let s1 := [Val.fin false 1 0, .fin true 1 24].foldl longAdd LongAcc.zero
     beBytes 16 (partEncode false s0) = 0x4B#8 :: zeros 10 ++ [1, 0, 0, 1, 0] ∧
     beBytes 16 (partEncode false s1) = 0x4B#8 :: List.replicate 11 0xFF ++ [0, 0, 1, 0] ∧
     (((partMerge false LongAcc.zero (partEncode false s0)).bind (fun a => partMerge false a (partEncode false s1))).map
       (fun a => (longRound 5 a).1)) = some 0x40000000) := by decide +kernel

/-- Chapter 9, two data shards rebuilt: g·0x34, g²·0x56 and 0xF4 · 0x36. -/
theorem test_gf256 :
    gf256Mul 2 0x34 = 0x68 ∧ gf256Mul 4 0x56 = 0x45 ∧ gf256Mul 0xF4 0x36 = 0x12 ∧ gf256Mul 0xF4 3 = 1 := by decide

/-- Chapter 12, one BF16 row declared 2:4: metadata 0xCD 0x44 and the eight stored codes. -/
theorem test_compress24 :
    (let t := { tile with format := 3, layout := 1, dataLen := 32, data := (([0, 0x3FC0, 0, 0xC000, 0, 0, 0, 0x3E80, 0, 0,
        0, 0, 0x8000, 0x3F00, 0, 0] : List Nat).map (leBytes 2)).flatten }
     (compress24 t).map (fun c => (c.md, codesOf c)) =
       some ([0xCD, 0x44], [0x3FC0, 0xC000, 0, 0x3E80, 0, 0, 0x8000, 0x3F00])) := by decide +kernel

/-- Chapter 12, a stable descending top-3: the ranks of +NaN, 5.0, 2.0, +0 and -0 fall in that order. -/
theorem test_totalOrder :
    ([0x7FC00000, 0x40A00000, 0x40000000, 0, 0x80000000] : List Nat).map (keyRank 5) =
      [0xFFC00000, 0xC0A00000, 0xC0000000, 0x80000000, 0x7FFFFFFF] := by decide

/-- Chapter 7, a four-way exact reduction: the image of program 3 passes the checks of R157 and R164. -/
theorem test_fourWayProgram :
    (let w : List (BitVec 32) :=
       [0x0D000000, 0x04000000, 0x04000000, 0x20000000, 0x05000100, 0x04100000, 0x20004000, 0x05000200, 0x04200000,
        0x20008000, 0x8D000300, 0x04300000, 0x2000C000, 0x2C400003, 0x04400000, 0xC2000480, 0x08404000, 0x04200001,
        0x0C400000]
     bundleStarts w 5 5 0 [] = .ok [0, 4, 7, 10, 15] ∧
     ([0, 4, 7, 10, 15].zipIdx.all (fun e => bundleValid 0 5 e.2 e.1 w)) = true) := by
  refine ⟨?_, ?_⟩
  · rfl
  · decide +kernel

/-- Chapter 14, an INVOKE: the record's octets become the invocation of the example. -/
theorem test_invokeRecord :
    (let r : List Byte := [1, 5, 0x7A, 1, 0, 0, 0, 0, 2, 3, 1, 0, 0, 0, 0, 2, 1, 0x23, 1, 1] ++ zeros 12
     let s := { live with groups := [(5, { GroupSt.reset with fifo := [r] })] }
     (getUnit (nx (exec (.invoke 5) s)) 5 2).order =
       [{ unit := 2, prog := 3, replaySel := true, count := 2, tag := 0x7A0100, context := 0x123, doneTally := 0x101,
          startTick := 0, reached := 0, triggered := false, quiet := false, atStep := 0 }]) := by decide +kernel

/-- Chapter 16, the straggler's timeout as a record. -/
theorem test_logRecord :
    logWords { lseq := 0x12A40, code := 0x0807, sev := 2, unit := 0x6C, tag := none, lost := false, persist := true,
               ftime := 15003, args := [0x200, 42, 5, 6, 15000] } =
      [0x6C02080700012A40, 0x504, 0x3A9B, 0x200, 0x2A, 5, 6, 0x3A98] := by decide +kernel

/-- Chapter 3, a frame on channel 3: grant less blocks sent, modulo 2^24. -/
theorem test_credit :
    (let p (g n : BitVec 24) : Port := { Port.reset with grant := [(3, g)], sent := [(3, n)] }
     creditOf (p 0xFFFFF0 0xFFFFE8) 3 = 8 ∧ creditOf (p 0x000010 0xFFFFF0) 3 = 32 ∧
       creditOf (p 0x000010 0xFFFFFA) 3 = 22) := by decide

end Sys2Proof.Tests
end

section
/-! Writes of registers: what a host's write comes to while the firmware runs (R11, R12, R308, R362). -/

namespace Sys2Proof.Machine

open Sys2Proof

/-! ### Which operation a write is -/

/-- Out of reset and with the firmware running, the loader's path and the firmware's path of a write agree. -/
theorem exec_registerWrite_running {a : BitVec 48} {v : W64} {s : State} (hp : s.pwr.porst = true)
    (hr : s.mss.romOnly = false) : exec (.registerWrite a v) s = finish (regWrite a.toNat v s) := by
  change execRegisterWrite a v s = _
  have hcmd : loaderCmd (regWrite a.toNat v) s = finish (regWrite a.toNat v s) := by simp [loaderCmd, hp]
  unfold execRegisterWrite
  split
  · exact hcmd
  · simpa [hostCmd, hr] using hcmd

/-- An address that is no multiple of 8 names no register. -/
theorem regWrite_misaligned {a : Nat} {v : W64} {s : State} (ha : a % 8 ≠ 0) : regWrite a v s = (.ok, s) := by
  simp [regWrite, ha]

theorem regWrite_fencedBlock {a : Nat} {v : W64} {s : State} (ha : a % 8 = 0)
    (hb : fencedBlock (a / 0x100000000) = true) : regWrite a v s = unfenced (regWriteAt a v) s := by
  simp [regWrite, ha, hb]

theorem regWrite_openBlock {a : Nat} {v : W64} {s : State} (ha : a % 8 = 0)
    (hb : fencedBlock (a / 0x100000000) = false) : regWrite a v s = regWriteAt a v s := by
  simp [regWrite, ha, hb]

theorem fencedBlock_iff {b : Nat} : fencedBlock b = true ↔ b ∈ [3, 4, 7, 8, 9, 10] := List.contains_iff_mem

/-- The blocks from 15 on are unused, and no fence covers them (Table 14.12). -/
theorem fencedBlock_unused {b : Nat} (hb : 15 ≤ b) : fencedBlock b = false := by
  rw [Bool.eq_false_iff, Ne, fencedBlock_iff]
  simp only [List.mem_cons, List.not_mem_nil, or_false]
  omega

theorem regWriteAt_unusedBlock {a : Nat} {v : W64} {s : State} (hb : 15 ≤ a / 0x100000000) :
    regWriteAt a v s = (.ok, s) := by
  unfold regWriteAt
  obtain ⟨n, hn⟩ := Nat.exists_eq_add_of_le' hb
  rw [hn]
  rfl

theorem regWrite_unusedBlock {a : Nat} {v : W64} {s : State} (hb : 15 ≤ a / 0x100000000) :
    regWrite a v s = (.ok, s) := by
  by_cases ha : a % 8 = 0
  · rw [regWrite_openBlock ha (fencedBlock_unused hb), regWriteAt_unusedBlock hb]
  · exact regWrite_misaligned ha

/-! ### A stored register and its range -/

theorem inRange_within {lo hi r n : Nat} (hlo : lo ≤ n) (hhi : n ≤ hi) : inRange lo hi r n = true := by
  simp [inRange, hlo, hhi]

/-- Below the range a number is refused, where the reset value lies within it. -/
theorem inRange_below {lo hi r n : Nat} (hr : lo ≤ r) (hn : n < lo) : inRange lo hi r n = false := by
  simp only [inRange, Bool.or_eq_false_iff, Bool.and_eq_false_iff, beq_eq_false_iff_ne, decide_eq_false_iff_not]
  omega

/-- A register with a range, given a value within it, takes its writable bits and leaves everything else. -/
theorem exec_registerWrite_stores {addr : BitVec 48} {v mask : W64} {s : State} {ok : Bool} {a : Nat}
    (hp : s.pwr.porst = true) (hr : s.mss.romOnly = false) (hs : Map.sorted s.regs = true)
    (hw : regWrite addr.toNat v s = storeIf ok a mask v s) (hok : ok = true) :
    ∃ t, exec (.registerWrite addr v) s = .next t ∧ t = { s with regs := t.regs, lastStatus := .ok } ∧
      reg t a = v &&& mask ∧ ∀ b, b ≠ a → reg t b = reg s b := by
  refine ⟨{ setReg s a (v &&& mask) with lastStatus := .ok }, ?_, rfl, reg_setReg_same hs,
    fun b hb => reg_setReg_other hb⟩
  rw [exec_registerWrite_running hp hr, hw, hok, finish_next]
  rfl

/-- A value outside the range is refused with FIELD_INVALID and no other effect. -/
theorem exec_registerWrite_refuses {addr : BitVec 48} {v mask : W64} {s : State} {ok : Bool} {a : Nat}
    (hp : s.pwr.porst = true) (hr : s.mss.romOnly = false)
    (hw : regWrite addr.toNat v s = storeIf ok a mask v s) (hok : ok = false) :
    exec (.registerWrite addr v) s = .next { s with lastStatus := .fieldInvalid } := by
  rw [exec_registerWrite_running hp hr, hw, hok, finish_next]
  rfl

/-! ### The registers of the statement -/

theorem regWrite_redCfg (v : W64) (s : State) :
    regWrite (0x600000200#48).toNat v s = storeIf (decide (fld v 6 0 ≤ 64)) Reg.redCfg (0x7F#64) v s :=
  regWrite_openBlock (by decide) (by decide)

theorem regWrite_ctGuard (v : W64) (s : State) :
    regWrite (0x200001010#48).toNat v s =
      storeIf (inRange 1067 1850 1100 (fld v 15 0)) Reg.ctGuard (0xFFFF#64) v s :=
  regWrite_openBlock (by decide) (by decide)

/-- UNDERRUN is cleared bit by bit by ones. -/
theorem regWrite_govStatus (v : W64) (s : State) :
    regWrite (0x200001008#48).toNat v s = (.ok, { s with
      time := { s.time with underrun := s.time.underrun &&& ~~~(BitVec.ofNat 16 (fld v 47 32)) } }) :=
  regWrite_openBlock (by decide) (by decide)

/-- EXHAUSTED and WARN of the BLAZE budget are cleared by ones. -/
theorem regWrite_blazeStatus (v : W64) (s : State) :
    regWrite (0xE00000020#48).toNat v s = (.ok, { s with
      pwr := { s.pwr with exhausted := s.pwr.exhausted && !v.getLsbD 1, warn := s.pwr.warn && !v.getLsbD 0 } }) :=
  regWrite_openBlock (by decide) (by decide)

/-! ### Each part of the statement -/

/-- A fenced device refuses an aligned write of a block of the fence, with no other effect (R362). -/
theorem exec_registerWrite_fenced {a : BitVec 48} {v : W64} {s : State} (hp : s.pwr.porst = true)
    (hr : s.mss.romOnly = false) (hf : s.twn.fenced = true) (ha : a.toNat % 8 = 0)
    (hb : fencedBlock (a.toNat / 0x100000000) = true) :
    exec (.registerWrite a v) s = .next { s with lastStatus := .twinFenced } := by
  rw [exec_registerWrite_running hp hr, regWrite_fencedBlock ha hb, unfenced_fenced hf, finish_next]

/-- A write that names no register changes nothing (R308). -/
theorem exec_registerWrite_noRegister {a : BitVec 48} {v : W64} {s : State} (hp : s.pwr.porst = true)
    (hr : s.mss.romOnly = false) (ha : a.toNat % 8 ≠ 0 ∨ 15 ≤ a.toNat / 0x100000000) :
    exec (.registerWrite a v) s = .next { s with lastStatus := .ok } := by
  have hw : regWrite a.toNat v s = (.ok, s) := ha.elim regWrite_misaligned regWrite_unusedBlock
  rw [exec_registerWrite_running hp hr, hw, finish_next]

/-- Settles O44: each part is the operation its address names, run as the firmware runs it. -/
theorem registerWritesFollowTheirTables : Obligations.RegisterWritesFollowTheirTables := by
  unfold Obligations.RegisterWritesFollowTheirTables
  refine ⟨?fenced, ?unused, ?ranges, ?underrun, ?blaze⟩
  case fenced =>
    intro a v s hp hr hf ha hb
    exact exec_registerWrite_fenced hp hr hf ha (fencedBlock_iff.mpr hb)
  case unused =>
    intro a v s hp hr ha
    exact exec_registerWrite_noRegister hp hr ha
  case ranges =>
    intro v s hp hr hs
    refine ⟨fun h => ?_, fun h => ?_, fun hlo hhi => ?_, fun h => ?_⟩
    · exact exec_registerWrite_stores hp hr hs (regWrite_redCfg v s) (decide_eq_true h)
    · exact exec_registerWrite_refuses hp hr (regWrite_redCfg v s) (decide_eq_false (by omega))
    · obtain ⟨t, ht, hframe, hreg, -⟩ :=
        exec_registerWrite_stores hp hr hs (regWrite_ctGuard v s) (inRange_within hlo hhi)
      exact ⟨t, ht, hframe, hreg⟩
    · exact exec_registerWrite_refuses hp hr (regWrite_ctGuard v s) (inRange_below (by decide) h)
  case underrun =>
    intro v s hp hr
    rw [exec_registerWrite_running hp hr, regWrite_govStatus, finish_next]
  case blaze =>
    intro v s hp hr
    rw [exec_registerWrite_running hp hr, regWrite_blazeStatus, finish_next]

end Sys2Proof.Machine
end

section
/-! The memory port: what the frame it takes comes to, a PUT's write or a GET's one answer (R81, R84, R118). -/

namespace Sys2Proof.Machine

open Sys2Proof

/-! ### A frame leaves, and the arbiters grant: what that leaves alone -/

/-- `t` is `s` but for the switch core, the ports and the rounds of the memory arbiters: what the memory port may
change before it handles the frame it took. -/
def SwitchOnly (s t : State) : Prop :=
  ∃ sw ports arb, t = { s with sw := sw, ports := ports, bpm := { s.bpm with pcArb := arb } }

namespace SwitchOnly

theorem refl (s : State) : SwitchOnly s s := ⟨_, _, _, rfl⟩

theorem trans {s t u : State} (hst : SwitchOnly s t) (htu : SwitchOnly t u) : SwitchOnly s u := by
  obtain ⟨_, _, _, rfl⟩ := hst
  obtain ⟨_, _, _, rfl⟩ := htu
  exact ⟨_, _, _, rfl⟩

variable {s t : State} (h : SwitchOnly s t)
include h

theorem mem_eq : t.mem = s.mem := by obtain ⟨_, _, _, rfl⟩ := h; rfl
theorem regs_eq : t.regs = s.regs := by obtain ⟨_, _, _, rfl⟩ := h; rfl
theorem groups_eq : t.groups = s.groups := by obtain ⟨_, _, _, rfl⟩ := h; rfl
theorem mss_eq : t.mss = s.mss := by obtain ⟨_, _, _, rfl⟩ := h; rfl
theorem time_eq : t.time = s.time := by obtain ⟨_, _, _, rfl⟩ := h; rfl
theorem dbg_eq : t.dbg = s.dbg := by obtain ⟨_, _, _, rfl⟩ := h; rfl
theorem fwdPlane_eq : fwdPlane t = fwdPlane s := by obtain ⟨_, _, _, rfl⟩ := h; rfl
theorem frameReach_eq (hd : Hdr) (n : Nat) : frameReach t hd n = frameReach s hd n := by
  obtain ⟨_, _, _, rfl⟩ := h; rfl

end SwitchOnly

theorem modPort_switchOnly (s : State) (k : Nat) (f : Port → Port) : SwitchOnly s (modPort s k f) := ⟨_, _, _, rfl⟩

theorem setWindow_switchOnly (k : Nat) (w : Window) (s : State) : SwitchOnly s (setWindow k w s) := ⟨_, _, _, rfl⟩

theorem buildRet_switchOnly (g : Nat) (h : Hdr) (p : List Byte) (s : State) : SwitchOnly s (buildRet g h p s) :=
  ⟨_, _, _, rfl⟩

theorem sendNotice_switchOnly (pg : Nat) (pin : Bool) (src dst : Chip) (ch : Chan) (s : State) :
    SwitchOnly s (sendNotice pg pin src dst ch s) := buildRet_switchOnly ..

theorem pinMarks_switchOnly (k : Nat) (w : Window) (s : State) : SwitchOnly s (pinMarks k w s) := by
  unfold pinMarks
  dsimp only
  split
  · exact (setWindow_switchOnly ..).trans (sendNotice_switchOnly ..)
  · split
    · exact (setWindow_switchOnly ..).trans (sendNotice_switchOnly ..)
    · exact setWindow_switchOnly ..

theorem forgetRx_switchOnly (uid : Nat) (s : State) : SwitchOnly s (forgetRx uid s) := by
  unfold forgetRx
  split
  · exact .refl s
  · split
    · split
      · exact modPort_switchOnly ..
      · exact .refl s
    · exact .refl s

theorem retag_switchOnly (key : Nat) (s : State) : SwitchOnly s (retag key s) := ⟨_, _, _, rfl⟩

theorem eraseFrame_switchOnly (uid : Nat) (s : State) : SwitchOnly s (eraseFrame uid s) := by
  refine (forgetRx_switchOnly uid s).trans ?_
  unfold eraseFrame
  dsimp only
  split
  · exact SwitchOnly.trans ⟨_, _, _, rfl⟩ (retag_switchOnly ..)
  · exact ⟨_, _, _, rfl⟩

theorem dropFrame_switchOnly (uid : Nat) (s : State) : SwitchOnly s (dropFrame uid s) := by
  unfold dropFrame
  split
  · exact (eraseFrame_switchOnly ..).trans (pinMarks_switchOnly ..)
  · exact eraseFrame_switchOnly ..

theorem memGrant_switchOnly (req : Nat → Nat) (ks : List Nat) (s : State) : SwitchOnly s (memGrant req ks s) := by
  induction ks generalizing s with
  | nil => exact .refl s
  | cons k ks ih =>
    have hk : SwitchOnly s (memGrant req [k] s) := ⟨_, _, _, rfl⟩
    exact hk.trans (ih (memGrant req [k] s))

/-! ### Words read with no error -/

/-- A read of a word with nothing wrong in it finds it good and changes nothing. -/
theorem takeWord_unmarked {reader unit w : Nat} {tag : Option (BitVec 24)} {s : State}
    (h : Map.get? s.mem.chk (w / 8 * 8) = none) : takeWord reader unit tag w s = (false, s) := by
  simp [takeWord, readWord, wordCorrected, h]

theorem scanWords_unmarked {reader unit : Nat} {tag : Option (BitVec 24)} {ws : List Nat} {s : State}
    (h : ∀ w ∈ ws, Map.get? s.mem.chk (w / 8 * 8) = none) : scanWords reader unit tag ws s = ([], s) := by
  unfold scanWords
  induction ws with
  | nil => rfl
  | cons w ws ih =>
    rw [List.foldl_cons, takeWord_unmarked (h w List.mem_cons_self)]
    exact ih fun v hv => h v (List.mem_cons_of_mem w hv)

theorem wordsOf_aligned {o n w : Nat} (h : w ∈ wordsOf o n) : w / 8 * 8 = w := by
  unfold wordsOf at h
  split at h
  · cases h
  · obtain ⟨i, -, rfl⟩ := List.mem_map.mp h
    omega

/-- Where no word of the range is marked a read delivers the octets that are stored, and changes nothing. -/
theorem readMem_unmarked {reader unit o n : Nat} {tag : Option (BitVec 24)} {s : State}
    (h : ∀ w ∈ wordsOf o n, Map.get? s.mem.chk w = none) :
    readMem reader unit tag o n s = (Memory.readBytes s.mem.cells o n, [], s) := by
  have hs : scanWords reader unit tag (wordsOf o n) s = ([], s) :=
    scanWords_unmarked fun w hw => (wordsOf_aligned hw).symm ▸ h w hw
  simp [readMem, hs, Memory.readBytes]

theorem readFrame_clean {uid a n : Nat} {tag : Option (BitVec 24)} {s : State} (h : s.bpm.sramChk = []) :
    readFrame uid tag a n s = ([], s) := by
  simp [readFrame, readSram, h]

/-! ### Counting and logging -/

theorem logEv_dbg_of_room {code sev unit : Nat} {tag : Option (BitVec 24)} {args : List Nat} {s : State}
    (h : s.mss.logFifo.length < 1024) : (logEv code sev unit tag args s).dbg = s.dbg := by
  simp [logEv, h]

/-- What a count comes to depends on the registers, the time and the counters alone. -/
theorem SwitchOnly.count_dbg_eq {s t : State} (h : SwitchOnly s t) (b i k : Nat) :
    (count b i k t).dbg = (count b i k s).dbg := by
  have hr (a : Nat) : reg t a = reg s a := by unfold reg; rw [h.regs_eq]
  unfold count countN
  rw [hr]
  split
  · exact h.dbg_eq
  · split
    · simp only [h.dbg_eq, h.time_eq]
    · exact h.dbg_eq

/-! ### The frame the port takes -/

/-- The state in which the port handles the frame it took: the frame has left and the arbiters have granted its
access. -/
def memTaken (d uid : Nat) (f : Frame) (s : State) : State :=
  memGrant (portReq d) (sitesOf (memRange f).1 (memRange f).2) (dropFrame uid s)

theorem memTaken_switchOnly (d uid : Nat) (f : Frame) (s : State) : SwitchOnly s (memTaken d uid f s) :=
  (dropFrame_switchOnly uid s).trans (memGrant_switchOnly ..)

/-- The oldest frame, whole, not ash, free of errors and of frozen arbiters, is handled. -/
theorem exec_memoryPortTake_taken {d : Die} {pg tc uid : Nat} {f : Frame} {s : State} (hp : powered s = true)
    (hd : s.dbg.dampered = false) (ho : oldestMem d.toNat s = some (pg, tc, uid, f)) (he : f.ended = true)
    (ha : isAsh s f = false) (hm : memStops s f = false) (hc : s.bpm.sramChk = []) :
    exec (.memoryPortTake d) s = .next (memoryHandle pg f (memTaken d.toNat uid f s)) := by
  change Host.Outcome.next (memoryTake d.toNat s) = _
  simp [memoryTake, hp, hd, ho, he, ha, hm, readFrame_clean hc, memTaken]

theorem memoryHandle_put {pg : Nat} {f : Frame} {s : State} (hk : (frameHdr f).kind = 1) (hg : pcrcGood f = true) :
    memoryHandle pg f s = putWrite (frameHdr f) (framePayload f) s := by
  simp [memoryHandle, hk, hg]

theorem memoryHandle_get {pg : Nat} {f : Frame} {s : State} (hk : (frameHdr f).kind = 2) :
    memoryHandle pg f s = getAnswer pg f.ingress (frameHdr f) (framePayload f) s := by
  simp [memoryHandle, hk]

theorem frameReach_iff {s : State} {h : Hdr} {n : Nat} :
    frameReach s h n = true ↔ h.dst.toNat = ownChip s ∧ rangeOk s h.offset.toNat n = true := by
  simp [frameReach]

theorem putWrite_inReach {h : Hdr} {p : List Byte} {s : State} (hr : frameReach s h p.length = true) :
    putWrite h p s = writeMem 0 0xFF (some h.tag) h.offset.toNat p s := by
  simp [putWrite, hr]

/-- An access out of reach is counted MEM_RANGE and logged under its code (R118). -/
def rangeMissed (h : Hdr) (s : State) : State := logEv 0x0582 0 0xFF (some h.tag) [] (count 5 2 0 s)

theorem putWrite_outOfReach {h : Hdr} {p : List Byte} {s : State} (hr : frameReach s h p.length = false) :
    putWrite h p s = rangeMissed h s := by
  simp [putWrite, hr, rangeMissed, codeCounter]

/-! ### A GET and its answer -/

/-- The header a GET's answer is built from: the request's CHANNEL, TC, OFFSET and TAG, with source and destination
changed over. -/
def getRespHdr (h : Hdr) (plane : BitVec 3) : Hdr :=
  { blankHdr with kind := 3, ch := h.ch, tc := h.tc, dst := h.src, src := h.dst, offset := h.offset, tag := h.tag,
                  plane := plane }

section
variable {pg : Nat} {src : FrameSrc} {h : Hdr} {p : List Byte} {s : State} (hl : h.len = 8)
  (hz : fromBe (slice p 4 4) = 0) (h0 : 0 < fromBe (p.take 4)) (h1 : fromBe (p.take 4) ≤ 65535)
include hl hz h0 h1

theorem getAnswer_inReach (hr : frameReach s h (fromBe (p.take 4)) = true)
    (hw : ∀ w ∈ wordsOf h.offset.toNat (fromBe (p.take 4)), Map.get? s.mem.chk w = none) :
    getAnswer pg src h p s = buildRet pg (getRespHdr h (fwdPlane s))
      (Memory.readBytes s.mem.cells h.offset.toNat (fromBe (p.take 4))) s := by
  simp [getAnswer, getRespHdr, hl, hz, Nat.ne_of_gt h0, Nat.not_lt.mpr h1, hr, readMem_unmarked hw]

theorem getAnswer_outOfReach (hr : frameReach s h (fromBe (p.take 4)) = false) :
    getAnswer pg src h p s = buildRet pg (getRespHdr h (fwdPlane s))
      (List.replicate (fromBe (p.take 4)) 0xFF#8) (rangeMissed h s) := by
  simp [getAnswer, getRespHdr, hl, hz, Nat.ne_of_gt h0, Nat.not_lt.mpr h1, hr, rangeMissed, codeCounter, ffs]

end

/-- The frame built at a return port is the last of its queue, with a rev 2 header of the payload's length, the payload
and its CRC. -/
theorem buildRet_last (pg : Nat) (h : Hdr) (p : List Byte) (s : State) :
    ∃ g u, (Map.getD (buildRet pg h p s).sw.retq pg []).getLast? = some u ∧ getFrame (buildRet pg h p s) u = some g ∧
      g.ingress = .ret (BitVec.ofNat 4 pg) ∧
      g.raw = hdrBytes2 { h with ver := 2, hops := 0, len := p.length } ++ p ++ beBytes 4 (pcrcOf p).toNat := by
  refine ⟨_, s.sw.nextUid, ?_, Map.get?_set_same, rfl, rfl⟩
  simp [buildRet, newFrame]

theorem rangeMissed_counters {h : Hdr} {s t : State} (hst : SwitchOnly s t) (hl : s.mss.logFifo.length < 1024) :
    (rangeMissed h t).dbg.counters = (count 5 2 0 s).dbg.counters := by
  have hroom : (count 5 2 0 t).mss.logFifo.length < 1024 := by rwa [count_mss, hst.mss_eq]
  rw [rangeMissed, logEv_dbg_of_room hroom, hst.count_dbg_eq]

/-- The octets a GET of n octets is answered with: those of memory in reach, 0xFF out of reach (R118). -/
def getOctets (s : State) (h : Hdr) (n : Nat) : List Byte :=
  if frameReach s h n then Memory.readBytes s.mem.cells h.offset.toNat n else List.replicate n 0xFF#8

/-- A well-formed GET is answered by one frame at the return port, built on a state with the memory, registers and
groups of `s`. -/
theorem getAnswer_built {pg : Nat} {src : FrameSrc} {h : Hdr} {p : List Byte} {s t : State} (hst : SwitchOnly s t)
    (hl : h.len = 8) (hz : fromBe (slice p 4 4) = 0) (h0 : 0 < fromBe (p.take 4)) (h1 : fromBe (p.take 4) ≤ 65535)
    (hw : frameReach s h (fromBe (p.take 4)) = true →
      ∀ w ∈ wordsOf h.offset.toNat (fromBe (p.take 4)), Map.get? s.mem.chk w = none) :
    ∃ b, getAnswer pg src h p t = buildRet pg (getRespHdr h (fwdPlane s)) (getOctets s h (fromBe (p.take 4))) b ∧
      b.mem = s.mem ∧ b.regs = s.regs ∧ b.groups = s.groups ∧
      (frameReach s h (fromBe (p.take 4)) = false → s.mss.logFifo.length < 1024 →
        b.dbg.counters = (count 5 2 0 s).dbg.counters) := by
  rw [← hst.fwdPlane_eq]
  cases hr : frameReach s h (fromBe (p.take 4)) with
  | true =>
    refine ⟨t, ?_, hst.mem_eq, hst.regs_eq, hst.groups_eq, nofun⟩
    rw [getAnswer_inReach hl hz h0 h1 ((hst.frameReach_eq ..).trans hr) (by rw [hst.mem_eq]; exact hw hr)]
    simp [getOctets, hr, hst.mem_eq]
  | false =>
    refine ⟨rangeMissed h t, ?_, by simp [rangeMissed, hst.mem_eq], by simp [rangeMissed, hst.regs_eq],
      by simp [rangeMissed, hst.groups_eq], fun _ hroom => rangeMissed_counters hst hroom⟩
    rw [getAnswer_outOfReach hl hz h0 h1 ((hst.frameReach_eq ..).trans hr)]
    simp [getOctets, hr]

/-- Settles O23: the port handles the frame in a state that differs from `s` in its switch core and arbiters alone, so
reach, octets and words are judged as in `s`. -/
theorem memoryPortServesFrames : Obligations.MemoryPortServesFrames := by
  unfold Obligations.MemoryPortServesFrames
  intro d pg tc uid f s hp hd ho he ha hm hc
  have hexec := exec_memoryPortTake_taken hp hd ho he ha hm hc
  have hs1 : SwitchOnly s (memTaken d.toNat uid f s) := memTaken_switchOnly ..
  refine ⟨fun hk hg hdst hrange => ?put, fun hk hg hrange => ⟨?missedPut, hs1.mem_eq⟩, fun hk hl hz => ?get⟩
  case put =>
    rw [hexec, memoryHandle_put hk hg,
      putWrite_inReach ((hs1.frameReach_eq ..).trans (frameReach_iff.mpr ⟨hdst, hrange⟩))]
    rfl
  case missedPut =>
    rw [hexec, memoryHandle_put hk hg,
      putWrite_outOfReach ((hs1.frameReach_eq ..).trans (by simp [frameReach, hrange]))]
    rfl
  case get =>
    intro n o reach answer resp h0 h1 hwords
    obtain ⟨b, hbuilt, hmem, hregs, hgroups, hcount⟩ := getAnswer_built (pg := pg) (src := f.ingress) hs1 hl hz h0 h1
      fun hr => hwords (frameReach_iff.mp hr)
    have hanswer : getOctets s (frameHdr f) n = answer :=
      ite_congr (propext frameReach_iff) (fun _ => rfl) (fun _ => rfl)
    obtain ⟨g, u, hlast, hget, hin, hraw⟩ := buildRet_last pg (getRespHdr (frameHdr f) (fwdPlane s)) answer b
    refine ⟨buildRet pg (getRespHdr (frameHdr f) (fwdPlane s)) answer b, g, u, ?_, hmem, hregs, hgroups,
      fun hmiss => hcount (Bool.eq_false_iff.mpr (mt frameReach_iff.mp hmiss)), hlast, hget, hin, hraw⟩
    rw [hexec, memoryHandle_get hk, hbuilt, hanswer]

end Sys2Proof.Machine
end

section
/-! Every command keeps what each function keeps: the queue, the canonical form of memory and registers, the fuses. -/

namespace Sys2Proof.Machine

open Sys2Proof

variable {kp : ToKeep} {s : State}

/-- A next state, where the outcome is one, meets what is to be kept. -/
def KeepsNext (kp : ToKeep) (o : Host.Outcome State Fault Refusal) : Prop := ∀ t, o = .next t → Keeps kp t

namespace KeepsNext

theorem next (h : Keeps kp s) : KeepsNext kp (.next s) := fun _ e => Host.Outcome.next.inj e ▸ h

theorem refused {r : Refusal} : KeepsNext kp (.refused r) := fun _ e => by simp at e

/-- A command that names a part of the device, or is refused. -/
theorem named {c : Prop} [Decidable c] {r : Refusal} (h : Keeps kp s) :
    KeepsNext kp (if c then .next s else .refused r) := by
  split
  · exact next h
  · exact refused

theorem mss {op : State → State} (hk : Keeps kp s) (ho : Keeps kp (op s)) : KeepsNext kp (.next (mssRuns op s)) :=
  next (mssRuns_keeps hk ho)

section
variable {op : State → Status × State} (hk : Keeps kp s) (ho : Keeps kp (op s).2)
include hk ho

theorem loaderCmd : KeepsNext kp (loaderCmd op s) := by
  unfold Machine.loaderCmd
  split
  · exact next (withStatus_keeps ho)
  · exact next hk

theorem hostCmd : KeepsNext kp (hostCmd op s) := by
  unfold Machine.hostCmd
  split
  · exact next (badDst_keeps hk)
  · exact loaderCmd hk ho

theorem stateCmd : KeepsNext kp (stateCmd op s) := by
  unfold Machine.stateCmd
  split
  · exact loaderCmd hk ho
  · exact hostCmd hk ho

/-- A write of a block that a fenced device refuses. -/
theorem block : KeepsNext kp (Machine.hostCmd (unfenced op) s) := hostCmd hk (unfenced_keeps hk ho)

end

theorem power {n : Nat} {op : State → Status × State} (hk : Keeps kp s) (ho : Keeps kp (op s).2) :
    KeepsNext kp (Machine.stateCmd (powerCmd n op) s) := stateCmd hk (powerCmd_keeps hk ho)

theorem registerWrite {a : BitVec 48} {v : W64} (hk : Keeps kp s) : KeepsNext kp (execRegisterWrite a v s) := by
  unfold execRegisterWrite
  split
  · exact loaderCmd hk (regWrite_keeps hk)
  · exact hostCmd hk (regWrite_keeps hk)

theorem patrolScrubSlot {site : ScrubSite} (hk : Keeps kp s) : KeepsNext kp (execPatrolScrubSlot site s) := by
  cases site with
  | hbm st pc => exact named (patrolSlot_keeps hk)
  | ddr ch => exact next (patrolSlot_keeps hk)

theorem railPgTimeout (hk : Keeps kp s) : KeepsNext kp (execRailPgTimeout s) := by
  refine next (keeps_ite.mpr ⟨fun _ => keeps_ite.mpr ⟨fun _ => ?_, fun _ => ?_⟩, fun _ => hk⟩)
  · exact stepFails_keeps hk
  · exact beginRemoval_keeps (stepFails_keeps hk)

theorem seqCmd {g : Nat} {want : List Byte → Bool} {op : List Byte → State → State} (hk : Keeps kp s)
    (ho : ∀ r s, Keeps kp s → Keeps kp (op r s)) : KeepsNext kp (.next (takeCmd g want op s)) :=
  next (takeCmd_keeps hk ho)

/-- A POOL record, taken in its turn among the pool operations of a step. -/
theorem poolCmd {g issuer : Nat} {want : List Byte → Bool}
    {op : BitVec 16 → List Byte → State → Status × W64 × State} (hk : Keeps kp s)
    (ho : ∀ i r s, Keeps kp s → Keeps kp (op i r s).2.2) :
    KeepsNext kp (.next (seqTurn g issuer (takeCmd g want (Machine.poolCmd g op)) s)) :=
  next (seqTurn_keeps hk (takeCmd_keeps hk fun _ _ h => poolCmd_keeps h ho))

/-- A packet taken from a hop. -/
theorem packet {h : Hop} {b : List Byte} {op : HostPkt → State → State} (hk : Keeps kp s)
    (ho : ∀ p, Keeps kp (op p s)) : KeepsNext kp (.next (mssRuns (received h b op) s)) :=
  mss hk (received_keeps hk ho)

theorem upRow {ty : Byte} {b : List Byte} {op : HostPkt → State → State} (hk : Keeps kp s)
    (ho : ∀ p s, Keeps kp s → Keeps kp (op p s)) : KeepsNext kp (upRow ty b op s) :=
  packet hk fun p => upPacket_keeps hk fun s hs => ho p s hs

theorem twinRow {mtype : Byte} {named : Nat × List Byte → Bool} {op : Nat → TwinMsg → State → State}
    (hk : Keeps kp s) (ho : ∀ n m s, Keeps kp s → Keeps kp (op n m s)) : KeepsNext kp (twinRow mtype named op s) :=
  mss hk (takeMsg_keeps hk ho)

theorem mirrorRow {mtype : Byte} {m : List Byte} (hk : Keeps kp s) : KeepsNext kp (mirrorRow mtype m s) :=
  twinRow hk fun _ _ _ h => mirrorRx_keeps h

theorem spdmRow {needs : Nat} {fields : List (List Byte)} {op : State → State} (hk : Keeps kp s)
    (ho : ∀ s, Keeps kp s → Keeps kp (op s)) : KeepsNext kp (spdmRow needs fields op s) :=
  mss hk (spdmPacket_keeps hk fun _ h => spdmRequest_keeps h ho)

end KeepsNext

/-- Each command's effect is built of functions that keep what is to be kept. -/
theorem exec_keeps (hk : Keeps kp s) : ∀ c, KeepsNext kp (exec c s)
  | .registerWrite .. => .registerWrite hk
  | .tempoMeasure .. => .named (tempoMeasure_keeps hk)
  | .pacerPermit .. => .next (pacerTick_keeps hk)
  | .tmpGovCtrlWrite .. => .hostCmd hk (govCtrlWrite_keeps hk)
  | .governorApply => .next (governorApply_keeps hk)
  | .ftcSetWrite .. => .hostCmd hk (ftcSet_keeps hk)
  | .syncExchangeStart => .next (syncStart_keeps hk)
  | .timeReq .. => .next (timeReq_keeps hk)
  | .timeRsp .. => .next (timeRsp_keeps hk)
  | .auxSyncEdge => .mss hk (auxEdge_keeps hk)
  | .linkAdminUp .. => .block hk (lnkCfgWrite_keeps hk)
  | .linkAdminDown .. => .block hk (lnkCfgWrite_keeps hk)
  | .orderlyCloseComplete .. => .next (orderlyClose_keeps hk)
  | .laneTrainingComplete .. => .next (trainingDone_keeps hk)
  | .alignmentLock .. => .next (alignmentLock_keeps hk)
  | .linkStepTimeout .. => .next (stepTimeout_keeps hk)
  | .linkRetryTimer .. => .next (retryTimer_keeps hk)
  | .versionTimer .. => .next (versionTimer_keeps hk)
  | .version .. => .next (versionRx_keeps hk)
  | .laneSignalLost .. => .next (laneLost_keeps hk)
  | .close .. => .next (closeRx_keeps hk)
  | .linkBlockReceive .. => .named (keeps_ite.mpr ⟨fun _ => hk, fun _ => blockReceive_keeps hk⟩)
  | .linkBlockSend .. => .next (blockSend_keeps hk)
  | .creditTimer .. => .next (creditTimer_keeps hk)
  | .credit .. => .next (creditRx_keeps hk)
  | .ackTimer .. => .next (ackTimer_keeps hk)
  | .ack .. => .next (keeps_ite.mpr ⟨fun _ => ackRx_keeps hk, fun _ => hk⟩)
  | .nak .. => .next (nakRx_keeps hk)
  | .replayTimeout .. => .next (replayTimeout_keeps hk)
  | .unknownControlSymbol .. => .next (keeps_ite.mpr ⟨fun _ => unknownSym_keeps hk, fun _ => hk⟩)
  | .ethFrameReceive .. => .next (keeps_ite.mpr ⟨fun _ => hk, fun _ => ethReceive_keeps hk⟩)
  | .frameHeaderAccept .. => .next (headerAccept_keeps hk)
  | .frameEndReceive .. => .next (frameEnd_keeps hk)
  | .outputBufferWrite .. => .next (outputWrite_keeps hk)
  | .reorderGapTimeout .. => .next (gapTimeout_keeps hk)
  | .pinResendTimer .. => .next (pinResend_keeps hk)
  | .reorderWindowExpire .. => .next (windowExpire_keeps hk)
  | .pinExpire .. => .next (pinExpire_keeps hk)
  | .intakeEnqueue .. => .next (intakeEnqueue_keeps hk)
  | .memoryPortTake .. => .next (memoryTake_keeps hk)
  | .returnPortSend .. => .next (returnSend_keeps hk)
  | .egressSelect .. => .next (egressSelect_keeps hk)
  | .swcPortFlushWrite .. => .block hk (portFlush_keeps hk)
  | .queueSample => .next (queueSample_keeps hk)
  | .patrolScrubSlot .. => .patrolScrubSlot hk
  | .sramScrubTick => .next (sramScrub_keeps hk)
  | .hbmSpareWrite .. => .hostCmd hk (hbmSpareWrite_keeps hk)
  | .spareCopyDone => .next (spareCopyDone_keeps hk)
  | .sequencerIntakeTake .. => .next (intakeTurn_keeps hk (intakeTake_keeps hk))
  | .stationQueueDeliver .. => .named (stationDeliver_keeps hk)
  | .steerPairDeliver .. => .next (steerPair_keeps hk)
  | .stnSpareCtrlWrite .. => .block hk (spareCtrlWrite_keeps hk)
  | .spareTakeover .. => .next (spareTakeover_keeps hk)
  | .programLoad .. => .block hk (programLoad_keeps hk)
  | .programUnload .. => .block hk (programUnload_keeps hk)
  | .pstoreWrite .. => .block hk (pstoreWrite_keeps hk)
  | .invocationStart .. => .named (invocationStart_keeps hk)
  | .bundle .. => .named (unitTurn_keeps hk (bundle_keeps hk))
  | .invocationCommit .. => .named (unitTurn_keeps hk (invocationCommit_keeps hk))
  | .paramWrite .. => .block hk (paramWrite_keeps hk)
  | .replayCountWrite .. => .block hk (replayCountWrite_keeps hk)
  | .maintWrite .. => .block hk (maintWrite_keeps hk)
  | .arithDebugWrite .. => .hostCmd hk (arithDebugWrite_keeps hk)
  | .accPeek .. => .hostCmd hk (accPeek_keeps hk)
  | .accPeekComplete => .next (accPeekComplete_keeps hk)
  | .reform .. => .block hk (reform_keeps hk)
  | .define .. => .block hk (define_keeps hk)
  | .undefine .. => .block hk (undefine_keeps hk)
  | .bank .. => .block hk (bank_keeps hk)
  | .unbank .. => .block hk (unbank_keeps hk)
  | .advance .. => .block hk (advance_keeps hk)
  | .setstep .. => .block hk (setStep_keeps hk)
  | .contextBankAtBoundary .. => .next (bankAtBoundary_keeps hk)
  | .contextSwapInComplete .. => .next (swapInComplete_keeps hk)
  | .roundTimeout .. => .next (roundTimeout_keeps hk)
  | .hold .. => .seqCmd hk fun _ _ => holdCmd_keeps
  | .holdRelease .. => .next (holdRelease_keeps hk)
  | .tallyValueWrite .. => .block hk (tallyValueWrite_keeps hk)
  | .tallyCfgWrite .. => .block hk (tallyCfgWrite_keeps hk)
  | .tallyReleaseWrite .. => .block hk (tallyReleaseWrite_keeps hk)
  | .layerTableWrite .. => .block hk (layerWrite_keeps hk)
  | .placementWrite .. => .block hk (placeWrite_keeps hk)
  | .bookStatistics .. => .next (bookStatistics_keeps hk)
  | .bookGateDeliver .. => .next (bookGateDeliver_keeps hk)
  | .bookClaims .. => .next (bookClaims_keeps hk)
  | .ledgerVerdict .. => .next (ledgerVerdict_keeps hk)
  | .bookApply .. => .next (bookApply_keeps hk)
  | .bookCombine .. => .next (bookCombine_keeps hk)
  | .steerWrite .. => .block hk (steerWrite_keeps hk)
  | .cordStageWrite .. => .hostCmd hk (cordStage_keeps hk)
  | .cordVerify => .hostCmd hk (cordVerify_keeps hk)
  | .cordLoad => .hostCmd hk (cordLoad_keeps hk)
  | .cordApply => .mss hk (cordApply_keeps hk)
  | .bind .. => .hostCmd hk (bindReq_keeps hk)
  | .unbind .. => .hostCmd hk (unbindReq_keeps hk)
  | .floorWrite .. => .hostCmd hk (floorWrite_keeps hk)
  | .hostLinkDown => .mss hk (upDown_keeps hk)
  | .hostHelloTimer .. => .mss hk (sendHello_keeps hk)
  | .hostHello .. => .packet hk fun _ => helloPkt_keeps hk
  | .hostLinkAck .. => .packet hk fun _ => linkPkt_keeps hk fun _ _ => hopAck_keeps
  | .hostLinkNak .. => .packet hk fun _ => linkPkt_keeps hk fun _ _ => hopNak_keeps
  | .hostHopRetryTimeout .. => .mss hk (hopTimeout_keeps hk)
  | .hostPacketForward .. => .packet hk fun _ => forwardPkt_keeps hk
  | .hostPacketMalformed .. => .packet hk fun _ => malformedPkt_keeps hk
  | .enum .. => .upRow hk fun _ _ => enumPkt_keeps
  | .rd .. => .upRow hk fun _ _ => rdPkt_keeps
  | .wr .. => .upRow hk fun _ _ => wrPkt_keeps
  | .cmd .. => .upRow hk fun _ _ => cmdPkt_keeps
  | .bulk .. => .upRow hk fun _ _ => bulkPkt_keeps
  | .invoke .. => .seqCmd hk fun _ _ => invokeCmd_keeps
  | .poolAlloc .. => .poolCmd hk fun _ _ _ => poolAllocOp_keeps
  | .poolShare .. => .poolCmd hk fun _ _ _ => poolShareOp_keeps
  | .poolHandoff .. => .poolCmd hk fun _ _ _ => poolHandoffOp_keeps
  | .poolDrop .. => .poolCmd hk fun _ _ _ => poolDropOp_keeps
  | .poolFree .. => .poolCmd hk fun _ _ _ => poolFreeOp_keeps
  | .operand .. => .next (seqTurn_keeps hk (takeCmd_keeps hk fun _ _ => operandCmd_keeps))
  | .nop .. => .seqCmd hk fun _ _ => nopCmd_keeps
  | .completionSend => .mss hk (sendCpl_keeps hk)
  | .hostWatchdogExpire => .mss hk (watchExpire_keeps hk)
  | .off => .power hk (cmdOff_keeps hk)
  | .cold => .loaderCmd hk (powerCmd_keeps hk (cmdCold_keeps hk))
  | .powerBank => .power hk (cmdBank_keeps hk)
  | .bankedEntryComplete => .next (bankedEntry_keeps hk)
  | .restart => .power hk (cmdRestart_keeps hk)
  | .startStepComplete .. => .next (startStepComplete_keeps hk)
  | .idle => .power hk (cmdIdle_keeps hk)
  | .active => .power hk (cmdActive_keeps hk)
  | .blaze => .power hk (cmdBlaze_keeps hk)
  | .vsetWrite .. => .hostCmd hk (vsetWrite_keeps hk)
  | .vidFrameSend => .mss hk (vidStep_keeps hk)
  | .groupGateWrite .. => .hostCmd hk (groupGateWrite_keeps hk)
  | .blazeBudgetTick => .mss hk (blazeTick_keeps hk)
  | .blazeLifePersist => .mss hk (blazePersist_keeps hk)
  | .sensorSample .. => .named (mssRuns_keeps hk (sensorSample_keeps hk))
  | .smbusSelect .. => .mss hk (smbusSelect_keeps hk)
  | .smbusBlockRead => .mss hk (smbusRead_keeps hk)
  | .logEngineMove => .mss hk (logMove_keeps hk)
  | .logMarkSealComplete => .mss hk (logSealed_keeps hk)
  | .logPersistWrite => .mss hk (logPersistWrite_keeps hk)
  | .logSelect .. => .loaderCmd hk (logSelect_keeps hk)
  | .updateBegin .. => .loaderCmd hk (updBegin_keeps hk)
  | .updateCommit => .loaderCmd hk (updCommit_keeps hk)
  | .updateProgramComplete .. => .mss hk (updProgrammed_keeps hk)
  | .updateAbort => .loaderCmd hk (updAbort_keeps hk)
  | .svnCommit => .loaderCmd hk (svnCommit_keeps hk)
  | .revoke .. => .loaderCmd hk (revokeSlot_keeps hk)
  | .getVersion => .mss hk (spdmPacket_keeps hk fun _ => spdmVersion_keeps)
  | .getCapabilities => .spdmRow hk fun _ => spdmCapabilities_keeps
  | .negotiateAlgorithms => .spdmRow hk fun _ => spdmAlgorithms_keeps
  | .getDigests => .spdmRow hk fun _ => spdmDigests_keeps
  | .getCertificate .. => .spdmRow hk fun _ => spdmCertificate_keeps
  | .challenge .. => .spdmRow hk fun _ => spdmChallenge_keeps
  | .getMeasurements .. => .spdmRow hk fun _ => spdmMeasure_keeps
  | .twinEngage .. => .hostCmd hk (twnCfgWrite_keeps hk)
  | .twinDisengage .. => .hostCmd hk (twnCfgWrite_keeps hk)
  | .heartbeatToggle => .mss hk (hbToggle_keeps hk)
  | .heartbeatEdge => .mss hk (hbEdge_keeps hk)
  | .heartbeatMiss => .mss hk (hbMiss_keeps hk)
  | .twinHelloTimer => .mss hk (helloTimer_keeps hk)
  | .twinHello .. => .twinRow hk fun _ _ _ => helloRx_keeps
  | .twinAck .. => .twinRow hk fun _ _ _ => twinAckRx_keeps
  | .twinAckTimer => .mss hk (twinAckTick_keeps hk)
  | .ctx .. => .mirrorRow hk
  | .ctxGone .. => .mirrorRow hk
  | .mgrp .. => .mirrorRow hk
  | .tally .. => .mirrorRow hk
  | .route .. => .mirrorRow hk
  | .place .. => .mirrorRow hk
  | .layer .. => .mirrorRow hk
  | .epochs .. => .mirrorRow hk
  | .fence .. => .mirrorRow hk
  | .fetch .. => .mirrorRow hk
  | .copyBegin .. => .mirrorRow hk
  | .copyEnd .. => .mirrorRow hk
  | .takeover .. => .hostCmd hk (actTakeover_keeps hk)
  | .giveback .. => .hostCmd hk (actGiveback_keeps hk)
  | .givebackComplete => .mss hk (givebackDone_keeps hk)
  | .resync .. => .hostCmd hk (actResync_keeps hk)
  | .fencePartner .. => .hostCmd hk (actFencePartner_keeps hk)
  | .unfence .. => .hostCmd hk (actUnfence_keeps hk)
  | .setEpoch .. => .hostCmd hk (actSetEpoch_keeps hk)
  | .raise .. => .hostCmd hk (damperRaise_keeps hk)
  | .damper .. => .next (damperSym_keeps hk)
  | .release => .hostCmd hk (damperRelease_keeps hk)
  | .scanSize .. => .hostCmd hk (scanSizeAct_keeps hk)
  | .scanStart .. => .hostCmd hk (scanStart_keeps hk)
  | .scanComplete => .mss hk (scanDone_keeps hk)
  | .traceDrain .. => .mss hk (traceDrain_keeps hk)
  | .traceRingWrite .. => .hostCmd hk (traceRingWrite_keeps hk)
  | .counterClear .. => .hostCmd hk (ctrClear_keeps hk)
  | .snapshotTake => .hostCmd hk (snapshot_keeps hk)
  | .snapshotPeriod => .mss hk (snapPeriod_keeps hk)
  | .sparkPop => .hostCmd hk (sparkPop_keeps hk)
  | .powerApplied => .next (powerApplied_keeps hk)
  | .porstAssert => .next (porstLow_keeps hk)
  | .railEnableNext => .next (railEnableNext_keeps hk)
  | .railPgTimeout => .railPgTimeout hk
  | .railDisableNext => .next (railDisableNext_keeps hk)
  | .powerGoodLost .. => .named (powerGoodLost_keeps hk)
  | .ethPcsLinkUp .. => .next (pcsLinkUp_keeps hk)
  | .pfcPauseExpire .. => .next (pauseExpire_keeps hk)
  | .hostLinkTrained .. => .next (hopTrained_keeps hk)
  | .hlDnDown => .mss hk (dnDown_keeps hk)
  | .hostPacketCorrupt .. => .packet hk fun _ => hopAstray_keeps hk
  | .chunkGet .. => .mss hk (spdmPacket_keeps hk fun _ => spdmChunk_keeps)
  | .takeoverComplete => .mss hk (takeoverFinish_keeps hk)

/-- All that a state itself has to be kept: its queue, its fuses, and the canonical forms it has. -/
def keptOf (s : State) : ToKeep where
  queue := s.pending
  mem := Memory.wf s.mem.cells
  regs := Map.sorted s.regs = true
  deviceId := s.mss.deviceId
  grade := s.mss.grade
  keyDigests := s.mss.keyDigests
  repairFuses := s.mss.repairFuses
  secret := s.mss.secret
  floor := s.mss.svnFloor
  revoked := s.mss.revoked

theorem keeps_keptOf (s : State) : Keeps (keptOf s) s :=
  ⟨⟨rfl, id, id, rfl, rfl, rfl, rfl, rfl, Nat.le_refl _, BitVec.and_self⟩⟩

/-- A step keeps what the state had, the command it takes left out of the queue. -/
theorem step_keeps {t : State} (h : step s = .next t) : Keeps (keptOf { s with pending := s.pending.tail }) t := by
  unfold step at h
  cases hq : s.pending with
  | nil =>
    rw [hq] at h
    obtain rfl : tick s = t := Host.Outcome.next.inj h
    exact tick_keeps ⟨{ (keeps_keptOf s).by_ with queue := hq }⟩
  | cons c q =>
    rw [hq] at h
    exact exec_keeps (keeps_keptOf _) c t h

/-- Settles O5: the canonical forms are part of what each function of the model keeps. -/
theorem stepKeepsCanonicalForm : Obligations.StepKeepsCanonicalForm := by
  unfold Obligations.StepKeepsCanonicalForm
  intro s t ⟨hmem, hregs⟩ hstep
  have hk := (step_keeps hstep).by_
  exact ⟨hk.cells hmem, hk.regs hregs⟩

end Sys2Proof.Machine
end

section
/-! Memory read after a write: word by word, where no word met holds an error (R119, R121). -/

namespace Sys2Proof.Machine

open Sys2Proof

/-! ### The part of a write that falls in one word -/

/-- The first octet of a write from `o` that lies in the word at `w`. -/
def partFrom (o w : Nat) : Nat := max o w

/-- The octets of a write that lie in the word at `w`. -/
def partIn (o w : Nat) (l : List Byte) : List Byte :=
  slice l (partFrom o w - o) (min (o + l.length) (w + 8) - partFrom o w)

/-- The cells after the octets of a write that lie in the word at `w` are stored. -/
def writeWord (o : Nat) (l : List Byte) (cells : List Host.Cell) (w : Nat) : List Host.Cell :=
  Memory.writeBytes cells (partFrom o w) (partIn o w l)

theorem wf_writeWord {o w : Nat} {l : List Byte} {cells : List Host.Cell} (h : Memory.wf cells) :
    Memory.wf (writeWord o l cells w) := wf_writeBytes h

theorem length_partIn (o w : Nat) (l : List Byte) :
    (partIn o w l).length = min (o + l.length) (w + 8) - partFrom o w := by
  rw [partIn, slice, List.length_take, List.length_drop]
  simp only [partFrom]
  omega

theorem nthD_partIn {o w a : Nat} {l : List Byte} (h : partFrom o w ≤ a)
    (ha : a < partFrom o w + (partIn o w l).length) : nthD (partIn o w l) (a - partFrom o w) 0 = l.getD (a - o) 0 := by
  rw [length_partIn] at ha
  have ho : o ≤ partFrom o w := Nat.le_max_left o w
  rw [nthD, partIn, slice, List.getD_eq_getElem?_getD, List.getElem?_take_of_lt (by omega), List.getElem?_drop,
    List.getD_eq_getElem?_getD, show partFrom o w - o + (a - partFrom o w) = a - o by omega]

/-- An octet lies in the part of a write in a word when the write covers it and the word holds it. -/
theorem mem_part_iff {o w a : Nat} {l : List Byte} (hw : w / 8 * 8 = w) :
    partFrom o w ≤ a ∧ a < partFrom o w + (partIn o w l).length ↔
      (o ≤ a ∧ a < o + l.length) ∧ a / 8 * 8 = w := by
  rw [length_partIn]
  simp only [partFrom]
  omega

theorem readByte_writeWord {o w a : Nat} {l : List Byte} {cells : List Host.Cell} (hw : w / 8 * 8 = w)
    (hwf : Memory.wf cells) : Memory.readByte (writeWord o l cells w) a =
      if (o ≤ a ∧ a < o + l.length) ∧ a / 8 * 8 = w then l.getD (a - o) 0 else Memory.readByte cells a := by
  rw [writeWord, readByte_writeBytes hwf]
  by_cases h : (o ≤ a ∧ a < o + l.length) ∧ a / 8 * 8 = w
  · have hp := (mem_part_iff hw).mpr h
    rw [if_pos h, if_pos hp, nthD_partIn hp.1 hp.2]
  · rw [if_neg h, if_neg (mt (mem_part_iff hw).mp h)]

/-! ### The whole write -/

/-- Of the words written so far, the octets the write covers read as written, and every other octet as before. -/
theorem readByte_writeWords {o a : Nat} {l : List Byte} {ws : List Nat} {cells : List Host.Cell}
    (hws : ∀ w ∈ ws, w / 8 * 8 = w) (hwf : Memory.wf cells) :
    Memory.readByte (ws.foldl (writeWord o l) cells) a =
      if (o ≤ a ∧ a < o + l.length) ∧ a / 8 * 8 ∈ ws then l.getD (a - o) 0 else Memory.readByte cells a := by
  induction ws generalizing cells with
  | nil => simp
  | cons w ws ih =>
    have hw := hws w List.mem_cons_self
    rw [List.foldl_cons, ih (fun v hv => hws v (List.mem_cons_of_mem w hv)) (wf_writeWord hwf),
      readByte_writeWord hw hwf]
    by_cases h : o ≤ a ∧ a < o + l.length
    · by_cases hm : a / 8 * 8 ∈ ws <;> by_cases he : a / 8 * 8 = w <;> simp [h, hm, he]
    · simp [h]

/-- The words that some octets meet are all those that hold one of them. -/
theorem word_mem_wordsOf {o n a : Nat} (ho : o ≤ a) (ha : a < o + n) : a / 8 * 8 ∈ wordsOf o n := by
  unfold wordsOf
  rw [if_neg (by omega)]
  exact List.mem_map.mpr ⟨a / 8 - o / 8, List.mem_range.mpr (by omega), by omega⟩

/-- Taking out a key that is not there changes nothing. -/
theorem Map.erase_of_get?_none {α : Type} {m : Map α} {k : Nat} (h : Map.get? m k = none) : Map.erase m k = m := by
  induction m with
  | nil => rfl
  | cons e m ih =>
    obtain ⟨j, b⟩ := e
    by_cases hj : j = k
    · simp [Map.get?, hj] at h
    · rw [Map.get?, if_neg hj] at h
      rw [Map.erase, if_neg hj, ih h]

/-- Where no word met holds an error a write stores the part in each word and changes nothing else: a whole word has no
check symbols to renew, and the read of a part finds the word good. -/
theorem writeMem_unmarked {reader unit o : Nat} {tag : Option (BitVec 24)} {l : List Byte} {s : State}
    (h : ∀ w ∈ wordsOf o l.length, Map.get? s.mem.chk w = none) :
    writeMem reader unit tag o l s =
      { s with mem := { s.mem with cells := (wordsOf o l.length).foldl (writeWord o l) s.mem.cells } } := by
  unfold writeMem
  have haligned : ∀ w ∈ wordsOf o l.length, w / 8 * 8 = w := fun w hw => wordsOf_aligned hw
  generalize wordsOf o l.length = ws at h haligned ⊢
  induction ws generalizing s with
  | nil => rfl
  | cons w ws ih =>
    have hw := h w List.mem_cons_self
    rw [List.foldl_cons, List.foldl_cons, takeWord_unmarked ((haligned w List.mem_cons_self).symm ▸ hw),
      Map.erase_of_get?_none hw]
    simp only [Bool.false_eq_true, if_false, ite_self]
    exact ih (s := { s with mem := { s.mem with cells := writeWord o l s.mem.cells w } })
      (fun v hv => h v (List.mem_cons_of_mem w hv)) fun v hv => haligned v (List.mem_cons_of_mem w hv)

/-- Settles O8: each octet of the write is stored with the word that holds it. -/
theorem memoryReadsWhatWasWritten : Obligations.MemoryReadsWhatWasWritten := by
  unfold Obligations.MemoryReadsWhatWasWritten
  intro s reader unit tag o l hwf hchk
  rw [writeMem_unmarked hchk]
  refine ⟨fun a => ?_, fun _ => rfl⟩
  rw [readByte_writeWords (fun w hw => wordsOf_aligned hw) hwf]
  exact ite_congr (propext ⟨And.left, fun ha => ⟨ha, word_mem_wordsOf ha.1 ha.2⟩⟩) (fun _ => rfl) (fun _ => rfl)

end Sys2Proof.Machine
end

section
/-! Scrub, HBM4 sparing and the spare reduce station: what reads of words, records of events and messages to the
partner leave alone, and each operation (R124, R126, R152, R153). -/

namespace Sys2Proof.Machine

open Sys2Proof

/-! ### What counting, logging and mirroring leave alone -/

/-- `t` is `s` but for the management subsystem's log, the twin mirror and the counters. -/
def RecordsOnly (s t : State) : Prop := ∃ mss twn dbg, t = { s with mss := mss, twn := twn, dbg := dbg }

namespace RecordsOnly

theorem refl (s : State) : RecordsOnly s s := ⟨_, _, _, rfl⟩

theorem trans {s t u : State} (hst : RecordsOnly s t) (htu : RecordsOnly t u) : RecordsOnly s u := by
  obtain ⟨_, _, _, rfl⟩ := hst
  obtain ⟨_, _, _, rfl⟩ := htu
  exact ⟨_, _, _, rfl⟩

variable {s t : State} (h : RecordsOnly s t)
include h

theorem bpm_eq : t.bpm = s.bpm := by obtain ⟨_, _, _, rfl⟩ := h; rfl
theorem mem_eq : t.mem = s.mem := by obtain ⟨_, _, _, rfl⟩ := h; rfl
theorem regs_eq : t.regs = s.regs := by obtain ⟨_, _, _, rfl⟩ := h; rfl
theorem groups_eq : t.groups = s.groups := by obtain ⟨_, _, _, rfl⟩ := h; rfl

end RecordsOnly

/-- A count changes the counters alone. -/
theorem count_eq (b i k : Nat) (s : State) : count b i k s = { s with dbg := (count b i k s).dbg } := by
  unfold count countN
  (repeat' split) <;> rfl

theorem count_recordsOnly (b i k : Nat) (s : State) : RecordsOnly s (count b i k s) := ⟨_, _, _, count_eq b i k s⟩

theorem logEv_recordsOnly (code sev unit : Nat) (tag : Option (BitVec 24)) (args : List Nat) (s : State) :
    RecordsOnly s (logEv code sev unit tag args s) := by
  unfold logEv
  dsimp only
  split
  · exact ⟨_, _, _, rfl⟩
  · exact RecordsOnly.trans ⟨_, _, _, rfl⟩ (count_recordsOnly ..)

theorem mirrorPush_recordsOnly (mtype : Byte) (body : List Byte) (s : State) :
    RecordsOnly s (mirrorPush mtype body s) := by
  unfold mirrorPush
  split
  · exact .refl s
  · exact ⟨_, _, _, rfl⟩

theorem mirrorSend_recordsOnly (mtype : Byte) (body : List Byte) (s : State) :
    RecordsOnly s (mirrorSend mtype body s) := by
  unfold mirrorSend
  split
  · exact .refl s
  · split
    · exact RecordsOnly.trans ⟨_, _, _, rfl⟩ (count_recordsOnly ..)
    · exact mirrorPush_recordsOnly ..

theorem mirrorEpochs_recordsOnly (s : State) : RecordsOnly s (mirrorEpochs s) := mirrorSend_recordsOnly ..

/-! ### What a read of words leaves alone -/

/-- `t` is `s` but for the memory, the errors counted at its sites, and the records of what was found. -/
def WordsRead (s t : State) : Prop :=
  ∃ mem errors mss dbg, t = { s with mem := mem, bpm := { s.bpm with siteErrors := errors }, mss := mss, dbg := dbg }

namespace WordsRead

theorem refl (s : State) : WordsRead s s := ⟨_, _, _, _, rfl⟩

theorem trans {s t u : State} (hst : WordsRead s t) (htu : WordsRead t u) : WordsRead s u := by
  obtain ⟨_, _, _, _, rfl⟩ := hst
  obtain ⟨_, _, _, _, rfl⟩ := htu
  exact ⟨_, _, _, _, rfl⟩

variable {s t : State} (h : WordsRead s t)
include h

theorem spared_eq : t.bpm.spared = s.bpm.spared := by obtain ⟨_, _, _, _, rfl⟩ := h; rfl
theorem regs_eq : t.regs = s.regs := by obtain ⟨_, _, _, _, rfl⟩ := h; rfl
theorem groups_eq : t.groups = s.groups := by obtain ⟨_, _, _, _, rfl⟩ := h; rfl

end WordsRead

theorem logEv_wordsRead (code sev unit : Nat) (tag : Option (BitVec 24)) (args : List Nat) (s : State) :
    WordsRead s (logEv code sev unit tag args s) := by
  unfold logEv
  dsimp only
  split
  · exact ⟨_, _, _, _, rfl⟩
  · rw [count_eq]
    exact ⟨_, _, _, _, rfl⟩

theorem takeWord_wordsRead (reader unit w : Nat) (tag : Option (BitVec 24)) (s : State) :
    WordsRead s (takeWord reader unit tag w s).2 := by
  have hread : WordsRead s { s with mem := (readWord s.mem w).2 } := ⟨_, _, _, _, rfl⟩
  unfold takeWord
  dsimp only
  split
  · exact hread.trans (logEv_wordsRead ..)
  · dsimp only
    split
    · exact hread.trans ⟨_, _, _, _, rfl⟩
    · exact hread

theorem foldl_wordsRead {α β : Type} {f : β × State → α → β × State} {b : β × State} {l : List α}
    (hf : ∀ b x, WordsRead b.2 (f b x).2) : WordsRead b.2 (l.foldl f b).2 := by
  induction l generalizing b with
  | nil => exact .refl b.2
  | cons x l ih => exact (hf b x).trans ih

theorem scanWords_wordsRead (reader unit : Nat) (tag : Option (BitVec 24)) (ws : List Nat) (s : State) :
    WordsRead s (scanWords reader unit tag ws s).2 := by
  unfold scanWords
  exact foldl_wordsRead (b := ([], s)) fun b w => takeWord_wordsRead reader unit w tag b.2

theorem scanWords_wordsOf_unmarked {reader unit o n : Nat} {tag : Option (BitVec 24)} {s : State}
    (h : ∀ w ∈ wordsOf o n, Map.get? s.mem.chk w = none) : scanWords reader unit tag (wordsOf o n) s = ([], s) :=
  scanWords_unmarked fun w hw => (wordsOf_aligned hw).symm ▸ h w hw

/-! ### Scrub (R124) -/

/-- The granule a site's next slot reads. -/
def scrubGranule (site : ScrubSite) (s : State) : Nat :=
  Map.getD s.bpm.scrubPos (scrubKey site) 0 % scrubGranules s site

/-- A slot of a site in service, where no word of the granule is marked, goes on to the next granule. -/
theorem patrolSlot_unmarked {site : ScrubSite} {s : State} (hon : scrubOn s site = true)
    (hn : 0 < scrubGranules s site)
    (hw : ∀ w ∈ wordsOf (scrubOffset (scrubGranule site s) site) 256, Map.get? s.mem.chk w = none) :
    patrolSlot site s = { s with bpm := { s.bpm with
      scrubPos := Map.set s.bpm.scrubPos (scrubKey site) ((scrubGranule site s + 1) % scrubGranules s site) } } := by
  have hmax : max (scrubGranules s site) 1 = scrubGranules s site := Nat.max_eq_left hn
  have hscan := scanWords_wordsOf_unmarked (reader := 7) (unit := 0xFF) (tag := none) hw
  rw [scrubGranule] at hscan
  simp only [patrolSlot, hon, hmax, hscan, if_true, scrubGranule]

theorem sramScrub_clean {s : State} (hon : bitAt (reg s Reg.memScrub) 2 = true) (hp : powered s = true)
    (ht : now s % 1000 = 0) (hc : s.bpm.sramChk = []) :
    sramScrub s = { s with bpm := { s.bpm with sramScrubPos := (s.bpm.sramScrubPos + 1) % 131072 } } := by
  simp [sramScrub, hon, hp, ht, hc]

/-! ### A host's command -/

/-- Out of reset and with the firmware running a host's command is carried out and leaves its status. -/
theorem hostCmd_running {op : State → Status × State} {s : State} (hp : s.pwr.porst = true)
    (hr : s.mss.romOnly = false) : hostCmd op s = .next (withStatus (op s).2 (op s).1) := by
  simp [hostCmd, loaderCmd, hp, hr, finish]

/-- A field of n bits is below 2^n. -/
theorem fld_lt (v : W64) (hi lo : Nat) : fld v hi lo < 2 ^ (hi + 1 - lo) := Nat.mod_lt _ (Nat.two_pow_pos _)

theorem toNat_ofNat_fld (v : W64) (hi lo : Nat) : (BitVec.ofNat (hi + 1 - lo) (fld v hi lo)).toNat = fld v hi lo := by
  rw [BitVec.toNat_ofNat, Nat.mod_eq_of_lt (fld_lt v hi lo)]

/-! ### HBM4 sparing (R126) -/

theorem spareAnswer_spared {st pc : Nat} {s : State} (h : isSpared s st pc = true) :
    spareAnswer st pc s = (.ok, false) := by
  simp [spareAnswer, h]

theorem spareAnswer_copying {st pc : Nat} {c : Nat × Nat} {s : State} (h : isSpared s st pc = false)
    (hc : s.bpm.copy = some c) :
    spareAnswer st pc s = (if c = (st, pc) then .ok else .resourceBound, false) := by
  simp only [spareAnswer, h, hc, Bool.false_eq_true, if_false]
  split <;> rfl

theorem spareAnswer_full {st pc : Nat} {s : State} (h : isSpared s st pc = false) (hc : s.bpm.copy = none)
    (hn : 4 ≤ sparedIn s st) : spareAnswer st pc s = (.resourceBound, false) := by
  simp [spareAnswer, h, hc, hn]

theorem spareAnswer_free {st pc : Nat} {s : State} (h : isSpared s st pc = false) (hc : s.bpm.copy = none)
    (hn : sparedIn s st < 4) : spareAnswer st pc s = (.ok, true) := by
  simp [spareAnswer, h, hc, Nat.not_le.mpr hn]

/-- A write that starts no copy shows its answer and changes nothing else. -/
theorem hbmSpareWrite_answered {v : W64} {x : Status} {s : State} (hst : fld v 10 8 < 6)
    (ha : spareAnswer (fld v 10 8) (fld v 5 0) s = (x, false)) :
    hbmSpareWrite v s = (x, { s with bpm := { s.bpm with spareStatus := x } }) := by
  simp [hbmSpareWrite, Nat.not_le.mpr hst, ha]

/-- The memory part once a copy has started. -/
def copyStarted (v : W64) (b : BpmSt) : BpmSt :=
  { b with spareStatus := .ok, copy := some (fld v 10 8, fld v 5 0), spareEpoch := BitVec.ofNat 32 (fld v 63 32),
           spareState := 1, spareStack := BitVec.ofNat 3 (fld v 10 8), sparePc := BitVec.ofNat 6 (fld v 5 0) }

theorem hbmSpareWrite_starts {v : W64} {s : State} (hst : fld v 10 8 < 6)
    (ha : spareAnswer (fld v 10 8) (fld v 5 0) s = (.ok, true)) :
    hbmSpareWrite v s = (.ok, mirrorEpochs { s with bpm := copyStarted v s.bpm }) := by
  simp [hbmSpareWrite, Nat.not_le.mpr hst, ha, copyStarted]

/-- A bit set in a map of masks reads as set, and every bit that was set still does. -/
theorem getD_set_or {m : Map W64} {st : Nat} {x : W64} {j pc : Nat} :
    (Map.getD (Map.set m st (Map.getD m st 0 ||| x)) j 0).getLsbD pc =
      ((Map.getD m j 0).getLsbD pc || (decide (j = st) && x.getLsbD pc)) := by
  by_cases h : j = st
  · subst h
    simp
  · simp [Map.getD_set_other h, h]

theorem getLsbD_twoPow {pc : Nat} (h : pc < 64) : (bv64 (2 ^ pc)).getLsbD pc = true := by
  rw [bv64, BitVec.getLsbD_ofNat, decide_eq_true h, Nat.testBit_two_pow_self, Bool.and_self]

theorem wordsInError_eq_nil {st pc : Nat} {s : State} (h : ∀ e ∈ s.mem.chk, memSite e.1 ≠ 64 * st + pc) :
    wordsInError st pc s = [] := by
  rw [wordsInError, List.map_eq_nil_iff, List.filter_eq_nil_iff]
  intro e he
  simp [h e he]

/-- The copy engine's read of a pseudo-channel, through the pseudo-channel's arbiter. -/
def copyRead (st pc : Nat) (s : State) : State :=
  let s0 := memGrant (fun _ => 6) [64 * st + pc] s
  (scanWords 7 0xFF none (wordsInError st pc s0) s0).2

theorem copyRead_frame (st pc : Nat) (s : State) : (copyRead st pc s).bpm.spared = s.bpm.spared ∧
    (copyRead st pc s).regs = s.regs ∧ (copyRead st pc s).groups = s.groups := by
  have hgrant : SwitchOnly s (memGrant (fun _ => 6) [64 * st + pc] s) := memGrant_switchOnly ..
  have hread := scanWords_wordsRead 7 0xFF none (wordsInError st pc (memGrant (fun _ => 6) [64 * st + pc] s))
    (memGrant (fun _ => 6) [64 * st + pc] s)
  exact ⟨hread.spared_eq, hread.regs_eq.trans hgrant.regs_eq, hread.groups_eq.trans hgrant.groups_eq⟩

theorem copyRead_mem_of_unmarked {st pc : Nat} {s : State} (h : ∀ e ∈ s.mem.chk, memSite e.1 ≠ 64 * st + pc) :
    (copyRead st pc s).mem = s.mem := by
  have hw : wordsInError st pc (memGrant (fun _ => 6) [64 * st + pc] s) = [] := wordsInError_eq_nil h
  rw [copyRead, hw]
  rfl

/-- The memory part once a copy has ended. -/
def copyEnded (st pc : Nat) (b : BpmSt) : BpmSt :=
  { b with copy := none, spareState := 2,
           spared := Map.set b.spared st (Map.getD b.spared st 0 ||| bv64 (2 ^ pc)) }

theorem spareCopyDone_ends {st pc : Nat} {s : State} (hc : s.bpm.copy = some (st, pc))
    (hf : siteFrozen s (64 * st + pc) = false) :
    ∃ args, spareCopyDone s = logEv (codeOther 5) 0 0xFF none args
      { copyRead st pc s with bpm := copyEnded st pc (copyRead st pc s).bpm } := by
  refine ⟨[st, pc, (copyRead st pc s).bpm.spareEpoch.toNat], ?_⟩
  simp only [spareCopyDone, hc, hf, Bool.false_eq_true, if_false]
  rfl

/-! ### The spare reduce station (R152, R153) -/

/-- `t` is `s` but for the groups. -/
def GroupsOnly (s t : State) : Prop := t = { s with groups := t.groups }

theorem GroupsOnly.trans {s t u : State} (hst : GroupsOnly s t) (htu : GroupsOnly t u) : GroupsOnly s u := by
  rw [GroupsOnly, htu, hst]

theorem GroupsOnly.mem_eq {s t : State} (h : GroupsOnly s t) : t.mem = s.mem := by rw [h]

theorem GroupsOnly.regs_eq {s t : State} (h : GroupsOnly s t) : t.regs = s.regs := by rw [h]

theorem getGroup_congr {s t : State} (h : t.groups = s.groups) (g : Nat) : getGroup t g = getGroup s g := by
  rw [getGroup, h, getGroup]

@[simp] theorem getGroup_withStatus (s : State) (x : Status) (g : Nat) :
    getGroup (withStatus s x) g = getGroup s g := rfl

theorem getUnit_congr {s t : State} {g : Nat} (h : (getGroup t g).units = (getGroup s g).units) (u : Nat) :
    getUnit t g u = getUnit s g u := by
  rw [getUnit, h, getUnit]

theorem getUnit_modUnit_same {s : State} {g u : Nat} {f : UnitSt → UnitSt} :
    getUnit (modUnit s g u f) g u = f (getUnit s g u) := by
  rw [modUnit, getUnit_setUnit_same]

/-- Freeing buffers of a group leaves its units, and everything but the groups. -/
theorem freeBufs_units (g : Nat) (hs : List Nat) (s : State) :
    GroupsOnly s (foldOver hs (fun s h => freeBuf g h s) s) ∧
      (getGroup (foldOver hs (fun s h => freeBuf g h s) s) g).units = (getGroup s g).units := by
  unfold foldOver
  induction hs generalizing s with
  | nil => exact ⟨rfl, rfl⟩
  | cons h hs ih =>
    obtain ⟨hgroups, hunits⟩ := ih (freeBuf g h s)
    refine ⟨GroupsOnly.trans (t := freeBuf g h s) rfl hgroups, hunits.trans ?_⟩
    rw [freeBuf, getGroup_modGroup_same]

/-- An abandoned unit runs nothing, and is otherwise as it was. -/
theorem getUnit_abandonRun (g u : Nat) (r : Run) (s : State) :
    getUnit (abandonRun g u r s) g u = { getUnit s g u with run := none } := by
  rw [abandonRun, getUnit_modUnit_same, getUnit_congr (freeBufs_units g r.outs s).2]

theorem abandonRun_groupsOnly (g u : Nat) (r : Run) (s : State) : GroupsOnly s (abandonRun g u r s) :=
  (freeBufs_units g r.outs s).1.trans rfl

/-- The invocation running on unit k abandoned and first in the order again, and the spare covering k. -/
def takenOver (g k : Nat) (r : Run) (s : State) : State :=
  modGroup (modUnit (abandonRun g k r s) g k (fun x => { x with order := r.inv :: x.order })) g
    (fun gr => { gr with covering := true, coverUnit := BitVec.ofNat 2 k, taking := none })

theorem takenOver_groupsOnly (g k : Nat) (r : Run) (s : State) : GroupsOnly s (takenOver g k r s) :=
  (abandonRun_groupsOnly g k r s).trans rfl

theorem getUnit_takenOver (g k : Nat) (r : Run) (s : State) :
    getUnit (takenOver g k r s) g k = { getUnit s g k with run := none, order := r.inv :: (getUnit s g k).order } := by
  have hunits : (getGroup (takenOver g k r s) g).units =
      (getGroup (modUnit (abandonRun g k r s) g k (fun x => { x with order := r.inv :: x.order })) g).units := by
    rw [takenOver, getGroup_modGroup_same]
  rw [getUnit_congr hunits, getUnit_modUnit_same, getUnit_abandonRun]

theorem spareTakeover_covers {g k : Nat} {r : Run} {s : State} (ht : (getGroup s g).taking = some k)
    (hi : (getUnit s g 4).run = none) (hr : (getUnit s g k).run = some r) :
    RecordsOnly (takenOver g k r s) (spareTakeover g s) := by
  simp only [spareTakeover, ht, hi, hr, Option.isSome_none, Bool.false_eq_true, if_false]
  exact (logEv_recordsOnly ..).trans (count_recordsOnly ..)

/-- An epoch below the stored one is refused, and only the status shown changes (R152). -/
theorem spareCtrlWrite_stale {g : Nat} {v : W64} {s : State} (h : fld v 63 32 < (getGroup s g).spareEpoch.toNat) :
    spareCtrlWrite g v s = (.epochStale, modGroup s g fun gr => { gr with spareStatus := .epochStale }) := by
  have he : BitVec.ofNat 32 (fld v 63 32) < (getGroup s g).spareEpoch := by
    rw [BitVec.lt_def, toNat_ofNat_fld v 63 32]
    exact h
  simp [spareCtrlWrite, he, modGroup]

/-- The group once a takeover of unit `fld v 1 0` has begun. -/
def takeoverBegun (g : Nat) (v : W64) (s : State) : State :=
  modGroup s g fun gr => { gr with
    spareStatus := .ok, spareEpoch := BitVec.ofNat 32 (fld v 63 32), taking := some (fld v 1 0) }

/-- With no unit covered and none being taken over, the takeover of the unit named begins. -/
theorem spareCtrlWrite_begins {g : Nat} {v : W64} {s : State} (h : (getGroup s g).spareEpoch.toNat ≤ fld v 63 32)
    (hc : (getGroup s g).covering = false) (ht : (getGroup s g).taking = none) :
    (spareCtrlWrite g v s).1 = .ok ∧ RecordsOnly (takeoverBegun g v s) (spareCtrlWrite g v s).2 := by
  have he : ¬ BitVec.ofNat 32 (fld v 63 32) < (getGroup s g).spareEpoch := by
    rw [BitVec.lt_def, toNat_ofNat_fld v 63 32]
    exact Nat.not_lt.mpr h
  simp only [spareCtrlWrite, he, hc, ht, if_false, Bool.false_eq_true, true_and, Option.isNone_none, and_self, if_true]
  split
  · exact mirrorEpochs_recordsOnly _
  · exact .refl _

/-- Settles O25: each command comes to one operation of the memory part or of the group, and to records of it. -/
theorem sparesTakeOver : Obligations.SparesTakeOver := by
  unfold Obligations.SparesTakeOver
  refine ⟨⟨?hbm, ?ddr, ?sram, ?spare, ?copyDone⟩, ?ctrl, ?takeover⟩
  case hbm =>
    intro st pc s hst hon hp k i hw
    have hs := patrolSlot_unmarked (site := .hbm st pc) (s := s) (by simp [scrubOn, bitAt, hon, hp])
      (show 0 < 1152 * 2 ^ 20 / 256 by decide) hw
    exact (if_pos hst).trans (congrArg Host.Outcome.next hs)
  case ddr =>
    intro ch s hon hp hwin hgb k n i hw
    have hn : scrubGranules s (.ddr ch) = n := by
      change s.bpm.ddrGb.toNat * 2 ^ 30 / 256 = s.bpm.ddrGb.toNat * 4194304
      omega
    have hi : scrubGranule (.ddr ch) s = i := by
      rw [scrubGranule, hn]
      rfl
    have hpos : 0 < scrubGranules s (.ddr ch) := by omega
    have hs := patrolSlot_unmarked (site := .ddr ch) (s := s) (by simp [scrubOn, bitAt, hon, hp, hwin]) hpos
      (by rw [hi]; exact hw)
    rw [hi, hn] at hs
    exact congrArg Host.Outcome.next hs
  case sram =>
    intro s hon hp ht hc
    exact congrArg Host.Outcome.next (sramScrub_clean hon hp ht hc)
  case spare =>
    intro v s hp hr hst st pc answered
    have hexec : exec (.hbmSpareWrite v) s = _ := hostCmd_running (op := hbmSpareWrite v) hp hr
    have hanswer : ∀ x, spareAnswer st pc s = (x, false) → exec (.hbmSpareWrite v) s = .next (answered x) := by
      intro x hx
      rw [hexec, hbmSpareWrite_answered hst hx]
      rfl
    refine ⟨fun h => hanswer _ (spareAnswer_spared h), fun h => ⟨fun hc hn => ?_,
      fun hc hn => hanswer _ (spareAnswer_full h hc hn), fun c hc => hanswer _ (spareAnswer_copying h hc)⟩⟩
    rw [hexec, hbmSpareWrite_starts hst (spareAnswer_free h hc hn)]
    have hrec := mirrorEpochs_recordsOnly { s with bpm := copyStarted v s.bpm }
    refine ⟨_, rfl, ?_⟩
    rw [withStatus_bpm, withStatus_mem, withStatus_regs, withStatus_groups, hrec.bpm_eq]
    exact ⟨rfl, rfl, toNat_ofNat_fld v 63 32, rfl, rfl, rfl, hrec.mem_eq, hrec.regs_eq, hrec.groups_eq⟩
  case copyDone =>
    intro st pc s hc hpc hf
    obtain ⟨args, hdone⟩ := spareCopyDone_ends hc hf
    obtain ⟨hspared, hregs, hgroups⟩ := copyRead_frame st pc s
    refine ⟨_, congrArg Host.Outcome.next hdone, ?_⟩
    simp only [isSpared, logEv_bpm, logEv_regs, logEv_groups, logEv_mem]
    refine ⟨rfl, rfl, ?_, fun st' pc' h => ?_, hregs, hgroups, copyRead_mem_of_unmarked⟩
    · simp [copyEnded, getLsbD_twoPow hpc]
    · simp only [copyEnded, getD_set_or, hspared, h, Bool.true_or]
  case ctrl =>
    intro g v s hp hr hfence
    have hexec : exec (.stnSpareCtrlWrite g v) s = _ :=
      hostCmd_running (op := unfenced (spareCtrlWrite g.toNat v)) hp hr
    rw [unfenced_free hfence] at hexec
    rw [hexec]
    refine ⟨fun hlt => ?_, fun hle hcov htak => ?_⟩
    · rw [spareCtrlWrite_stale hlt]
      refine ⟨_, rfl, rfl, ?_⟩
      rw [getGroup_withStatus, getGroup_modGroup_same]
      exact ⟨rfl, rfl, rfl⟩
    · obtain ⟨hok, hrec⟩ := spareCtrlWrite_begins hle hcov htak
      refine ⟨_, rfl, hok, ?_⟩
      rw [getGroup_withStatus, getGroup_congr hrec.groups_eq, takeoverBegun, getGroup_modGroup_same]
      exact ⟨rfl, toNat_ofNat_fld v 63 32, rfl, hrec.mem_eq, hrec.regs_eq⟩
  case takeover =>
    intro g k r s ht hk hi hr
    have hrec := spareTakeover_covers ht hi hr
    have hgroup := getGroup_congr hrec.groups_eq g.toNat
    have hfull := takenOver_groupsOnly g.toNat k r s
    have hcover : (BitVec.ofNat 2 k).toNat = k := by
      rw [BitVec.toNat_ofNat]
      omega
    refine ⟨_, rfl, ?_⟩
    rw [getUnit_congr (congrArg GroupSt.units hgroup), getUnit_takenOver, hgroup, takenOver, getGroup_modGroup_same]
    exact ⟨rfl, rfl, rfl, rfl, hcover, rfl, hrec.mem_eq.trans hfull.mem_eq, hrec.regs_eq.trans hfull.regs_eq⟩

end Sys2Proof.Machine
end

section
/-! POOL records and NOP: a record is taken from the FIFO, its operation changes one buffer or none, and it completes
with one record (Table 5.1, R129-R131, R309). -/

namespace Sys2Proof.Machine

open Sys2Proof

/-! ### SRAM with no word in error -/

theorem writeSram_clean {ob : SramObj} {lo n : Nat} {s : State} (h : s.bpm.sramChk = []) : writeSram ob lo n s = s := by
  simp [writeSram, h]

theorem useStore_clean {k : SramStore} {n words unit : Nat} {tag : Option (BitVec 24)} {s : State}
    (h : s.bpm.sramChk = []) : useStore k n words unit tag s = s := by
  simp [useStore, readSram, h, writeSram_clean h]

/-! ### What a record's operation may change -/

/-- `t` is `s` after group `n` took the record before `rest`: only that group and the counters differ, and of the
group neither units nor offers. -/
structure RecordDone (n : Nat) (rest : List (List Byte)) (s : State) (dbg : DbgSt) (bufs : Map Buf) (t : State) :
    Prop where
  frame : t = { s with groups := t.groups, dbg := dbg }
  fifo : (getGroup t n).fifo = rest
  units : (getGroup t n).units = (getGroup s n).units
  bufs : (getGroup t n).bufs = bufs
  offers : (getGroup t n).offers = (getGroup s n).offers
  others : ∀ k, k ≠ n → getGroup t k = getGroup s k

/-- The state once the record at the head of the FIFO is taken. -/
def recordTaken (n : Nat) (rest : List (List Byte)) (s : State) : State :=
  takeSeqStep n (modGroup s n fun gr => { gr with fifo := rest })

section
variable {n : Nat} {rest : List (List Byte)} {s t : State} {dbg : DbgSt} {bufs : Map Buf}

theorem getGroup_recordTaken : getGroup (recordTaken n rest s) n =
    { getGroup s n with fifo := rest, seqStep := lastOf (getGroup s n) (getGroup s n).seqStep 1 } := by
  rw [recordTaken, takeSeqStep, getGroup_modGroup_same, getGroup_modGroup_same]
  rfl

theorem recordTaken_done : RecordDone n rest s s.dbg (getGroup s n).bufs (recordTaken n rest s) where
  frame := rfl
  fifo := by rw [getGroup_recordTaken]
  units := by rw [getGroup_recordTaken]
  bufs := by rw [getGroup_recordTaken]
  offers := by rw [getGroup_recordTaken]
  others k hk := by rw [recordTaken, takeSeqStep, getGroup_modGroup_other hk, getGroup_modGroup_other hk]

/-- A change of the group's buffers, or of what the statement does not name, leaves the record done. -/
theorem RecordDone.modGroup {f : GroupSt → GroupSt} (h : RecordDone n rest s dbg bufs t)
    (hf : ∀ gr, (f gr).fifo = gr.fifo ∧ (f gr).units = gr.units ∧ (f gr).offers = gr.offers) :
    RecordDone n rest s dbg (f (getGroup t n)).bufs (modGroup t n f) := by
  obtain ⟨hfifo, hunits, hoffers⟩ := hf (getGroup t n)
  refine ⟨?_, ?_, ?_, ?_, ?_, fun k hk => ?_⟩
  · rw [Machine.modGroup, setGroup, h.frame]
  · rw [getGroup_modGroup_same, hfifo, h.fifo]
  · rw [getGroup_modGroup_same, hunits, h.units]
  · rw [getGroup_modGroup_same]
  · rw [getGroup_modGroup_same, hoffers, h.offers]
  · rw [getGroup_modGroup_other hk, h.others k hk]

end

/-- A record is taken where the sequencer may take one, no word of the FIFO is in error and no fence stands. -/
theorem takeCmd_takes {n : Nat} {want : List Byte → Bool} {op : List Byte → State → State} {r : List Byte}
    {rest : List (List Byte)} {s : State} (hq : (getGroup s n).fifo = r :: rest) (hr : seqReady s n = true)
    (hs : seqStepFree s n = true) (hf : s.twn.fenced = false) (hc : s.bpm.sramChk = []) (hw : want r = true) :
    takeCmd n want op s = op r (recordTaken n rest s) := by
  have hfence : (recordTaken n rest s).twn.fenced = false := hf
  unfold takeCmd
  rw [hq]
  simp [hr, hs, hf, hw, useStore_clean hc, recordTaken]

/-! ### Completion (R312, Table 14.5) -/

/-- The completion record of the command record `r`. -/
def recordCpl (g : Grp) (r : List Byte) (opc : Byte) (st : Status) (res : W64) (ftime : W64) : Cpl :=
  { kind := 1, status := st, group := g, opcode := opc, tag := recTag r, pass := 0, btag := 0, result := res,
    ftime := ftime }

/-- `t` is `s` after the record `r` was taken and completed: the statement's own predicate. -/
def Completes (g : Grp) (r : List Byte) (rest : List (List Byte)) (s t : State) (opc : Byte) (st : Status) (res : W64)
    (dbg : DbgSt) (bufs : Map Buf) : Prop :=
  t = { s with groups := t.groups, dbg := dbg, host := { s.host with
    cplHigh := t.host.cplHigh
    cplq := if recQuiet r = true ∧ st = .ok then s.host.cplq else
      s.host.cplq ++ [recordCpl g r opc st res s.time.ftc] } } ∧
  (getGroup t g.toNat).fifo = rest ∧ (getGroup t g.toNat).units = (getGroup s g.toNat).units ∧
  (getGroup t g.toNat).bufs = bufs ∧ (getGroup t g.toNat).offers = (getGroup s g.toNat).offers ∧
  ∀ k, k ≠ g.toNat → getGroup t k = getGroup s k

section
variable {g : Grp} {r : List Byte} {rest : List (List Byte)} {s t : State} {st : Status} {res : W64} {dbg : DbgSt}
  {bufs : Map Buf}

theorem completeSeq_quiet {n opc : Nat} {tag : BitVec 24} : completeSeq n opc tag true .ok res t = t := by
  simp [completeSeq]

theorem pushCpl_room {c : Cpl} (hroom : t.host.cplq.length < 4096) : pushCpl c t = (true, { t with host := { t.host with
    cplq := t.host.cplq ++ [{ c with ftime := t.time.ftc }]
    cplHigh := max t.host.cplHigh (t.host.cplq ++ [{ c with ftime := t.time.ftc }]).length } }) := if_pos hroom

/-- With room in the queue a completion is written there. -/
theorem completeSeq_queued {n opc : Nat} {tag : BitVec 24} {quiet : Bool} (hq : ¬ (quiet = true ∧ st = .ok))
    (hroom : t.host.cplq.length < 4096) :
    completeSeq n opc tag quiet st res t = (pushCpl (mkCpl n opc tag st res) t).2 := by
  have hfull : (pushCpl (mkCpl n opc tag st res) t).1 = true := by rw [pushCpl_room hroom]
  simp only [completeSeq, hfull, if_true]
  exact if_neg (by simpa using hq)

theorem mkCpl_stamped (opc : Nat) (ftime : W64) : { mkCpl g.toNat opc (recTag r) st res with ftime := ftime } =
    recordCpl g r (BitVec.ofNat 8 opc) st res ftime := by
  simp [mkCpl, recordCpl]

/-- Once a record's operation is done it completes, where the completion queue has room. -/
theorem RecordDone.completes (h : RecordDone g.toNat rest s dbg bufs t) (hroom : s.host.cplq.length < 4096) (opc : Nat) :
    Completes g r rest s (completeSeq g.toNat opc (recTag r) (recQuiet r) st res t) (BitVec.ofNat 8 opc) st res dbg
      bufs := by
  obtain ⟨hframe, hfifo, hunits, hbufs, hoffers, hothers⟩ := h
  have hroom' : t.host.cplq.length < 4096 := by rwa [hframe]
  obtain ⟨gs, rfl⟩ : ∃ gs, t = { s with groups := gs, dbg := dbg } := ⟨_, hframe⟩
  by_cases hq : recQuiet r = true ∧ st = .ok
  · rw [hq.1, hq.2, completeSeq_quiet]
    refine ⟨?_, hfifo, hunits, hbufs, hoffers, hothers⟩
    rw [if_pos ⟨hq.1, rfl⟩]
  · rw [completeSeq_queued hq hroom']
    refine ⟨?_, ?_⟩
    · rw [if_neg hq, ← mkCpl_stamped, pushCpl_room hroom']
    · simp only [getGroup_congr (pushCpl_groups _ _)]
      exact ⟨hfifo, hunits, hbufs, hoffers, hothers⟩

/-- Whose turn the pools are changes nothing that is stated of a completed record. -/
theorem Completes.poolTurn {opc : Byte} {x : Nat × Nat} (h : Completes g r rest s t opc st res dbg bufs) :
    Completes g r rest s (modGroup t g.toNat fun gr => { gr with poolTurn := x }) opc st res dbg bufs := by
  obtain ⟨hframe, hfifo, hunits, hbufs, hoffers, hothers⟩ := h
  refine ⟨?_, ?_, ?_, ?_, ?_, fun k hk => ?_⟩
  · exact congrArg (fun u : State =>
      { u with groups := (modGroup t g.toNat fun gr => { gr with poolTurn := x }).groups }) hframe
  · rw [getGroup_modGroup_same, hfifo]
  · rw [getGroup_modGroup_same, hunits]
  · rw [getGroup_modGroup_same, hbufs]
  · rw [getGroup_modGroup_same, hoffers]
  · rw [getGroup_modGroup_other hk, hothers k hk]

/-! ### The order of pool operations (R131) -/

/-- An issuer that comes after no higher owner ID in the group's paced step (log entry 97). -/
def InTurn (s : State) (n issuer : Nat) : Prop :=
  s.time.active = false ∨ pacedStep (getGroup s n) (getGroup s n).seqStep ≠ (getGroup s n).poolTurn.1 ∨
    (getGroup s n).poolTurn.2 ≤ issuer

/-- In its turn an operation runs, and at most the turn is noted. -/
theorem seqTurn_inTurn {n issuer : Nat} {op : State → State} (h : InTurn s n issuer) :
    seqTurn n issuer op s = op s ∨ ∃ x, seqTurn n issuer op s = modGroup (op s) n fun gr => { gr with poolTurn := x } := by
  unfold seqTurn inPoolOrder
  dsimp only
  split
  · exact .inl rfl
  · next hview =>
    have hactive : ¬ s.time.active = false := fun hoff => hview (.inl (by simp [hoff]))
    rw [if_neg]
    · exact .inr ⟨_, rfl⟩
    · rintro ⟨hstep, hlt⟩
      rcases h with hoff | hne | hle
      · exact hactive hoff
      · exact hne hstep
      · exact Nat.not_lt.mpr hle hlt

end

/-! ### A record from the FIFO to its completion -/

/-- The state a POOL record leaves. -/
def poolRecordEnd (g : Grp) (k : Nat) (op : BitVec 16 → List Byte → State → Status × W64 × State) (s : State) : State :=
  seqTurn g.toNat (headIssuer s g.toNat) (takeCmd g.toNat (isPool k) (poolCmd g.toNat op)) s

/-- What lets the sequencer of a group take the record `r` at the head of its FIFO and complete it. -/
structure RecordReady (g : Grp) (r : List Byte) (rest : List (List Byte)) (s : State) : Prop where
  head : (getGroup s g.toNat).fifo = r :: rest
  ready : seqReady s g.toNat = true
  step : seqStepFree s g.toNat = true
  noFence : s.twn.fenced = false
  room : s.host.cplq.length < 4096
  clean : s.bpm.sramChk = []

section
variable {g : Grp} {r : List Byte} {rest : List (List Byte)} {s t : State} {st : Status} {res : W64} {dbg : DbgSt}
  {bufs : Map Buf}

theorem takeCmd_ready {want : List Byte → Bool} {op : List Byte → State → State} (h : RecordReady g r rest s)
    (hw : want r = true) : takeCmd g.toNat want op s = op r (recordTaken g.toNat rest s) :=
  takeCmd_takes h.head h.ready h.step h.noFence h.clean hw

theorem headIssuer_pool {k : Nat} (hq : (getGroup s g.toNat).fifo = r :: rest) (hk : isPool k r = true) :
    headIssuer s g.toNat = (poolIssuer r).toNat := by
  have h4 : isOp 4 r = false := by
    simp only [isPool, isOp, Bool.and_eq_true, beq_iff_eq] at hk
    rw [isOp, hk.1]
    rfl
  simp [headIssuer, hq, h4]

/-- A POOL record in its turn is taken, its operation done, and completed with the operation's status and result. -/
theorem poolRecord_completes {k : Nat} {op : BitVec 16 → List Byte → State → Status × W64 × State}
    (h : RecordReady g r rest s) (hk : isPool k r = true) (ht : InTurn s g.toNat (poolIssuer r).toNat)
    (ho : ownerValid (poolIssuer r) = true) (hop : op (poolIssuer r) r (recordTaken g.toNat rest s) = (st, res, t))
    (hdone : RecordDone g.toNat rest s dbg bufs t) :
    Completes g r rest s (poolRecordEnd g k op s) 3 st res dbg bufs := by
  have hcmd : takeCmd g.toNat (isPool k) (poolCmd g.toNat op) s =
      completeSeq g.toNat 3 (recTag r) (recQuiet r) st res t := by
    rw [takeCmd_ready h hk, poolCmd, if_pos ho, hop]
  have hcompletes := hdone.completes (r := r) (st := st) (res := res) h.room 3
  rw [poolRecordEnd, headIssuer_pool h.head hk]
  rcases seqTurn_inTurn (op := takeCmd g.toNat (isPool k) (poolCmd g.toNat op)) ht with hrun | ⟨x, hrun⟩
  · rw [hrun, hcmd]
    exact hcompletes
  · rw [hrun, hcmd]
    exact hcompletes.poolTurn

/-! ### The operations (Table 5.1) -/

theorem RecordDone.getBuf (h : RecordDone g.toNat rest s dbg bufs t) (a : Nat) :
    getBuf t g.toNat a = Map.get? bufs a := by
  rw [Machine.getBuf, h.bufs]

theorem RecordDone.setBuf (h : RecordDone g.toNat rest s dbg bufs t) (a : Nat) (b : Buf) :
    RecordDone g.toNat rest s dbg (Map.set bufs a b) (setBuf g.toNat a b t) :=
  h.bufs ▸ h.modGroup (f := fun gr => { gr with bufs := Map.set gr.bufs a b }) fun _ => ⟨rfl, rfl, rfl⟩

theorem RecordDone.freeBuf (h : RecordDone g.toNat rest s dbg bufs t) (a : Nat) :
    RecordDone g.toNat rest s dbg (Map.erase bufs a) (freeBuf g.toNat a t) :=
  h.bufs ▸ h.modGroup (f := fun gr => { gr with bufs := Map.erase gr.bufs a }) fun _ => ⟨rfl, rfl, rfl⟩

/-- A count depends on the registers, the time and the counters alone. -/
theorem count_setGroups (b i k : Nat) (gs : Map GroupSt) (s : State) :
    count b i k { s with groups := gs } = { count b i k s with groups := gs } := by
  have hreg : reg { s with groups := gs } Reg.dbgEnable = reg s Reg.dbgEnable := rfl
  unfold count countN
  rw [hreg]
  (repeat' split) <;> rfl

theorem RecordDone.count (h : RecordDone g.toNat rest s s.dbg bufs t) (b i k : Nat) :
    RecordDone g.toNat rest s (count b i k s).dbg bufs (count b i k t) := by
  obtain ⟨hframe, hfifo, hunits, hbufs, hoffers, hothers⟩ := h
  have hgroups (j : Nat) : getGroup (Machine.count b i k t) j = getGroup t j := getGroup_congr (count_groups b i k t) j
  refine ⟨?_, ?_, ?_, ?_, ?_, fun j hj => ?_⟩
  · obtain ⟨gs, rfl⟩ : ∃ gs, t = { s with groups := gs } := ⟨_, hframe⟩
    rw [count_setGroups, count_eq b i k s]
  · rw [hgroups, hfifo]
  · rw [hgroups, hunits]
  · rw [hgroups, hbufs]
  · rw [hgroups, hoffers]
  · rw [hgroups, hothers j hj]

/-- An operation on the buffer a handle names: denied where the handle names no buffer taken. -/
def onHeld (n a : Nat) (s : State) (f : Buf → Status × State) : Status × W64 × State :=
  match handleOk s n a, getBuf s n a with
  | true, some b => ((f b).1, 0, (f b).2)
  | _, _ => (.freeDenied, 0, s)

theorem onHeld_held {n a : Nat} {b : Buf} {f : Buf → Status × State} (ho : handleOk s n a = true)
    (hb : getBuf s n a = some b) (hf : f b = (st, t)) : onHeld n a s f = (st, 0, t) := by
  simp only [onHeld, ho, hb, hf]

theorem onHeld_unheld {n a : Nat} {f : Buf → Status × State} (h : handleOk s n a = false ∨ getBuf s n a = none) :
    onHeld n a s f = (.freeDenied, 0, s) := by
  unfold onHeld
  split
  · next hok hbuf => simp [hok, hbuf] at h
  · rfl

/-- Each of SHARE, HANDOFF, DROP and FREE is an operation on the buffer its handle names. -/
theorem poolShareOp_eq (n : Nat) (o : BitVec 16) : poolShareOp n o r s = onHeld n (recFld r 12 4) s fun b =>
    if b.share < 65535 then (.ok, setBuf n (recFld r 12 4) { b with share := b.share + 1 } s)
    else (.poolExhausted, s) := by
  unfold poolShareOp poolShare onHeld
  cases handleOk s n (recFld r 12 4) <;> cases getBuf s n (recFld r 12 4) <;> rfl

theorem poolHandoffOp_eq (n : Nat) (o : BitVec 16) : poolHandoffOp n o r s = onHeld n (recFld r 12 4) s fun b =>
    if b.owner = o ∧ ownerValid (BitVec.ofNat 16 (recFld r 16 2)) then
      (.ok, setBuf n (recFld r 12 4) { b with owner := BitVec.ofNat 16 (recFld r 16 2) } s)
    else (.freeDenied, s) := by
  unfold poolHandoffOp poolHandoff onHeld
  cases handleOk s n (recFld r 12 4) <;> cases getBuf s n (recFld r 12 4) <;> rfl

theorem poolDropOp_eq (n : Nat) (o : BitVec 16) : poolDropOp n o r s = onHeld n (recFld r 12 4) s fun b =>
    if b.owner ≠ o ∧ 2 ≤ b.share then (.ok, setBuf n (recFld r 12 4) { b with share := b.share - 1 } s)
    else (.freeDenied, s) := by
  unfold poolDropOp poolDrop onHeld
  cases handleOk s n (recFld r 12 4) <;> cases getBuf s n (recFld r 12 4) <;> rfl

theorem poolFreeOp_eq (n : Nat) (o : BitVec 16) : poolFreeOp n o r s = onHeld n (recFld r 12 4) s fun b =>
    if b.owner = o ∧ b.share = 1 then (.ok, freeBuf n (recFld r 12 4) s) else (.freeDenied, s) := by
  unfold poolFreeOp poolFree onHeld
  cases handleOk s n (recFld r 12 4) <;> cases getBuf s n (recFld r 12 4) <;> rfl

end

/-! ### ALLOC (R130) -/

/-- Of the indices from `lo` on, the first at which the function has a value. -/
theorem findSome?_filter_range {α : Type} {f : Nat → Option α} {lo n p : Nat} {a : α} (hlo : lo ≤ p) (hp : p < n)
    (hf : f p = some a) (hnone : ∀ q, lo ≤ q → q < p → f q = none) :
    ((List.range n).filter fun q => decide (lo ≤ q)).findSome? f = some a := by
  induction n with
  | zero => cases hp
  | succ n ih =>
    rw [List.range_succ, List.filter_append, List.findSome?_append]
    rcases Nat.lt_succ_iff_lt_or_eq.mp hp with hlt | rfl
    · rw [ih hlt, Option.some_or]
    · have hbelow : ((List.range p).filter fun q => decide (lo ≤ q)).findSome? f = none := by
        rw [List.findSome?_eq_none_iff]
        intro q hq
        obtain ⟨hlt, hle⟩ := List.mem_filter.mp hq
        exact hnone q (of_decide_eq_true hle) (List.mem_range.mp hlt)
      simp [hbelow, hlo, hf]

/-- The lowest free index of a pool of the group. -/
def lowestFreeIn (n p : Nat) (s : State) : Option Nat :=
  lowestFree (getGroup s n).bufs n p (poolCount s n p) ((getGroup s n).bufs.length + 1) 0

theorem freeHandle_eq_some {n bytes p i : Nat} {s : State} (hp : fitPool bytes ≤ p) (h6 : p < 6)
    (hi : lowestFreeIn n p s = some i) (hnone : ∀ q, fitPool bytes ≤ q → q < p → lowestFreeIn n q s = none) :
    freeHandle n bytes s = some (mkHandle n p i) := by
  refine findSome?_filter_range hp h6 ?_ fun q hlo hq => ?_
  · exact congrArg (Option.map (mkHandle n p)) hi
  · exact congrArg (Option.map (mkHandle n q)) (hnone q hlo hq)

theorem freeHandle_eq_none {n bytes : Nat} {s : State}
    (hnone : ∀ q, fitPool bytes ≤ q → q < 6 → lowestFreeIn n q s = none) : freeHandle n bytes s = none := by
  refine List.findSome?_eq_none_iff.mpr fun q hq => ?_
  obtain ⟨h6, hlo⟩ := List.mem_filter.mp hq
  exact congrArg (Option.map (mkHandle n q)) (hnone q (of_decide_eq_true hlo) (List.mem_range.mp h6))

section
variable {n : Nat} {o : BitVec 16} {r : List Byte} {s : State}

theorem poolAllocOp_taken {a : Nat} (h0 : 0 < recFld r 12 4) (h1 : recFld r 12 4 ≤ 262144)
    (ha : freeHandle n (recFld r 12 4) s = some a) :
    poolAllocOp n o r s = (.ok, bv64 a, takeBuffer n a o (countUpsize n (recFld r 12 4) a s)) := by
  simp [poolAllocOp, poolAlloc, Nat.ne_of_gt h0, Nat.not_lt.mpr h1, ha]

theorem poolAllocOp_exhausted (h0 : 0 < recFld r 12 4) (h1 : recFld r 12 4 ≤ 262144)
    (ha : freeHandle n (recFld r 12 4) s = none) : poolAllocOp n o r s = (.poolExhausted, 0, s) := by
  simp [poolAllocOp, poolAlloc, Nat.ne_of_gt h0, Nat.not_lt.mpr h1, ha]

theorem poolAllocOp_outOfRange (h : recFld r 12 4 = 0 ∨ 262144 < recFld r 12 4) :
    poolAllocOp n o r s = (.poolExhausted, 0, count 5 1 n s) := by
  simp [poolAllocOp, poolAlloc, h]

end

theorem takeBuffer_clean {n a : Nat} {o : BitVec 16} {s : State} (h : s.bpm.sramChk = []) :
    takeBuffer n a o s = setBuf n a { share := 1, owner := o, tile := none } s := writeSram_clean h

/-! ### A record of each outcome -/

section
variable {g : Grp} {r : List Byte} {rest : List (List Byte)} {s : State} {k : Nat}
  {op : BitVec 16 → List Byte → State → Status × W64 × State} {f : State → Buf → Status × State}

/-- A record that names a buffer taken is carried out where Table 5.1 lets it, and otherwise changes none. -/
theorem heldRecord_completes {c : Prop} [Decidable c] {st : Status} {b : Buf} {bufs : Map Buf} {t : State}
    (h : RecordReady g r rest s) (ht : InTurn s g.toNat (poolIssuer r).toNat) (ho : ownerValid (poolIssuer r) = true)
    (hok : handleOk s g.toNat (recFld r 12 4) = true) (hb : getBuf s g.toNat (recFld r 12 4) = some b)
    (hk : isPool k r = true) (hop : ∀ t, op (poolIssuer r) r t = onHeld g.toNat (recFld r 12 4) t (f t))
    (hf : f (recordTaken g.toNat rest s) b = if c then (.ok, t) else (st, recordTaken g.toNat rest s))
    (hdone : RecordDone g.toNat rest s s.dbg bufs t) :
    if c then Completes g r rest s (poolRecordEnd g k op s) 3 .ok 0 s.dbg bufs
    else Completes g r rest s (poolRecordEnd g k op s) 3 st 0 s.dbg (getGroup s g.toNat).bufs := by
  have hheld : getBuf (recordTaken g.toNat rest s) g.toNat (recFld r 12 4) = some b := by
    rw [recordTaken_done.getBuf]
    exact hb
  split
  · next hc =>
    rw [if_pos hc] at hf
    exact poolRecord_completes h hk ht ho ((hop _).trans (onHeld_held hok hheld hf)) hdone
  · next hc =>
    rw [if_neg hc] at hf
    exact poolRecord_completes h hk ht ho ((hop _).trans (onHeld_held hok hheld hf)) recordTaken_done

/-- A record whose handle names no buffer taken is denied and changes none. -/
theorem unheldRecord_completes (h : RecordReady g r rest s) (ht : InTurn s g.toNat (poolIssuer r).toNat)
    (ho : ownerValid (poolIssuer r) = true)
    (hnone : handleOk s g.toNat (recFld r 12 4) = false ∨ getBuf s g.toNat (recFld r 12 4) = none)
    (hk : isPool k r = true) (hop : ∀ t, op (poolIssuer r) r t = onHeld g.toNat (recFld r 12 4) t (f t)) :
    Completes g r rest s (poolRecordEnd g k op s) 3 .freeDenied 0 s.dbg (getGroup s g.toNat).bufs := by
  have hunheld : handleOk (recordTaken g.toNat rest s) g.toNat (recFld r 12 4) = false ∨
      getBuf (recordTaken g.toNat rest s) g.toNat (recFld r 12 4) = none := by
    rw [recordTaken_done.getBuf]
    exact hnone
  exact poolRecord_completes h hk ht ho ((hop _).trans (onHeld_unheld hunheld)) recordTaken_done

/-- The buffer an ALLOC took, with what is counted of it. -/
theorem allocTaken_done {a : Nat} {o : BitVec 16} (hc : s.bpm.sramChk = []) :
    RecordDone g.toNat rest s
      (if handlePool a = fitPool (recFld r 12 4) then s.dbg
       else (count 5 0 (8 * g.toNat + fitPool (recFld r 12 4)) s).dbg)
      (Map.set (getGroup s g.toNat).bufs a { share := 1, owner := o, tile := none })
      (takeBuffer g.toNat a o (countUpsize g.toNat (recFld r 12 4) a (recordTaken g.toNat rest s))) := by
  have hclean : (recordTaken g.toNat rest s).bpm.sramChk = [] := hc
  unfold countUpsize
  split
  · rw [takeBuffer_clean hclean]
    exact recordTaken_done.setBuf a _
  · rw [takeBuffer_clean (by rw [count_bpm]; exact hclean)]
    exact (recordTaken_done.count ..).setBuf a _

theorem lowestFreeIn_recordTaken (p : Nat) :
    lowestFreeIn g.toNat p (recordTaken g.toNat rest s) = lowestFreeIn g.toNat p s := by
  rw [lowestFreeIn, recordTaken_done.bufs]
  rfl

end

/-- Settles O26: the record is taken, its operation leaves the group's units and offers, and one completion follows. -/
theorem poolRecordsRun : Obligations.PoolRecordsRun := by
  unfold Obligations.PoolRecordsRun
  intro g r rest s hq hr hs hfence hroom hc n o h gr inTurn completes
  have hready : RecordReady g r rest s := ⟨hq, hr, hs, hfence, hroom, hc⟩
  refine ⟨?nop, ?alloc, ?held, ?unheld⟩
  case nop =>
    intro hk
    refine ⟨_, congrArg Host.Outcome.next (takeCmd_ready hready hk), ?_⟩
    exact recordTaken_done.completes hroom 5
  case alloc =>
    intro hk ht ho free
    refine ⟨fun p i h0 h1 hp h6 hi hnone hpool => ?_, fun h0 h1 hnone => ?_, fun hrange => ?_⟩
    · have hfree : freeHandle n h (recordTaken n rest s) = some (mkHandle n p i) :=
        freeHandle_eq_some hp h6 ((lowestFreeIn_recordTaken p).trans hi) fun q hlo hlt =>
          (lowestFreeIn_recordTaken q).trans (hnone q hlo hlt)
      have hdone := allocTaken_done (g := g) (r := r) (rest := rest) (a := mkHandle n p i) (o := o) hc
      rw [hpool] at hdone
      exact ⟨_, rfl, poolRecord_completes hready hk ht ho (poolAllocOp_taken h0 h1 hfree) hdone⟩
    · have hfree : freeHandle n h (recordTaken n rest s) = none :=
        freeHandle_eq_none fun q hlo h6 => (lowestFreeIn_recordTaken q).trans (hnone q hlo h6)
      exact ⟨_, rfl, poolRecord_completes hready hk ht ho (poolAllocOp_exhausted h0 h1 hfree) recordTaken_done⟩
    · exact ⟨_, rfl, poolRecord_completes hready hk ht ho (poolAllocOp_outOfRange hrange) (recordTaken_done.count ..)⟩
  case held =>
    intro b ht ho hok hb taker
    refine ⟨fun hk => ⟨_, rfl, ?_⟩, fun hk => ⟨_, rfl, ?_⟩, fun hk => ⟨_, rfl, ?_⟩, fun hk => ⟨_, rfl, ?_⟩⟩
    · exact heldRecord_completes hready ht ho hok hb hk (fun _ => poolShareOp_eq n o) rfl (recordTaken_done.setBuf ..)
    · exact heldRecord_completes hready ht ho hok hb hk (fun _ => poolHandoffOp_eq n o) rfl (recordTaken_done.setBuf ..)
    · exact heldRecord_completes hready ht ho hok hb hk (fun _ => poolDropOp_eq n o) rfl (recordTaken_done.setBuf ..)
    · exact heldRecord_completes hready ht ho hok hb hk (fun _ => poolFreeOp_eq n o) rfl (recordTaken_done.freeBuf ..)
  case unheld =>
    intro ht ho hnone k c hc hk
    simp only [List.mem_cons, List.not_mem_nil, or_false, Prod.mk.injEq] at hc
    rcases hc with ⟨rfl, rfl⟩ | ⟨rfl, rfl⟩ | ⟨rfl, rfl⟩ | ⟨rfl, rfl⟩
    · exact ⟨_, rfl, unheldRecord_completes hready ht ho hnone hk fun _ => poolShareOp_eq n o⟩
    · exact ⟨_, rfl, unheldRecord_completes hready ht ho hnone hk fun _ => poolHandoffOp_eq n o⟩
    · exact ⟨_, rfl, unheldRecord_completes hready ht ho hnone hk fun _ => poolDropOp_eq n o⟩
    · exact ⟨_, rfl, unheldRecord_completes hready ht ho hnone hk fun _ => poolFreeOp_eq n o⟩

end Sys2Proof.Machine
end

section
/-! INVOKE, HOLD and OPERAND (R147, R237, R311). The statement asks for SRAM with no word in error for the commands, and
leaves that premise out for the release of a hold: a tally whose word of table SRAM is uncorrectable is lost as the
release reads it (R122). -/

namespace Sys2Proof.Machine

open Sys2Proof

/-! ### A tally with an uncorrectable word -/

theorem writeSram_groups_ctx (ob : SramObj) (lo n : Nat) (s : State) :
    (writeSram ob lo n s).groups = s.groups ∧ (writeSram ob lo n s).ctx = s.ctx := by
  unfold writeSram
  split <;> exact ⟨rfl, rfl⟩

theorem SramObj.index_first (ob : SramObj) (lo : Nat) {n : Nat} (hn : 0 < n) :
    (ob.index lo n (ob.word lo)).isSome = true :=
  List.find?_isSome.mpr ⟨0, List.mem_range.mpr hn, beq_self_eq_true (ob.word lo)⟩

/-- Where the first word read is the only one marked, and is beyond correction, it is found and logged. -/
theorem readSram_bad {reader unit lo n : Nat} {tag : Option (BitVec 24)} {ob : SramObj} {dl : BitVec 16} {s : State}
    (hs : s.bpm.sramChk = [(ob.word lo, dl)]) (hn : 0 < n) (hb : badSyndrome dl = true) :
    readSram reader unit tag ob lo n s = ([sramAddr (ob.word lo)],
      logEv 0x0011 2 unit tag [0, sramAddr (ob.word lo), reader] s) := by
  simp [readSram, takeSram, hs, ob.index_first lo hn, hb, Map.get?]

theorem objectLost_recordsOnly (kind n : Nat) (s : State) : RecordsOnly s (objectLost kind n s) := by
  unfold objectLost
  split
  · split
    · exact .refl s
    · exact RecordsOnly.trans ⟨_, _, _, rfl⟩ (mirrorPush_recordsOnly ..)
  · exact (count_recordsOnly ..).trans (logEv_recordsOnly ..)

theorem RecordsOnly.ctx_eq {s t : State} (h : RecordsOnly s t) : t.ctx = s.ctx := by obtain ⟨_, _, _, rfl⟩ := h; rfl

/-- A tally read with its first word beyond correction stands as at reset, and no group has changed (R122). -/
theorem readTally_lost {t : Nat} {dl : BitVec 16} {s : State} (hs : s.bpm.sramChk = [((SramObj.tally t).word 0, dl)])
    (hb : badSyndrome dl = true) (hsorted : Map.sorted s.ctx.tallies = true) :
    (readTally t s).groups = s.groups ∧ getTally (readTally t s) t = TallySt.reset := by
  have hread := readSram_bad (reader := 5) (unit := 0xFF) (tag := none) hs (show 0 < 4 by decide) hb
  simp only [readTally, hread, List.isEmpty_cons, Bool.false_eq_true, if_false]
  refine ⟨?_, ?_⟩
  · rw [(objectLost_recordsOnly ..).groups_eq, (writeSram_groups_ctx ..).1]
    simp
  · rw [getTally, (objectLost_recordsOnly ..).ctx_eq, (writeSram_groups_ctx ..).2]
    refine getTally_setTally_same ?_
    simpa using hsorted

/-! ### A hold that the loss keeps waiting -/

/-- A hold on tally 5 until its generation is 1. -/
def holdForGen1 : HoldSt :=
  { tally := 5, gen := 1, timed := false, ctx := none, tag := 7, quiet := false, metAt := none }

/-- Group 0 runs and its sequencer waits in that hold; tally 5 is at generation 1, its first word poisoned. -/
def heldOnPoisonedTally : State :=
  { State.reset with
    pwr := { PowerSt.reset with state := .active }
    bpm := { BpmSt.reset with sramChk := [((SramObj.tally 5).word 0, 0x1001#16)] }
    ctx := { State.reset.ctx with tallies := [(5, { TallySt.reset with gen := 1 })] }
    groups := [(0, { GroupSt.reset with hold := some holdForGen1 })] }

theorem holdRelease_poisonedTally : (holdRelease 0 heldOnPoisonedTally).groups = heldOnPoisonedTally.groups := by
  obtain ⟨hgroups, hreset⟩ := readTally_lost (t := 5) (s := heldOnPoisonedTally) rfl (by decide) rfl
  have hruns : groupRuns heldOnPoisonedTally 0 = true := rfl
  have hhold : (getGroup heldOnPoisonedTally 0).hold = some holdForGen1 := rfl
  have hcpl : (getGroup heldOnPoisonedTally 0).seqCpl = none := rfl
  have hunmet : holdMet (readTally 5 heldOnPoisonedTally) holdForGen1 = false := by
    rw [holdMet, show holdForGen1.tally = 5 from rfl, hreset]
    rfl
  have hwaits : holdRelease 0 heldOnPoisonedTally = readTally 5 heldOnPoisonedTally := by
    simp [holdRelease, hhold, hruns, hcpl, hunmet, show holdForGen1.tally = 5 from rfl]
  rw [hwaits, hgroups]

/-- Refutes O27: its part on the release of a hold does not ask for SRAM free of errors. Group 0 waits for generation 1
of tally 5, which has it, but whose word is poisoned: the release reads the tally, which is lost and stands at
generation 0, and the hold goes on. -/
theorem not_sequencerCommandsRun : ¬ Obligations.SequencerCommandsRun := by
  unfold Obligations.SequencerCommandsRun
  rintro ⟨-, hrelease⟩
  have hreached : ((getTally heldOnPoisonedTally 5).gen - holdForGen1.gen).toNat < 32768 := by decide
  obtain ⟨-, hends⟩ := hrelease 0 holdForGen1 heldOnPoisonedTally rfl rfl rfl hreached
  obtain ⟨t, hexec, hnone, -⟩ := hends (.inl rfl) rfl (by decide)
  have ht : holdRelease 0 heldOnPoisonedTally = t := Host.Outcome.next.inj hexec
  have hstill : (getGroup t 0).hold = some holdForGen1 := by
    rw [← ht, getGroup_congr holdRelease_poisonedTally]
    rfl
  exact absurd (hstill.symm.trans hnone) (by decide)

end Sys2Proof.Machine
end

section
/-! An invocation's life (R171, R246). The statement asks for SRAM with no word in error and for nothing of HBM4, where
the placement lies: a placed SEND that looks up an entry whose word is poisoned has that entry read as invalid from then
on (R122, R246), so that the register of the entry changes. -/

namespace Sys2Proof.Machine

open Sys2Proof

/-- A tile whose AUX names layer table 0 and expert 0. -/
def placedTile : Tile := { blankTile with hver := 1, format := 5, rows := 1, cols := 16 }

/-- An invocation that names no context and no tally. -/
def plainInvoc : Invoc :=
  { unit := 0, prog := 0, replaySel := false, count := 0, tag := 7, context := 0x7FFF, doneTally := 0x3FFF,
    startTick := 0, reached := 0, triggered := false, quiet := false, atStep := 0 }

/-- An ended run with one placed SEND (route bit 37), of the tile in buffer 0. -/
def placedSendRun : Run :=
  { inv := plainInvoc, passes := 1, pass := 0, bundle := 0, word := 0, params := [], treg := [], acc := [],
    emits := [(0, .send 0 0x2000000000#64)], signals := [], overlay := [], outs := [], takenA := 0, takenB := 0,
    nextSeqs := [], sctr := [], invocNo := 1, btag := 0, cost := 1, ended := true, doneAt := some 0, doomed := false }

/-- Unit 0 of group 0 has that run to commit. The placement of layer table 0, which has one expert, lies at the bottom
of HBM4 and is not cached; the word of its valid entry is poisoned. -/
def placementPoisoned : State :=
  { State.reset with
    pwr := { PowerSt.reset with state := .active }
    regs := [(Reg.layer 0 0, 0x100000000#64), (Reg.place 0 0 0, 0x8000000000000000#64)]
    mem := { cells := [], chk := [(0, 0x1001#16)] }
    cord := { CordSt.reset with claims := [(0x21, { runtime := false, resource := 0x20, base := 0, len := 32 })] }
    groups := [(0, { GroupSt.reset with
      bufs := [(0, { share := 1, owner := ownerUnit 0 0, tile := some placedTile })]
      units := [(0, { UnitSt.reset with run := some placedSendRun })] })] }

/-- The commit runs, and the entry's register has gone back to 0, its reset value. -/
theorem invocationCommit_placementPoisoned :
    (unitTurn 0 0 (invocationCommit 0 0) placementPoisoned).regs = [(Reg.layer 0 0, 0x100000000#64)] := by
  rfl

/-- Refutes O32: a commit with nothing for NEXT need not leave the registers as they were. The run of unit 0 commits a
placed SEND whose placement entry has a poisoned word in HBM4: the look-up takes the entry for invalid and clears it. -/
theorem not_invocationsRun : ¬ Obligations.InvocationsRun := by
  unfold Obligations.InvocationsRun
  intro h
  have hruns : groupRuns placementPoisoned 0 = true := rfl
  have hstep : stepFree placementPoisoned 0 (getUnit placementPoisoned 0 0).lastStep = true := rfl
  have hrun : (getUnit placementPoisoned 0 0).run = some placedSendRun := rfl
  have halive : runDead placementPoisoned placedSendRun = false := rfl
  have hready : ctxReady placementPoisoned placedSendRun = true := rfl
  have hnexts : nextsOf placedSendRun = [] := rfl
  have hchecks : commitFault placementPoisoned 0 0 (nextsOf placedSendRun) = none := rfl
  have hfree : writesFree 0 placedSendRun placementPoisoned = true := rfl
  obtain ⟨-, -, hcommit⟩ := h 0 0 placementPoisoned (by decide) hruns rfl hstep
  obtain ⟨-, hcommits⟩ := hcommit placedSendRun (.inl rfl) hrun rfl
  obtain ⟨hout, -, -⟩ := hcommits halive hready hchecks
  obtain ⟨t, hexec, -, -, -, -, -, -, hregs⟩ := hout (.inl hnexts) hfree
  have ht : unitTurn 0 0 (invocationCommit 0 0) placementPoisoned = t := Host.Outcome.next.inj hexec
  have hchanged : t.regs ≠ placementPoisoned.regs := by
    rw [← ht, invocationCommit_placementPoisoned]
    decide
  exact hchanged hregs

end Sys2Proof.Machine
end

section
/-! The program store (R163-R165). The statement leaves open whether a word of SRAM is in error (R27), and asks that a
LOAD change nothing but its group and the status: but a LOAD writes the program's words anew, and so clears a mark that
stood on one of them (log entry 74). -/

namespace Sys2Proof.Machine

open Sys2Proof

/-- Writing a thing's words clears the only mark in SRAM, where that mark is on the first of them. -/
theorem writeSram_clears_only_mark {ob : SramObj} {lo n : Nat} {dl : BitVec 16} {s : State}
    (hs : s.bpm.sramChk = [(ob.word lo, dl)]) (hn : 0 < n) : (writeSram ob lo n s).bpm.sramChk = [] := by
  have hfound : (ob.index lo n (ob.word lo)).isSome = true := ob.index_first lo hn
  simp [writeSram, hs, hfound, Map.keep, ← Option.not_isSome]

/-- A LOAD that passes its checks leaves SRAM as the writing of the program's words leaves it. -/
theorem programLoad_bpm {g : Nat} {v : W64} {pr : Prog} {s : State}
    (h : loadCheck s g (fld v 5 0) (fld v 19 16) (fld v 44 24) = .ok pr) :
    (programLoad g v s).2.bpm =
      (writeSram (.store .program (64 * g + fld v 5 0)) 0 ((pr.words.length + 1) / 2) s).bpm := by
  simp only [programLoad, h]
  rfl

/-- A program of one bundle without slots: the header of the bundle says that it is the last. -/
def headerOnly : Prog := { unit := 0, tagHi := 0, addr := 0, bundles := 1, words := [0x80] }

/-- A cord that gives unit 0 of group 0 the first KiB of the program store. -/
def storeCord : CordCfg :=
  { serial := 0, widths := [], ethMaps := [], oMb := 0, hMb := 0, tMb := 0, slotTables := 0, pinEntries := 0,
    windows := 0, sprayCounters := 0, placeCache := 0, pools := [], unitRecs := [(0, 0, 1)], pipelines := [],
    bindings := [], enables := 0 }

/-- The firmware runs under that cord and no fence stands. The image of `headerOnly` lies at address 0 of group 0's
store; of the words that hold program 0 the first is marked as differing in one bit from a good one. -/
def markedProgramStore : State :=
  { State.reset with
    pwr := { PowerSt.reset with porst := true }
    mss := { MssSt.reset with romOnly := false }
    cord := { CordSt.reset with cfg := some storeCord }
    bpm := { BpmSt.reset with sramChk := [((SramObj.store .program 0).word 0, 1#16)] }
    groups := [(0, { GroupSt.reset with pstore := [(0, 1), (4, 1), (8, 1), (16, 0x80)] })] }

theorem loadCheck_markedProgramStore : loadCheck markedProgramStore 0 0 0 0 = .ok headerOnly := rfl

/-- Refutes O29: a LOAD that passes its checks may change more than the group and the status. The first word of
program 0's place in SRAM is marked; the LOAD of program 0 writes it, and the mark is gone. -/
theorem not_programsAreLoaded : ¬ Obligations.ProgramsAreLoaded := by
  unfold Obligations.ProgramsAreLoaded
  intro h
  obtain ⟨-, hload, -⟩ := h 0 markedProgramStore rfl rfl rfl
  obtain ⟨t, hexec, hframe, -⟩ := hload 0 headerOnly loadCheck_markedProgramStore
  have ht : withStatus (programLoad 0 0 markedProgramStore).2 (programLoad 0 0 markedProgramStore).1 = t :=
    Host.Outcome.next.inj hexec
  have hcleared : t.bpm.sramChk = [] := by
    rw [← ht]
    exact (congrArg BpmSt.sramChk (programLoad_bpm (v := 0) loadCheck_markedProgramStore)).trans
      (writeSram_clears_only_mark rfl (by decide))
  have hkept : t.bpm.sramChk = [((SramObj.store .program 0).word 0, 1#16)] := by rw [hframe]; rfl
  exact List.cons_ne_nil _ _ (hkept.symm.trans hcleared)

end Sys2Proof.Machine
end

section
/-! A program's parameters and its replay count (R174, Tables 7.14 and 7.17): the registers of a group's station block
that show them, and the writes that replace them. -/

namespace Sys2Proof.Machine

open Sys2Proof

/-! ### The registers of a group's station block -/

/-- A register array read at one of its registers gives that register. -/
theorem arrayReg_hit {base step n i : Nat} {f : Nat → W64} {rest : W64} (hstep : 0 < step) (hi : i < n) :
    arrayReg (base + step * i) base step n f rest = f i := by
  have hix : arrayIx (base + step * i) base step n = some i := by
    simp [arrayIx, Nat.mul_div_cancel_left i hstep, hi]
  rw [arrayReg, hix]

/-- A register array read outside its range gives what the rest of the block does. -/
theorem arrayReg_miss {o base step n : Nat} {f : Nat → W64} {rest : W64} (hstep : 0 < step)
    (h : o < base ∨ base + step * n ≤ o) : arrayReg o base step n f rest = rest := by
  have hix : arrayIx o base step n = none := by
    refine if_neg fun ⟨hbase, _, hlt⟩ => ?_
    rw [Nat.div_lt_iff_lt_mul hstep, Nat.mul_comm] at hlt
    omega
  rw [arrayReg, hix]

/-- Offset `o` of group `g`'s part of block 7 is read by the station block's own table (Table 14.12). -/
theorem regRead_station {g o : Nat} (s : State) (hg : g < 16) (ho : o < 0x10000000) (h8 : o % 8 = 0) :
    regRead s (0x700000000 + 0x10000000 * g + o) = readStn s g o := by
  have hblock : (0x700000000 + 0x10000000 * g + o) / 0x100000000 = 7 := by omega
  have hgroup : (0x700000000 + 0x10000000 * g + o) % 0x100000000 / 0x10000000 = g := by omega
  have hoff : (0x700000000 + 0x10000000 * g + o) % 0x100000000 % 0x10000000 = o := by omega
  have halign : ¬ (0x700000000 + 0x10000000 * g + o) % 8 ≠ 0 := by omega
  simp only [regRead, if_neg halign, hblock, hgroup, hoff]

/-- Away from the single registers and from the window on the program store, the station block is its arrays. -/
theorem readStn_arrays {g o : Nat} {s : State} (hlo : 0x100 ≤ o) (hhi : o < 0x00200000) : readStn s g o =
    arrayReg o 0x100 8 12 (stnUnitReg s g)
      (arrayReg o 0x200 8 12 (pshareReg s g)
      (arrayReg o 0x300 8 12 (fun u => reg s (Reg.trigger g u))
      (arrayReg o 0x400 8 64 (progReg s g)
      (arrayReg o 0x600 8 64 (replayReg s g)
      (arrayReg o 0x800 8 12 (fun u => bv64 (getUnit s g u).invoc.toNat)
      (arrayReg o 0x900 8 96 (fun i => seqctrReg s g (i / 8) (i % 8))
      (arrayReg o 0x10000 8 4096 (fun i => paramReg s g (i / 64) (i % 64)) 0))))))) := by
  unfold readStn
  iterate 6 rw [if_neg (by omega)]

theorem regRead_replay {g p : Nat} (s : State) (hg : g < 16) (hp : p < 64) :
    regRead s (0x700000000 + 0x10000000 * g + 0x600 + 8 * p) = replayReg s g p := by
  rw [Nat.add_assoc, regRead_station s hg (by omega) (by omega), readStn_arrays (by omega) (by omega)]
  iterate 4 rw [arrayReg_miss (by decide) (by omega)]
  exact arrayReg_hit (by decide) hp

theorem regRead_param {g p i : Nat} (s : State) (hg : g < 16) (hp : p < 64) (hi : i < 64) :
    regRead s (0x700000000 + 0x10000000 * g + 0x10000 + 8 * (64 * p + i)) = paramReg s g p i := by
  have hprog : (64 * p + i) / 64 = p := by omega
  have hparam : (64 * p + i) % 64 = i := by omega
  rw [Nat.add_assoc, regRead_station s hg (by omega) (by omega), readStn_arrays (by omega) (by omega)]
  iterate 7 rw [arrayReg_miss (by decide) (by omega)]
  rw [arrayReg_hit (by decide) (by omega), hprog, hparam]

/-! ### A write to a program's values (R174) -/

section
variable {g p : Nat} {f : GroupSt → GroupSt} {s : State}

theorem patch_invalid (h : Map.has (getGroup s g).progs p = false) : patch g p f s = (.resourceBound, s) := by
  simp [patch, h]

theorem patch_locked (h : Map.has (getGroup s g).progs p = true) (hm : (getGroup s g).maint = false) :
    patch g p f s = (.paramLocked, s) := by
  simp [patch, h, hm]

theorem patch_allowed (h : Map.has (getGroup s g).progs p = true) (hm : (getGroup s g).maint = true) :
    patch g p f s = (.ok, modGroup s g f) := by
  simp [patch, h, hm]

end

/-- A parameter stored; one that is zero is not listed. -/
def storeParam (m : Map W64) (k : Nat) (v : W64) : Map W64 := if v = 0 then Map.erase m k else Map.set m k v

theorem getD_storeParam_same {m : Map W64} {k : Nat} {v : W64} (h : Map.sorted m = true) :
    Map.getD (storeParam m k v) k 0 = v := by
  unfold storeParam
  split
  · next hv => rw [Map.getD, Map.get?_erase_same h, hv]
  · exact Map.getD_set_same

theorem getD_storeParam_other {m : Map W64} {j k : Nat} {v : W64} (h : j ≠ k) :
    Map.getD (storeParam m k v) j 0 = Map.getD m j 0 := by
  unfold storeParam
  split
  · rw [Map.getD, Map.get?_erase_other h, Map.getD]
  · exact Map.getD_set_other h

theorem paramWrite_eq (g p i : Nat) (v : W64) :
    paramWrite g p i v = patch g p fun gr => { gr with params := storeParam gr.params (paramKey p i) v } := rfl

/-- The low half of a word, as a replay count's register shows it. -/
theorem bv64_ofNat_fld_low (v : W64) : bv64 (BitVec.ofNat 32 (fld v 31 0)).toNat = v &&& 0xFFFFFFFF#64 := by
  rw [toNat_ofNat_fld v 31 0]
  apply BitVec.eq_of_toNat_eq
  rw [bv64, BitVec.toNat_ofNat, BitVec.toNat_and, fld, bits]
  have hmask : v.toNat &&& 0xFFFFFFFF = v.toNat % 2 ^ 32 := Nat.and_two_pow_sub_one_eq_mod v.toNat 32
  simp only [BitVec.toNat_ofNat, Nat.reducePow, Nat.reduceMod, hmask]
  omega

/-- Settles O30: both writes are one patch of the group, and each register reads the value the patch stored. -/
theorem parametersArePatched : Obligations.ParametersArePatched := by
  unfold Obligations.ParametersArePatched
  intro g p i v s hp hr hfence n gr param replay
  have hexec (op : State → Status × State) : hostCmd (unfenced op) s = .next (withStatus (op s).2 (op s).1) := by
    rw [hostCmd_running hp hr, unfenced_free hfence]
  have hparam : exec (.paramWrite g p i v) s = _ := hexec (paramWrite n p.toNat i.toNat v)
  have hreplay : exec (.replayCountWrite g p v) s = _ := hexec (replayCountWrite n p.toNat v)
  have hreadParam (t : State) : regRead t param = paramReg t n p.toNat i.toNat := regRead_param t g.isLt p.isLt i.isLt
  have hreadReplay (t : State) : regRead t replay = replayReg t n p.toNat := regRead_replay t g.isLt p.isLt
  rw [paramWrite_eq] at hparam
  refine ⟨fun hinvalid => ?invalid, fun hvalid hmaint => ?locked, fun hvalid hmaint hsorted => ⟨?param, ?replay⟩⟩
  case invalid =>
    rw [hparam, hreplay, replayCountWrite, patch_invalid hinvalid, patch_invalid hinvalid, hreadParam, hreadReplay,
      paramReg, replayReg, hinvalid]
    exact ⟨rfl, rfl, rfl, rfl⟩
  case locked =>
    rw [hparam, hreplay, replayCountWrite, patch_locked hvalid hmaint, patch_locked hvalid hmaint]
    exact ⟨rfl, rfl⟩
  case param =>
    rw [hparam, patch_allowed hvalid hmaint]
    refine ⟨_, rfl, ?_⟩
    rw [hreadParam, paramReg, getGroup_withStatus, getGroup_modGroup_same, if_pos hvalid]
    exact ⟨rfl, getD_storeParam_same hsorted, fun k hk => getD_storeParam_other hk⟩
  case replay =>
    rw [hreplay, replayCountWrite, patch_allowed hvalid hmaint]
    refine ⟨_, rfl, ?_⟩
    rw [hreadReplay, replayReg, getGroup_withStatus, getGroup_modGroup_same, if_pos hvalid, Map.getD_set_same]
    exact ⟨rfl, bv64_ofNat_fld_low v, fun k hk => Map.get?_set_other hk⟩

end Sys2Proof.Machine
end

section
/-! Maintenance of a group, the debug bits, and the peek at an accumulator (R198, Table 8.9): what each of the three
writes stores, and what a peek shows once it is complete. -/

namespace Sys2Proof.Machine

open Sys2Proof

/-! ### Masks and fields -/

/-- The mask of a range of bits has those bits of a word and no others. -/
theorem getLsbD_maskOf (hi lo i : Nat) :
    (maskOf hi lo).getLsbD i = (decide (i < 64) && (decide (lo ≤ i) && decide (i ≤ hi))) := by
  rw [maskOf, bv64, BitVec.getLsbD_ofNat, Nat.testBit_mul_two_pow, Nat.testBit_two_pow_sub_one]
  grind

/-- The bits of a field, as a number, are the bits of the word from the field's lowest on. -/
theorem testBit_fld (v : W64) (hi lo i : Nat) :
    (fld v hi lo).testBit i = (decide (i < hi + 1 - lo) && v.getLsbD (lo + i)) := by
  rw [fld, bits, Nat.testBit_mod_two_pow, Nat.testBit_div_two_pow, Nat.add_comm i lo, BitVec.testBit_toNat]

/-- A mask that has every bit of a field leaves the field. -/
theorem fld_and_of_covered {v m : W64} {hi lo : Nat} (h : ∀ i, i < hi + 1 - lo → m.getLsbD (lo + i) = true) :
    fld (v &&& m) hi lo = fld v hi lo := by
  refine Nat.eq_of_testBit_eq fun i => ?_
  rw [testBit_fld, testBit_fld, BitVec.getLsbD_and]
  by_cases hin : i < hi + 1 - lo
  · rw [h i hin, Bool.and_true]
  · simp [hin]

/-! ### MAINT and the debug bits -/

section
variable {g : Nat} {v : W64} {s : State}

/-- The group with MAINT as given. -/
def maintGroup (g : Nat) (on : Bool) (s : State) : State := modGroup s g fun gr => { gr with maint := on }

theorem maintWrite_on (hv : v.getLsbD 0 = true) : maintWrite g v s = (.ok, maintGroup g true s) := by
  simp only [maintWrite, maintGroup, bitAt, hv, if_true]

theorem maintWrite_off (hv : v.getLsbD 0 = false) : maintWrite g v s =
    (.ok, setReg (maintGroup g false s) Reg.arithDebug (reg s Reg.arithDebug &&& ~~~(maskOf g g))) := by
  simp only [maintWrite, maintGroup, bitAt, hv, Bool.false_eq_true, if_false, reg, modGroup_regs]

/-- The debug bits with a group's own bit cleared. -/
theorem getLsbD_and_not_maskOf {i : Nat} (hi : i < 64) :
    (v &&& ~~~(maskOf g g)).getLsbD i = (v.getLsbD i && i != g) := by
  rw [BitVec.getLsbD_and, BitVec.getLsbD_not, getLsbD_maskOf]
  grind

/-- Every debug bit asked for is of a group in maintenance. -/
theorem arithDebugWrite_allowed (h : ∀ g, g < 16 → v.getLsbD g = true → (getGroup s g).maint = true) :
    arithDebugWrite v s = (.ok, setReg s Reg.arithDebug (v &&& 0xFFFF#64)) := by
  have hnone : ¬ (upTo 16).any (fun g => bitAt v g && !(getGroup s g).maint) = true := by
    rw [List.any_eq_true]
    rintro ⟨g, hg, hrefused⟩
    rw [bitAt, Bool.and_eq_true, Bool.not_eq_true'] at hrefused
    obtain ⟨hbit, hmaint⟩ := hrefused
    exact Bool.false_ne_true (hmaint.symm.trans (h g (List.mem_range.mp hg) hbit))
  rw [arithDebugWrite, if_neg hnone]
  rfl

theorem arithDebugWrite_locked (hg : g < 16) (hv : v.getLsbD g = true) (hm : (getGroup s g).maint = false) :
    arithDebugWrite v s = (.paramLocked, s) := by
  have hsome : (upTo 16).any (fun g => bitAt v g && !(getGroup s g).maint) = true :=
    List.any_eq_true.mpr ⟨g, List.mem_range.mpr hg, by simp [bitAt, hv, hm]⟩
  rw [arithDebugWrite, if_pos hsome]

end

/-! ### A peek asked for -/

/-- The bits that HTH_ACC_PEEK_CTRL stores (Table 8.9). -/
def peekMask : W64 := maskOf 51 48 ||| maskOf 43 40 ||| maskOf 33 32 ||| maskOf 17 0

/-- The debug part once a peek has been asked for. -/
def peekAsked (d : DbgSt) : DbgSt := { d with peekPending := true, peekDone := false }

/-- A peek at a station that has accumulators is taken. -/
theorem accPeek_taken {v : W64} {s : State} (hu : fld v 43 40 ≤ 3 ∨ 9 ≤ fld v 43 40) (hmax : fld v 43 40 ≤ 11) :
    accPeek v s = (.ok, { setReg s Reg.peekCtrl (v &&& peekMask) with dbg := peekAsked s.dbg }) := by
  have hunit : fld v 43 40 ≤ 3 ∨ fld v 43 40 = 9 ∨ fld v 43 40 = 10 ∨ fld v 43 40 = 11 := by omega
  exact if_neg fun hnone => hnone hunit

theorem fld_peekMask_group (v : W64) : fld (v &&& peekMask) 51 48 = fld v 51 48 :=
  fld_and_of_covered (by decide)

theorem fld_peekMask_element (v : W64) : fld (v &&& peekMask) 17 0 = fld v 17 0 :=
  fld_and_of_covered (by decide)

/-! ### A peek complete -/

theorem readSram_clean {reader unit lo n : Nat} {tag : Option (BitVec 24)} {ob : SramObj} {s : State}
    (h : s.bpm.sramChk = []) : readSram reader unit tag ob lo n s = ([], s) := by
  simp [readSram, h]

/-- The status a peek at unit `u` of group `g` shows: the debug bit is looked at before the unit (log entry 123). -/
def peekAnswer (g u : Nat) (s : State) : Status :=
  if ¬ bitAt (reg s Reg.arithDebug) g then .paramLocked else if unitPresent s u then .ok else .stationAbsent

/-- The accumulator a peek shows: the committed one, or an empty one where another status stands in its way. -/
def peekedAcc (g u a : Nat) (s : State) : Acc :=
  if peekAnswer g u s = .ok then getAcc (getUnit s g u).acc a else emptyAcc

/-- The debug part once a peek with status `st` is complete and has seen element `i` of `x`. -/
def peekShown (st : Status) (x : Acc) (i : Nat) (d : DbgSt) : DbgSt :=
  { d with
    peekPending := false, peekDone := true, peekStatus := st, peekKind := (peekElem x i).1,
    peekFlags := (peekElem x i).2.1, peekData := (peekElem x i).2.2, peekRows := BitVec.ofNat 9 x.rows,
    peekCols := BitVec.ofNat 11 x.cols }

section
variable {s : State}

/-- With no word of SRAM in error a complete peek changes the debug part alone. -/
theorem accPeekComplete_clean (hp : s.dbg.peekPending = true) (hc : s.bpm.sramChk = []) :
    let v := reg s Reg.peekCtrl
    let g := fld v 51 48
    let u := fld v 43 40
    accPeekComplete s =
      { s with dbg := peekShown (peekAnswer g u s) (peekedAcc g u (fld v 33 32) s) (fld v 17 0) s.dbg } := by
  simp only [accPeekComplete, hp, readSram_clean hc, ite_self, not_true, if_false]
  rfl

variable {g u : Nat}

theorem peekAnswer_locked (hd : (reg s Reg.arithDebug).getLsbD g = false) : peekAnswer g u s = .paramLocked := by
  rw [peekAnswer, bitAt, hd]
  rfl

theorem peekAnswer_absent (hd : (reg s Reg.arithDebug).getLsbD g = true) (hu : unitPresent s u = false) :
    peekAnswer g u s = .stationAbsent := by
  rw [peekAnswer, bitAt, hd, hu]
  rfl

theorem peekAnswer_ok (hd : (reg s Reg.arithDebug).getLsbD g = true) (hu : unitPresent s u = true) :
    peekAnswer g u s = .ok := by
  rw [peekAnswer, bitAt, hd, hu]
  rfl

theorem peekedAcc_committed {a : Nat} {x : Acc} (ha : peekAnswer g u s = .ok)
    (hx : Map.get? (getUnit s g u).acc a = some x) : peekedAcc g u a s = x := by
  rw [peekedAcc, if_pos ha, getAcc, Map.getD, hx]

end

/-- Settles O31: each write comes to one stored register and, for STN_MODE, one group; a complete peek shows the answer
and the accumulator as the debug bits, the fuses and the local store stand at that moment. -/
theorem maintenanceShowsAccumulators : Obligations.MaintenanceShowsAccumulators := by
  unfold Obligations.MaintenanceShowsAccumulators
  refine ⟨?maint, ?debug, ?peek, ?complete⟩
  case maint =>
    intro g v s hp hr hfence hsorted
    have hexec : exec (.maintWrite g v) s = _ := hostCmd_running (op := unfenced (maintWrite g.toNat v)) hp hr
    rw [unfenced_free hfence] at hexec
    have hgroup (on : Bool) : getGroup (maintGroup g.toNat on s) g.toNat = { getGroup s g.toNat with maint := on } :=
      getGroup_modGroup_same
    have hothers (on : Bool) (k : Nat) (hk : k ≠ g.toNat) : getGroup (maintGroup g.toNat on s) k = getGroup s k :=
      getGroup_modGroup_other hk
    cases hv : v.getLsbD 0 with
    | true =>
      rw [maintWrite_on hv] at hexec
      exact ⟨_, hexec, rfl, hgroup true, hothers true, fun _ => rfl, fun h => absurd h (by decide)⟩
    | false =>
      rw [maintWrite_off hv] at hexec
      refine ⟨_, hexec, rfl, hgroup false, hothers false, fun h => absurd h (by decide), fun _ i hi => ?_⟩
      have hreg := reg_setReg_same (s := maintGroup g.toNat false s) (a := Reg.arithDebug)
        (v := reg s Reg.arithDebug &&& ~~~(maskOf g.toNat g.toNat)) hsorted
      exact (congrArg (BitVec.getLsbD · i) hreg).trans (getLsbD_and_not_maskOf hi)
  case debug =>
    intro v s hp hr hsorted
    have hexec : exec (.arithDebugWrite v) s = _ := hostCmd_running (op := arithDebugWrite v) hp hr
    have hallowed (h : ∀ g, g < 16 → v.getLsbD g = true → (getGroup s g).maint = true) :
        ∃ t, exec (.arithDebugWrite v) s = .next t ∧ t = { s with regs := t.regs, lastStatus := .ok } ∧
          reg t Reg.arithDebug = v &&& 0xFFFF#64 := by
      rw [arithDebugWrite_allowed h] at hexec
      exact ⟨_, hexec, rfl, reg_setReg_same hsorted⟩
    refine ⟨?_, hallowed, ?_⟩
    · rintro rfl
      simpa using hallowed
    · rintro ⟨g, hg, hbit, hmaint⟩
      rw [hexec, arithDebugWrite_locked hg hbit hmaint]
      rfl
  case peek =>
    intro v s hp hr hsorted hu hmax
    have hexec : exec (.accPeek v) s = _ := hostCmd_running (op := accPeek v) hp hr
    rw [accPeek_taken hu hmax] at hexec
    have hreg : reg (setReg s Reg.peekCtrl (v &&& peekMask)) Reg.peekCtrl = v &&& peekMask := reg_setReg_same hsorted
    exact ⟨_, hexec, rfl, rfl, (congrArg (fld · 51 48) hreg).trans (fld_peekMask_group v),
      (congrArg (fld · 17 0) hreg).trans (fld_peekMask_element v)⟩
  case complete =>
    intro s hp hc v
    refine ⟨_, congrArg Host.Outcome.next (accPeekComplete_clean hp hc), rfl, rfl, rfl, peekAnswer_locked,
      peekAnswer_absent, fun hd hu => ⟨peekAnswer_ok hd hu, fun x hx => ?_⟩⟩
    dsimp only [peekShown]
    rw [peekedAcc_committed (peekAnswer_ok hd hu) hx]
    exact ⟨BitVec.toNat_ofNat .., BitVec.toNat_ofNat ..⟩

end Sys2Proof.Machine
end

section
/-! Records looked up and stored where no word of them is in error, and the mirror of a change (R122, R226, R357). -/

namespace Sys2Proof.Machine

open Sys2Proof

/-! ### A mirrored change -/

theorem mirrorTally_recordsOnly (t : Nat) (s : State) : RecordsOnly s (mirrorTally t s) := by
  unfold mirrorTally
  split
  · exact mirrorSend_recordsOnly ..
  · exact .refl s

theorem mirrorCtx_recordsOnly (c : Nat) (s : State) : RecordsOnly s (mirrorCtx c s) := by
  unfold mirrorCtx
  split <;> split
  · exact mirrorSend_recordsOnly ..
  · exact .refl s
  · exact mirrorSend_recordsOnly ..
  · exact .refl s

theorem RecordsOnly.host_eq {s t : State} (h : RecordsOnly s t) : t.host = s.host := by
  obtain ⟨_, _, _, rfl⟩ := h; rfl

theorem RecordsOnly.reg_eq {s t : State} (h : RecordsOnly s t) (a : Nat) : reg t a = reg s a := by
  rw [reg, h.regs_eq, reg]

theorem inHalf_own {kind n : Nat} {op : State → Status × State} {s : State} (h : halfRefused s kind n = false) :
    inHalf kind n op s = op s := by
  simp [inHalf, h]

/-- A host's command with the firmware running and no fence is its operation, with the status that leaves. -/
theorem hostCmd_unfenced {op : State → Status × State} {s : State} (hp : s.pwr.porst = true)
    (hr : s.mss.romOnly = false) (hf : s.twn.fenced = false) :
    hostCmd (unfenced op) s = .next (withStatus (op s).2 (op s).1) := by
  rw [hostCmd_running hp hr, unfenced_free hf]

/-! ### A context's record -/

/-- No word of a context's record in the bank is in error. -/
def BankGood (c : Nat) (s : State) : Prop :=
  ∀ o, bankOffset s c = some o → ∀ w ∈ wordsOf o 4096, Map.get? s.mem.chk w = none

theorem bankGood_of_unmarked {c : Nat} {s : State} (h : s.mem.chk = []) : BankGood c s := by
  intro o _ w _
  rw [h]
  rfl

section
variable {c : Nat} {x : Ctx} {s : State}

theorem readCtx_clean {reader unit : Nat} {tag : Option (BitVec 24)} (h : s.bpm.sramChk = []) :
    readCtx reader unit tag c s = s := by
  unfold readCtx
  split
  · rfl
  · simp [readSram_clean h]

theorem readBank_good (h : BankGood c s) : readBank c s = s := by
  unfold readBank
  split
  · next x o hx ho => simp [scanWords_wordsOf_unmarked (h o ho)]
  · rfl

theorem touchCtx_good (hs : s.bpm.sramChk = []) (hb : BankGood c s) : touchCtx c s = s := by
  rw [touchCtx, readCtx_clean hs, readBank_good hb]

theorem ctxRecord_length (x : Ctx) : (ctxRecord x).length = 4096 := by
  simp [ctxRecord, storedRecord, upTo]

theorem storeBank_onChip (hx : getCtx s c = some x) (hon : x.onChip = true) : storeBank c s = s := by
  unfold storeBank
  split
  · next y o hy ho =>
    obtain rfl : x = y := Option.some.inj (hx.symm.trans hy)
    rw [if_pos hon]
  · rfl

theorem storeBank_unbound (h : bankOffset s c = none) : storeBank c s = s := by
  unfold storeBank
  split
  · next y o hy ho => exact absurd (h.symm.trans ho) (by simp)
  · rfl

/-- A record off chip goes to its place in the bank, and nothing else changes. -/
theorem storeBank_bound {o : Nat} (hx : getCtx s c = some x) (hoff : x.onChip = false) (ho : bankOffset s c = some o)
    (hb : BankGood c s) : storeBank c s =
      { s with mem := { s.mem with cells := (wordsOf o 4096).foldl (writeWord o (ctxRecord x)) s.mem.cells } } := by
  have hwords : ∀ w ∈ wordsOf o (ctxRecord x).length, Map.get? s.mem.chk w = none := by
    rw [ctxRecord_length]
    exact hb o ho
  have hwrite := writeMem_unmarked (reader := 5) (unit := 0xFF) (tag := none) hwords
  rw [ctxRecord_length] at hwrite
  simp [storeBank, hx, ho, hoff, hwrite]

/-- Storing a record in the bank changes memory alone, and no mark on its words. -/
theorem storeBank_memOnly (hb : BankGood c s) :
    ∃ cells, storeBank c s = { s with mem := { s.mem with cells := cells } } := by
  cases hx : getCtx s c with
  | none => exact ⟨s.mem.cells, by simp [storeBank, hx]⟩
  | some x =>
    cases hon : x.onChip with
    | true => exact ⟨s.mem.cells, storeBank_onChip hx hon⟩
    | false =>
      cases ho : bankOffset s c with
      | none => exact ⟨s.mem.cells, storeBank_unbound ho⟩
      | some o => exact ⟨_, storeBank_bound hx hon ho hb⟩

end

end Sys2Proof.Machine
end

section
/-! Tallies: what a write stores, and the addition that takes a tally to its threshold (R235, R236). -/

namespace Sys2Proof.Machine

open Sys2Proof

section
variable {t : Nat} {v : W64} {s : State}

theorem readTally_clean (h : s.bpm.sramChk = []) : readTally t s = s := by
  simp [readTally, readSram_clean h]

/-! ### Writes -/

/-- The state as a write of VALUE leaves it, not yet mirrored. -/
def valueSet (t : Nat) (v : W64) (s : State) : State := setTally t { getTally s t with value := v.setWidth 48 } s

theorem ofNat_fld_value (v : W64) : BitVec.ofNat 48 (fld v 47 0) = v.setWidth 48 := by
  apply BitVec.eq_of_toNat_eq
  rw [toNat_ofNat_fld v 47 0, BitVec.toNat_setWidth, fld, bits, Nat.pow_zero, Nat.div_one]

theorem tallyValueWrite_own (hh : halfRefused s 6 t = false) (hs : s.bpm.sramChk = []) :
    tallyValueWrite t v s = (.ok, mirrorTally t (valueSet t v s)) := by
  rw [tallyValueWrite, inHalf_own hh]
  simp only [readTally_clean hs, ofNat_fld_value, valueSet]

theorem tallyCfgWrite_own (hh : halfRefused s 6 t = false) (hs : s.bpm.sramChk = []) :
    tallyCfgWrite t v s = (.ok, mirrorTally t (setReg s (Reg.tallyCfg t) (v &&& 0xE000FFFFFFFFFFFF#64))) := by
  rw [tallyCfgWrite, inHalf_own hh, writeSram_clean (by simpa using hs)]
  rfl

theorem tallyReleaseWrite_inRange (hh : halfRefused s 6 t = false) (hs : s.bpm.sramChk = [])
    (hv : fld v 31 0 = 0 ∨ 1000 ≤ fld v 31 0) : tallyReleaseWrite t v s =
      (.ok, mirrorTally t (setReg (setTally t { getTally s t with relSeq := 0 } s) (Reg.tallyRelease t) v)) := by
  rw [tallyReleaseWrite, inHalf_own hh, if_neg (by omega), writeSram_clean (by simpa using hs)]
  rfl

theorem tallyReleaseWrite_outOfRange (hh : halfRefused s 6 t = false) (h0 : 0 < fld v 31 0) (h1 : fld v 31 0 < 1000) :
    tallyReleaseWrite t v s = (.fieldInvalid, s) := by
  rw [tallyReleaseWrite, inHalf_own hh, if_pos ⟨h0, h1⟩]

/-! ### An addition -/

theorem getTally_setTally_of_ne {x : TallySt} (h : x ≠ TallySt.reset) : getTally (setTally t x s) t = x := by
  simp [getTally, setTally, h]

theorem RecordsOnly.getTally_eq {s' : State} (h : RecordsOnly s s') : getTally s' t = getTally s t := by
  rw [getTally, h.ctx_eq, getTally]

/-- A tally without REARM, NOTIFY and RELEASE fires by counting its generation on. -/
theorem fireOnce_plain (h63 : (reg s (Reg.tallyCfg t)).getLsbD 63 = false)
    (h62 : (reg s (Reg.tallyCfg t)).getLsbD 62 = false) (h61 : (reg s (Reg.tallyCfg t)).getLsbD 61 = false) :
    fireOnce t s = mirrorTally t (setTally t { getTally s t with gen := (getTally s t).gen + 1 } s) := by
  simp only [fireOnce, bitAt, h63, h62, h61, Bool.false_eq_true, if_false]

/-- A tally's counts with its value raised by `n`. -/
def raisedBy (n : Nat) (x : TallySt) : TallySt := { x with value := BitVec.ofNat 48 (x.value.toNat + n) }

theorem raisedBy_ne_reset {n : Nat} {x : TallySt} (h0 : 0 < x.value.toNat + n) (h1 : x.value.toNat + n < 2 ^ 48)
    (gen : BitVec 16) : { raisedBy n x with gen := gen } ≠ TallySt.reset := by
  intro h
  have hzero : (BitVec.ofNat 48 (x.value.toNat + n)).toNat = 0 := congrArg (fun y => y.value.toNat) h
  rw [BitVec.toNat_ofNat, Nat.mod_eq_of_lt h1] at hzero
  omega

/-- The addition that takes a tally without REARM to its threshold or past it, short of saturation, fires it once. -/
theorem tallyAdd_crosses {n : Nat} (hh : halfRefused s 6 t = false) (hs : s.bpm.sramChk = [])
    (h63 : (reg s (Reg.tallyCfg t)).getLsbD 63 = false)
    (hbelow : (getTally s t).value.toNat < fld (reg s (Reg.tallyCfg t)) 47 0)
    (hreach : fld (reg s (Reg.tallyCfg t)) 47 0 ≤ (getTally s t).value.toNat + n)
    (hfits : (getTally s t).value.toNat + n < 2 ^ 48) :
    tallyAdd t n s = fireOnce t (setTally t (raisedBy n (getTally s t)) s) := by
  have hreg (x : TallySt) (a : Nat) : reg (setTally t x s) a = reg s a := rfl
  have hsum : min ((getTally s t).value.toNat + n) (2 ^ 48 - 1) = (getTally s t).value.toNat + n := by omega
  have hth : fld (reg s (Reg.tallyCfg t)) 47 0 ≠ 0 := by omega
  simp only [tallyAdd, readTally_clean hs, hh, Bool.false_eq_true, if_false, hsum, if_true, hreg]
  rw [if_pos ⟨hth, hreach, .inr hbelow⟩, fireLoop, hreg, bitAt, h63]
  exact if_neg fun h => Bool.false_ne_true h.1

end

/-- Settles O36: each write is one stored value and its mirror; the addition crosses the threshold with a value that is
not 0, so that the tally stays listed and fires as a plain one does. -/
theorem talliesCountAndFire : Obligations.TalliesCountAndFire := by
  unfold Obligations.TalliesCountAndFire
  intro t s hh hs
  refine ⟨fun v hp hr hf hsorted => ⟨?value, ?cfg, fun hv => ?release, fun h0 h1 => ?refused⟩, ?fires⟩
  case value =>
    have hexec : exec (.tallyValueWrite t v) s = _ := hostCmd_unfenced (op := tallyValueWrite t.toNat v) hp hr hf
    rw [tallyValueWrite_own hh hs] at hexec
    have hm := mirrorTally_recordsOnly t.toNat (valueSet t.toNat v s)
    exact ⟨_, hexec, rfl, hm.ctx_eq, hm.groups_eq, hm.mem_eq, hm.regs_eq, hm.host_eq⟩
  case cfg =>
    have hexec : exec (.tallyCfgWrite t v) s = _ := hostCmd_unfenced (op := tallyCfgWrite t.toNat v) hp hr hf
    rw [tallyCfgWrite_own hh hs] at hexec
    have hm := mirrorTally_recordsOnly t.toNat (setReg s (Reg.tallyCfg t.toNat) (v &&& 0xE000FFFFFFFFFFFF#64))
    exact ⟨_, hexec, rfl, hm.ctx_eq, (hm.reg_eq _).trans (reg_setReg_same hsorted),
      fun a ha => (hm.reg_eq a).trans (reg_setReg_other ha), hm.groups_eq, hm.mem_eq⟩
  case release =>
    have hexec : exec (.tallyReleaseWrite t v) s = _ := hostCmd_unfenced (op := tallyReleaseWrite t.toNat v) hp hr hf
    rw [tallyReleaseWrite_inRange hh hs hv] at hexec
    have hm := mirrorTally_recordsOnly t.toNat
      (setReg (setTally t.toNat { getTally s t.toNat with relSeq := 0 } s) (Reg.tallyRelease t.toNat) v)
    exact ⟨_, hexec, rfl, hm.ctx_eq, (hm.reg_eq _).trans (reg_setReg_same hsorted),
      fun a ha => (hm.reg_eq a).trans (reg_setReg_other ha), hm.groups_eq, hm.mem_eq⟩
  case refused =>
    have hexec : exec (.tallyReleaseWrite t v) s = _ := hostCmd_unfenced (op := tallyReleaseWrite t.toNat v) hp hr hf
    rw [tallyReleaseWrite_outOfRange hh h0 h1] at hexec
    exact hexec
  case fires =>
    intro n h63 h62 h61 th x hbelow hreach hfits
    have hne (gen : BitVec 16) : { raisedBy n x with gen := gen } ≠ TallySt.reset :=
      raisedBy_ne_reset (by omega) hfits gen
    have hraised : getTally (setTally t.toNat (raisedBy n x) s) t.toNat = raisedBy n x :=
      getTally_setTally_of_ne (hne x.gen)
    have hfire := fireOnce_plain (s := setTally t.toNat (raisedBy n x) s) h63 h62 h61
    rw [hraised] at hfire
    rw [tallyAdd_crosses hh hs h63 hbelow hreach hfits, hfire, (mirrorTally_recordsOnly ..).getTally_eq]
    exact getTally_setTally_of_ne (hne _)

end Sys2Proof.Machine
end

section
/-! Banking: a context asked to leave the chip or to return, and each half of the move at its moment (R222,
R225-R227). -/

namespace Sys2Proof.Machine

open Sys2Proof

/-! ### What a finished action leaves -/

/-- The state once an action has its outcome. -/
def actionDone (code : BitVec 4) (c : CtxNo) (st : Status) (t : State) : State :=
  { t with lastStatus := st, ctx := { t.ctx with actStatus := st, actCode := code, actCtx := c, actMgrp := 0 } }

/-- The state that a host's action on a context leaves, by its operation's outcome. -/
theorem withStatus_ctxAction {code : Nat} {c : CtxNo} {st : Status} {t : State} :
    withStatus (ctxAction code c.toNat 0 (st, t)).2 (ctxAction code c.toNat 0 (st, t)).1 =
      actionDone (BitVec.ofNat 4 code) c st t := by
  simp [withStatus, ctxAction, actionDone]

/-! ### BANK (R227) -/

section
variable {c : Nat} {x : Ctx} {s : State}

/-- The need of a context that BANK named. -/
def bankNeed (c : Nat) (s : State) : Need := { at_ := now s, ctx := none, victim := some c, waits := false }

/-- The needs as given, all else as it was. -/
def withNeeds (l : List Need) (s : State) : State := { s with ctx := { s.ctx with needs := l } }

theorem bank_active (hx : getCtx s c = some x) (hs : s.bpm.sramChk = []) (hb : BankGood c s)
    (hclaim : claimHeld s 0x20 = true) (hres : CtxArg.resident x.arg0 = false) (hon : x.onChip = true)
    (hv : isVictim s c = false) (hst : x.state = .active) : bank c s = ctxAction 3 c 0
      (.ok, setCtx c { x with state := .banking } (withNeeds (s.ctx.needs ++ [bankNeed c s]) s)) := by
  have hmark : markBanking c (withNeeds (s.ctx.needs ++ [bankNeed c s]) s) =
      setCtx c { x with state := .banking } (withNeeds (s.ctx.needs ++ [bankNeed c s]) s) := by
    have hx' : getCtx (withNeeds (s.ctx.needs ++ [bankNeed c s]) s) c = some x := hx
    simp [markBanking, modCtx, hx', hst]
  have hbank : bank c s = ctxAction 3 c 0 (.ok, markBanking c (withNeeds (s.ctx.needs ++ [bankNeed c s]) s)) := by
    simp [bank, touchCtx_good hs hb, hclaim, hx, hres, hon, hv, withNeeds, bankNeed]
  rw [hbank, hmark]

theorem bank_resident (hx : getCtx s c = some x) (hs : s.bpm.sramChk = []) (hb : BankGood c s)
    (hclaim : claimHeld s 0x20 = true) (hres : CtxArg.resident x.arg0 = true) :
    bank c s = ctxAction 3 c 0 (.notBankable, s) := by
  simp [bank, touchCtx_good hs hb, hclaim, hx, hres]

/-! ### UNBANK: the needs of one tick (R225) -/

theorem insertSorted_perm {α : Type} (lt : α → α → Bool) (a : α) (l : List α) :
    (sortBy.ins lt a l).Perm (a :: l) := by
  induction l with
  | nil => exact .refl _
  | cons b l ih =>
    unfold sortBy.ins
    split
    · exact (ih.cons b).trans (.swap a b l)
    · exact .refl _

theorem sortBy_perm {α : Type} (lt : α → α → Bool) (l : List α) : (sortBy lt l).Perm l := by
  induction l with
  | nil => exact .refl _
  | cons a l ih => exact (insertSorted_perm lt a _).trans (ih.cons a)

/-- Pairing the needs of one tick with their victims anew leaves no context out. -/
theorem repair_keeps_needed {tick : Nat} {l : List Need} {n : Need} (hn : n ∈ l) (hc : n.ctx = some c) :
    ∃ m ∈ repair tick l, m.ctx = some c := by
  unfold repair
  extract_lets same cs vs
  by_cases hsame : same n = true
  · have hall : ∀ m ∈ l.filter same, m.ctx.isSome = true := fun m hm =>
      (Bool.and_eq_true_iff.mp (List.mem_filter.mp hm).2).2
    have hcs : cs.Perm ((l.filter same).filterMap (·.ctx)) := sortBy_perm ..
    have hlen : cs.length = vs.length := by
      rw [hcs.length_eq, List.filterMap_length_eq_length.mpr hall, List.length_map]
    have hmem : c ∈ cs :=
      hcs.mem_iff.mpr (List.mem_filterMap.mpr ⟨n, List.mem_filter.mpr ⟨hn, hsame⟩, hc⟩)
    obtain ⟨i, hi, hci⟩ := List.mem_iff_getElem.mp hmem
    have hpair : (cs[i], vs[i]'(hlen ▸ hi)) ∈ cs.zip vs :=
      List.mem_iff_getElem.mpr ⟨i, List.length_zip ▸ Nat.lt_min.mpr ⟨hi, hlen ▸ hi⟩, List.getElem_zip⟩
    exact ⟨_, List.mem_append_right _ (List.mem_map.mpr ⟨_, hpair, rfl⟩), congrArg some hci⟩
  · exact ⟨n, List.mem_append_left _ (List.mem_filter.mpr ⟨hn, by simp [hsame]⟩), hc⟩

/-- The need of a context that gets a free slot. -/
def slotNeed (c : Nat) (s : State) : Need := { at_ := now s, ctx := some c, victim := none, waits := false }

/-- The needs once a context has asked for a free slot. -/
def needsWith (c : Nat) (s : State) : List Need := repair (now s) (s.ctx.needs ++ [slotNeed c s])

theorem unbank_banked (hx : getCtx s c = some x) (hs : s.bpm.sramChk = []) (hb : BankGood c s)
    (hon : x.onChip = false) (hneed : isNeeded s c = false) (hst : x.state = .banked)
    (hslot : onChipCount s + slotsPromised s < 1024) :
    unbank c s = ctxAction 4 c 0 (.ok, setCtx c { x with state := .unbanking } (withNeeds (needsWith c s) s)) := by
  have hx' : getCtx (withNeeds (needsWith c s) s) c = some x := hx
  have hswap : swapFor s = (none, false) := if_pos hslot
  have hmod : needCtx c s = modCtx c (fun x => if x.state = .banked then { x with state := .unbanking } else x)
      (withNeeds (needsWith c s) s) := by
    simp [needCtx, hx, hon, hneed, hswap, markVictim, withNeeds, needsWith, slotNeed]
  simp [unbank, touchCtx_good hs hb, hx, hon, hmod, modCtx, hx', hst]

/-! ### Swaps with none waiting -/

theorem fillNeeds_none (h : ∀ n ∈ s.ctx.needs, n.waits = false) : fillNeeds s = s := by
  have hnone : s.ctx.needs.filter (fun n => n.waits) = [] :=
    List.filter_eq_nil_iff.mpr fun n hn => by simp [h n hn]
  rw [fillNeeds, hnone]
  rfl

theorem mem_of_mem_removeFirst {α : Type} [DecidableEq α] {a b : α} {l : List α} (h : b ∈ removeFirst a l) : b ∈ l := by
  induction l with
  | nil => exact h
  | cons d l ih =>
    unfold removeFirst at h
    split at h
    · exact List.mem_cons_of_mem d h
    · rcases List.mem_cons.mp h with rfl | h
      · exact List.mem_cons_self
      · exact List.mem_cons_of_mem d (ih h)

/-- The needs once the victim of a need has gone off chip. -/
def victimGone (n : Need) (l : List Need) : List Need :=
  if n.ctx.isNone then removeFirst n l else l.map (fun m => if m = n then { m with victim := none } else m)

theorem victimGone_none_waits {n : Need} {l : List Need} (h : ∀ m ∈ l, m.waits = false) :
    ∀ m ∈ victimGone n l, m.waits = false := by
  unfold victimGone
  intro m hm
  split at hm
  · exact h m (mem_of_mem_removeFirst hm)
  · obtain ⟨k, hk, rfl⟩ := List.mem_map.mp hm
    split
    · exact h k hk
    · exact h k hk

/-! ### Off chip at the tile boundary (R226) -/

theorem bankOffset_congr {t : State} (h : t.cord = s.cord) : bankOffset t c = bankOffset s c := by
  rw [bankOffset, regionBase, claimOf, h]
  rfl

theorem BankGood.congr {t : State} (h : BankGood c s) (hcord : t.cord = s.cord) (hmem : t.mem = s.mem) :
    BankGood c t := by
  intro o ho
  rw [hmem]
  exact h o ((bankOffset_congr hcord).symm.trans ho)

/-- A context off chip, its record not yet stored: the state in which its record goes to the bank. -/
def offChip (c : Nat) (y : Ctx) (n : Need) (s : State) : State :=
  count 8 1 0 (setCtx c y (withNeeds (victimGone n s.ctx.needs) s))

theorem getCtx_offChip {y : Ctx} {n : Need} : getCtx (offChip c y n s) c = some y := by
  rw [getCtx, offChip, count_ctx]
  exact getCtx_setCtx_same

theorem BankGood.offChip {y : Ctx} {n : Need} (h : BankGood c s) : BankGood c (offChip c y n s) :=
  h.congr (count_cord ..) (count_mem ..)

theorem bankAtBoundary_goes {n : Need} (hx : getCtx s c = some x) (hs : s.bpm.sramChk = []) (hb : BankGood c s)
    (hwaits : ∀ n ∈ s.ctx.needs, n.waits = false) (hd : s.dbg.dampered = false) (hfree : bankFree s c = true)
    (hn : s.ctx.needs.find? (fun n => n.victim == some c) = some n)
    (hhead : n.ctx.isSome = true → headNeed s = some n) (hbound : atBoundary s c = true) (hst : x.state = .banking) :
    bankAtBoundary c s = storeBank c (offChip c { x with onChip := false, state := .banked } n s) := by
  have hgoes : swapGoes s n = true := by simp [swapGoes, hd]
  have hgo : ¬ (¬ swapGoes s n = true ∨ ¬ atBoundary s c = true ∨ ¬ bankFree s c = true ∨
      (n.ctx.isSome = true ∧ headNeed s ≠ some n)) := by
    simp only [hgoes, hbound, hfree, not_true, false_or]
    exact fun h => h.2 (hhead h.1)
  have hbanked : bankAtBoundary c s =
      fillNeeds (storeBank c (offChip c { x with onChip := false, state := .banked } n s)) := by
    simp only [bankAtBoundary, hn, if_neg hgo, readCtx_clean hs, hx, hst]
    rfl
  rw [hbanked, fillNeeds_none]
  obtain ⟨cells, hstore⟩ := storeBank_memOnly (hb.offChip (y := { x with onChip := false, state := .banked }) (n := n))
  rw [hstore]
  change ∀ m ∈ (offChip c { x with onChip := false, state := .banked } n s).ctx.needs, m.waits = false
  rw [offChip, count_ctx]
  exact victimGone_none_waits hwaits

/-! ### Back on chip (R226) -/

theorem swapInComplete_takes {n : Need} (hx : getCtx s c = some x) (hs : s.bpm.sramChk = []) (hb : BankGood c s)
    (hwaits : ∀ n ∈ s.ctx.needs, n.waits = false) (hd : s.dbg.dampered = false) (hfree : bankFree s c = true)
    (hn : headNeed s = some n) (hc : n.ctx = some c) (hv : n.victim = none) (hst : x.state = .unbanking) :
    swapInComplete c s = count 8 2 0 (setCtx c { x with onChip := true, state := .active }
      (withNeeds (removeFirst n s.ctx.needs) s)) := by
  have hgoes : swapGoes s n = true := by simp [swapGoes, hd]
  have hserved : n.waits = false := hwaits n (List.mem_of_find?_eq_some hn)
  have hin : swapInComplete c s = fillNeeds (writeSram (.ctx c) 0 512 (count 8 2 0
      (setCtx c { x with onChip := true, state := .active } (withNeeds (removeFirst n s.ctx.needs) s)))) := by
    simp only [swapInComplete, hn, hc, hv, hserved, hgoes, hfree, readBank_good hb, swapIn, hx, hst]
    rfl
  rw [hin, writeSram_clean (by rw [count_bpm]; exact hs), fillNeeds_none]
  rw [count_ctx]
  exact fun m hm => hwaits m (mem_of_mem_removeFirst hm)

end

/-! ### The octets of a record -/

theorem nthD_leBytes (n v i : Nat) (hi : i < n) : nthD (leBytes n v) i 0 = BitVec.ofNat 8 (v / 256 ^ i) := by
  induction n generalizing v i with
  | zero => exact absurd hi (Nat.not_lt_zero i)
  | succ n ih =>
    cases i with
    | zero => simp [nthD, leBytes]
    | succ i =>
      have h := ih (v / 256) i (Nat.lt_of_succ_lt_succ hi)
      rw [Nat.div_div_eq_div_mul, ← Nat.pow_succ'] at h
      simpa [nthD, leBytes] using h

/-- A record begins with its first fixed field, least significant octet first. -/
theorem nthD_storedRecord_first {n v i : Nat} {fixed rest : List Nat} (hn : 8 ≤ n) (hi : i < 8) :
    nthD (storedRecord n (v :: fixed) rest) i 0 = BitVec.ofNat 8 (v / 256 ^ i) := by
  have hlen : (leBytes 8 v).length = 8 := Laws.leBytes_length 8 v
  have hfixed : i < ((v :: fixed).flatMap (leBytes 8)).length := by
    rw [List.flatMap_cons, List.length_append, hlen]
    omega
  have hoctet : nthD (storedRecord n (v :: fixed) rest) i 0 = nthD ((v :: fixed).flatMap (leBytes 8)) i 0 := by
    have hin : i < n := by omega
    simp only [storedRecord]
    rw [nthD, List.getD_eq_getElem?_getD, List.getElem?_map, upTo, List.getElem?_range hin, Option.map_some,
      Option.getD_some, if_pos hfixed]
  rw [hoctet, List.flatMap_cons, nthD, List.getD_eq_getElem?_getD, List.getElem?_append_left (by omega),
    ← List.getD_eq_getElem?_getD]
  exact nthD_leBytes 8 v i hi

theorem nthD_ctxRecord_arg0 (x : Ctx) {i : Nat} (hi : i < 8) :
    nthD (ctxRecord x) i 0 = (x.arg0 >>> (8 * i)).setWidth 8 := by
  have hfirst : nthD (ctxRecord x) i 0 = BitVec.ofNat 8 (x.arg0.toNat / 256 ^ i) :=
    nthD_storedRecord_first (by decide) hi
  rw [hfirst]
  apply BitVec.eq_of_toNat_eq
  rw [BitVec.toNat_ofNat, BitVec.toNat_setWidth, BitVec.toNat_ushiftRight, Nat.shiftRight_eq_div_pow, Nat.pow_mul]

/-- Octets written over the words they meet read as written, and every other octet as before. -/
theorem readByte_written {o a : Nat} {l : List Byte} {cells : List Host.Cell} (hwf : Memory.wf cells) :
    Memory.readByte ((wordsOf o l.length).foldl (writeWord o l) cells) a =
      if o ≤ a ∧ a < o + l.length then nthD l (a - o) 0 else Memory.readByte cells a := by
  rw [readByte_writeWords (fun w hw => wordsOf_aligned hw) hwf]
  exact ite_congr (propext ⟨And.left, fun ha => ⟨ha, word_mem_wordsOf ha.1 ha.2⟩⟩) (fun _ => rfl) fun _ => rfl

/-- Settles O34: each command and each half of the move is one change of the context's entry and of the needs; going off
chip stores the record besides. -/
theorem contextsAreBanked : Obligations.ContextsAreBanked := by
  unfold Obligations.ContextsAreBanked
  intro c x s hx hs hgood
  have hb : BankGood c.toNat s := hgood
  refine ⟨fun hp hr hf => ⟨?bank, ?resident, ?unbank⟩, fun hwaits hd hfree => ⟨?out, ?in_⟩⟩
  case bank =>
    intro hclaim hres hon hv hst
    have hexec : exec (.bank c) s = _ := hostCmd_unfenced (op := bank c.toNat) hp hr hf
    rw [bank_active hx hs hb hclaim hres hon hv hst, withStatus_ctxAction] at hexec
    exact hexec
  case resident =>
    intro hres hclaim
    have hexec : exec (.bank c) s = _ := hostCmd_unfenced (op := bank c.toNat) hp hr hf
    rw [bank_resident hx hs hb hclaim hres, withStatus_ctxAction] at hexec
    exact hexec
  case unbank =>
    intro hon hneed hst hslot
    have hexec : exec (.unbank c) s = _ := hostCmd_unfenced (op := unbank c.toNat) hp hr hf
    rw [unbank_banked hx hs hb hon hneed hst hslot, withStatus_ctxAction] at hexec
    obtain ⟨m, hm, hmc⟩ : ∃ m ∈ needsWith c.toNat s, m.ctx = some c.toNat :=
      repair_keeps_needed (List.mem_append_right _ List.mem_cons_self) rfl
    exact ⟨_, hexec, rfl, getCtx_setCtx_same (s := withNeeds (needsWith c.toNat s) s),
      List.any_eq_true.mpr ⟨m, hm, by rw [hmc, BEq.rfl]⟩⟩
  case out =>
    intro n hn hhead hbound hst y
    have hexec : exec (.contextBankAtBoundary c) s = _ :=
      congrArg Host.Outcome.next (bankAtBoundary_goes hx hs hb hwaits hd hfree hn hhead hbound hst)
    have hgone : BankGood c.toNat (offChip c.toNat y n s) := hb.offChip
    have hframe : offChip c.toNat y n s =
        { s with ctx := (offChip c.toNat y n s).ctx, dbg := (offChip c.toNat y n s).dbg } := by
      rw [offChip, count_eq]
      rfl
    have hctx : (offChip c.toNat y n s).ctx =
        { s.ctx with table := Map.set s.ctx.table c.toNat y, needs := victimGone n s.ctx.needs } := count_ctx ..
    have hoff : bankOffset (offChip c.toNat y n s) c.toNat = bankOffset s c.toNat := bankOffset_congr (count_cord ..)
    have hmem : (offChip c.toNat y n s).mem = s.mem := count_mem ..
    refine ⟨_, hexec, ?_, ?_, fun ho => ?_, fun o ho hwf a => ?_, fun i hi => nthD_ctxRecord_arg0 y hi⟩
    · obtain ⟨cells, hstore⟩ := storeBank_memOnly hgone
      rw [hstore, hframe]
    · obtain ⟨cells, hstore⟩ := storeBank_memOnly hgone
      rw [hstore]
      exact hctx
    · rw [storeBank_unbound (hoff.trans ho), hmem]
    · rw [storeBank_bound getCtx_offChip rfl (hoff.trans ho) hgone]
      have hread := readByte_written (o := o) (a := a) (l := ctxRecord y) hwf
      rw [ctxRecord_length] at hread
      rw [hmem]
      exact hread
  case in_ =>
    intro n hn hc hv hst
    have hexec : exec (.contextSwapInComplete c) s = _ :=
      congrArg Host.Outcome.next (swapInComplete_takes hx hs hb hwaits hd hfree hn hc hv hst)
    rw [count_eq] at hexec
    exact ⟨_, hexec, rfl, rfl⟩

end Sys2Proof.Machine
end

section
/-! A round times out: what each effect of the timeout leaves, and what it ends (R231, R232). -/

namespace Sys2Proof.Machine

open Sys2Proof

/-! ### Folds -/

/-- A relation that each step of a fold keeps, a whole fold keeps. -/
theorem foldOver_rel {σ β : Type} {R : σ → σ → Prop} (hrefl : ∀ s, R s s) (htrans : ∀ s t u, R s t → R t u → R s u)
    {f : σ → β → σ} (hf : ∀ s x, R s (f s x)) (l : List β) (s : σ) : R s (foldOver l f s) := by
  unfold foldOver
  induction l generalizing s with
  | nil => exact hrefl s
  | cons x l ih => exact htrans _ _ _ (hf s x) (ih (f s x))

/-- A fold comes to `Q` where the step of one item does, every other step keeps what that step asks for, and no step
leaves `Q`. -/
theorem foldOver_reaches {σ β : Type} {P Q : σ → Prop} {f : σ → β → σ} {x : β} {l : List β} {s : σ} (hx : x ∈ l)
    (hstep : ∀ s, P s → Q (f s x)) (hkeep : ∀ s y, y ≠ x → P s → P (f s y)) (hstay : ∀ s y, Q s → Q (f s y))
    (h : P s) : Q (foldOver l f s) := by
  have hend (l : List β) : ∀ s, Q s → Q (foldOver l f s) := by
    unfold foldOver
    induction l with
    | nil => exact fun s h => h
    | cons y l ih => exact fun s h => ih _ (hstay s y h)
  unfold foldOver at hend ⊢
  induction l generalizing s with
  | nil => cases hx
  | cons y l ih =>
    by_cases hy : y = x
    · subst hy
      exact hend l _ (hstep s h)
    · exact ih ((List.mem_cons.mp hx).resolve_left (Ne.symm hy)) (hkeep s y hy h)

/-! ### What the effects of a timeout leave alone -/

/-- `t` is `s` but for the groups, the books and ledgers, the host's queues and the records of events. -/
def WorkOnly (s t : State) : Prop :=
  ∃ groups moe host mss twn dbg,
    t = { s with groups := groups, moe := moe, host := host, mss := mss, twn := twn, dbg := dbg }

namespace WorkOnly

theorem refl (s : State) : WorkOnly s s := ⟨_, _, _, _, _, _, rfl⟩

theorem trans {s t u : State} (hst : WorkOnly s t) (htu : WorkOnly t u) : WorkOnly s u := by
  obtain ⟨_, _, _, _, _, _, rfl⟩ := hst
  obtain ⟨_, _, _, _, _, _, rfl⟩ := htu
  exact ⟨_, _, _, _, _, _, rfl⟩

variable {s t : State} (h : WorkOnly s t)
include h

theorem ctx_eq : t.ctx = s.ctx := by obtain ⟨_, _, _, _, _, _, rfl⟩ := h; rfl
theorem mem_eq : t.mem = s.mem := by obtain ⟨_, _, _, _, _, _, rfl⟩ := h; rfl
theorem regs_eq : t.regs = s.regs := by obtain ⟨_, _, _, _, _, _, rfl⟩ := h; rfl

end WorkOnly

theorem RecordsOnly.workOnly {s t : State} (h : RecordsOnly s t) : WorkOnly s t := by
  obtain ⟨_, _, _, rfl⟩ := h
  exact ⟨_, _, _, _, _, _, rfl⟩

theorem getUnit_modUnit_other {s : State} {g u j k : Nat} {f : UnitSt → UnitSt} (h : (j, k) ≠ (g, u)) :
    getUnit (modUnit s g u f) j k = getUnit s j k := by
  by_cases hj : j = g
  · subst hj
    have hk : k ≠ u := fun hk => h (hk ▸ rfl)
    rw [getUnit, modUnit, setUnit, getGroup_modGroup_same, Map.getD_set_other hk, getUnit]
  · exact getUnit_congr (congrArg GroupSt.units (getGroup_modGroup_other hj)) k

/-- A step that only frees and records: besides what `WorkOnly` says, every unit runs what it ran, and the programs
stand. -/
structure RunsKept (s t : State) : Prop where
  work : WorkOnly s t
  run : ∀ g u, (getUnit t g u).run = (getUnit s g u).run
  progs : ∀ g, (getGroup t g).progs = (getGroup s g).progs

namespace RunsKept

theorem refl (s : State) : RunsKept s s := ⟨.refl s, fun _ _ => rfl, fun _ => rfl⟩

theorem trans {s t u : State} (hst : RunsKept s t) (htu : RunsKept t u) : RunsKept s u :=
  ⟨hst.work.trans htu.work, fun g k => (htu.run g k).trans (hst.run g k), fun g => (htu.progs g).trans (hst.progs g)⟩

theorem foldOver {β : Type} {f : State → β → State} (hf : ∀ s x, RunsKept s (f s x)) (l : List β) (s : State) :
    RunsKept s (foldOver l f s) := foldOver_rel refl (fun _ _ _ => trans) hf l s

theorem of_groups {s t : State} (hw : WorkOnly s t) (hg : t.groups = s.groups) : RunsKept s t :=
  ⟨hw, fun g u => congrArg UnitSt.run (getUnit_congr (congrArg GroupSt.units (getGroup_congr hg g)) u),
    fun g => congrArg GroupSt.progs (getGroup_congr hg g)⟩

theorem of_records {s t : State} (h : RecordsOnly s t) : RunsKept s t := of_groups h.workOnly h.groups_eq

theorem modGroup {s : State} {g : Nat} {f : GroupSt → GroupSt}
    (hf : ∀ x, (f x).units = x.units ∧ (f x).progs = x.progs) : RunsKept s (modGroup s g f) := by
  have hgroup (j : Nat) : (getGroup (Machine.modGroup s g f) j).units = (getGroup s j).units ∧
      (getGroup (Machine.modGroup s g f) j).progs = (getGroup s j).progs := by
    by_cases hj : j = g
    · subst hj
      rw [getGroup_modGroup_same]
      exact hf _
    · rw [getGroup_modGroup_other hj]
      exact ⟨rfl, rfl⟩
  exact ⟨⟨_, _, _, _, _, _, rfl⟩, fun j u => congrArg UnitSt.run (getUnit_congr (hgroup j).1 u), fun j => (hgroup j).2⟩

end RunsKept

theorem progs_modUnit {s : State} {g u : Nat} {f : UnitSt → UnitSt} (j : Nat) :
    (getGroup (modUnit s g u f) j).progs = (getGroup s j).progs := by
  by_cases hj : j = g
  · subst hj
    rw [modUnit, setUnit, getGroup_modGroup_same]
  · exact congrArg GroupSt.progs (getGroup_modGroup_other hj)

theorem RunsKept.modUnit {s : State} {g u : Nat} {f : UnitSt → UnitSt} (hf : ∀ x, (f x).run = x.run) :
    RunsKept s (modUnit s g u f) := by
  refine ⟨⟨_, _, _, _, _, _, rfl⟩, fun j k => ?_, progs_modUnit⟩
  by_cases h : (j, k) = (g, u)
  · obtain ⟨rfl, rfl⟩ := Prod.mk.inj h
    rw [getUnit_modUnit_same, hf]
  · rw [getUnit_modUnit_other h]

/-! ### Tiles purged and buffers freed -/

section
variable (s : State) (g h : Nat)

theorem freeBuf_runsKept : RunsKept s (freeBuf g h s) := .modGroup fun _ => ⟨rfl, rfl⟩

theorem setBuf_runsKept (b : Buf) : RunsKept s (setBuf g h b s) := .modGroup fun _ => ⟨rfl, rfl⟩

theorem setMoe_runsKept (m : MoeSt) : RunsKept s { s with moe := m } := .of_groups ⟨_, _, _, _, _, _, rfl⟩ rfl

theorem settleShare_runsKept : RunsKept s (settleShare g h s) := by
  unfold settleShare
  split
  · split
    · exact (setMoe_runsKept s _).trans (freeBuf_runsKept ..)
    · exact .refl s
  · exact .refl s

theorem releaseTile_runsKept (unit heir : BitVec 16) : RunsKept s (releaseTile g h unit heir s) := by
  unfold releaseTile
  split
  · exact .refl s
  · split
    · split
      · exact (setBuf_runsKept ..).trans (settleShare_runsKept ..)
      · exact .refl s
    · split
      · exact freeBuf_runsKept ..
      · exact setBuf_runsKept ..

theorem releaseHeld_runsKept : RunsKept s (releaseHeld g h s) := by
  unfold releaseHeld
  split
  · split
    · exact (setBuf_runsKept ..).trans (settleShare_runsKept ..)
    · exact freeBuf_runsKept ..
  · exact .refl s

end

theorem purgeQueue_runsKept (g u taken : Nat) (p : Tile → Bool) (q : List QTile) (s : State) :
    RunsKept s (purgeQueue g u taken p q s).2 := by
  refine .foldOver (fun s x => ?_) _ s
  split
  · exact releaseTile_runsKept ..
  · exact .refl s

theorem purgeUnit_runsKept (g u : Nat) (p : Tile → Bool) (s : State) : RunsKept s (purgeUnit g u p s) := by
  unfold purgeUnit
  extract_lets un ta a b
  split
  · exact .refl s
  · exact ((purgeQueue_runsKept ..).trans (purgeQueue_runsKept ..)).trans (.modUnit fun _ => rfl)

theorem purgeHolds_runsKept (g : Nat) (p : Tile → Bool) (s : State) : RunsKept s (purgeHolds g p s) := by
  unfold purgeHolds
  dsimp only
  split
  · exact .refl s
  · exact (RunsKept.foldOver (fun s x => releaseHeld_runsKept s g (QTile.handle x)) _ s).trans
      (.modGroup fun _ => ⟨rfl, rfl⟩)

theorem purgeOffers_runsKept (own : Bool) (g : Nat) (p : Tile → Bool) (s : State) :
    RunsKept s (purgeOffers own g p s) := by
  unfold purgeOffers
  dsimp only
  split
  · exact .refl s
  · refine (RunsKept.foldOver (fun s o => ?_) _ s).trans (.modGroup fun _ => ⟨rfl, rfl⟩)
    split
    · exact releaseHeld_runsKept ..
    · exact freeBuf_runsKept ..

theorem purgeGroup_runsKept (g : Nat) (p : Tile → Bool) (s : State) : RunsKept s (purgeGroup g p s) :=
  ((RunsKept.foldOver (fun s u => purgeUnit_runsKept g u p s) _ s).trans (purgeHolds_runsKept ..)).trans
    (purgeOffers_runsKept ..)

theorem dropRouteWait_runsKept (c : Nat) (s : State) : RunsKept s (dropRouteWait c s) := by
  refine .foldOver (fun s g => ?_) _ s
  split
  · split
    · refine RunsKept.trans ?_ (freeBuf_runsKept ..)
      exact .modGroup fun _ => ⟨rfl, rfl⟩
    · exact .refl s
  · exact .refl s

theorem freeOwned_runsKept (c : Nat) (s : State) : RunsKept s (freeOwned c s) := by
  refine .foldOver (fun s g => ?_) _ s
  split
  · exact .modGroup fun _ => ⟨rfl, rfl⟩
  · exact .refl s

/-! ### A layer step ended (R259) -/

theorem freeStep_runsKept (l : Nat) (step : W64) (hs : List Nat) (s : State) : RunsKept s (freeStep l step hs s) :=
  ((purgeGroup_runsKept ..).trans (purgeOffers_runsKept ..)).trans
    (.foldOver (fun s h => freeBuf_runsKept s _ h) _ _)

theorem endGateStep_runsKept (l : Nat) (s : State) : RunsKept s (endGateStep l s) :=
  (freeStep_runsKept ..).trans (setMoe_runsKept ..)

theorem endCombineStep_runsKept (l : Nat) (s : State) : RunsKept s (endCombineStep l s) :=
  (freeStep_runsKept ..).trans (setMoe_runsKept ..)

theorem logEv_runsKept (code sev unit : Nat) (tag : Option (BitVec 24)) (args : List Nat) (s : State) :
    RunsKept s (logEv code sev unit tag args s) := .of_records (logEv_recordsOnly ..)

/-- A step taken only where a condition holds. -/
theorem RunsKept.ite {p : Prop} [Decidable p] {s t : State} (h : RunsKept s t) : RunsKept s (if p then t else s) := by
  split
  · exact h
  · exact .refl s

theorem endLayerStep_runsKept (c : Nat) (s : State) : RunsKept s (endLayerStep c s) := by
  refine .foldOver (fun s l => ?_) _ s
  extract_lets g s1 s2
  have hgate : RunsKept s s1 := .ite ((logEv_runsKept ..).trans (endGateStep_runsKept ..))
  have hcombine : RunsKept s1 s2 := .ite ((logEv_runsKept ..).trans (endCombineStep_runsKept ..))
  exact (hgate.trans hcombine).trans (.ite ((logEv_runsKept ..).trans (setMoe_runsKept ..)))

/-! ### Completions -/

theorem pushCpl_hostOnly (x : Cpl) (s : State) : (pushCpl x s).2 = { s with host := (pushCpl x s).2.host } := by
  unfold pushCpl
  split <;> rfl

theorem pushCpl_runsKept (x : Cpl) (s : State) : RunsKept s (pushCpl x s).2 :=
  .of_groups (by rw [pushCpl_hostOnly]; exact ⟨_, _, _, _, _, _, rfl⟩) (pushCpl_groups x s)

theorem completeSeq_runsKept (g opc : Nat) (tag : BitVec 24) (quiet : Bool) (st : Status) (result : W64) (s : State) :
    RunsKept s (completeSeq g opc tag quiet st result s) := by
  unfold completeSeq
  split
  · exact .refl s
  · dsimp only
    split
    · exact pushCpl_runsKept ..
    · exact .modGroup fun _ => ⟨rfl, rfl⟩

theorem completeUnit_runsKept (g u : Nat) (inv : Invoc) (st : Status) (pass : Nat) (btag : BitVec 24) (s : State) :
    RunsKept s (completeUnit g u inv st pass btag s) := by
  unfold completeUnit
  split
  · exact .refl s
  · extract_lets x q
    split
    · exact pushCpl_runsKept ..
    · exact .modUnit fun _ => rfl

theorem endHolds_runsKept (c : Nat) (s : State) : RunsKept s (endHolds c s) := by
  refine .foldOver (fun s g => ?_) _ s
  split
  · split
    · refine RunsKept.trans ?_ (completeSeq_runsKept ..)
      exact .modGroup fun _ => ⟨rfl, rfl⟩
    · exact .refl s
  · exact .refl s

theorem tracePush_recordsOnly (d : Nat) (bytes : List Byte) (s : State) : RecordsOnly s (tracePush d bytes s) := by
  unfold tracePush
  dsimp only
  split
  · exact count_recordsOnly ..
  · exact ⟨_, _, _, rfl⟩

theorem traceGroup_recordsOnly (kind g u : Nat) (tag : BitVec 24) (status invoc pass btag : Nat) (s : State) :
    RecordsOnly s (traceGroup kind g u tag status invoc pass btag s) := by
  unfold traceGroup
  split
  · exact tracePush_recordsOnly ..
  · exact .refl s

/-! ### Invocations that fail -/

/-- `t` is `s` where some run of unit u of group g has ended or changed. -/
structure UnitStops (g u : Nat) (s t : State) : Prop where
  work : WorkOnly s t
  run : ∀ j k, (j, k) ≠ (g, u) → (getUnit t j k).run = (getUnit s j k).run
  progs : ∀ j, (getGroup t j).progs = (getGroup s j).progs

theorem RunsKept.unitStops {g u : Nat} {s t : State} (h : RunsKept s t) : UnitStops g u s t :=
  ⟨h.work, fun j k _ => h.run j k, h.progs⟩

theorem UnitStops.trans {g u : Nat} {s t v : State} (hst : UnitStops g u s t) (htv : UnitStops g u t v) :
    UnitStops g u s v :=
  ⟨hst.work.trans htv.work, fun j k h => (htv.run j k h).trans (hst.run j k h),
    fun j => (htv.progs j).trans (hst.progs j)⟩

theorem modUnit_unitStops (g u : Nat) (f : UnitSt → UnitSt) (s : State) : UnitStops g u s (modUnit s g u f) :=
  ⟨⟨_, _, _, _, _, _, rfl⟩, fun _ _ h => congrArg UnitSt.run (getUnit_modUnit_other h), progs_modUnit⟩

section
variable (g u : Nat) (r : Run) (st : Status) (s : State)

/-- What follows the abandoning of a run that fails is recorded and completed. -/
theorem failRun_after : RunsKept (abandonRun g u r s) (failRun g u r st s) :=
  (((RunsKept.of_records (count_recordsOnly ..)).trans (logEv_runsKept ..)).trans
    (.of_records (traceGroup_recordsOnly ..))).trans (completeUnit_runsKept ..)

theorem failRun_unitStops : UnitStops g u s (failRun g u r st s) :=
  ((RunsKept.foldOver (fun s h => freeBuf_runsKept s g h) r.outs s).unitStops.trans (modUnit_unitStops ..)).trans
    (failRun_after g u r st s).unitStops

theorem failRun_run : (getUnit (failRun g u r st s) g u).run = none := by
  rw [(failRun_after g u r st s).run, getUnit_abandonRun]

end

/-- What a timeout of context c does to the run of one unit. -/
def doomRun (c g u : Nat) (s : State) : State :=
  match (getUnit s g u).run with
  | none => s
  | some r =>
    if r.inv.context.toNat = c then
      let waits : Bool := match getCtx s c with
        | some x => !x.onChip
        | none => false
      if waits ∨ atWaitPoint (getGroup s g) r then failRun g u (atBundle (getGroup s g) r) .contextTimedOut s
      else modUnit s g u (fun x => { x with run := some { r with doomed := true } })
    else s

theorem doomRuns_eq (c : Nat) (s : State) : doomRuns c s =
    foldOver (upTo 16) (fun s g => foldOver (upTo 12) (fun s u => doomRun c g u s) s) s := rfl

section
variable (c g u : Nat) (s : State)

theorem doomRun_unitStops : UnitStops g u s (doomRun c g u s) := by
  unfold doomRun
  split
  · exact (RunsKept.refl s).unitStops
  · split
    · extract_lets waits
      split
      · exact failRun_unitStops ..
      · exact modUnit_unitStops ..
    · exact (RunsKept.refl s).unitStops

/-- The run of a unit names the context and stands at a wait point. -/
def WaitsFor : Prop :=
  ∃ r, (getUnit s g u).run = some r ∧ r.inv.context.toNat = c ∧ atWaitPoint (getGroup s g) r = true

variable {c g u s}

theorem doomRun_waiting (h : WaitsFor c g u s) : (getUnit (doomRun c g u s) g u).run = none := by
  obtain ⟨r, hr, hc, hw⟩ := h
  simp only [doomRun, hr, hc, hw, or_true, if_true]
  exact failRun_run ..

theorem doomRun_idle (h : (getUnit s g u).run = none) : doomRun c g u s = s := by
  simp [doomRun, h]

theorem atWaitPoint_congr {x y : GroupSt} {r : Run} (h : x.progs = y.progs) : atWaitPoint x r = atWaitPoint y r := by
  rw [atWaitPoint, h, atWaitPoint]

theorem WaitsFor.other {j k : Nat} {t : State} (h : WaitsFor c g u s) (ht : UnitStops j k s t)
    (hne : (g, u) ≠ (j, k)) : WaitsFor c g u t := by
  obtain ⟨r, hr, hc, hw⟩ := h
  exact ⟨r, (ht.run g u hne).trans hr, hc, (atWaitPoint_congr (ht.progs g)).trans hw⟩

/-- A unit that runs nothing goes on running nothing when another or its own run is doomed. -/
theorem doomRun_stays_idle (j k : Nat) (h : (getUnit s g u).run = none) :
    (getUnit (doomRun c j k s) g u).run = none := by
  by_cases hne : (g, u) = (j, k)
  · obtain ⟨rfl, rfl⟩ := Prod.mk.inj hne
    rw [doomRun_idle h]
    exact h
  · rw [(doomRun_unitStops c j k s).run g u hne]
    exact h

theorem doomUnits_stay_idle (j : Nat) (h : (getUnit s g u).run = none) :
    (getUnit (foldOver (upTo 12) (fun s k => doomRun c j k s) s) g u).run = none :=
  foldOver_rel (R := fun s t => (getUnit s g u).run = none → (getUnit t g u).run = none) (fun _ h => h)
    (fun _ _ _ hst htu h => htu (hst h)) (fun _ k h => doomRun_stays_idle j k h) _ s h

theorem WaitsFor.otherGroup {j : Nat} (h : WaitsFor c g u s) (hj : j ≠ g) :
    WaitsFor c g u (foldOver (upTo 12) (fun s k => doomRun c j k s) s) :=
  foldOver_rel (R := fun s t => WaitsFor c g u s → WaitsFor c g u t) (fun _ h => h)
    (fun _ _ _ hst htu h => htu (hst h))
    (fun s k h => h.other (doomRun_unitStops c j k s) fun he => hj (Prod.mk.inj he).1.symm) _ s h

/-- A run that names the context at a wait point does not outlast the timeout. -/
theorem doomRuns_waiting (hg : g < 16) (hu : u < 12) (h : WaitsFor c g u s) :
    (getUnit (doomRuns c s) g u).run = none := by
  rw [doomRuns_eq]
  refine foldOver_reaches (P := WaitsFor c g u) (Q := fun s => (getUnit s g u).run = none) (x := g)
    (List.mem_range.mpr hg) (fun s hs => ?_) (fun _ _ hj hs => hs.otherGroup hj)
    (fun _ j hs => doomUnits_stay_idle j hs) h
  exact foldOver_reaches (P := WaitsFor c g u) (Q := fun s => (getUnit s g u).run = none) (x := u)
    (List.mem_range.mpr hu) (fun _ hs => doomRun_waiting hs)
    (fun s k hk hs => hs.other (doomRun_unitStops c g k s) fun he => hk (Prod.mk.inj he).2.symm)
    (fun _ k hs => doomRun_stays_idle g k hs) hs

end

theorem doomRuns_workOnly (c : Nat) (s : State) : WorkOnly s (doomRuns c s) := by
  rw [doomRuns_eq]
  exact foldOver_rel .refl (fun _ _ _ => .trans) (fun s g =>
    foldOver_rel .refl (fun _ _ _ => .trans) (fun s u => (doomRun_unitStops c g u s).work) _ s) _ s

/-! ### The buffers of the context -/

/-- No buffer of group g is the context's. -/
def FreeOf (c g : Nat) (s : State) : Prop := ∀ e ∈ (getGroup s g).bufs, e.2.owner ≠ ownerCtx c

theorem FreeOf.congr {c g : Nat} {s t : State} (h : FreeOf c g s)
    (hb : (getGroup t g).bufs = (getGroup s g).bufs) : FreeOf c g t := by
  rw [FreeOf, hb]
  exact h

/-- What freeing the context's buffers does in one group. -/
def freeOwnedIn (c : Nat) (s : State) (g : Nat) : State :=
  if (getGroup s g).bufs.any (fun e => e.2.owner == ownerCtx c) then
    modGroup s g (fun gr => { gr with bufs := Map.keep gr.bufs (fun _ b => b.owner != ownerCtx c) })
  else s

theorem freeOwnedIn_frees (c g : Nat) (s : State) : FreeOf c g (freeOwnedIn c s g) := by
  unfold freeOwnedIn
  split
  · intro e he
    rw [getGroup_modGroup_same] at he
    exact bne_iff_ne.mp (List.mem_filter.mp he).2
  · next hnone =>
    intro e he howner
    exact hnone (List.any_eq_true.mpr ⟨e, he, by rw [howner, BEq.rfl]⟩)

theorem freeOwnedIn_stays {c g j : Nat} {s : State} (h : FreeOf c g s) : FreeOf c g (freeOwnedIn c s j) := by
  by_cases hj : g = j
  · subst hj
    exact freeOwnedIn_frees c g s
  · unfold freeOwnedIn
    split
    · exact h.congr (congrArg GroupSt.bufs (getGroup_modGroup_other hj))
    · exact h

theorem freeOwned_frees {c g : Nat} (hg : g < 16) (s : State) : FreeOf c g (freeOwned c s) :=
  foldOver_reaches (f := freeOwnedIn c) (P := fun _ => True) (List.mem_range.mpr hg)
    (fun s _ => freeOwnedIn_frees c g s) (fun _ _ _ _ => trivial) (fun _ _ h => freeOwnedIn_stays h) trivial

theorem bufs_modGroup {s : State} {j : Nat} {f : GroupSt → GroupSt} (hf : ∀ x, (f x).bufs = x.bufs) (g : Nat) :
    (getGroup (modGroup s j f) g).bufs = (getGroup s g).bufs := by
  by_cases hg : g = j
  · subst hg
    rw [getGroup_modGroup_same, hf]
  · rw [getGroup_modGroup_other hg]

theorem completeSeq_bufs (j opc : Nat) (tag : BitVec 24) (quiet : Bool) (st : Status) (result : W64) (s : State)
    (g : Nat) : (getGroup (completeSeq j opc tag quiet st result s) g).bufs = (getGroup s g).bufs := by
  unfold completeSeq
  split
  · rfl
  · dsimp only
    split
    · rw [getGroup_congr (pushCpl_groups ..)]
    · rw [bufs_modGroup]
      exact fun _ => rfl

theorem endHolds_bufs (c : Nat) (s : State) (g : Nat) :
    (getGroup (endHolds c s) g).bufs = (getGroup s g).bufs := by
  refine foldOver_rel (R := fun s t => (getGroup t g).bufs = (getGroup s g).bufs) (fun _ => rfl)
    (fun _ _ _ hst htu => htu.trans hst) (fun s j => ?_) _ s
  split
  · split
    · rw [completeSeq_bufs, bufs_modGroup]
      exact fun _ => rfl
    · rfl
  · rfl

/-! ### The timeout -/

section
variable {c : Nat} {x : Ctx} {s : State}

/-- A context's entry once its round has timed out. -/
def timedOut (x : Ctx) : Ctx := { x with state := .timedOut, roundOpen := false, counts := [], payloads := [] }

/-- The context's invocations, tiles and buffers gone: the state of a timeout before its holds end. -/
def contextCleared (c : Nat) (s : State) : State :=
  freeOwned c (endLayerStep c (dropRouteWait c
    (foldOver (upTo 16) (fun s g => purgeGroup g (fun t => t.ctx.toNat == c) s) (doomRuns c s))))

/-- A timeout, all but the event's records and the mirror. -/
theorem timeoutEffects_eq (hx : getCtx s c = some x) (hs : s.bpm.sramChk = []) (hb : BankGood c s) :
    ∃ t, RecordsOnly (endHolds c (contextCleared c (setCtx c (timedOut x) s))) t ∧
      timeoutEffects c s = mirrorCtx c (storeBank c t) := by
  refine ⟨?state, ?records, ?effects⟩
  case effects =>
    simp only [timeoutEffects, touchCtx_good hs hb, hx]
    rfl
  case records => exact (logEv_recordsOnly ..).trans (count_recordsOnly ..)

theorem contextCleared_after (c : Nat) (s : State) : RunsKept (doomRuns c s) (contextCleared c s) :=
  (((RunsKept.foldOver (fun s g => purgeGroup_runsKept g _ s) _ _).trans (dropRouteWait_runsKept ..)).trans
    (endLayerStep_runsKept ..)).trans (freeOwned_runsKept ..)

/-- The deadline of a short round, past with no tile in transit and the context not held over, times it out. -/
theorem roundTimeout_short {n : Nat} (hx : getCtx s c = some x) (hst : x.state = .active ∨ x.state = .banked)
    (hopen : x.roundOpen = true) (htime : x.timeout ≠ 0) (hpast : x.deadline < s.time.ftc.toNat)
    (hn : x.required = some n) (hshort : x.arrived < n) (hd : s.dbg.dampered = false) (hp : powered s = true)
    (hheld : heldOver s x = false) (htransit : tileInTransit s x c = false) :
    roundTimeout c s = timeoutEffects c s := by
  have htime' : ¬ x.timeout = 0#32 := htime
  have hpast' : x.deadline < now s := hpast
  simp [roundTimeout, hx, hst, hopen, htime', hpast', hn, hshort, hd, hp, hheld, htransit]

end

/-- Settles O35: the context's entry is set first, and no later effect touches the table; the runs at a wait point have
failed before the tiles are purged, and the buffers are freed before the holds end. -/
theorem roundsTimeOut : Obligations.RoundsTimeOut := by
  unfold Obligations.RoundsTimeOut
  intro c x n s hs hchk hx hst hopen htime hpast hn hshort hd hp hheld htransit
  have hb : BankGood c.toNat s := bankGood_of_unmarked hchk
  obtain ⟨v, hv, heffects⟩ := timeoutEffects_eq hx hs hb
  let s1 := setCtx c.toNat (timedOut x) s
  have hholds : RunsKept (doomRuns c.toNat s1) (endHolds c.toNat (contextCleared c.toNat s1)) :=
    (contextCleared_after ..).trans (endHolds_runsKept ..)
  have hruns : RunsKept (doomRuns c.toNat s1) v := hholds.trans (.of_records hv)
  have hwork : WorkOnly s1 v := (doomRuns_workOnly ..).trans hruns.work
  have hmem : v.mem = s.mem := hwork.mem_eq
  have hgood : BankGood c.toNat v := bankGood_of_unmarked (by rw [hmem]; exact hchk)
  have hv1 : getCtx v c.toNat = some (timedOut x) := by
    rw [getCtx, hwork.ctx_eq]
    exact getCtx_setCtx_same
  obtain ⟨cells, hstore⟩ := storeBank_memOnly hgood
  have hm := mirrorCtx_recordsOnly c.toNat (storeBank c.toNat v)
  have hctx : (mirrorCtx c.toNat (storeBank c.toNat v)).ctx = s1.ctx := by
    rw [hm.ctx_eq, hstore]
    exact hwork.ctx_eq
  have hgroups : (mirrorCtx c.toNat (storeBank c.toNat v)).groups = v.groups := by
    rw [hm.groups_eq, hstore]
  have hexec : exec (.roundTimeout c) s = .next (mirrorCtx c.toNat (storeBank c.toNat v)) :=
    congrArg Host.Outcome.next ((roundTimeout_short hx hst hopen htime hpast hn hshort hd hp hheld htransit).trans
      heffects)
  refine ⟨_, hexec, ?entry, fun k hk => ?others, fun g hg => ?bufs, fun g u r hg hu hr hc hw => ?runs, fun hon => ?mem,
    ?regs⟩
  case entry =>
    rw [getCtx, hctx]
    exact getCtx_setCtx_same
  case others =>
    rw [getCtx, hctx]
    exact Map.get?_set_other hk
  case bufs =>
    have hfreed : FreeOf c.toNat g (contextCleared c.toNat s1) := freeOwned_frees hg _
    have hbufs : (getGroup v g).bufs = (getGroup (contextCleared c.toNat s1) g).bufs :=
      (congrArg GroupSt.bufs (getGroup_congr hv.groups_eq g)).trans (endHolds_bufs ..)
    rw [getGroup_congr hgroups]
    exact hfreed.congr hbufs
  case runs =>
    have hended := doomRuns_waiting (c := c.toNat) (s := s1) hg hu ⟨r, hr, hc, hw⟩
    rw [getUnit_congr (congrArg GroupSt.units (getGroup_congr hgroups g)), hruns.run]
    exact hended
  case mem => rw [hm.mem_eq, storeBank_onChip hv1 hon, hmem]
  case regs =>
    rw [hm.regs_eq, hstore]
    exact hwork.regs_eq

end Sys2Proof.Machine
end

section
/-! Actions on member groups and contexts (R217-R221, R234). The statement does not ask that the context table list each
context once, as every table in order does. REFORM finds a member group's contexts among the table's entries and then
treats each by its number, so that an entry hidden behind another of the same number brings in the entry before it. -/

namespace Sys2Proof.Machine

open Sys2Proof

/-! ### A re-formation up to the storing of its contexts' records -/

/-- A context that takes part in a re-formation: out of its round, its sequences at 0, Timed out no more (R218). -/
def rejoined (x : Ctx) : Ctx :=
  { x with state := if x.state = .timedOut then (if x.onChip then .active else .banked) else x.state, expSeq := [],
           roundOpen := false }

/-- The open rounds of a member group's contexts ended as by a timeout, and the group stored. -/
def membersStored (m : Nat) (e : BitVec 32) (chips : List Chip) (s : State) : State :=
  let s1 := foldOver (boundCtxs s m) (fun s0 c =>
    let s := touchCtx c s0
    match getCtx s c with
    | some x => if x.roundOpen then timeoutEffects c s else s
    | none => s) s
  writeSram (.store .members m) 0 (1 + (chips.length + 3) / 4)
    { s1 with ctx := { s1.ctx with groups := Map.set s1.ctx.groups m { chips := chips, epoch := e } } }

/-- A re-formation once its contexts have rejoined, what was of an older epoch has gone, and the outcome is logged. -/
def reformed (m : Nat) (e : BitVec 32) (chips : List Chip) (s : State) : State :=
  let bound := boundCtxs s m
  let s3 := foldOver bound (fun s c => modCtx c rejoined s) (membersStored m e chips s)
  let stale (t : Tile) : Bool := bound.contains t.ctx.toNat && decide (t.epoch < e)
  let s4 := restartStreams bound (foldOver (upTo 16) (fun s g => purgeStale g stale s) s3)
  let s5 := foldOver s4.ctx.tallies (fun s x =>
    if fld (reg s (Reg.tallyRelease x.1)) 41 32 = m then setTally x.1 { x.2 with relSeq := 0 } s else s) s4
  count 8 6 0 (logEv (codeStatus 8 .ok) 0 0xFF none [m, e.toNat] s5)

/-- A re-formation ends by storing the records of its contexts that are in the bank. -/
theorem reformApply_eq (m : Nat) (e : BitVec 32) (chips : List Chip) (s : State) : reformApply m e chips s =
    foldOver (boundCtxs s m) (fun s c => mirrorCtx c (storeBank c s)) (mirrorMgrp m (reformed m e chips s)) := rfl

theorem mirrorMgrp_recordsOnly (m : Nat) (s : State) : RecordsOnly s (mirrorMgrp m s) := by
  unfold mirrorMgrp
  split
  · exact mirrorSend_recordsOnly ..
  · exact .refl s

theorem mem_withStatus_ctxAction {code c m : Nat} {st st' : Status} {t : State} :
    (withStatus (ctxAction code c m (st, t)).2 st').mem = t.mem := rfl

/-- REFORM with a newer epoch, in the device's half and with a membership staged, is carried out. -/
theorem exec_reform_newer {m : MgNo} {k n : Nat} {e : BitVec 32} {s : State} (hp : s.pwr.porst = true)
    (hr : s.mss.romOnly = false) (hf : s.twn.fenced = false) (hm : m.toNat = k) (hh : halfRefused s 5 k = false)
    (hn : fld (reg s (Reg.ctxArg 1)) 12 0 = n) (h1 : 1 ≤ n) (h2 : n ≤ 4096) (he : (getMGroup s k).epoch < e) :
    exec (.reform m e) s = .next (withStatus (ctxAction 7 0 k (.ok, reformApply k e (stagedChips s n) s)).2 .ok) := by
  subst hm
  have hexec : exec (.reform m e) s = _ := hostCmd_unfenced (op := reform m.toNat e) hp hr hf
  have hrange : ¬ (n = 0 ∨ 4096 < n) := by omega
  have hnew : ¬ e < (getMGroup s m.toNat).epoch := BitVec.not_lt.mpr (BitVec.le_of_lt he)
  have hdiff : e ≠ (getMGroup s m.toNat).epoch := fun h => BitVec.lt_irrefl _ (h ▸ he)
  have hreform : reform m.toNat e s = ctxAction 7 0 m.toNat (.ok, reformApply m.toNat e (stagedChips s n) s) := by
    simp only [reform, hn, if_neg hrange, inHalf_own hh, if_neg hnew, if_neg hdiff]
  rw [hexec, hreform]
  rfl

/-- A re-formation of one context, off chip with a place in the bank, stores that context's record there. -/
theorem readByte_reformApply {m o c a : Nat} {e : BitVec 32} {chips : List Chip} {x : Ctx} {s : State}
    (hbound : boundCtxs s m = [c]) (hx : getCtx (reformed m e chips s) c = some x) (hoff : x.onChip = false)
    (ho : bankOffset (reformed m e chips s) c = some o) (hmem : (reformed m e chips s).mem = { cells := [], chk := [] })
    (ha : o ≤ a ∧ a < o + 4096) :
    Memory.readByte (reformApply m e chips s).mem.cells a = nthD (ctxRecord x) (a - o) 0 := by
  have hm := mirrorMgrp_recordsOnly m (reformed m e chips s)
  have hmem' : (mirrorMgrp m (reformed m e chips s)).mem = { cells := [], chk := [] } := hm.mem_eq.trans hmem
  have hx' : getCtx (mirrorMgrp m (reformed m e chips s)) c = some x := by
    rw [getCtx, hm.ctx_eq]
    exact hx
  have ho' : bankOffset (mirrorMgrp m (reformed m e chips s)) c = some o := by
    obtain ⟨_, _, _, ht⟩ := hm
    rw [ht]
    exact ho
  have hstore := storeBank_bound hx' hoff ho' (bankGood_of_unmarked (by rw [hmem']))
  have hread := readByte_written (o := o) (a := a) (l := ctxRecord x) wf_nil
  rw [ctxRecord_length, if_pos ha] at hread
  rw [reformApply_eq, hbound]
  change Memory.readByte (mirrorCtx c (storeBank c _)).mem.cells a = _
  rw [(mirrorCtx_recordsOnly ..).mem_eq, hstore, hmem']
  exact hread

/-! ### A context listed twice -/

/-- A context of member group 1, in the bank. -/
def bankedOfGroup1 : Ctx :=
  { arg0 := 0x100000000, timeout := 0, stepInit := 0, state := .banked, onChip := false, expSeq := [], step := 0,
    lastAdv := 0, roundOpen := false, openStamp := 0, deadline := 0, arrived := 0, required := none, counts := [],
    payloads := [] }

/-- A context of member group 0, on chip. -/
def activeOfGroup0 : Ctx := { bankedOfGroup1 with arg0 := 0, state := .active, onChip := true }

/-- The firmware runs, no fence stands, and one member is staged. The bank lies at the bottom of HBM4. Context 0 is
listed twice: in the bank with member group 1, and hidden behind that, on chip with member group 0. -/
def twiceListed : State :=
  { State.reset with
    pwr := { PowerSt.reset with porst := true }
    mss := { MssSt.reset with romOnly := false }
    regs := [(Reg.ctxArg 1, 1)]
    cord := { CordSt.reset with claims := [(0x20, { runtime := false, resource := 0x20, base := 0, len := 64 })] }
    ctx := { State.reset.ctx with table := [(0, bankedOfGroup1), (0, activeOfGroup0)] } }

/-- No context that the table gives by its number is of member group 0. -/
theorem twiceListed_hidden {c : Nat} {x : Ctx} (hx : getCtx twiceListed c = some x) : CtxArg.mgrp x.arg0 ≠ 0 := by
  by_cases hc : 0 = c
  · subst hc
    obtain rfl : bankedOfGroup1 = x := Option.some.inj hx
    decide
  · have hnone : getCtx twiceListed c = none := by
      simp [getCtx, twiceListed, Map.get?, hc]
    exact nomatch hnone.symm.trans hx

set_option maxRecDepth 100000 in
/-- A re-formation of member group 0 has context 0 rejoin, by the entry that is in the bank. -/
theorem reformed_twiceListed : getCtx (reformed 0 1 (stagedChips twiceListed 1) twiceListed) 0 =
      some (rejoined bankedOfGroup1) ∧
    bankOffset (reformed 0 1 (stagedChips twiceListed 1) twiceListed) 0 = some 0 ∧
    (reformed 0 1 (stagedChips twiceListed 1) twiceListed).mem = { cells := [], chk := [] } := by
  decide +kernel

/-- Refutes O33: REFORM may write memory although every context that the table gives for the member group is on chip.
Here it gives none for member group 0, whose one entry is hidden; REFORM of that group finds the entry, and stores the
record of the context of the same number that is in the bank: octet 4, which is MGRP's lowest, becomes 1. -/
theorem not_contextActionsRun : ¬ Obligations.ContextActionsRun := by
  unfold Obligations.ContextActionsRun
  intro h
  obtain ⟨hreform, -⟩ := h twiceListed rfl rfl rfl rfl rfl
  have hh : halfRefused twiceListed 5 0 = false := by decide
  have hn : fld (reg twiceListed (Reg.ctxArg 1)) 12 0 = 1 := by decide
  have hnewer : (getMGroup twiceListed 0).epoch < 1#32 := by decide
  obtain ⟨hstored, -⟩ := hreform 0 1 hh (hn ▸ Nat.le_refl 1) (hn ▸ by decide)
  obtain ⟨t, hexec, -, -, -, -, -, -, -, hmem, -⟩ := hstored hnewer
  have hkept : t.mem = twiceListed.mem := hmem fun c x hx hgroup => absurd hgroup (twiceListed_hidden hx)
  obtain ⟨hx, ho, hclean⟩ := reformed_twiceListed
  have hoctet := readByte_reformApply (a := 4) (rfl : boundCtxs twiceListed 0 = [0]) hx rfl ho hclean (by decide)
  rw [nthD_ctxRecord_arg0 _ (by decide)] at hoctet
  have hrun := exec_reform_newer (m := 0) (k := 0) (e := 1) (s := twiceListed) rfl rfl rfl rfl hh hn
    (by decide) (by decide) hnewer
  rw [← Host.Outcome.next.inj (hrun.symm.trans hexec), mem_withStatus_ctxAction] at hkept
  rw [hkept] at hoctet
  exact absurd hoctet (by decide)

end Sys2Proof.Machine
end

section
/-! Layer tables and placement: what a checked write comes to, stored or refused (R244-R246, R294). -/

namespace Sys2Proof.Machine

open Sys2Proof

/-! ### The outcome of a checked write -/

/-- A write of these tables with the firmware running and no fence shows its outcome in MOE_WRITE_STATUS and as its
status. -/
theorem hostCmd_moeStatus {op : State → Status × State} {l : LtabNo} {check : Nat} {x : Status} {s t : State}
    (hp : s.pwr.porst = true) (hr : s.mss.romOnly = false) (hf : s.twn.fenced = false)
    (hop : op s = moeStatus l.toNat check x t) : hostCmd (unfenced op) s = .next { t with
      lastStatus := x, moe := { t.moe with wrStatus := x, wrCheck := BitVec.ofNat 8 check, wrLtab := l } } := by
  rw [hostCmd_unfenced hp hr hf, hop]
  simp only [moeStatus, BitVec.ofNat_toNat, BitVec.setWidth_eq]
  rfl

/-! ### A word of a layer table (R244, R245) -/

/-- The table's word stored. -/
def wordStored (l w : Nat) (v : W64) (s : State) : State := setReg s (Reg.layer l w) (v &&& ltMask w)

/-- Is the table VALID before the write or as it would stand after it? -/
def tableChecked (l w : Nat) (v : W64) (s : State) : Bool := ltValid s l || ltValid (wordStored l w v s) l

/-- The streams of a VALID table's book start again (R257). -/
def streamsRestarted (l : Nat) (s : State) : State :=
  match Map.get? s.moe.books l with
  | some b =>
    if ltValid s l then { s with moe := { s.moe with books := Map.set s.moe.books l { b with streams := [] } } }
    else s
  | none => s

theorem mirrorLayer_recordsOnly (l : Nat) (s : State) : RecordsOnly s (mirrorLayer l s) := by
  unfold mirrorLayer
  split
  · exact mirrorSend_recordsOnly ..
  · exact .refl s

theorem RecordsOnly.moe_eq {s t : State} (h : RecordsOnly s t) : t.moe = s.moe := by obtain ⟨_, _, _, rfl⟩ := h; rfl

/-- A table's word stored, its book's streams started again, and the change mirrored. -/
def layerStored (l w : Nat) (v : W64) (s : State) : State := mirrorLayer l (streamsRestarted l (wordStored l w v s))

/-- Besides the word the books and the records of events change, and nothing else. -/
theorem layerStored_eq (l w : Nat) (v : W64) (s : State) : ∃ books mss twn dbg, layerStored l w v s =
    { wordStored l w v s with moe := { s.moe with books := books }, mss := mss, twn := twn, dbg := dbg } := by
  have hbooks : ∃ books, streamsRestarted l (wordStored l w v s) =
      { wordStored l w v s with moe := { s.moe with books := books } } := by
    unfold streamsRestarted
    split
    · split
      · exact ⟨_, rfl⟩
      · exact ⟨_, rfl⟩
    · exact ⟨_, rfl⟩
  obtain ⟨books, hbooks⟩ := hbooks
  obtain ⟨mss, twn, dbg, hmirror⟩ := mirrorLayer_recordsOnly l (streamsRestarted l (wordStored l w v s))
  exact ⟨books, mss, twn, dbg, by rw [layerStored, hmirror, hbooks]⟩

section
variable {l w : Nat} {v : W64} {s : State}

theorem reg_layerStored_same (hs : Map.sorted s.regs = true) :
    reg (layerStored l w v s) (Reg.layer l w) = v &&& ltMask w := by
  obtain ⟨_, _, _, _, h⟩ := layerStored_eq l w v s
  rw [h]
  exact reg_setReg_same hs

theorem reg_layerStored_other {a : Nat} (ha : a ≠ Reg.layer l w) : reg (layerStored l w v s) a = reg s a := by
  obtain ⟨_, _, _, _, h⟩ := layerStored_eq l w v s
  rw [h]
  exact reg_setReg_other ha

theorem layerStored_frame : (layerStored l w v s).groups = s.groups ∧ (layerStored l w v s).mem = s.mem ∧
    (layerStored l w v s).ctx = s.ctx := by
  obtain ⟨_, _, _, _, h⟩ := layerStored_eq l w v s
  rw [h]
  exact ⟨rfl, rfl, rfl⟩

theorem get?_books_layerStored {b : Book} (hb : Map.get? s.moe.books l = some b)
    (hv : ltValid (wordStored l w v s) l = true) :
    Map.get? (layerStored l w v s).moe.books l = some { b with streams := [] } := by
  have hword : Map.get? (wordStored l w v s).moe.books l = some b := hb
  rw [layerStored, (mirrorLayer_recordsOnly ..).moe_eq]
  simp [streamsRestarted, hword, hv]

end

section
variable {l w : Nat} {v : W64} {s : State} (hh : halfRefused s 9 l = false) (hc : claimHeld s 0x21 = true)
include hh hc

theorem layerWrite_wordOutOfRange (hk : tableChecked l w v s = false) (hw : ltWordOk w v = false) :
    layerWrite l w v s = moeStatus l 0 .fieldInvalid s := by
  rw [tableChecked, wordStored] at hk
  simp [layerWrite, hh, hc, hk, hw]

theorem layerWrite_stationAbsent (hk : tableChecked l w v s = true)
    (hch : ltCheck (wordStored l w v s) l = 1 ∨ ltCheck (wordStored l w v s) l = 2) :
    layerWrite l w v s = moeStatus l (ltCheck (wordStored l w v s) l) .stationAbsent s := by
  rw [tableChecked] at hk
  rw [wordStored] at hk hch ⊢
  simp [layerWrite, hh, hc, hk, hch]

theorem layerWrite_outOfBounds (hk : tableChecked l w v s = true) (hch : ltCheck (wordStored l w v s) l = 3) :
    layerWrite l w v s = moeStatus l 3 .resourceBound s := by
  rw [tableChecked] at hk
  rw [wordStored] at hk hch
  simp [layerWrite, hh, hc, hk, hch]

/-- A word that passes is refused while a round is open, and is otherwise stored. -/
theorem layerWrite_passes (hch : tableChecked l w v s = true → ltCheck (wordStored l w v s) l = 0)
    (hw : tableChecked l w v s = false → ltWordOk w v = true) : layerWrite l w v s =
      if ltRoundOpen s l then moeStatus l 4 .resourceBound s
      else moeStatus l 0 .ok (layerStored l w v s) := by
  cases hk : tableChecked l w v s with
  | true =>
    have hpass := hch hk
    rw [tableChecked] at hk
    rw [wordStored] at hk hpass
    simp [layerWrite, hh, hc, hk, hpass, layerStored, streamsRestarted, wordStored] <;> rfl
  | false =>
    have hok := hw hk
    rw [tableChecked, wordStored] at hk
    simp [layerWrite, hh, hc, hk, hok, layerStored, streamsRestarted, wordStored] <;> rfl

end

/-! ### A placement entry (R246) -/

/-- The bits of a placement entry that are stored (Table 11.2). -/
theorem placeMask_eq : maskOf 63 56 ||| maskOf 47 32 ||| maskOf 15 0 = 0xFF00FFFF0000FFFF#64 := by decide

/-- A whole word is stored with fresh check symbols, whatever was marked. -/
theorem writeMem_wholeWord {reader unit o : Nat} {tag : Option (BitVec 24)} {b : List Byte} {s : State}
    (ho : o % 8 = 0) (hb : b.length = 8) : writeMem reader unit tag o b s =
      { s with mem := { cells := Memory.writeBytes s.mem.cells o b, chk := Map.erase s.mem.chk o } } := by
  have hwords : wordsOf o 8 = [o] := by
    have hlast : (o + 8 - 1) / 8 - o / 8 + 1 = 1 := by omega
    have hfirst : (o / 8 + 0) * 8 = o := by omega
    rw [wordsOf, if_neg (by decide), hlast, List.range_one, List.map_singleton, hfirst]
  have hpart : slice b (o - o) (o + 8 - o) = b := by simp [slice, ← hb]
  rw [writeMem, hb, hwords, List.foldl_cons, List.foldl_nil]
  simp only [Nat.min_self, Nat.max_self, hpart]
  rw [if_pos (Nat.add_sub_cancel_left ..)]

/-- Entries lie on whole words of the region. -/
theorem placeOffset_aligned {s : State} {b l e o : Nat} (h : placeOffset s b l e = some o) : o % 8 = 0 := by
  rw [placeOffset, regionBase, Option.map_map, Option.map_eq_some_iff] at h
  obtain ⟨c, -, rfl⟩ := h
  simp only [Function.comp_apply]
  omega

theorem mirrorPlace_recordsOnly (b l e : Nat) (v : W64) (s : State) : RecordsOnly s (mirrorPlace b l e v s) := by
  unfold mirrorPlace
  split
  · exact mirrorSend_recordsOnly ..
  · exact .refl s

/-- Fresh check symbols in SRAM change its marks alone. -/
theorem writeSram_marks (ob : SramObj) (lo n : Nat) (s : State) :
    ∃ chk, writeSram ob lo n s = { s with bpm := { s.bpm with sramChk := chk } } := by
  unfold writeSram
  split
  · exact ⟨_, rfl⟩
  · exact ⟨_, rfl⟩

/-- An entry stored in its register, and in its word of table SRAM where the cache holds it. -/
def entryStored (b l e : Nat) (v : W64) (s : State) : State :=
  let s0 := setReg s (Reg.place b l e) v
  if s0.moe.cache.contains (b, l, e) then writeSram (.table (Reg.place b l e)) 0 1 s0 else s0

theorem entryStored_eq (b l e : Nat) (v : W64) (s : State) :
    ∃ chk, entryStored b l e v s = { setReg s (Reg.place b l e) v with bpm := { s.bpm with sramChk := chk } } := by
  unfold entryStored
  dsimp only
  split
  · exact writeSram_marks ..
  · exact ⟨_, rfl⟩

/-- Where the region has a place for it, an entry goes to that word of memory too. -/
theorem placeStore_placed {b l e o : Nat} {v : W64} {s : State} (ho : placeOffset s b l e = some o) :
    placeStore b l e v s = { entryStored b l e v s with mem :=
      { cells := Memory.writeBytes s.mem.cells o (leBytes 8 v.toNat), chk := Map.erase s.mem.chk o } } := by
  obtain ⟨chk, hstored⟩ := entryStored_eq b l e v s
  have hplace : placeStore b l e v s = writeMem 5 0xFF none o (leBytes 8 v.toNat) (entryStored b l e v s) := by
    simp [placeStore, ho, entryStored]
  rw [hplace, writeMem_wholeWord (placeOffset_aligned ho) (Laws.leBytes_length 8 v.toNat), hstored]
  rfl

theorem placeStore_unplaced {b l e : Nat} {v : W64} {s : State} (ho : placeOffset s b l e = none) :
    placeStore b l e v s = entryStored b l e v s := by
  simp [placeStore, ho, entryStored]

/-- An entry stored changes the register, the marks of SRAM and memory, and nothing else. -/
theorem placeStore_eq (b l e : Nat) (v : W64) (s : State) : ∃ chk mem, placeStore b l e v s =
    { setReg s (Reg.place b l e) v with bpm := { s.bpm with sramChk := chk }, mem := mem } := by
  obtain ⟨chk, hstored⟩ := entryStored_eq b l e v s
  cases ho : placeOffset s b l e with
  | none => exact ⟨chk, _, (placeStore_unplaced ho).trans hstored⟩
  | some o =>
    rw [placeStore_placed ho, hstored]
    exact ⟨chk, _, rfl⟩

/-- An entry stored and mirrored. -/
def placeStored (b l e : Nat) (v : W64) (s : State) : State := mirrorPlace b l e v (placeStore b l e v s)

section
variable {b l e : Nat} {v : W64} {s : State}

theorem reg_placeStored_same (hs : Map.sorted s.regs = true) : reg (placeStored b l e v s) (Reg.place b l e) = v := by
  obtain ⟨_, _, h⟩ := placeStore_eq b l e v s
  rw [placeStored, (mirrorPlace_recordsOnly ..).reg_eq, h]
  exact reg_setReg_same hs

theorem reg_placeStored_other {a : Nat} (ha : a ≠ Reg.place b l e) : reg (placeStored b l e v s) a = reg s a := by
  obtain ⟨_, _, h⟩ := placeStore_eq b l e v s
  rw [placeStored, (mirrorPlace_recordsOnly ..).reg_eq, h]
  exact reg_setReg_other ha

theorem placeStored_frame : (placeStored b l e v s).groups = s.groups ∧ (placeStored b l e v s).ctx = s.ctx := by
  obtain ⟨_, _, h⟩ := placeStore_eq b l e v s
  have hm := mirrorPlace_recordsOnly b l e v (placeStore b l e v s)
  exact ⟨hm.groups_eq.trans (by rw [h]; rfl), hm.ctx_eq.trans (by rw [h]; rfl)⟩

/-- In the region the entry's eight octets are stored, and no other octet of memory changes. -/
theorem readByte_placeStored {o : Nat} (ho : placeOffset s b l e = some o) (hwf : Memory.wf s.mem.cells) (a : Nat) :
    Memory.readByte (placeStored b l e v s).mem.cells a =
      if o ≤ a ∧ a < o + 8 then (leBytes 8 v.toNat).getD (a - o) 0 else Memory.readByte s.mem.cells a := by
  rw [placeStored, (mirrorPlace_recordsOnly ..).mem_eq, placeStore_placed ho, readByte_writeBytes hwf,
    Laws.leBytes_length, nthD]

variable (hh : halfRefused s 8 l = false) (hc : claimHeld s 0x21 = true)
include hh hc

theorem placeWrite_roundOpen (hb : b = ltPbank s l) (ho : ltRoundOpen s l = true) :
    placeWrite b l e v s = moeStatus l 4 .resourceBound s := by
  simp [placeWrite, hh, hc, hb, ho]

theorem placeWrite_stored (h : b ≠ ltPbank s l ∨ ltRoundOpen s l = false) :
    placeWrite b l e v s = moeStatus l 0 .ok (placeStored b l e (v &&& 0xFF00FFFF0000FFFF#64) s) := by
  have hopen : ¬ (b = ltPbank s l ∧ ltRoundOpen s l = true) := by
    rintro ⟨hb, ho⟩
    exact h.elim (fun hn => hn hb) fun hn => Bool.false_ne_true (hn.symm.trans ho)
  simp [placeWrite, hh, hc, hopen, placeMask_eq, placeStored]

end

/-- Settles O37: each write is the operation of its outcome, run as the firmware runs it. -/
theorem routingTablesAreChecked : Obligations.RoutingTablesAreChecked := by
  unfold Obligations.RoutingTablesAreChecked
  intro l s hp hr hf hc hs refused
  refine ⟨fun w v hh => ?layer, fun b e v hh => ⟨?entryStored, ?entryRefused⟩⟩
  case layer =>
    intro s1 checked
    have hyes : checked ↔ tableChecked l.toNat w.toNat v s = true := (Bool.or_eq_true ..).symm.to_iff
    have hno : ¬ checked ↔ tableChecked l.toNat w.toNat v s = false := by rw [hyes, Bool.not_eq_true]
    refine ⟨?stored, ?outOfRange, ?absent, ?bounds, ?roundOpen⟩
    case stored =>
      intro hch hw ho
      have hwrite := layerWrite_passes hh hc (hch ∘ hyes.mpr) (hw ∘ hno.mpr)
      rw [ho, if_neg Bool.false_ne_true] at hwrite
      obtain ⟨hgroups, hmem, hctx⟩ := layerStored_frame (l := l.toNat) (w := w.toNat) (v := v) (s := s)
      exact ⟨_, hostCmd_moeStatus hp hr hf hwrite, rfl, rfl, reg_layerStored_same hs,
        fun a ha => reg_layerStored_other ha, hgroups, hmem, hctx, fun b hb hv => get?_books_layerStored hb hv⟩
    case outOfRange =>
      intro hk hw
      exact hostCmd_moeStatus hp hr hf (layerWrite_wordOutOfRange hh hc (hno.mp hk) hw)
    case absent =>
      intro hk hch
      exact hostCmd_moeStatus hp hr hf (layerWrite_stationAbsent hh hc (hyes.mp hk) hch)
    case bounds =>
      intro hk hch
      exact hostCmd_moeStatus hp hr hf (layerWrite_outOfBounds hh hc (hyes.mp hk) hch)
    case roundOpen =>
      intro hch hw ho
      have hwrite := layerWrite_passes hh hc (hch ∘ hyes.mpr) (hw ∘ hno.mpr)
      rw [ho, if_pos rfl] at hwrite
      exact hostCmd_moeStatus hp hr hf hwrite
  case entryStored =>
    intro hb
    obtain ⟨hgroups, hctx⟩ := placeStored_frame (b := b.toNat) (l := l.toNat) (e := e.toNat)
      (v := v &&& 0xFF00FFFF0000FFFF#64) (s := s)
    exact ⟨_, hostCmd_moeStatus hp hr hf (placeWrite_stored hh hc hb), rfl, reg_placeStored_same hs,
      fun a ha => reg_placeStored_other ha, hgroups, hctx, fun o ho hwf a => readByte_placeStored ho hwf a⟩
  case entryRefused =>
    intro hb ho
    exact hostCmd_moeStatus hp hr hf (placeWrite_roundOpen hh hc hb ho)

end Sys2Proof.Machine
end

section
/-! Class I admission: the choices are gone through in order, and each expert's budget is spent by those admitted
(R254, R256). -/

namespace Sys2Proof.Machine

open Sys2Proof

/-- The expert a choice names. -/
def choiceExpert (c : Rec) : Nat := bits c.w1.toNat 12 0

/-- How far admission has come after the choices `cs`: those admitted, what each expert used of its budget, and the
number dropped. -/
structure AdmittedSoFar (vs cs : List Rec) (acc : List Rec × Map Nat × Nat) : Prop where
  order : List.Sublist acc.1 cs
  every : acc.1.length + acc.2.2 = cs.length
  used : ∀ e, (acc.1.filter fun c => choiceExpert c == e).length = Map.getD acc.2.1 e 0
  within : ∀ e, Map.getD acc.2.1 e 0 ≤ budgetOf vs e

section
variable {vs cs : List Rec} {acc : List Rec × Map Nat × Nat} {c : Rec} (h : AdmittedSoFar vs cs acc)
include h

/-- A choice whose expert has budget left is admitted and spends one of it. -/
theorem AdmittedSoFar.admitted (hb : Map.getD acc.2.1 (choiceExpert c) 0 < budgetOf vs (choiceExpert c)) :
    AdmittedSoFar vs (cs ++ [c])
      (acc.1 ++ [c], Map.set acc.2.1 (choiceExpert c) (Map.getD acc.2.1 (choiceExpert c) 0 + 1), acc.2.2) := by
  refine ⟨h.order.append_right [c], ?every, fun e => ?used, fun e => ?within⟩
  case every =>
    have := h.every
    simp only [List.length_append, List.length_singleton]
    omega
  case used =>
    rw [List.filter_append, List.length_append, h.used e]
    by_cases he : e = choiceExpert c
    · subst he
      simp
    · simp [Map.getD_set_other he, Ne.symm he]
  case within =>
    by_cases he : e = choiceExpert c
    · subst he
      rw [Map.getD_set_same]
      exact hb
    · rw [Map.getD_set_other he]
      exact h.within e

theorem AdmittedSoFar.dropped : AdmittedSoFar vs (cs ++ [c]) (acc.1, acc.2.1, acc.2.2 + 1) where
  order := h.order.trans (List.sublist_append_left cs [c])
  every := by
    have := h.every
    simp only [List.length_append, List.length_singleton]
    omega
  used := h.used
  within := h.within

theorem AdmittedSoFar.step : AdmittedSoFar vs (cs ++ [c]) (admitStep vs acc c) := by
  unfold admitStep
  dsimp only
  split
  · next hb => exact h.admitted hb
  · exact h.dropped

end

/-- Choices gone through after others: admission has come as far as all of them. -/
theorem AdmittedSoFar.foldl {vs before : List Rec} {acc : List Rec × Map Nat × Nat} (cs : List Rec)
    (h : AdmittedSoFar vs before acc) : AdmittedSoFar vs (before ++ cs) (cs.foldl (admitStep vs) acc) := by
  induction cs generalizing before acc with
  | nil => rwa [List.append_nil]
  | cons c cs ih =>
    rw [List.append_cons]
    exact ih h.step

theorem admittedSoFar_foldl (vs cs : List Rec) : AdmittedSoFar vs cs (cs.foldl (admitStep vs) ([], [], 0)) := by
  have hnone : AdmittedSoFar vs [] ([], [], 0) :=
    ⟨List.Sublist.refl [], rfl, fun _ => rfl, fun _ => Nat.zero_le _⟩
  exact hnone.foldl cs

end Sys2Proof.Machine
end

section
/-! The largest pool of a group: while fewer of its buffers are taken than it has, an allocation that fits is served
(R130). -/

namespace Sys2Proof.Machine

open Sys2Proof

/-! ### Buffers taken -/

/-- Is a handle taken in a group? -/
def taken (s : State) (g h : Nat) : Bool := Map.has (getGroup s g).bufs h

/-- The indices of the largest pool that are taken. -/
def takenOfLargest (s : State) (g : Nat) : List Nat :=
  (List.range (poolCount s g 5)).filter fun i => taken s g (mkHandle g 5 i)

theorem mem_takenOfLargest {s : State} {g i : Nat} :
    i ∈ takenOfLargest s g ↔ i < poolCount s g 5 ∧ taken s g (mkHandle g 5 i) = true := by
  rw [takenOfLargest, List.mem_filter, List.mem_range]

theorem nodup_takenOfLargest (s : State) (g : Nat) : (takenOfLargest s g).Nodup := List.nodup_range.filter _

theorem Map.mem_of_has {α : Type} {m : Map α} {k : Nat} (h : Map.has m k = true) : ∃ e ∈ m, e.1 = k := by
  induction m with
  | nil => cases h
  | cons e m ih =>
    obtain ⟨j, b⟩ := e
    by_cases hj : j = k
    · exact ⟨_, List.mem_cons_self, hj⟩
    · rw [Map.has, Map.get?, if_neg hj] at h
      obtain ⟨x, hx, hk⟩ := ih h
      exact ⟨x, List.mem_cons_of_mem _ hx, hk⟩

theorem Map.has_set {α : Type} {m : Map α} {j k : Nat} {a : α} :
    Map.has (Map.set m k a) j = (decide (j = k) || Map.has m j) := by
  by_cases h : j = k
  · subst h
    simp [Map.has]
  · simp [Map.has, Map.get?_set_other h, h]

/-- Handles of one pool differ with their index. -/
theorem mkHandle_inj {g p i j : Nat} : mkHandle g p i = mkHandle g p j ↔ i = j := Nat.add_left_cancel_iff

/-- Entries with different keys are at least as many as the indices whose handles they hold. -/
theorem length_le_of_entries {α : Type} {is : List Nat} {l : List (Nat × α)} {g p : Nat} (hn : is.Nodup)
    (h : ∀ i ∈ is, ∃ e ∈ l, e.1 = mkHandle g p i) : is.length ≤ l.length := by
  have hhandles : (is.map (mkHandle g p)).Nodup :=
    List.Pairwise.map (mkHandle g p) (fun _ _ hne heq => hne (mkHandle_inj.mp heq)) hn
  have hsub : is.map (mkHandle g p) ⊆ l.map Prod.fst := by
    intro k hk
    obtain ⟨i, hi, rfl⟩ := List.mem_map.mp hk
    obtain ⟨e, he, hkey⟩ := h i hi
    exact List.mem_map.mpr ⟨e, he, hkey⟩
  calc is.length = (is.map (mkHandle g p)).length := (List.length_map _).symm
    _ ≤ (l.map Prod.fst).length := hhandles.length_le_of_subset hsub
    _ = l.length := List.length_map _

theorem handlePool_mkHandle {g p i : Nat} (hp : p < 8) (hi : i < 2 ^ 25) : handlePool (mkHandle g p i) = p := by
  simp only [handlePool, mkHandle, bits]
  omega

/-- At most as many indices of the largest pool are taken as the group has buffers of it. -/
theorem length_takenOfLargest_le {s : State} {g : Nat} (hc : poolCount s g 5 ≤ 262144) :
    (takenOfLargest s g).length ≤ ((getGroup s g).bufs.filter fun e => handlePool e.1 == 5).length := by
  refine length_le_of_entries (g := g) (p := 5) (nodup_takenOfLargest s g) fun i hi => ?_
  obtain ⟨hlt, htaken⟩ := mem_takenOfLargest.mp hi
  obtain ⟨e, he, hkey⟩ := Map.mem_of_has htaken
  have hpool : handlePool e.1 = 5 := hkey ▸ handlePool_mkHandle (by decide) (by omega)
  exact ⟨e, List.mem_filter.mpr ⟨he, beq_iff_eq.mpr hpool⟩, hkey⟩

theorem poolCount_congr {s t : State} (h : t.cord = s.cord) (g p : Nat) : poolCount t g p = poolCount s g p := by
  rw [poolCount, h, poolCount]

theorem takenOfLargest_congr {s t : State} (hg : t.groups = s.groups) (hc : t.cord = s.cord) (g : Nat) :
    takenOfLargest t g = takenOfLargest s g := by
  rw [takenOfLargest, poolCount_congr hc, takenOfLargest]
  exact List.filter_congr fun i _ => by rw [taken, getGroup_congr hg, taken]

/-! ### The lowest free index -/

theorem taken_of_lowestFree_none {b : Map Buf} {g p cnt f i : Nat} (h : lowestFree b g p cnt f i = none) :
    ∀ j, i ≤ j → j < cnt → j < i + f → Map.has b (mkHandle g p j) = true := by
  induction f generalizing i with
  | zero => intro j _ _ _; omega
  | succ f ih =>
    intro j hij hj hf
    rw [lowestFree, if_neg (by omega)] at h
    split at h
    · next hi =>
      by_cases hji : j = i
      · exact hji ▸ hi
      · exact ih h j (by omega) hj (by omega)
    · cases h

/-- The search among one index more than there are buffers finds one that is not taken. -/
theorem lowestFreeIn_largest {g : Nat} {s : State} (h : (takenOfLargest s g).length < poolCount s g 5) :
    ∃ i, lowestFreeIn g 5 s = some i := by
  cases hi : lowestFreeIn g 5 s with
  | some i => exact ⟨i, rfl⟩
  | none =>
    have htaken := taken_of_lowestFree_none hi
    rcases Nat.lt_or_ge (getGroup s g).bufs.length (poolCount s g 5) with hlt | hge
    · have hlen := length_le_of_entries (l := (getGroup s g).bufs) (g := g) (p := 5)
        (List.nodup_range (n := (getGroup s g).bufs.length + 1)) fun j hj => by
          have hj := List.mem_range.mp hj
          exact Map.mem_of_has (htaken j (Nat.zero_le j) (by omega) (by omega))
      rw [List.length_range] at hlen
      omega
    · have hall : takenOfLargest s g = List.range (poolCount s g 5) :=
        List.filter_eq_self.mpr fun j hj => by
          have hj := List.mem_range.mp hj
          exact htaken j (Nat.zero_le j) hj (by omega)
      rw [hall, List.length_range] at h
      omega

theorem fitPool_le (bytes : Nat) : fitPool bytes ≤ 5 := by
  unfold fitPool
  (repeat' split) <;> omega

/-- While the largest pool has a free buffer an allocation of a size it can hold is served. -/
theorem poolAlloc_served {g bytes : Nat} {owner : BitVec 16} {s : State} (h0 : 0 < bytes) (h1 : bytes ≤ 262144)
    (h : (takenOfLargest s g).length < poolCount s g 5) :
    ∃ a, poolAlloc g bytes owner s = (some a, takeBuffer g a owner (countUpsize g bytes a s)) := by
  obtain ⟨i, hi⟩ := lowestFreeIn_largest h
  have hfree : freeHandle g bytes s ≠ none := by
    intro hnone
    have h5 : 5 ∈ (List.range 6).filter fun p => decide (fitPool bytes ≤ p) :=
      List.mem_filter.mpr ⟨by decide, decide_eq_true (fitPool_le bytes)⟩
    have hlow : (lowestFreeIn g 5 s).map (mkHandle g 5) = none := List.findSome?_eq_none_iff.mp hnone 5 h5
    rw [hi] at hlow
    cases hlow
  obtain ⟨a, ha⟩ := Option.ne_none_iff_exists'.mp hfree
  exact ⟨a, by rw [poolAlloc, if_neg (by omega), ha]⟩

/-- Taking one more handle takes at most one more index of the largest pool. -/
theorem length_takenOfLargest_step {g a : Nat} {s t : State} (hc : poolCount t g 5 = poolCount s g 5)
    (ht : ∀ h, taken t g h = (decide (h = a) || taken s g h)) :
    (takenOfLargest t g).length ≤ (takenOfLargest s g).length + 1 := by
  have hsub : takenOfLargest t g ⊆ (a - mkHandle g 5 0) :: takenOfLargest s g := by
    intro i hi
    obtain ⟨hlt, htaken⟩ := mem_takenOfLargest.mp hi
    rw [ht, Bool.or_eq_true, decide_eq_true_eq] at htaken
    rcases htaken with rfl | htaken
    · have hindex : i = mkHandle g 5 i - mkHandle g 5 0 := by
        simp only [mkHandle]
        omega
      exact List.mem_cons.mpr (.inl hindex)
    · exact List.mem_cons_of_mem _ (mem_takenOfLargest.mpr ⟨hc ▸ hlt, htaken⟩)
  exact (nodup_takenOfLargest t g).length_le_of_subset hsub

end Sys2Proof.Machine
end

section
/-! What the steps of a book and a ledger leave alone: tiles moved between buffers and ports, tiles sent, entries of
the placement looked up (R246, R252-R258). -/

namespace Sys2Proof.Machine

open Sys2Proof

/-! ### Routing changes neither memory nor registers nor contexts -/

/-- `t` is `s` but for the switch core, SRAM's marks and the arbiters, the groups, expert routing, the counters and the
free values. -/
def RoutingOnly (s t : State) : Prop :=
  ∃ sw bpm groups moe dbg freeCtr,
    t = { s with sw := sw, bpm := bpm, groups := groups, moe := moe, dbg := dbg, freeCtr := freeCtr }

namespace RoutingOnly

theorem refl (s : State) : RoutingOnly s s := ⟨_, _, _, _, _, _, rfl⟩

theorem trans {s t u : State} (hst : RoutingOnly s t) (htu : RoutingOnly t u) : RoutingOnly s u := by
  obtain ⟨_, _, _, _, _, _, rfl⟩ := hst
  obtain ⟨_, _, _, _, _, _, rfl⟩ := htu
  exact ⟨_, _, _, _, _, _, rfl⟩

variable {s t : State} (h : RoutingOnly s t)
include h

theorem mem_eq : t.mem = s.mem := by obtain ⟨_, _, _, _, _, _, rfl⟩ := h; rfl
theorem regs_eq : t.regs = s.regs := by obtain ⟨_, _, _, _, _, _, rfl⟩ := h; rfl

/-- The parts of the state that no step of a book or ledger changes. -/
theorem frame : t.mem = s.mem ∧ t.regs = s.regs ∧ t.ctx = s.ctx := by
  obtain ⟨_, _, _, _, _, _, rfl⟩ := h
  exact ⟨rfl, rfl, rfl⟩

end RoutingOnly

theorem ltField_congr {s t : State} (h : t.regs = s.regs) (l w hi lo : Nat) :
    ltField t l w hi lo = ltField s l w hi lo := by
  rw [ltField, reg, h, ltField, reg]

/-! ### Tiles moved -/

/-- `t` is `s` but for SRAM's marks, the groups and the counters: what putting tiles into buffers, offering and freeing
them may change. -/
def TilesOnly (s t : State) : Prop := ∃ bpm groups dbg, t = { s with bpm := bpm, groups := groups, dbg := dbg }

namespace TilesOnly

theorem refl (s : State) : TilesOnly s s := ⟨_, _, _, rfl⟩

theorem trans {s t u : State} (hst : TilesOnly s t) (htu : TilesOnly t u) : TilesOnly s u := by
  obtain ⟨_, _, _, rfl⟩ := hst
  obtain ⟨_, _, _, rfl⟩ := htu
  exact ⟨_, _, _, rfl⟩

theorem foldOver {β : Type} {f : State → β → State} (hf : ∀ s x, TilesOnly s (f s x)) (l : List β) (s : State) :
    TilesOnly s (foldOver l f s) := foldOver_rel refl (fun _ _ _ => trans) hf l s

variable {s t : State} (h : TilesOnly s t)
include h

theorem routingOnly : RoutingOnly s t := by
  obtain ⟨_, _, _, rfl⟩ := h
  exact ⟨_, _, _, _, _, _, rfl⟩

theorem sw_eq : t.sw = s.sw := by obtain ⟨_, _, _, rfl⟩ := h; rfl
theorem getBook_eq (l : Nat) : getBook t l = getBook s l := by obtain ⟨_, _, _, rfl⟩ := h; rfl
theorem ltField_eq (l w hi lo : Nat) : ltField t l w hi lo = ltField s l w hi lo := by
  obtain ⟨_, _, _, rfl⟩ := h; rfl
theorem poolCount_eq (g p : Nat) : poolCount t g p = poolCount s g p := by obtain ⟨_, _, _, rfl⟩ := h; rfl

end TilesOnly

theorem modGroup_tilesOnly (g : Nat) (f : GroupSt → GroupSt) (s : State) : TilesOnly s (modGroup s g f) :=
  ⟨_, _, _, rfl⟩

theorem freeBuf_tilesOnly (g h : Nat) (s : State) : TilesOnly s (freeBuf g h s) := modGroup_tilesOnly ..

theorem setBuf_tilesOnly (g h : Nat) (b : Buf) (s : State) : TilesOnly s (setBuf g h b s) := modGroup_tilesOnly ..

theorem writeSram_tilesOnly (ob : SramObj) (lo n : Nat) (s : State) : TilesOnly s (writeSram ob lo n s) := by
  obtain ⟨_, h⟩ := writeSram_marks ob lo n s
  exact ⟨_, _, _, h⟩

theorem countN_tilesOnly (b i k n : Nat) (s : State) : TilesOnly s (countN b i k n s) := by
  unfold countN
  split
  · exact .refl s
  · split
    · exact ⟨_, _, _, rfl⟩
    · exact .refl s

theorem count_tilesOnly (b i k : Nat) (s : State) : TilesOnly s (count b i k s) := countN_tilesOnly b i k 1 s

theorem setTile_tilesOnly (g h : Nat) (t : Tile) (s : State) : TilesOnly s (setTile g h t s) := by
  unfold setTile
  split
  · exact (writeSram_tilesOnly ..).trans (setBuf_tilesOnly ..)
  · exact .refl s

theorem poolShare_tilesOnly (g h : Nat) (s : State) : TilesOnly s (poolShare g h s).2 := by
  unfold poolShare
  split
  · split
    · exact setBuf_tilesOnly ..
    · exact .refl s
  · exact .refl s

theorem poolAlloc_tilesOnly (g bytes : Nat) (owner : BitVec 16) (s : State) :
    TilesOnly s (poolAlloc g bytes owner s).2 := by
  have hcounted (a : Nat) : TilesOnly s (countUpsize g bytes a s) := by
    unfold countUpsize
    split
    · exact .refl s
    · exact count_tilesOnly ..
  unfold poolAlloc
  split
  · exact count_tilesOnly ..
  · split
    · exact .refl s
    · exact (hcounted _).trans ((modGroup_tilesOnly ..).trans (writeSram_tilesOnly ..))

theorem setTileStep_tilesOnly (g h : Nat) (step : W64) (s : State) : TilesOnly s (setTileStep g h step s) := by
  unfold setTileStep
  split
  · exact setTile_tilesOnly ..
  · exact .refl s

/-- The tile as a book offers it: stamped with the step, and shared where the book keeps it. -/
def tileLent (g h : Nat) (share : Bool) (step : W64) (s : State) : State :=
  let s1 := setTileStep g h step s
  if share then (poolShare g h s1).2 else s1

theorem tileLent_tilesOnly (g h : Nat) (share : Bool) (step : W64) (s : State) :
    TilesOnly s (tileLent g h share step s) := by
  unfold tileLent
  dsimp only
  split
  · exact (setTileStep_tilesOnly ..).trans (poolShare_tilesOnly ..)
  · exact setTileStep_tilesOnly ..

/-- The tile is lent and one offer of it goes behind those that wait. -/
theorem bookOffer_eq (g u : Nat) (portB : Bool) (h : Nat) (share : Bool) (step : W64) (s : State) :
    ∃ o : Offer, o.handle = h ∧ bookOffer g u portB h share step s =
      modGroup (tileLent g h share step s) g fun gr => { gr with offers := gr.offers ++ [o] } := ⟨_, rfl, rfl⟩

theorem bookOffer_tilesOnly (g u : Nat) (portB : Bool) (h : Nat) (share : Bool) (step : W64) (s : State) :
    TilesOnly s (bookOffer g u portB h share step s) := by
  obtain ⟨o, -, ho⟩ := bookOffer_eq g u portB h share step s
  rw [ho]
  exact (tileLent_tilesOnly g h share step s).trans (modGroup_tilesOnly ..)

/-! ### What moving a tile does to its group -/

/-- In group `g` the handles taken and the offers stand as they stood. -/
structure HandlesKept (g : Nat) (s t : State) : Prop where
  taken : ∀ h, taken t g h = taken s g h
  offers : (getGroup t g).offers = (getGroup s g).offers

namespace HandlesKept

theorem refl (g : Nat) (s : State) : HandlesKept g s s := ⟨fun _ => rfl, rfl⟩

theorem trans {g : Nat} {s t u : State} (hst : HandlesKept g s t) (htu : HandlesKept g t u) : HandlesKept g s u :=
  ⟨fun h => (htu.taken h).trans (hst.taken h), htu.offers.trans hst.offers⟩

theorem of_groups {g : Nat} {s t : State} (h : t.groups = s.groups) : HandlesKept g s t :=
  ⟨fun k => congrArg (fun x : GroupSt => Map.has x.bufs k) (getGroup_congr h g),
    congrArg GroupSt.offers (getGroup_congr h g)⟩

end HandlesKept

/-- A buffer taken already changes what it holds. -/
theorem setBuf_handlesKept {g h : Nat} {b b' : Buf} {s : State} (hb : getBuf s g h = some b) :
    HandlesKept g s (setBuf g h b' s) := by
  refine ⟨fun k => ?_, by rw [setBuf, getGroup_modGroup_same]⟩
  rw [taken, setBuf, getGroup_modGroup_same, Map.has_set]
  by_cases hk : k = h
  · subst hk
    have hheld : Map.has (getGroup s g).bufs k = true := congrArg Option.isSome hb
    simp [taken, hheld]
  · simp [taken, hk]

theorem writeSram_handlesKept (g : Nat) (ob : SramObj) (lo n : Nat) (s : State) :
    HandlesKept g s (writeSram ob lo n s) := .of_groups (writeSram_groups_ctx ob lo n s).1

theorem setTile_handlesKept (g h : Nat) (t : Tile) (s : State) : HandlesKept g s (setTile g h t s) := by
  unfold setTile
  split
  · next b hb =>
    have hmarks := writeSram_handlesKept g (.tile h) 0 (tileWords t) s
    have hbuf : getBuf (writeSram (.tile h) 0 (tileWords t) s) g h = some b := by
      rw [getBuf, getGroup_congr (writeSram_groups_ctx ..).1]
      exact hb
    exact hmarks.trans (setBuf_handlesKept hbuf)
  · exact .refl g s

theorem tileLent_handlesKept (g h : Nat) (share : Bool) (step : W64) (s : State) :
    HandlesKept g s (tileLent g h share step s) := by
  have hstep : HandlesKept g s (setTileStep g h step s) := by
    unfold setTileStep
    split
    · exact setTile_handlesKept ..
    · exact .refl g s
  have hshare : HandlesKept g (setTileStep g h step s) (poolShare g h (setTileStep g h step s)).2 := by
    unfold poolShare
    split
    · next b _ hb =>
      split
      · exact setBuf_handlesKept hb
      · exact .refl g _
    · exact .refl g _
  unfold tileLent
  dsimp only
  split
  · exact hstep.trans hshare
  · exact hstep

theorem taken_bookOffer (g u : Nat) (portB : Bool) (h : Nat) (share : Bool) (step : W64) (s : State) (k : Nat) :
    taken (bookOffer g u portB h share step s) g k = taken s g k := by
  obtain ⟨o, -, ho⟩ := bookOffer_eq g u portB h share step s
  rw [ho, ← (tileLent_handlesKept g h share step s).taken k, taken, getGroup_modGroup_same, taken]

/-- An offer goes behind those that wait. -/
theorem offers_bookOffer (g u : Nat) (portB : Bool) (h : Nat) (share : Bool) (step : W64) (s : State) :
    (getGroup (bookOffer g u portB h share step s) g).offers.map (·.handle) =
      (getGroup s g).offers.map (·.handle) ++ [h] := by
  obtain ⟨o, hhandle, ho⟩ := bookOffer_eq g u portB h share step s
  rw [ho, ← (tileLent_handlesKept g h share step s).offers, getGroup_modGroup_same, List.map_append,
    List.map_singleton, hhandle]

theorem taken_takeBuffer (g a : Nat) (owner : BitVec 16) (s : State) (k : Nat) :
    taken (takeBuffer g a owner s) g k = (decide (k = a) || taken s g k) := by
  unfold takeBuffer
  rw [(writeSram_handlesKept g ..).taken, taken, getGroup_modGroup_same, Map.has_set, taken]

/-! ### Tiles sent -/

/-- `t` is `s` but for the switch core, the books and the ledgers: what sending tiles may change. -/
def SendsOnly (s t : State) : Prop :=
  ∃ sw books ledgers, t = { s with sw := sw, moe := { s.moe with books := books, ledgers := ledgers } }

namespace SendsOnly

theorem refl (s : State) : SendsOnly s s := ⟨_, _, _, rfl⟩

theorem trans {s t u : State} (hst : SendsOnly s t) (htu : SendsOnly t u) : SendsOnly s u := by
  obtain ⟨_, _, _, rfl⟩ := hst
  obtain ⟨_, _, _, rfl⟩ := htu
  exact ⟨_, _, _, rfl⟩

variable {s t : State} (h : SendsOnly s t)
include h

theorem routingOnly : RoutingOnly s t := by
  obtain ⟨_, _, _, rfl⟩ := h
  exact ⟨_, _, _, _, _, _, rfl⟩

theorem groups_eq : t.groups = s.groups := by obtain ⟨_, _, _, rfl⟩ := h; rfl
theorem cord_eq : t.cord = s.cord := by obtain ⟨_, _, _, rfl⟩ := h; rfl
theorem ltField_eq (l w hi lo : Nat) : ltField t l w hi lo = ltField s l w hi lo := by
  obtain ⟨_, _, _, rfl⟩ := h; rfl

end SendsOnly

/-- Frames that wait in a group's return port. -/
def retWaiting (s : State) (g : Nat) : Nat := (Map.getD s.sw.retq g []).length

theorem sendRouting_sendsOnly (g l chip ch plane off : Nat) (t : Tile) (s : State) :
    SendsOnly s (sendRouting g l chip ch plane off t s) := ⟨_, _, _, rfl⟩

@[simp] theorem getBook_sendRouting (g l chip ch plane off : Nat) (t : Tile) (s : State) (k : Nat) :
    getBook (sendRouting g l chip ch plane off t s) k = getBook s k := rfl

theorem retWaiting_sendRouting (g l chip ch plane off : Nat) (t : Tile) (s : State) :
    retWaiting (sendRouting g l chip ch plane off t s) g = retWaiting s g + 1 := by
  simp [retWaiting, sendRouting, buildRet, newFrame]

/-- Tiles sent one after another each wait behind those before. -/
theorem sendRouting_foldOver {β : Type} {g l chip ch plane off : Nat} (f : State → β → Tile) (xs : List β)
    {s t : State} (ht : t = foldOver xs (fun s x => sendRouting g l chip ch plane off (f s x) s) s) :
    SendsOnly s t ∧ (∀ k, getBook t k = getBook s k) ∧ retWaiting t g = retWaiting s g + xs.length := by
  unfold foldOver at ht
  induction xs generalizing s with
  | nil => exact ht ▸ ⟨.refl s, fun _ => rfl, rfl⟩
  | cons x xs ih =>
    obtain ⟨hsends, hbook, hret⟩ := ih ht
    rw [retWaiting_sendRouting] at hret
    refine ⟨(sendRouting_sendsOnly ..).trans hsends, fun k => hbook k, ?_⟩
    rw [hret, List.length_cons]
    omega

@[simp] theorem getBook_setBook_same {l : Nat} {b : Book} {s : State} : getBook (setBook l b s) l = b := by
  simp [getBook, setBook]

@[simp] theorem getLedger_setLedger_same {l : Nat} {d : Ledger} {s : State} : getLedger (setLedger l d s) l = d := by
  simp [getLedger, setLedger]

theorem setBook_sendsOnly (l : Nat) (b : Book) (s : State) : SendsOnly s (setBook l b s) := ⟨_, _, _, rfl⟩

theorem setLedger_sendsOnly (l : Nat) (d : Ledger) (s : State) : SendsOnly s (setLedger l d s) := ⟨_, _, _, rfl⟩

/-- Tiles are sent for table `l`: of its book only the counters of its streams change. -/
structure StreamsSent (l : Nat) (s t : State) : Prop where
  sends : SendsOnly s t
  book : ∃ x q, getBook t l = { getBook s l with streams := x, ledgerSeq := q }

namespace StreamsSent

theorem refl (l : Nat) (s : State) : StreamsSent l s s := ⟨.refl s, _, _, rfl⟩

theorem trans {l : Nat} {s t u : State} (hst : StreamsSent l s t) (htu : StreamsSent l t u) : StreamsSent l s u := by
  obtain ⟨hs, x, q, hx⟩ := hst
  obtain ⟨ht, y, r, hy⟩ := htu
  exact ⟨hs.trans ht, y, r, by rw [hy, hx]⟩

theorem foldOver {β : Type} {l : Nat} {f : State → β → State} (hf : ∀ s x, StreamsSent l s (f s x)) (xs : List β)
    (s : State) : StreamsSent l s (foldOver xs f s) := foldOver_rel (refl l) (fun _ _ _ => trans) hf xs s

end StreamsSent

theorem chunksOf_length_pos {α : Type} {n : Nat} {xs : List α} (h : xs ≠ []) : 0 < (chunksOf n xs).length := by
  obtain ⟨x, xs, rfl⟩ := List.exists_cons_of_ne_nil h
  simp [chunksOf, chunksOf.go]

/-- Of any records there is one piece at least. -/
theorem recPieces_length_pos (rs : List Rec) : 0 < (recPieces rs).length := by
  unfold recPieces
  split
  · exact Nat.one_pos
  · next h => exact chunksOf_length_pos (by simpa using h)

/-- A counts tile and one tile at least of claims or candidates go to each ledger. -/
theorem sendClaims_sent (l : Nat) (step : W64) (cs : List Rec) (s : State) (j : Nat) :
    StreamsSent l s (sendClaims l step cs s j) ∧
      retWaiting s (ltBookGroup s l) + 2 ≤ retWaiting (sendClaims l step cs s j) (ltBookGroup s l) := by
  unfold sendClaims
  extract_lets g at_ b seq pieces epoch rank ch plane aux5 counts s1 s2
  obtain ⟨hsends, hbook, hret⟩ := sendRouting_foldOver (s := s1) (t := s2) (g := g) (l := l) (chip := at_.1)
    (ch := ch) (plane := plane) (off := at_.2) (fun (s : State) (e : List Rec × Nat) => wordTile (recCodes e.1)
      (ltLedgerCtx s l) rank epoch (seq + 1 + BitVec.ofNat 32 e.2) (routingTag l) step aux5) pieces.zipIdx rfl
  have hpieces : 0 < pieces.length := recPieces_length_pos _
  have hcounts : retWaiting s1 g = retWaiting s g + 1 := retWaiting_sendRouting g l at_.1 ch plane at_.2 counts s
  have hs1 : SendsOnly s s1 := sendRouting_sendsOnly g l at_.1 ch plane at_.2 counts s
  refine ⟨⟨(hs1.trans hsends).trans (setBook_sendsOnly ..), ?book⟩, ?waiting⟩
  case book =>
    have hkept : getBook s2 l = getBook s l := hbook l
    rw [getBook_setBook_same, ← hkept]
    exact ⟨_, _, rfl⟩
  case waiting =>
    rw [List.length_zipIdx] at hret
    change retWaiting s g + 2 ≤ retWaiting s2 g
    omega

theorem sendCounts_sent (l : Nat) (step : W64) (ds : List Dispatch) (s : State) (chip : Nat) :
    StreamsSent l s (sendCounts l step ds s chip) := by
  unfold sendCounts
  extract_lets g es mine rs b seq p t s1
  refine ⟨(sendRouting_sendsOnly ..).trans (setBook_sendsOnly ..), ?_⟩
  rw [getBook_setBook_same]
  exact ⟨_, _, rfl⟩

/-- Claims to every ledger: two tiles to each at least. -/
theorem sendClaims_foldOver (l : Nat) (step : W64) (cs : List Rec) (js : List Nat) (s : State) :
    StreamsSent l s (foldOver js (sendClaims l step cs) s) ∧
      retWaiting s (ltBookGroup s l) + 2 * js.length ≤
        retWaiting (foldOver js (sendClaims l step cs) s) (ltBookGroup s l) := by
  unfold foldOver
  induction js generalizing s with
  | nil => exact ⟨.refl l s, Nat.le_refl _⟩
  | cons j js ih =>
    obtain ⟨hone, htwo⟩ := sendClaims_sent l step cs s j
    obtain ⟨hrest, hmany⟩ := ih (sendClaims l step cs s j)
    have hgroup : ltBookGroup (sendClaims l step cs s j) l = ltBookGroup s l := hone.sends.ltField_eq ..
    rw [hgroup] at hmany
    refine ⟨hone.trans hrest, ?_⟩
    rw [List.foldl_cons, List.length_cons]
    omega

/-! ### Placement entries looked up (R246) -/

/-- `t` is `s` but for the memory arbiters, the cache of placement entries and the free values: what look-ups of good
entries change. -/
def PlacesRead (s t : State) : Prop :=
  ∃ arb cache freeCtr, t = { s with
    bpm := { s.bpm with pcArb := arb }, moe := { s.moe with cache := cache }, freeCtr := freeCtr }

namespace PlacesRead

theorem refl (s : State) : PlacesRead s s := ⟨_, _, _, rfl⟩

theorem trans {s t u : State} (hst : PlacesRead s t) (htu : PlacesRead t u) : PlacesRead s u := by
  obtain ⟨_, _, _, rfl⟩ := hst
  obtain ⟨_, _, _, rfl⟩ := htu
  exact ⟨_, _, _, rfl⟩

variable {s t : State} (h : PlacesRead s t)
include h

theorem routingOnly : RoutingOnly s t := by
  obtain ⟨_, _, _, rfl⟩ := h
  exact ⟨_, _, _, _, _, _, rfl⟩

theorem groups_eq : t.groups = s.groups := by obtain ⟨_, _, _, rfl⟩ := h; rfl
theorem sw_eq : t.sw = s.sw := by obtain ⟨_, _, _, rfl⟩ := h; rfl
theorem cord_eq : t.cord = s.cord := by obtain ⟨_, _, _, rfl⟩ := h; rfl

end PlacesRead

/-- No word of the first `n` entries in force is in error. -/
structure PlacesGood (l n : Nat) (s : State) : Prop where
  sram : s.bpm.sramChk = []
  words : ∀ i, i < n → ∀ o, placeOffset s (ltPbank s l) l i = some o → Map.get? s.mem.chk o = none

theorem PlacesGood.read {l n : Nat} {s t : State} (h : PlacesGood l n s) (hr : PlacesRead s t) : PlacesGood l n t := by
  obtain ⟨_, _, _, rfl⟩ := hr
  exact ⟨h.sram, h.words⟩

theorem memGrant_placesRead (req : Nat → Nat) (ks : List Nat) (s : State) : PlacesRead s (memGrant req ks s) := by
  induction ks generalizing s with
  | nil => exact .refl s
  | cons k ks ih =>
    have hk : PlacesRead s (memGrant req [k] s) := ⟨_, _, _, rfl⟩
    exact hk.trans (ih (memGrant req [k] s))

theorem cacheEntry_placesRead {k : Nat × Nat × Nat} {s : State} (h : s.bpm.sramChk = []) :
    PlacesRead s (cacheEntry k s) := by
  unfold cacheEntry
  rw [writeSram_clean h]
  dsimp only
  split
  · exact .refl s
  · split
    · exact ⟨_, _, _, rfl⟩
    · exact ⟨_, _, _, rfl⟩

/-- A good entry is found as it stands, in the cache or in the region. -/
theorem lookPlace_good {g l n i : Nat} {s : State} (h : PlacesGood l n s) (hi : i < n) :
    PlacesRead s (lookPlace g l i s) := by
  unfold lookPlace
  dsimp only
  split
  · rw [readSram_clean h.sram]
    exact .refl s
  · split
    · exact .refl s
    · next o ho =>
      have hgrant := memGrant_placesRead (hearthReq g) (sitesOf o 8) s
      have hmem : (memGrant (hearthReq g) (sitesOf o 8) s).mem = s.mem := hgrant.routingOnly.mem_eq
      have hword : o / 8 * 8 = o := by
        have := placeOffset_aligned ho
        omega
      have hgood : Map.get? (memGrant (hearthReq g) (sitesOf o 8) s).mem.chk (o / 8 * 8) = none := by
        rw [hmem, hword]
        exact h.words i hi o ho
      rw [takeWord_unmarked hgood]
      exact hgrant.trans (cacheEntry_placesRead (h.read hgrant).sram)

theorem readPlaces_good {g l n : Nat} {s : State} (h : PlacesGood l n s) : PlacesRead s (readPlaces g l 0 n s) := by
  have hfold (is : List Nat) (hn : ∀ i ∈ is, i < n) : ∀ s, PlacesGood l n s →
      PlacesRead s (is.foldl (fun s i => lookPlace g l (0 + i) s) s) := by
    induction is with
    | nil => exact fun s _ => .refl s
    | cons i is ih =>
      intro s h
      have hone : PlacesRead s (lookPlace g l (0 + i) s) :=
        lookPlace_good h (by rw [Nat.zero_add]; exact hn i List.mem_cons_self)
      exact hone.trans (ih (fun j hj => hn j (List.mem_cons_of_mem i hj)) _ (h.read hone))
  exact hfold (upTo n) (fun i hi => List.mem_range.mp hi) s h

theorem Map.get?_eq_none_of_ne {α : Type} {m : Map α} {k : Nat} (h : ∀ e ∈ m, e.1 ≠ k) : Map.get? m k = none := by
  induction m with
  | nil => rfl
  | cons e m ih =>
    rw [Map.get?, if_neg (h e List.mem_cons_self)]
    exact ih fun x hx => h x (List.mem_cons_of_mem e hx)

/-- Entries lie one after another in the region. -/
theorem placeOffset_first {s : State} {b l e o : Nat} (h : placeOffset s b l e = some o) :
    ∃ o0, placeOffset s b l 0 = some o0 ∧ o = o0 + 8 * e := by
  rw [placeOffset, Option.map_eq_some_iff] at h
  obtain ⟨base, hbase, rfl⟩ := h
  exact ⟨_, by rw [placeOffset, hbase]; rfl, rfl⟩

/-- Entries are good where no word between the first and the last is marked. -/
theorem placesGood_of_range {l n : Nat} {s : State} (hs : s.bpm.sramChk = [])
    (hm : ∀ o, placeOffset s (ltPbank s l) l 0 = some o → ∀ e ∈ s.mem.chk, e.1 < o ∨ o + 8 * n ≤ e.1) :
    PlacesGood l n s := by
  refine ⟨hs, fun i hi o ho => Map.get?_eq_none_of_ne fun e he heq => ?_⟩
  obtain ⟨o0, ho0, rfl⟩ := placeOffset_first ho
  have := hm o0 ho0 e he
  omega

end Sys2Proof.Machine
end

section
/-! The steps of a book and of a ledger, each by what it does once its conditions hold (R252-R259). -/

namespace Sys2Proof.Machine

open Sys2Proof

/-! ### Statistics and the gate (R252) -/

/-- The book once the statistics of an activation tile are done. -/
def statsTaken (a : BookTile) (b : Book) : Book :=
  { b with phase := if b.phase = 1 then 2 else b.phase, statsDone := b.statsDone ++ [a.token0] }

section
variable {l : Nat} {a : BookTile} {s : State} (hen : ltBookEn s l = true) (hrun : groupRuns s (ltBookGroup s l) = true)
include hen hrun

/-- The statistics of a tile may be written into its score tiles, where there is more than one chunk. -/
theorem bookStatistics_ready (ha : statsReady s l (getBook s l) = some a) : ∃ s1, TilesOnly s s1 ∧
    (ltNch s l = 1 → s1 = s) ∧ bookStatistics l s = setBook l (statsTaken a (getBook s l)) s1 := by
  unfold bookStatistics
  dsimp only
  rw [if_neg (by simp [hen, hrun]), ha]
  refine ⟨_, ?tiles, ?one, rfl⟩
  case tiles =>
    split
    · refine .foldOver (fun s x => ?_) _ s
      split
      · split
        · exact setTile_tilesOnly ..
        · exact .refl s
      · exact .refl s
    · exact .refl s
  case one =>
    intro hone
    rw [if_neg (by omega)]

theorem bookGateDeliver_ready
    (ha : (getBook s l).acts.find? (fun a => (getBook s l).statsDone.contains a.token0 &&
      !(getBook s l).gated.contains a.token0) = some a) :
    bookGateDeliver l s = foldOver (scoresOf (getBook s l) a.token0)
      (fun t x => bookOffer (ltBookGroup s l) (ltSort t l) false x.handle false (getBook s l).step t)
      (setBook l { getBook s l with gated := (getBook s l).gated ++ [a.token0] } s) := by
  unfold bookGateDeliver
  dsimp only
  rw [if_neg (by simp [hen, hrun]), ha]

end

/-- Tiles offered one after another stand in that order behind the offers that wait. -/
theorem bookOffer_foldOver {g : Nat} {unit : State → Nat} {step : W64} (xs : List BookTile) (s : State) :
    TilesOnly s (foldOver xs (fun t x => bookOffer g (unit t) false x.handle false step t) s) ∧
      (getGroup (foldOver xs (fun t x => bookOffer g (unit t) false x.handle false step t) s) g).offers.map (·.handle) =
        (getGroup s g).offers.map (·.handle) ++ xs.map (·.handle) := by
  refine ⟨.foldOver (fun t x => bookOffer_tilesOnly ..) xs s, ?_⟩
  unfold foldOver
  induction xs generalizing s with
  | nil => simp
  | cons x xs ih => rw [List.foldl_cons, ih, offers_bookOffer, List.map_cons, List.append_assoc, List.singleton_append]

/-! ### Claims (Table 11.5) -/

/-- Class T looks up the capacities it cuts its candidates by. -/
def capacitiesRead (l : Nat) (s : State) : State :=
  if ltClassT s l then readPlaces (ltBookGroup s l) l 0 (ltExperts s l) s else s

theorem capacitiesRead_good {l : Nat} {s : State} (h : PlacesGood l (ltExperts s l) s) :
    PlacesRead s (capacitiesRead l s) := by
  unfold capacitiesRead
  split
  · exact readPlaces_good h
  · exact .refl s

/-- The book with its choices made. -/
def claimed (s : State) (l : Nat) (b : Book) : Book :=
  { b with phase := 3, choices := (bookChoices s l b).1, gates := [], scores := [] }

/-- What a book claims does not depend on what look-ups of good entries change. -/
theorem PlacesRead.bookChoices_eq {l : Nat} {b : Book} {s t : State} (h : PlacesRead s t) :
    bookChoices t l b = bookChoices s l b := by
  obtain ⟨_, _, _, rfl⟩ := h
  rfl

/-- The gate outputs are freed, the choices made and the tokens skipped for NaN counted. -/
def choicesMade (l : Nat) (b : Book) (s : State) : State :=
  countN 9 0 l (bookChoices s l b).2 (setBook l (claimed s l b)
    (foldOver b.gates (fun t x => freeBuf (ltBookGroup s l) x.handle t) s))

/-- Making the choices changes the book and the group's buffers, and sends nothing. -/
theorem choicesMade_spec (l : Nat) (b : Book) (s : State) : RoutingOnly s (choicesMade l b s) ∧
    (choicesMade l b s).sw = s.sw ∧ getBook (choicesMade l b s) l = claimed s l b := by
  have hfreed : TilesOnly s (foldOver b.gates (fun t x => freeBuf (ltBookGroup s l) x.handle t) s) :=
    .foldOver (fun t x => freeBuf_tilesOnly ..) _ s
  have hcounted := countN_tilesOnly 9 0 l (bookChoices s l b).2 (setBook l (claimed s l b)
    (foldOver b.gates (fun t x => freeBuf (ltBookGroup s l) x.handle t) s))
  refine ⟨?routing, ?sw, ?book⟩
  case routing => exact (hfreed.routingOnly.trans (setBook_sendsOnly ..).routingOnly).trans hcounted.routingOnly
  case sw => exact hcounted.sw_eq.trans hfreed.sw_eq
  case book => exact (hcounted.getBook_eq l).trans getBook_setBook_same

/-- Once its conditions hold the book makes its choices and claims at every ledger. -/
theorem bookClaims_ready {l : Nat} {s : State} (hen : ltBookEn s l = true)
    (hrun : groupRuns s (ltBookGroup s l) = true) (hfree : placesFree s l 0 (ltExperts s l) = true)
    (hphase : (getBook s l).phase = 1 ∨ (getBook s l).phase = 2)
    (hacts : (getBook s l).acts.length = ltActTiles s l)
    (hgates : (getBook s l).gates.length = ltActTiles s l * ltNch s l) :
    let b := getBook s l
    let s0 := capacitiesRead l s
    bookClaims l s = foldOver (upTo (ltNl s0 l)) (sendClaims l b.step (bookChoices s0 l b).1)
      (countN 9 0 l (bookChoices s0 l b).2 (setBook l (claimed s0 l b)
        (foldOver b.gates (fun t x => freeBuf (ltBookGroup s l) x.handle t) s0))) := by
  unfold bookClaims
  dsimp only
  rw [if_neg (by simpa [hen, hrun, hfree, hacts, hgates] using hphase.resolve_left)]
  rfl

/-- The claims are sent, two tiles at least to each ledger: of the book only the counters of its streams go on from the
choices made. -/
theorem bookClaims_claims {l : Nat} {s : State} (hen : ltBookEn s l = true)
    (hrun : groupRuns s (ltBookGroup s l) = true) (hfree : placesFree s l 0 (ltExperts s l) = true)
    (hgood : PlacesGood l (ltExperts s l) s) (hphase : (getBook s l).phase = 1 ∨ (getBook s l).phase = 2)
    (hacts : (getBook s l).acts.length = ltActTiles s l)
    (hgates : (getBook s l).gates.length = ltActTiles s l * ltNch s l) :
    RoutingOnly s (bookClaims l s) ∧
      (∃ x q, getBook (bookClaims l s) l = { claimed s l (getBook s l) with streams := x, ledgerSeq := q }) ∧
      retWaiting s (ltBookGroup s l) + 2 * ltNl s l ≤ retWaiting (bookClaims l s) (ltBookGroup s l) := by
  have hready := bookClaims_ready hen hrun hfree hphase hacts hgates
  have hread : PlacesRead s (capacitiesRead l s) := capacitiesRead_good hgood
  generalize capacitiesRead l s = s0 at hready hread
  generalize getBook s l = b at hready ⊢
  have hgroup0 : ltBookGroup s0 l = ltBookGroup s l := ltField_congr hread.routingOnly.regs_eq ..
  have hnl : ltNl s0 l = ltNl s l := by rw [ltNl, ltExperts, ltField_congr hread.routingOnly.regs_eq, ltNl, ltExperts]
  obtain ⟨hmade, hsw, hbook⟩ := choicesMade_spec l b s0
  obtain ⟨hsent, hwaiting⟩ :=
    sendClaims_foldOver l b.step (bookChoices s0 l b).1 (upTo (ltNl s0 l)) (choicesMade l b s0)
  have hend : bookClaims l s = foldOver (upTo (ltNl s0 l)) (sendClaims l b.step (bookChoices s0 l b).1)
      (choicesMade l b s0) := by rw [hready, choicesMade, hgroup0]
  have hgroup : ltBookGroup (choicesMade l b s0) l = ltBookGroup s l :=
    (ltField_congr hmade.regs_eq ..).trans hgroup0
  have hclaimed : claimed s0 l b = claimed s l b := by rw [claimed, hread.bookChoices_eq, claimed]
  have hbefore : retWaiting (choicesMade l b s0) (ltBookGroup s l) = retWaiting s (ltBookGroup s l) := by
    rw [retWaiting, hsw, hread.sw_eq, retWaiting]
  obtain ⟨x, q, hafter⟩ := hsent.book
  rw [hgroup, hbefore, upTo, List.length_range, hnl] at hwaiting
  rw [hend, hafter, hbook, hclaimed]
  refine ⟨(hread.routingOnly.trans hmade).trans hsent.sends.routingOnly, ⟨x, q, rfl⟩, ?_⟩
  rw [upTo, hnl]
  exact hwaiting

/-! ### Delivery of the dispatch tiles (R257) -/

theorem length_packCodes_word (codes : List Nat) : (packCodes 8 codes).length = 4 * codes.length := by
  have helem : ∀ o ∈ codes.map (leBytes (elemSize 8)), o.length = 4 := by
    intro o ho
    obtain ⟨v, -, rfl⟩ := List.mem_map.mp ho
    exact Laws.leBytes_length _ v
  rw [packCodes, Laws.flatten_length_of 4 _ helem, List.length_map, Nat.mul_comm]

/-- A tile of U32 codes has four octets for each and nothing beside. -/
theorem payloadLen_wordTile (codes : List Nat) (ctx rank : Nat) (epoch seq : BitVec 32) (tag : BitVec 24)
    (step aux : W64) : payloadLen (wordTile codes ctx rank epoch seq tag step aux) = 4 * codes.length := by
  have hscaled : blankTile.scaled = false := by decide
  have hstats : blankTile.stats = false := by decide
  simp [payloadLen, sideLen, wordTile, withCodes, hscaled, hstats, length_packCodes_word]

/-- The row numbers of a dispatch tile, padded to whole rows of 16. -/
def indexCodes (rows : List Nat) : List Nat :=
  rows ++ List.replicate (ceilDiv rows.length 16 * 16 - rows.length) 0xFFFFFFFF

theorem length_indexCodes_le {rows : List Nat} (h : rows.length ≤ 256) : (indexCodes rows).length ≤ 256 := by
  simp only [indexCodes, ceilDiv, List.length_append, List.length_replicate]
  omega

/-- A dispatch of at most 256 rows of an activation tile held. -/
structure Deliverable (acts : List BookTile) (d : Dispatch) : Prop where
  act : ∃ a, acts.find? (fun a => a.token0 == d.token0) = some a
  rows : d.rowNos.length ≤ 256

theorem deliverable_dispatchesOf {s : State} {l : Nat} {acts : List BookTile} {ps : List Pair} {d : Dispatch}
    (hrows : ∀ a ∈ acts, a.rows ≤ 256) (hd : d ∈ dispatchesOf s l acts ps) : Deliverable acts d := by
  obtain ⟨ds, hds, hd⟩ := List.mem_flatten.mp hd
  obtain ⟨a, ha, rfl⟩ := List.mem_map.mp hds
  obtain ⟨e, -, he⟩ := List.mem_filterMap.mp hd
  dsimp only at he
  split at he
  · cases he
  · obtain rfl := Option.some.inj he
    refine ⟨?_, ?_⟩
    · exact Option.isSome_iff_exists.mp (List.find?_isSome.mpr ⟨a, ha, beq_self_eq_true a.token0⟩)
    · refine Nat.le_trans (List.length_filter_le ..) ?_
      rw [upTo, List.length_range]
      exact hrows a ha

/-- With a buffer of the largest pool free a dispatch is delivered, at the cost of one at most. -/
theorem deliverDispatch_served {l : Nat} {step : W64} {acts : List BookTile} {d : Dispatch} {s : State}
    (hd : Deliverable acts d)
    (hroom : (takenOfLargest s (ltBookGroup s l)).length < poolCount s (ltBookGroup s l) 5) :
    ∃ t, deliverDispatch l step acts (some s) d = some t ∧ TilesOnly s t ∧
      (takenOfLargest t (ltBookGroup s l)).length ≤ (takenOfLargest s (ltBookGroup s l)).length + 1 := by
  obtain ⟨⟨a, ha⟩, hrows⟩ := hd
  unfold deliverDispatch
  rw [Option.bind_some]
  extract_lets g n codes c t
  have hcodes : codes.length ≤ 256 := length_indexCodes_le hrows
  have hlen : payloadLen t = 4 * codes.length := payloadLen_wordTile ..
  obtain ⟨h, halloc⟩ := poolAlloc_served (g := g) (bytes := 64 + payloadLen t) (owner := ownerCtx c) (s := s)
    (by omega) (by omega) hroom
  have htiles := poolAlloc_tilesOnly g (64 + payloadLen t) (ownerCtx c) s
  rw [halloc] at htiles
  rw [halloc, ha]
  have hall := ((htiles.trans (setTile_tilesOnly g h t _)).trans
    (bookOffer_tilesOnly g (ltDispatch s l) false a.handle true step _)).trans
    (bookOffer_tilesOnly g (ltDispatch s l) true h false step _)
  refine ⟨_, rfl, hall, length_takenOfLargest_step (hall.poolCount_eq g 5) (a := h) fun k => ?_⟩
  have hcounted : taken (countUpsize g (64 + payloadLen t) h s) g k = taken s g k := by
    unfold countUpsize
    split
    · rfl
    · exact congrArg (fun x : GroupSt => Map.has x.bufs k) (getGroup_congr (count_groups ..) g)
  rw [taken_bookOffer, taken_bookOffer, (setTile_handlesKept ..).taken, taken_takeBuffer, hcounted]

/-- With as many buffers of the largest pool free as there are dispatches, all are delivered. -/
theorem deliverDispatch_foldl {l : Nat} {step : W64} {acts : List BookTile} {ds : List Dispatch} {s : State}
    (hd : ∀ d ∈ ds, Deliverable acts d)
    (hroom : ds.length + (takenOfLargest s (ltBookGroup s l)).length ≤ poolCount s (ltBookGroup s l) 5) :
    ∃ t, ds.foldl (deliverDispatch l step acts) (some s) = some t ∧ TilesOnly s t := by
  induction ds generalizing s with
  | nil => exact ⟨s, rfl, .refl s⟩
  | cons d ds ih =>
    rw [List.length_cons] at hroom
    obtain ⟨t, ht, htiles, htaken⟩ := deliverDispatch_served (l := l) (step := step) (s := s)
      (hd d List.mem_cons_self) (by omega)
    have hgroup : ltBookGroup t l = ltBookGroup s l := htiles.ltField_eq ..
    obtain ⟨u, hu, hrest⟩ := ih (s := t) (fun x hx => hd x (List.mem_cons_of_mem d hx))
      (by rw [hgroup, htiles.poolCount_eq]; omega)
    exact ⟨u, by rw [List.foldl_cons, ht, hu], htiles.trans hrest⟩

/-! ### Apply (R254-R257) -/

/-- Those of a book's choices that the verdicts let through, and the number dropped. -/
def admittedOf (s : State) (l : Nat) (b : Book) : List Rec × Nat := if ltClassT s l then (admitT b, 0) else admitI b

/-- The pairs of each token of the step. -/
def pairsByToken (s : State) (l : Nat) (b : Book) : List (List Pair × Nat) :=
  (bookTokens b.acts).map fun k => tokenPairs s l k (admittedOf s l b).1

/-- The pairs of the step. -/
def pairsOf (s : State) (l : Nat) (b : Book) : List Pair := ((pairsByToken s l b).map (·.1)).flatten

/-- The tokens no expert is to see. -/
def tokensSkipped (s : State) (l : Nat) (b : Book) : Nat := ((pairsByToken s l b).filter fun x => x.1.isEmpty).length

theorem admittedOf_fst {s : State} {l : Nat} {b : Book} :
    (admittedOf s l b).1 = if ltClassT s l then admitT b else (admitI b).1 := by
  unfold admittedOf
  split <;> rfl

theorem pairsOf_eq {s : State} {l : Nat} {b : Book} : pairsOf s l b = ((bookTokens b.acts).map fun k =>
    (tokenPairs s l k (if ltClassT s l then admitT b else (admitI b).1)).1).flatten := by
  rw [pairsOf, pairsByToken, List.map_map, admittedOf_fst]
  rfl

theorem tokensSkipped_eq {s : State} {l : Nat} {b : Book} : tokensSkipped s l b = ((bookTokens b.acts).filter fun k =>
    (tokenPairs s l k (if ltClassT s l then admitT b else (admitI b).1)).1.isEmpty).length := by
  rw [tokensSkipped, pairsByToken, List.filter_map, List.length_map, admittedOf_fst]
  rfl

/-- The book in its combine part, the intake part free for the next step. -/
def applied (s : State) (l : Nat) (b : Book) : Book :=
  { b with
    phase := 0, closed := false, combining := true, cStep := b.step, cActs := b.acts, pairs := pairsOf s l b
    dispatches := dispatchesOf s l b.acts (pairsOf s l b), cSkipped := BitVec.ofNat 32 (tokensSkipped s l b)
    returned := false, acts := [], choices := [], verdicts := [], statsDone := [], gated := [] }

/-- The step is applied and announced: what was dropped and skipped is counted, and every chip that holds an expert
gets its counts tile. -/
def stepAnnounced (l : Nat) (b : Book) (s : State) : State :=
  foldOver (expertChips s l) (sendCounts l b.step (dispatchesOf s l b.acts (pairsOf s l b)))
    (countN 9 1 l (admittedOf s l b).2 (countN 9 2 l ((pairsByToken s l b).map (·.2)).sum
      (countN 9 3 l (tokensSkipped s l b) (setBook l (applied s l b) s))))

/-- The buffers and the room of the pools stand; of the book applied only the counters of its streams go on. -/
theorem stepAnnounced_spec (l : Nat) (b : Book) (s : State) : RoutingOnly s (stepAnnounced l b s) ∧
    (stepAnnounced l b s).groups = s.groups ∧ (stepAnnounced l b s).cord = s.cord ∧
    (stepAnnounced l b s).regs = s.regs ∧
    ∃ x q, getBook (stepAnnounced l b s) l = { applied s l b with streams := x, ledgerSeq := q } := by
  unfold stepAnnounced
  generalize hcounted : countN 9 1 l _ _ = s1
  have htiles : TilesOnly (setBook l (applied s l b) s) s1 := hcounted ▸
    (countN_tilesOnly ..).trans ((countN_tilesOnly ..).trans (countN_tilesOnly ..))
  have hgroups : s1.groups = s.groups := by
    rw [← hcounted, countN_groups, countN_groups, countN_groups, setBook_groups]
  have hcord : s1.cord = s.cord := by rw [← hcounted, countN_cord, countN_cord, countN_cord, setBook_cord]
  have hsent := StreamsSent.foldOver
    (sendCounts_sent l b.step (dispatchesOf s l b.acts (pairsOf s l b))) (expertChips s l) s1
  have hrouting : RoutingOnly s (foldOver (expertChips s l)
      (sendCounts l b.step (dispatchesOf s l b.acts (pairsOf s l b))) s1) :=
    ((setBook_sendsOnly ..).routingOnly.trans htiles.routingOnly).trans hsent.sends.routingOnly
  obtain ⟨x, q, hbook⟩ := hsent.book
  rw [htiles.getBook_eq, getBook_setBook_same] at hbook
  exact ⟨hrouting, hsent.sends.groups_eq.trans hgroups, hsent.sends.cord_eq.trans hcord, hrouting.regs_eq, x, q,
    hbook⟩

/-- Once its conditions hold an apply comes to the delivery of the dispatches, or waits where one is not served. -/
theorem bookApply_ready {l : Nat} {s : State} (hen : ltBookEn s l = true)
    (hrun : groupRuns s (ltBookGroup s l) = true) (hfree : placesFree s l 0 (ltExperts s l) = true)
    (hphase : (getBook s l).phase = 4) (hclosed : (getBook s l).closed = true)
    (hcombining : (getBook s l).combining = false) :
    let b := getBook s l
    let s0 := readPlaces (ltBookGroup s l) l 0 (ltExperts s l) s
    bookApply l s = ((dispatchesOf s0 l b.acts (pairsOf s0 l b)).foldl (deliverDispatch l b.step b.acts)
      (some (stepAnnounced l b s0))).getD s0 := by
  unfold bookApply
  dsimp only
  rw [if_neg (by simp [hen, hrun, hfree, hphase, hclosed, hcombining])]
  unfold stepAnnounced applied tokensSkipped pairsOf pairsByToken admittedOf
  generalize List.foldl _ _ _ = delivered
  cases delivered with
  | none => rfl
  | some t => rfl

/-- What a book applies does not depend on what look-ups of good entries change. -/
theorem PlacesRead.applied_eq {l : Nat} {b : Book} {s t : State} (h : PlacesRead s t) :
    applied t l b = applied s l b := by
  obtain ⟨_, _, _, rfl⟩ := h
  rfl

/-- With room for the dispatches the step is applied: of the book only the counters of its streams go on from what
admission makes of it. -/
theorem bookApply_applies {l : Nat} {s : State} (hen : ltBookEn s l = true)
    (hrun : groupRuns s (ltBookGroup s l) = true) (hfree : placesFree s l 0 (ltExperts s l) = true)
    (hgood : PlacesGood l (ltExperts s l) s) (hphase : (getBook s l).phase = 4) (hclosed : (getBook s l).closed = true)
    (hcombining : (getBook s l).combining = false) (hrows : ∀ a ∈ (getBook s l).acts, a.rows ≤ 256)
    (hroom : (applied s l (getBook s l)).dispatches = [] ∨ (applied s l (getBook s l)).dispatches.length +
      (takenOfLargest s (ltBookGroup s l)).length ≤ poolCount s (ltBookGroup s l) 5) :
    RoutingOnly s (bookApply l s) ∧
      ∃ x q, getBook (bookApply l s) l = { applied s l (getBook s l) with streams := x, ledgerSeq := q } := by
  have hready := bookApply_ready hen hrun hfree hphase hclosed hcombining
  have hread : PlacesRead s (readPlaces (ltBookGroup s l) l 0 (ltExperts s l) s) := readPlaces_good hgood
  generalize readPlaces (ltBookGroup s l) l 0 (ltExperts s l) s = s0 at hready hread
  generalize getBook s l = b at *
  obtain ⟨hannounced, hgroups, hcord, hregs, x, q, hbook⟩ := stepAnnounced_spec l b s0
  have happlied : applied s0 l b = applied s l b := hread.applied_eq
  have hall : ∃ t, (applied s0 l b).dispatches.foldl (deliverDispatch l b.step b.acts) (some (stepAnnounced l b s0)) =
      some t ∧ TilesOnly (stepAnnounced l b s0) t := by
    rcases hroom with hnone | hroom
    · rw [happlied, hnone]
      exact ⟨_, rfl, .refl _⟩
    · have hg : (stepAnnounced l b s0).groups = s.groups := hgroups.trans hread.groups_eq
      have hc : (stepAnnounced l b s0).cord = s.cord := hcord.trans hread.cord_eq
      have hgroup : ltBookGroup (stepAnnounced l b s0) l = ltBookGroup s l :=
        ltField_congr (hregs.trans hread.routingOnly.regs_eq) ..
      refine deliverDispatch_foldl (fun d hd => deliverable_dispatchesOf hrows hd) ?_
      rw [hgroup, takenOfLargest_congr hg hc, poolCount_congr hc, happlied]
      exact hroom
  obtain ⟨t, ht, htiles⟩ := hall
  have hend : bookApply l s = t := hready.trans (congrArg (Option.getD · s0) ht)
  rw [hend, htiles.getBook_eq, hbook, happlied]
  exact ⟨(hread.routingOnly.trans hannounced).trans htiles.routingOnly, x, q, rfl⟩

/-! ### Combine (R258) -/

/-- A fold that stops at `none` and came to an end kept at every step a relation that its steps keep. -/
theorem foldl_some_rel {σ β : Type} {R : σ → σ → Prop} (hrefl : ∀ s, R s s) (htrans : ∀ s t u, R s t → R t u → R s u)
    {f : Option σ → β → Option σ} (hf : ∀ acc x t, f acc x = some t → ∃ s, acc = some s ∧ R s t) {xs : List β}
    {acc : Option σ} {t : σ} (h : xs.foldl f acc = some t) : ∃ s, acc = some s ∧ R s t := by
  induction xs generalizing acc with
  | nil => exact ⟨t, h, hrefl t⟩
  | cons x xs ih =>
    obtain ⟨u, hu, hut⟩ := ih h
    obtain ⟨s, hs, hsu⟩ := hf acc x u hu
    exact ⟨s, hs, htrans s u t hsu hut⟩

theorem offerNew_some {g u : Nat} {portB : Bool} {c : Nat} {tile : Tile} {step : W64} {acc : Option State} {t : State}
    (h : offerNew g u portB c tile step acc = some t) : ∃ s, acc = some s ∧ TilesOnly s t := by
  obtain ⟨s, hs, h⟩ := Option.bind_eq_some_iff.mp h
  have htiles := poolAlloc_tilesOnly g (64 + payloadLen tile) (ownerCtx c) s
  refine ⟨s, hs, ?_⟩
  split at h
  · next k s1 halloc =>
    rw [halloc] at htiles
    rw [← Option.some.inj h]
    exact (htiles.trans (setTile_tilesOnly ..)).trans (bookOffer_tilesOnly ..)
  · cases h

theorem combineOne_some {l : Nat} {b : Book} {acc : Option State} {a : BookTile} {t : State}
    (h : combineOne l b acc a = some t) : ∃ s, acc = some s ∧ TilesOnly s t := by
  obtain ⟨s, hs, h⟩ := Option.bind_eq_some_iff.mp h
  refine ⟨s, hs, ?_⟩
  obtain ⟨s2, hs2, hlast⟩ := offerNew_some h
  obtain ⟨s1, hs1, hslots⟩ := foldl_some_rel TilesOnly.refl (fun _ _ _ => TilesOnly.trans)
    (fun acc j t => offerNew_some) hs2
  obtain rfl := Option.some.inj hs1
  refine TilesOnly.trans ?_ (hslots.trans hlast)
  split
  · exact bookOffer_tilesOnly ..
  · exact .refl s

/-- A tile the book is done with goes: of the book only the list of tiles that wait to be freed may grow. -/
structure TileReleased (l : Nat) (s t : State) : Prop where
  routing : RoutingOnly s t
  book : ∃ d, getBook t l = { getBook s l with done := d }

namespace TileReleased

theorem refl (l : Nat) (s : State) : TileReleased l s s := ⟨.refl s, _, rfl⟩

theorem trans {l : Nat} {s t u : State} (hst : TileReleased l s t) (htu : TileReleased l t u) : TileReleased l s u := by
  obtain ⟨hs, d, hd⟩ := hst
  obtain ⟨ht, e, he⟩ := htu
  exact ⟨hs.trans ht, e, by rw [he, hd]⟩

end TileReleased

theorem bookRelease_released (g l h : Nat) (s : State) : TileReleased l s (bookRelease g l h s) := by
  unfold bookRelease
  split
  · split
    · exact ⟨(freeBuf_tilesOnly g h s).routingOnly, _, (freeBuf_tilesOnly g h s).getBook_eq l⟩
    · exact ⟨(setBook_sendsOnly ..).routingOnly, _, getBook_setBook_same⟩
  · exact .refl l s

/-- The book with its combine part empty. -/
def combined (b : Book) : Book :=
  { b with
    combining := false, returned := false, cActs := [], pairs := [], dispatches := [], skipped := b.cSkipped }

/-- Operands delivered, the step ends: outputs are freed, and the activation tiles once no unit holds them. -/
theorem bookCombine_delivered {l : Nat} {s s1 : State} (hen : ltBookEn s l = true)
    (hrun : groupRuns s (ltBookGroup s l) = true) (hcombining : (getBook s l).combining = true)
    (hreturned : (getBook s l).returned = true)
    (hs1 : (getBook s l).cActs.foldl (combineOne l (getBook s l)) (some s) = some s1) :
    RoutingOnly s (bookCombine l s) ∧ ∃ d, getBook (bookCombine l s) l = { combined (getBook s l) with done := d } := by
  obtain ⟨s0, hs0, hdelivered⟩ :=
    foldl_some_rel TilesOnly.refl (fun _ _ _ => TilesOnly.trans) (fun _ _ _ => combineOne_some) hs1
  obtain rfl := Option.some.inj hs0
  unfold bookCombine
  dsimp only
  rw [if_neg (by simp [hen, hrun, hcombining, hreturned]), hs1]
  dsimp only
  generalize hs2 : foldOver (getBook s l).dispatches _ s1 = s2
  have hfreed : TilesOnly s1 s2 := hs2 ▸ .foldOver (fun t d => by
    split
    · exact freeBuf_tilesOnly ..
    · exact .refl t) _ s1
  have hbook : getBook s2 l = getBook s l := (hdelivered.trans hfreed).getBook_eq l
  have hreleased : TileReleased l (setBook l (combined (getBook s l)) s2)
      (foldOver (getBook s l).cActs (fun t a => bookRelease (ltBookGroup s l) l a.handle t)
        (setBook l (combined (getBook s l)) s2)) :=
    foldOver_rel (TileReleased.refl l) (fun _ _ _ => TileReleased.trans) (fun t a => bookRelease_released ..) _ _
  rw [hbook]
  obtain ⟨hrouting, d, hd⟩ := hreleased
  refine ⟨((hdelivered.trans hfreed).routingOnly.trans (setBook_sendsOnly ..).routingOnly).trans hrouting, d, ?_⟩
  exact hd.trans (by rw [getBook_setBook_same])

/-! ### The ledger (R254, R255, R259) -/

/-- A ledger emptied, its streams going on. -/
def emptied (d : Ledger) : Ledger := { Ledger.reset with seqs := d.seqs }

theorem PlacesRead.ledgersGood_eq {l : Nat} {recs : Map (List Rec)} {s t : State} (h : PlacesRead s t) :
    recs.all (fun e => ledgerGood t l e.2) = recs.all (fun e => ledgerGood s l e.2) := by
  obtain ⟨_, _, _, rfl⟩ := h
  rfl

/-- A ledger whose round is complete looks the entries up, sends its verdicts, or none on a bad record, and is
emptied. -/
theorem ledgerVerdict_ready {l : Nat} {s : State} (hen : ltLedgerEn s l = true)
    (hcomplete : (getLedger s l).complete = true) (hrun : groupRuns s (ltLedgerGroup s l) = true)
    (hfree : placesFree s l 0 (ltExperts s l) = true) (hgood : PlacesGood l (ltExperts s l) s) :
    ∃ s0 s1, PlacesRead s s0 ∧ SendsOnly s0 s1 ∧
      ((getLedger s l).recs.all (fun e => ledgerGood s l e.2) = false → s1 = s0) ∧
      ∃ counters, ledgerVerdict l s = { setLedger l (emptied (getLedger s1 l)) s1 with dbg := counters } := by
  have hread : PlacesRead s (readPlaces (ltLedgerGroup s l) l 0 (ltExperts s l) s) := readPlaces_good hgood
  have hrecs := hread.ledgersGood_eq (l := l) (recs := (getLedger s l).recs)
  unfold ledgerVerdict
  dsimp only
  rw [if_neg (by simp [hen, hcomplete, hrun, hfree]), hrecs]
  split
  · exact ⟨_, _, hread, .refl _, fun _ => rfl, _, count_eq ..⟩
  · next hall =>
    refine ⟨_, _, hread, ?_, fun hbad => absurd hbad (by simpa using hall), _, rfl⟩
    refine foldOver_rel SendsOnly.refl (fun _ _ _ => SendsOnly.trans) (fun t e => ?_) _ _
    split
    · exact .refl t
    · exact (sendRouting_sendsOnly ..).trans (setLedger_sendsOnly ..)

/-! ### The statement -/

/-- Settles O38: each step by what it does once its conditions hold, and admission by going through the choices in
order. -/
theorem booksAndLedgersStep : Obligations.BooksAndLedgersStep := by
  unfold Obligations.BooksAndLedgersStep
  refine ⟨fun l s => ?steps, fun b => ?admission⟩
  case admission =>
    have h := admittedSoFar_foldl (b.verdicts.map (·.2)).flatten b.choices
    exact ⟨fun e => Nat.le_trans (Nat.le_of_eq (h.used e)) (h.within e), h.every, h.order⟩
  case steps =>
    intro b g placesGood
    have hplaces : placesGood → placesFree s l.toNat 0 (ltExperts s l.toNat) = true ∧
        PlacesGood l.toNat (ltExperts s l.toNat) s := fun ⟨hs, hfree, hm⟩ => ⟨hfree, placesGood_of_range hs hm⟩
    refine ⟨fun hen hrun => ⟨?statistics, ?gate, ?claims, ?apply, ?combine⟩, ?ledger⟩
    case statistics =>
      intro a ha
      obtain ⟨s1, htiles, hone, hstep⟩ := bookStatistics_ready hen hrun ha
      obtain ⟨hmem, hregs, hctx⟩ := htiles.routingOnly.frame
      refine ⟨_, congrArg Host.Outcome.next hstep, getBook_setBook_same, hmem, hregs, hctx, fun hnch => ?_⟩
      rw [hone hnch]
      rfl
    case gate =>
      intro a ha
      have hstep := bookGateDeliver_ready hen hrun ha
      obtain ⟨htiles, hoffers⟩ := bookOffer_foldOver (g := ltBookGroup s l.toNat) (unit := fun t => ltSort t l.toNat)
        (step := (getBook s l.toNat).step) (scoresOf (getBook s l.toNat) a.token0)
        (setBook l.toNat { getBook s l.toNat with gated := (getBook s l.toNat).gated ++ [a.token0] } s)
      obtain ⟨hmem, hregs, hctx⟩ := htiles.routingOnly.frame
      have hbook := (htiles.getBook_eq l.toNat).trans getBook_setBook_same
      exact ⟨_, congrArg Host.Outcome.next hstep, hbook, hoffers, hmem, hregs, hctx⟩
    case claims =>
      intro hgood hphase hacts hgates
      obtain ⟨hfree, hgood⟩ := hplaces hgood
      obtain ⟨hrouting, ⟨x, q, hbook⟩, hwaiting⟩ := bookClaims_claims hen hrun hfree hgood hphase hacts hgates
      obtain ⟨hmem, hregs, hctx⟩ := hrouting.frame
      refine ⟨_, rfl, ?_⟩
      rw [hbook]
      exact ⟨rfl, rfl, rfl, hwaiting, hmem, hregs, hctx⟩
    case apply =>
      intro hgood hphase hclosed hcombining hrows adm pairs ds hroom
      obtain ⟨hfree, hgood⟩ := hplaces hgood
      have hpairs : pairs = pairsOf s l.toNat b := pairsOf_eq.symm
      have hskipped := tokensSkipped_eq (s := s) (l := l.toNat) (b := b)
      have hdispatches : ds = (applied s l.toNat b).dispatches := by rw [applied, ← hpairs]
      have hserved : (applied s l.toNat b).dispatches = [] ∨ (applied s l.toNat b).dispatches.length +
          (takenOfLargest s g).length ≤ poolCount s g 5 := by
        rw [← hdispatches]
        refine hroom.imp_right fun ⟨hcount, hfits⟩ => ?_
        have := length_takenOfLargest_le hcount
        omega
      obtain ⟨hrouting, x, q, hbook⟩ := bookApply_applies hen hrun hfree hgood hphase hclosed hcombining hrows hserved
      obtain ⟨hmem, hregs, hctx⟩ := hrouting.frame
      refine ⟨_, rfl, ?_⟩
      rw [hbook]
      exact ⟨rfl, rfl, rfl, rfl, hpairs.symm, hdispatches.symm, congrArg (BitVec.ofNat 32) hskipped, hmem, hregs, hctx⟩
    case combine =>
      intro s1 hcombining hreturned hs1
      obtain ⟨hrouting, d, hbook⟩ := bookCombine_delivered hen hrun hcombining hreturned hs1
      obtain ⟨hmem, hregs, hctx⟩ := hrouting.frame
      refine ⟨_, rfl, ?_⟩
      rw [hbook]
      exact ⟨rfl, rfl, rfl, rfl, hmem, hregs, hctx⟩
    case ledger =>
      intro hen hcomplete hrun hgood
      obtain ⟨hfree, hgood⟩ := hplaces hgood
      obtain ⟨s0, s1, hread, hsends, hnone, counters, hend⟩ := ledgerVerdict_ready hen hcomplete hrun hfree hgood
      obtain ⟨hmem, hregs, hctx⟩ := (hread.routingOnly.trans hsends.routingOnly).frame
      have hempty : getLedger (ledgerVerdict l.toNat s) l.toNat = emptied (getLedger s1 l.toNat) := by
        rw [hend]
        exact getLedger_setLedger_same
      refine ⟨_, rfl, ?_⟩
      rw [hempty, hend]
      exact ⟨rfl, rfl, fun hbad => by rw [hnone hbad]; exact hread.sw_eq, hmem, hregs, hctx,
        hsends.groups_eq.trans hread.groups_eq⟩

end Sys2Proof.Machine
end

section
/-! The machine as a whole: the fuses, the queue, and which commands go on (log entries 1 and 2). -/

namespace Sys2Proof.Machine

open Sys2Proof

/-- Settles O1: it is what a step of a state with a queued command does. -/
theorem stepRunsFrontCommand : Obligations.StepRunsFrontCommand := by
  unfold Obligations.StepRunsFrontCommand
  exact fun c q s => rfl

/-- Settles O3: the queue is part of what each command keeps. -/
theorem execLeavesQueue : Obligations.ExecLeavesQueue := by
  unfold Obligations.ExecLeavesQueue
  intro c s t h
  exact (exec_keeps (keeps_keptOf s) c t h).by_.queue

/-- A slot that is set in `a`, where `a` has no bit that `b` lacks, is set in `b`. -/
theorem getLsbD_of_and_eq {n k : Nat} {a b : BitVec n} (hab : a &&& b = a) (hk : a.getLsbD k = true) :
    b.getLsbD k = true := by
  rw [← hab, BitVec.getLsbD_and, Bool.and_eq_true] at hk
  exact hk.2

/-- Settles O7: the fuses are part of what each function of the model keeps. -/
theorem stepOnlyBurnsFuses : Obligations.StepOnlyBurnsFuses := by
  unfold Obligations.StepOnlyBurnsFuses
  intro s t hstep
  have hk := (step_keeps hstep).by_
  exact ⟨hk.deviceId, hk.grade, hk.keyDigests, hk.repairFuses, hk.secret, hk.floor,
    fun k hrevoked => getLsbD_of_and_eq hk.revoked hrevoked⟩

/-! ### Which commands go on (log entry 2) -/

/-- The outcome is a next state. -/
def HasNext (o : Host.Outcome State Fault Refusal) : Prop := ∃ t, o = .next t

theorem loaderCmd_hasNext (op : State → Status × State) (s : State) : HasNext (loaderCmd op s) := by
  unfold loaderCmd
  split <;> exact ⟨_, rfl⟩

theorem hostCmd_hasNext (op : State → Status × State) (s : State) : HasNext (hostCmd op s) := by
  unfold hostCmd
  split
  · exact ⟨_, rfl⟩
  · exact loaderCmd_hasNext op s

theorem stateCmd_hasNext (op : State → Status × State) (s : State) : HasNext (stateCmd op s) := by
  unfold stateCmd
  split
  · exact loaderCmd_hasNext op s
  · exact hostCmd_hasNext op s

theorem execRegisterWrite_hasNext (a : BitVec 48) (v : W64) (s : State) : HasNext (execRegisterWrite a v s) := by
  unfold execRegisterWrite
  split
  · exact loaderCmd_hasNext ..
  · exact hostCmd_hasNext ..

/-- A command that names what the device may lack goes on where it has it and is refused where it has not. -/
theorem named_hasNext {b : Bool} {p : Prop} [Decidable p] {s : State} (h : b = true ↔ p) :
    if b then HasNext (if p then .next s else .refused .illFormedCommand)
    else (if p then Host.Outcome.next s else .refused .illFormedCommand : Host.Outcome State Fault Refusal) =
      .refused .illFormedCommand := by
  by_cases hp : p
  · rw [if_pos (h.mpr hp), if_pos hp]
    exact ⟨_, rfl⟩
  · rw [if_neg (mt h.mp hp), if_neg hp]

/-- Settles O4: the checks of the ten commands that may name no part of the device are those of their meanings, and
every other command answers a next state. -/
theorem wellFormedCommandsGoOn : Obligations.WellFormedCommandsGoOn := by
  unfold Obligations.WellFormedCommandsGoOn
  intro c s
  cases c with
  | tempoMeasure => exact named_hasNext (by simp [Instr.wellFormed])
  | linkBlockReceive => exact named_hasNext decide_eq_true_iff
  | patrolScrubSlot site =>
    cases site with
    | hbm => exact named_hasNext decide_eq_true_iff
    | ddr => exact ⟨_, rfl⟩
  | stationQueueDeliver | invocationStart | bundle | invocationCommit => exact named_hasNext decide_eq_true_iff
  | sensorSample => exact named_hasNext decide_eq_true_iff
  | powerGoodLost => exact named_hasNext (by simp [Instr.wellFormed])
  | registerWrite => exact execRegisterWrite_hasNext ..
  | cold | logSelect | updateBegin | updateCommit | updateAbort | svnCommit | revoke => exact loaderCmd_hasNext ..
  | off | powerBank | restart | idle | active | blaze => exact stateCmd_hasNext ..
  | tmpGovCtrlWrite | ftcSetWrite | linkAdminUp | linkAdminDown | swcPortFlushWrite | stnSpareCtrlWrite | programLoad
  | programUnload | pstoreWrite | paramWrite | replayCountWrite | maintWrite | reform | define | undefine | bank
  | unbank | advance | setstep | tallyValueWrite | tallyCfgWrite | tallyReleaseWrite | layerTableWrite
  | placementWrite | steerWrite | hbmSpareWrite | arithDebugWrite | accPeek | cordStageWrite | cordVerify | cordLoad
  | bind | unbind | floorWrite | vsetWrite | groupGateWrite | twinEngage | twinDisengage | takeover | giveback | resync
  | fencePartner | unfence | setEpoch | raise | release | scanSize | scanStart | traceRingWrite | counterClear
  | snapshotTake | sparkPop => exact hostCmd_hasNext ..
  | _ => exact ⟨_, rfl⟩

end Sys2Proof.Machine
end

section
/-! Words packed from fields, and what a host's command or an act of the MSS comes to while it runs. -/

namespace Sys2Proof.Machine

open Sys2Proof

/-! ### Words packed from fields (R8) -/

/-- The bits of a number placed at bit `lo` of a word. -/
theorem getLsbD_at_ (v lo i : Nat) :
    (at_ v lo).getLsbD i = (decide (i < 64) && (decide (lo ≤ i) && v.testBit (i - lo))) := by
  rw [at_, bv64, BitVec.getLsbD_ofNat, Nat.testBit_mul_two_pow]

theorem getLsbD_bv64 (v i : Nat) : (bv64 v).getLsbD i = (decide (i < 64) && v.testBit i) := BitVec.getLsbD_ofNat ..

theorem fld_or (v w : W64) (hi lo : Nat) : fld (v ||| w) hi lo = fld v hi lo ||| fld w hi lo := by
  refine Nat.eq_of_testBit_eq fun i => ?_
  simp only [Nat.testBit_or, testBit_fld, BitVec.getLsbD_or, Bool.and_or_distrib_left]

/-- A field reads the number placed at it, where that has no more bits than the field. -/
theorem fld_at_same {v hi lo : Nat} (hhi : hi < 64) (hv : v < 2 ^ (hi + 1 - lo)) : fld (at_ v lo) hi lo = v := by
  refine Nat.eq_of_testBit_eq fun i => ?_
  rw [testBit_fld, getLsbD_at_, Nat.add_sub_cancel_left]
  by_cases hi' : i < hi + 1 - lo
  · simp [hi', show lo + i < 64 by omega]
  · have hle : 2 ^ (hi + 1 - lo) ≤ 2 ^ i := Nat.pow_le_pow_right (by decide) (by omega)
    simp [hi', Nat.testBit_lt_two_pow (Nat.lt_of_lt_of_le hv hle)]

/-- A field below the place of a number reads 0. -/
theorem fld_at_above {v k hi lo : Nat} (hk : hi < k) : fld (at_ v k) hi lo = 0 := by
  refine Nat.eq_of_testBit_eq fun i => ?_
  rw [testBit_fld, getLsbD_at_, Nat.zero_testBit]
  by_cases hi' : i < hi + 1 - lo
  · simp [show ¬ k ≤ lo + i by omega]
  · simp [hi']

/-- A field above a number of `n` bits placed at bit `k` reads 0. -/
theorem fld_at_below {v k n hi lo : Nat} (hv : v < 2 ^ n) (hk : k + n ≤ lo) : fld (at_ v k) hi lo = 0 := by
  refine Nat.eq_of_testBit_eq fun i => ?_
  rw [testBit_fld, getLsbD_at_, Nat.zero_testBit]
  have hle : 2 ^ n ≤ 2 ^ (lo + i - k) := Nat.pow_le_pow_right (by decide) (by omega)
  simp [Nat.testBit_lt_two_pow (Nat.lt_of_lt_of_le hv hle)]

theorem bv64_eq_at (v : Nat) : bv64 v = at_ v 0 := by simp [at_]

theorem bit1_lt (b : Bool) : bit1 b < 2 ^ 1 := by cases b <;> decide

theorem testBit_bit1 (b : Bool) (i : Nat) : (bit1 b).testBit i = (b && decide (i = 0)) := by
  cases b with
  | false => simp [bit1]
  | true => rw [bit1, if_pos rfl, Bool.true_and, Bool.eq_iff_iff, Nat.testBit_one_eq_true_iff_self_eq_zero, decide_eq_true_iff]

/-! ### Commands and acts that run -/

/-- Out of reset the MSS does what it does. -/
theorem mssRuns_on {op : State → State} {s : State} (hp : s.pwr.porst = true) : mssRuns op s = op s := if_pos hp

/-- Out of reset a command that the ROM loader carries out too is carried out and leaves its status. -/
theorem loaderCmd_on {op : State → Status × State} {s : State} (hp : s.pwr.porst = true) :
    loaderCmd op s = .next (withStatus (op s).2 (op s).1) := if_pos hp

/-- Out of reset, with the firmware running or a start under way, a state command is carried out (R316). -/
theorem stateCmd_on {op : State → Status × State} {s : State} (hp : s.pwr.porst = true)
    (h : s.mss.romOnly = false ∨ starting s = true) : stateCmd op s = .next (withStatus (op s).2 (op s).1) := by
  unfold stateCmd
  split
  · exact loaderCmd_on hp
  · next hns => exact hostCmd_running hp (h.resolve_right hns)

/-! ### The digest store (R336, R344) -/

/-- The copy written last is in force. -/
theorem storeInForce_writeCopy (m : MssSt) : storeInForce (writeCopy m) = some m.store := by
  unfold writeCopy
  split
  · simp only [storeInForce, sealedCopy]
    cases m.storeA.macOk <;> simp
  · simp only [storeInForce, sealedCopy]
    cases m.storeB.macOk <;> simp

@[simp] theorem writeCopy_store (m : MssSt) : (writeCopy m).store = m.store := by
  unfold writeCopy
  split <;> rfl

@[simp] theorem writeCopy_sealing (m : MssSt) : (writeCopy m).sealing = m.sealing := by
  unfold writeCopy
  split <;> rfl

theorem programming_of_ne {s : State} (h : s.mss.updState ≠ 3) : programming s = false :=
  beq_eq_false_iff_ne.mpr h

theorem programming_of_eq {s : State} (h : s.mss.updState = 3) : programming s = true :=
  beq_iff_eq.mpr h

/-- What a seal changes beside the value: the copies of the store, or the write that waits. -/
theorem sealStore_spec (f : DigestStore → DigestStore) (s : State) :
    sealStore f s = { s with mss := (sealStore f s).mss } ∧ (sealStore f s).mss.store = f s.mss.store ∧
    (programming s = false → storeInForce (sealStore f s).mss = some (f s.mss.store)) ∧
    (programming s = true → (sealStore f s).mss.sealWait = true ∧ (sealStore f s).mss.storeA = s.mss.storeA ∧
      (sealStore f s).mss.storeB = s.mss.storeB) := by
  unfold sealStore
  dsimp only
  split
  · next hprog => exact ⟨rfl, rfl, fun h => absurd (h.symm.trans hprog) Bool.false_ne_true, fun _ => ⟨rfl, rfl, rfl⟩⟩
  · next hprog => exact ⟨rfl, writeCopy_store _, fun _ => storeInForce_writeCopy _, fun h => absurd h hprog⟩

theorem sealStore_sealing (f : DigestStore → DigestStore) (s : State) :
    (sealStore f s).mss.sealing = s.mss.sealing := by
  unfold sealStore
  dsimp only
  split
  · rfl
  · exact writeCopy_sealing _

end Sys2Proof.Machine
end

section
/-! The management subsystem: the SMBus, the event log and the firmware update (R334, R337-R345). -/

namespace Sys2Proof.Machine

open Sys2Proof

/-! ### The SMBus (R334) -/

/-- Which words name a register that the SMBus may select. -/
theorem smbusReg_isSome {s : State} {n : Nat} : (smbusReg s n).isSome = true ↔
    n = 0 ∨ n = 8 ∨ (0x200 ≤ n ∧ n < 0x400 ∧ n % 8 = 0) ∨ n = 0x8008 ∨ n = 0x8030 := by
  unfold smbusReg
  split_ifs <;> simp_all

/-- A block read of a selected register sends its octets. -/
theorem smbusRead_selected {s : State} {w : BitVec 16} {v : W64} (hsel : s.mss.smbusSel = some w)
    (hv : smbusReg s w.toNat = some v) :
    smbusRead s = { s with wire := .smbus (smbusBlock (leBytes 8 v.toNat)) :: s.wire } := by
  rw [smbusRead, hsel, Option.bind_some, hv]
  rfl

theorem fld_mssInfoReg (s : State) : fld (mssInfoReg s) 15 8 = 0xB1 := by
  have hgrade : s.mss.grade.toNat < 4 := s.mss.grade.isLt
  rw [mssInfoReg]
  interval_cases s.mss.grade.toNat <;> rfl

theorem smbusReg_sensor {s : State} {i : Nat} {r : BitVec 16} (hi : i < 64)
    (hr : Map.get? s.mss.sensors i = some (some r)) :
    smbusReg s (BitVec.ofNat 16 (0x200 + 8 * i)).toNat = some (at_ 1 63 ||| bv64 r.toNat) := by
  have hn : (BitVec.ofNat 16 (0x200 + 8 * i)).toNat = 0x200 + 8 * i := by
    rw [BitVec.toNat_ofNat]
    omega
  have hix : (0x200 + 8 * i - 0x200) / 8 = i := by omega
  rw [hn, smbusReg, if_neg (by omega), if_neg (by omega), if_pos (by omega), hix, sensorReg, Map.getD, hr]

/-- A sensor's register holds the reading under the mark that one was taken. -/
theorem sensor_fields (r : BitVec 16) : (at_ 1 63 ||| bv64 r.toNat).getLsbD 63 = true ∧
    (at_ 1 63 ||| bv64 r.toNat).extractLsb' 0 16 = r := by
  refine ⟨by simp [getLsbD_at_], BitVec.eq_of_getLsbD_eq fun i hi => ?_⟩
  rw [BitVec.getLsbD_extractLsb', BitVec.getLsbD_or, getLsbD_at_, getLsbD_bv64]
  simp [hi, show i < 64 by omega, show ¬ 63 ≤ i by omega, BitVec.getElem_eq_testBit_toNat]

theorem powerCode_lt (p : PowerState) : powerCode p < 2 ^ 3 := by cases p <;> decide

theorem code_lt (st : Status) : st.code < 2 ^ 5 := by cases st <;> decide

/-- The fields of PWR_STATE (Table 15.6). -/
theorem pwrStateReg_fields (s : State) :
    fld (pwrStateReg s) 63 56 = s.pwr.lastStatus.code ∧ fld (pwrStateReg s) 55 52 = s.pwr.lastCmd.toNat ∧
    fld (pwrStateReg s) 47 40 = s.pwr.haltCause.toNat ∧ fld (pwrStateReg s) 35 32 = s.pwr.startStep.toNat ∧
    fld (pwrStateReg s) 31 28 = s.pwr.failStep.toNat ∧ (pwrStateReg s).getLsbD 8 = s.pwr.fallback := by
  have hst := code_lt s.pwr.lastStatus
  have hcmd : s.pwr.lastCmd.toNat < 2 ^ 4 := s.pwr.lastCmd.isLt
  have hcause : s.pwr.haltCause.toNat < 2 ^ 8 := s.pwr.haltCause.isLt
  have hstep : s.pwr.startStep.toNat < 2 ^ 4 := s.pwr.startStep.isLt
  have hfail : s.pwr.failStep.toNat < 2 ^ 4 := s.pwr.failStep.isLt
  have hfb := bit1_lt s.pwr.fallback
  have hcode := powerCode_lt s.pwr.state
  refine ⟨?_, ?_, ?_, ?_, ?_, ?fallback⟩
  case fallback =>
    simp only [pwrStateReg, BitVec.getLsbD_or, getLsbD_at_, getLsbD_bv64, testBit_bit1]
    simp [Nat.testBit_lt_two_pow (Nat.lt_of_lt_of_le hcode (show 2 ^ 3 ≤ 2 ^ 8 by decide))]
  all_goals
    simp only [pwrStateReg, fld_or, bv64_eq_at]
    simp (disch := omega) [fld_at_same, fld_at_above, fld_at_below hcmd, fld_at_below hcause,
      fld_at_below hstep, fld_at_below hfail, fld_at_below hfb, fld_at_below hcode]

/-- The fields of PWR_THERMAL (Table 15.11). -/
theorem pwrThermalReg_fields (s : State) : (pwrThermalReg s).extractLsb' 32 16 = s.pwr.tj ∧
    (pwrThermalReg s).getLsbD 0 = s.pwr.thermWarn := by
  refine ⟨BitVec.eq_of_getLsbD_eq fun i hi => ?tj, ?warning⟩
  case tj =>
    rw [pwrThermalReg, BitVec.getLsbD_extractLsb', BitVec.getLsbD_or, getLsbD_at_, getLsbD_bv64, testBit_bit1]
    simp [hi, show 32 + i < 64 by omega, BitVec.getElem_eq_testBit_toNat]
  case warning =>
    rw [pwrThermalReg, BitVec.getLsbD_or, getLsbD_at_, getLsbD_bv64, testBit_bit1]
    simp

/-- Settles O50: a selection by the registers that may be named, a read by the fields of the register selected. -/
theorem smbusReadsRegisters : Obligations.SmbusReadsRegisters := by
  unfold Obligations.SmbusReadsRegisters
  intro s hp answered
  have hread : exec .smbusBlockRead s = .next (smbusRead s) := congrArg Host.Outcome.next (mssRuns_on hp)
  have hanswered {w : BitVec 16} {v : W64} (hsel : s.mss.smbusSel = some w) (hv : smbusReg s w.toNat = some v) :
      exec .smbusBlockRead s = .next (answered v) := hread.trans (congrArg _ (smbusRead_selected hsel hv))
  refine ⟨?select, fun h => hanswered h rfl, fun h => ⟨_, hanswered h rfl, fld_mssInfoReg s⟩, ?sensor,
    fun h => ⟨_, hanswered h rfl, pwrStateReg_fields s⟩, fun h => ⟨_, hanswered h rfl, pwrThermalReg_fields s⟩, ?open_⟩
  case select =>
    intro w pec n
    have hexec : exec (.smbusSelect ⟨w, pec⟩) s = .next (smbusSelect w pec s) :=
      congrArg Host.Outcome.next (mssRuns_on hp)
    rw [hexec, smbusSelect]
    simp only [smbusReg_isSome]
    rfl
  case sensor =>
    intro i r hi hsel hr
    exact ⟨_, hanswered hsel (smbusReg_sensor hi hr), sensor_fields r⟩
  case open_ =>
    intro h
    refine ⟨Config.freeValue s.freeCtr, hread.trans ?_⟩
    rw [smbusRead, h]
    rfl

/-! ### The octets of a record (Table 16.4) -/

theorem fromLe_append (a b : List Byte) : fromLe (a ++ b) = fromLe a + 256 ^ a.length * fromLe b := by
  induction a with
  | nil => simp [fromLe]
  | cons x a ih =>
    rw [List.cons_append, fromLe, fromLe, ih, List.length_cons, Nat.pow_succ]
    ring

theorem bv64_fromLe_leBytes (v : W64) : bv64 (fromLe (leBytes 8 v.toNat)) = v := by
  rw [Laws.fromLe_leBytes, Nat.mod_eq_of_lt (show v.toNat < 256 ^ 8 from v.isLt), bv64, BitVec.ofNat_toNat, BitVec.setWidth_eq]

theorem logBytes_number (r : LogRec) : slice (logBytes r) 0 8 =
    leBytes 4 r.lseq.toNat ++ (leBytes 2 r.code.toNat ++ [BitVec.ofNat 8 r.sev.toNat, r.unit]) := by
  simp (disch := simp [Laws.leBytes_length]) [slice, logBytes, List.take_append, Laws.leBytes_length,
    List.take_of_length_le]

theorem logBytes_time (r : LogRec) : slice (logBytes r) 16 8 = leBytes 8 r.ftime.toNat := by
  simp (disch := simp [Laws.leBytes_length]) [slice, logBytes, List.drop_append, Laws.leBytes_length,
    zeros, List.drop_of_length_le]

theorem length_logWords (r : LogRec) : (logWords r).length = 8 := by
  rw [logWords, List.length_map, upTo, List.length_range]

/-- The first word of a record: number, code, severity and unit. -/
theorem logWords_first (r : LogRec) : (logWords r)[0]? = some (BitVec.ofNat 64 (r.lseq.toNat + r.code.toNat * 2 ^ 32 +
    r.sev.toNat * 2 ^ 48 + r.unit.toNat * 2 ^ 56)) := by
  have hw : (logWords r)[0]? = some (bv64 (fromLe (slice (logBytes r) 0 8))) := rfl
  have hseq : r.lseq.toNat < 256 ^ 4 := r.lseq.isLt
  have hcode : r.code.toNat < 256 ^ 2 := r.code.isLt
  have hsev : r.sev.toNat < 4 := r.sev.isLt
  rw [hw, logBytes_number, fromLe_append, fromLe_append, Laws.fromLe_leBytes, Laws.fromLe_leBytes,
    Nat.mod_eq_of_lt hseq, Nat.mod_eq_of_lt hcode, Laws.leBytes_length, Laws.leBytes_length]
  simp only [fromLe, bv64, BitVec.toNat_ofNat, Nat.mod_eq_of_lt (Nat.lt_trans hsev (show 4 < 2 ^ 8 by decide))]
  congr 2
  ring

theorem logWords_time (r : LogRec) : (logWords r)[2]? = some r.ftime := by
  have hw : (logWords r)[2]? = some (bv64 (fromLe (slice (logBytes r) 16 8))) := rfl
  rw [hw, logBytes_time, bv64_fromLe_leBytes]

/-! ### The event log (R337-R340) -/

/-- The entry as it is numbered: the next number, and whether entries were lost before it. -/
def numbered (s : State) (e : LogRec) : LogRec := { e with lseq := s.mss.nextLseq, lost := s.mss.logLost }

section
variable {s : State} {r : LogRec}

theorem logPersist_below (h : r.sev.toNat < persistMin s) : logPersist r s = (r, s) := if_pos h

theorem logPersist_halt (h : persistMin s ≤ r.sev.toNat) (hc : r.code = 0x0004#16) :
    logPersist r s = ({ r with persist := true }, { s with mss := { s.mss with
      logStore := storeAppend [{ r with persist := true }] s.mss.logStore } }) := by
  rw [logPersist, if_neg (Nat.not_lt.mpr h), if_pos hc]

theorem logPersist_queued (h : persistMin s ≤ r.sev.toNat) (hc : r.code ≠ 0x0004#16)
    (hroom : s.mss.persistQ.length < 4096) : logPersist r s = ({ r with persist := true }, { s with mss := { s.mss with
      persistQ := s.mss.persistQ ++ [{ r with persist := true }] } }) := by
  rw [logPersist, if_neg (Nat.not_lt.mpr h), if_neg hc, if_pos hroom]

theorem logPersist_full (h : persistMin s ≤ r.sev.toNat) (hc : r.code ≠ 0x0004#16)
    (hfull : 4096 ≤ s.mss.persistQ.length) : logPersist r s = (r, count 0 1 0 s) := by
  rw [logPersist, if_neg (Nat.not_lt.mpr h), if_neg hc, if_neg (Nat.not_lt.mpr hfull)]

end

/-- The entry at the front, of an earlier tick, whose number lies below the mark, moves into the ring. -/
theorem logMove_moves {s : State} {e : LogRec} {rest : List LogRec} (hf : s.mss.logFifo = e :: rest)
    (ht : e.ftime ≠ s.time.ftc) (hm : 0 < (s.mss.store.logMark - s.mss.nextLseq).toInt) {p : LogRec × State}
    (hp : logPersist (numbered s e) s = p) : ∃ due, logMove s = { p.2 with mss := { p.2.mss with
      logFifo := rest, logLost := false, ring := ringPush p.1 p.2.mss.ring, nextLseq := s.mss.nextLseq + 1
      sealing := due } } := by
  have hgo : ¬ (e.ftime = s.time.ftc ∨ ¬ belowMark s.mss.nextLseq s.mss.store.logMark = true) := by
    rw [not_or, not_not]
    exact ⟨ht, decide_eq_true hm⟩
  subst hp
  rw [logMove, hf]
  dsimp only
  rw [if_neg hgo]
  exact ⟨_, rfl⟩

theorem logMove_waits {s : State} (hm : (s.mss.store.logMark - s.mss.nextLseq).toInt ≤ 0) : logMove s = s := by
  have hwait : ¬ belowMark s.mss.nextLseq s.mss.store.logMark = true := by
    rw [belowMark, decide_eq_true_iff]
    omega
  unfold logMove
  split
  · rfl
  · rw [if_pos (Or.inr hwait)]

/-- A mark that is due is sealed, unless an image is being programmed. -/
theorem logSealed_seals {s : State} {m : BitVec 32} (hm : s.mss.sealing = some m) (hprog : programming s = false) :
    logSealed s = sealStore (fun x => { x with logMark := m }) { s with mss := { s.mss with sealing := none } } := by
  rw [logSealed, hm]
  dsimp only
  rw [hprog]
  rfl

theorem logSealed_waits {s : State} (hprog : programming s = true) : logSealed s = s := by
  unfold logSealed
  split
  · rfl
  · rw [if_pos hprog]

/-- A record is found by its number. -/
theorem lseq_eq_iff {r : LogRec} {v : W64} :
    (r.lseq == BitVec.ofNat 32 (fld v 31 0)) = decide (r.lseq.toNat = fld v 31 0) := by
  have hv : (BitVec.ofNat 32 (fld v 31 0)).toNat = fld v 31 0 := toNat_ofNat_fld v 31 0
  rw [Bool.eq_iff_iff, beq_iff_eq, decide_eq_true_iff, ← BitVec.toNat_inj, hv]

theorem logSelect_found {s : State} {v : W64} {r : LogRec}
    (h : s.mss.ring.find? (fun x => decide (x.lseq.toNat = fld v 31 0)) = some r) :
    logSelect v s = (.ok, { s with mss := { s.mss with logSel := r.lseq, logHeld := true, logData := logWords r } }) := by
  have hnumber : decide (r.lseq.toNat = fld v 31 0) = true := by
    simpa using List.find?_some h
  have hr : r.lseq = BitVec.ofNat 32 (fld v 31 0) := beq_iff_eq.mp (lseq_eq_iff.trans hnumber)
  simp only [logSelect, lseq_eq_iff, List.find?_append, h, Option.some_or, hr]

theorem logSelect_missing {s : State} {v : W64} (h : ∀ r ∈ s.mss.ring ++ s.mss.logStore, r.lseq.toNat ≠ fld v 31 0) :
    logSelect v s = (.ok, { s with mss := { s.mss with
      logSel := BitVec.ofNat 32 (fld v 31 0), logHeld := false, logData := [] } }) := by
  have hnone : (s.mss.ring ++ s.mss.logStore).find? (fun x => decide (x.lseq.toNat = fld v 31 0)) = none :=
    List.find?_eq_none.mpr fun r hr => by simpa using h r hr
  simp only [logSelect, lseq_eq_iff, hnone]

/-- Settles O51: the move by what the persist queue does with the entry, the seal and the page program by whether an
image is being programmed, the selection by whether the record is found. -/
theorem logIsKept : Obligations.LogIsKept := by
  unfold Obligations.LogIsKept
  intro s hp
  have hmove : exec .logEngineMove s = .next (logMove s) := congrArg Host.Outcome.next (mssRuns_on hp)
  have hseal : exec .logMarkSealComplete s = .next (logSealed s) := congrArg Host.Outcome.next (mssRuns_on hp)
  have hwrite : exec .logPersistWrite s = .next (logPersistWrite s) := congrArg Host.Outcome.next (mssRuns_on hp)
  have hselect (v : W64) : exec (.logSelect v) s = .next (withStatus (logSelect v s).2 (logSelect v s).1) :=
    loaderCmd_on hp
  refine ⟨?moves, fun hm => hmove.trans (congrArg _ (logMove_waits hm)), ?seals, ?program, ?waits, ?found, ?missing⟩
  case moves =>
    intro e rest hf ht hm r q
    refine ⟨fun hsev => ?_, fun hsev hc => ?_, fun hsev hc => ⟨fun hroom => ?_, fun hfull => ?_⟩⟩
    · obtain ⟨due, hlog⟩ := logMove_moves hf ht hm (logPersist_below hsev)
      exact ⟨_, hmove.trans (congrArg _ hlog), rfl⟩
    · obtain ⟨due, hlog⟩ := logMove_moves hf ht hm (logPersist_halt hsev hc)
      exact ⟨_, hmove.trans (congrArg _ hlog), rfl⟩
    · obtain ⟨due, hlog⟩ := logMove_moves hf ht hm (logPersist_queued hsev hc hroom)
      exact ⟨_, hmove.trans (congrArg _ hlog), rfl⟩
    · obtain ⟨due, hlog⟩ := logMove_moves hf ht hm (logPersist_full hsev hc hfull)
      refine ⟨_, hmove.trans (congrArg _ hlog), ?_⟩
      simp only [count_mss]
      exact ⟨rfl, trivial, trivial, trivial⟩
  case seals =>
    intro m hm hstate
    have hprog := programming_of_ne hstate
    obtain ⟨hframe, hstore, hforce, -⟩ := sealStore_spec (fun x => { x with logMark := m })
      { s with mss := { s.mss with sealing := none } }
    refine ⟨_, hseal.trans (congrArg _ (logSealed_seals hm hprog)), hframe, sealStore_sealing .., hstore, ?_⟩
    rw [hforce hprog, hstore]
  case program =>
    intro hstate
    rw [hwrite, logPersistWrite, programming_of_ne hstate]
    rfl
  case waits =>
    intro hstate
    have hprog := programming_of_eq hstate
    rw [hwrite, hseal, logSealed_waits hprog, logPersistWrite, if_pos hprog]
    exact ⟨rfl, rfl⟩
  case found =>
    intro v r h
    refine ⟨_, hselect v, ?_⟩
    rw [logSelect_found h]
    exact ⟨rfl, length_logWords r, rfl, rfl, logWords_first r, logWords_time r⟩
  case missing =>
    intro v h
    rw [hselect, logSelect_missing h]
    rfl

/-! ### The firmware update (R343-R345, Table 16.7) -/

theorem updBusy_iff {s : State} : updBusy s = true ↔ s.mss.updState = 2 ∨ s.mss.updState = 3 := by
  simp [updBusy]

/-- What a failed update leaves: STATE failed, and what was found, logged. -/
theorem updFail_spec (st : Status) (detail : Nat) (s : State) :
    (updFail st detail s).1 = st ∧ ∃ log lost, (updFail st detail s).2.mss = { s.mss with
      logFifo := log, logLost := lost, updState := 5, updStatus := st, updDetail := BitVec.ofNat 8 detail } := by
  refine ⟨rfl, ?_⟩
  unfold updFail logEv
  dsimp only
  split
  · exact ⟨_, _, rfl⟩
  · simp only [updShow, count_mss]
    exact ⟨_, _, rfl⟩

/-- Logging changes the log's queue in the management subsystem and nothing else of it. -/
theorem logEv_mss (code sev unit : Nat) (tag : Option (BitVec 24)) (args : List Nat) (s : State) :
    ∃ log lost, (logEv code sev unit tag args s).mss = { s.mss with logFifo := log, logLost := lost } := by
  unfold logEv
  dsimp only
  split
  · exact ⟨_, _, rfl⟩
  · simp only [count_mss]
    exact ⟨_, _, rfl⟩

/-- A write of the store that waited is made; nothing else changes. -/
theorem sealWaiting_waited {s : State} (h : s.mss.sealWait = true) :
    (sealWaiting s).mss.sealWait = false ∧ storeInForce (sealWaiting s).mss = some s.mss.store := by
  rw [sealWaiting, if_pos h]
  refine ⟨?_, storeInForce_writeCopy _⟩
  dsimp only
  unfold writeCopy
  split <;> rfl

theorem sealWaiting_mss (s : State) : ∃ a b w, (sealWaiting s).mss = { s.mss with storeA := a, storeB := b, sealWait := w } := by
  unfold sealWaiting writeCopy
  split
  · dsimp only
    split <;> exact ⟨_, _, _, rfl⟩
  · exact ⟨_, _, _, rfl⟩

section
variable {s : State}

theorem allReceived_iff : allReceived s = true ↔ s.mss.words.length * 8 = s.mss.stagedLen := beq_iff_eq

theorem updCommit_fails {e : Status × Nat} (hstate : s.mss.updState = 1 ∨ s.mss.updState = 5)
    (hall : s.mss.words.length * 8 = s.mss.stagedLen) (hc : fwChecks s (stagedFw s) s.mss.stagedLen = some e) :
    updCommit s = updFail e.1 e.2 s := by
  have h4 : s.mss.updState ≠ 4 := by rcases hstate with h | h <;> rw [h] <;> decide
  rw [updCommit, if_neg h4, if_neg (not_not.mpr hstate), if_neg (not_not.mpr (allReceived_iff.mpr hall)), hc]

theorem updCommit_begins (hstate : s.mss.updState = 1 ∨ s.mss.updState = 5)
    (hall : s.mss.words.length * 8 = s.mss.stagedLen) (hc : fwChecks s (stagedFw s) s.mss.stagedLen = none) :
    updCommit s = updShow .ok 0 { s with mss := { s.mss with updState := 3, flash := [], flashValid := false } } := by
  have h4 : s.mss.updState ≠ 4 := by rcases hstate with h | h <;> rw [h] <;> decide
  rw [updCommit, if_neg h4, if_neg (not_not.mpr hstate), if_neg (not_not.mpr (allReceived_iff.mpr hall)), hc]

theorem updCommit_incomplete (hstate : s.mss.updState = 1) (hall : s.mss.words.length * 8 ≠ s.mss.stagedLen) :
    updCommit s = updFail .malformedTile 1 s := by
  have h4 : s.mss.updState ≠ 4 := by rw [hstate]; decide
  rw [updCommit, if_neg h4, if_neg (not_not.mpr (Or.inl hstate)), if_pos (mt allReceived_iff.mp hall)]

/-- Programming that reads back well leaves the staged image in flash. -/
theorem updProgrammed_good (hprog : programming s = true) : ∃ s1 : State, updProgrammed true s = sealWaiting s1 ∧
    ∃ log lost, s1.mss = { s.mss with
      flash := s.mss.staging, flashValid := true, updState := 4, logFifo := log, logLost := lost } := by
  rw [updProgrammed, if_neg (not_not.mpr hprog), if_pos rfl]
  obtain ⟨log, lost, hmss⟩ := logEv_mss 0x0009 0 0xFF none [leAt (stagedFw s) 8 4, leAt (stagedFw s) 12 1]
    { s with mss := { s.mss with flash := s.mss.staging, flashValid := true, updState := 4 } }
  exact ⟨_, rfl, log, lost, hmss⟩

/-- Programming that does not leaves the region without its header. -/
theorem updProgrammed_bad (hprog : programming s = true) : ∃ s1 : State, updProgrammed false s = sealWaiting s1 ∧
    ∃ log lost, s1.mss = { s.mss with
      flash := Map.keep s.mss.staging (fun a _ => decide (64 ≤ a)), logFifo := log, logLost := lost
      updState := 5, updStatus := .resourceBound, updDetail := 0x0A#8 } := by
  rw [updProgrammed, if_neg (not_not.mpr hprog), if_neg Bool.false_ne_true]
  obtain ⟨-, log, lost, hmss⟩ := updFail_spec .resourceBound 0x0A
    { s with mss := { s.mss with flash := Map.keep s.mss.staging (fun a _ => decide (64 ≤ a)) } }
  exact ⟨_, rfl, log, lost, hmss⟩

end

/-- Entries of a map that are not kept are not found. -/
theorem Map.get?_keep_none {α : Type} {m : Map α} {k : Nat} {p : Nat → α → Bool} (h : ∀ a, p k a = false) :
    Map.get? (Map.keep m p) k = none :=
  Map.get?_eq_none_of_ne fun e he heq => by
    have hp := (List.mem_filter.mp he).2
    rw [heq, h] at hp
    exact Bool.false_ne_true hp

section
variable {s : State} {k : Nat} (hrom : s.mss.romOnly = false) (hfree : s.mss.revoked.getLsbD k = false)
include hrom hfree

theorem revokeSlot_inUse (hslot : s.mss.fw.slot.toNat = k) : revokeSlot k s = updShow .resourceBound 0 s := by
  simp [revokeSlot, hrom, hfree, hslot]

/-- A slot that is neither in use nor the last is revoked. -/
theorem revokeSlot_burns (hslot : s.mss.fw.slot.toNat ≠ k)
    (hother : ∃ j, j < 4 ∧ j ≠ k ∧ s.mss.revoked.getLsbD j = false) : revokeSlot k s =
      updShow .ok 0 { s with mss := { s.mss with revoked := s.mss.revoked ||| BitVec.ofNat 4 (2 ^ k) } } := by
  obtain ⟨j, hj, hne, hjfree⟩ := hother
  have hothers : (upTo 4).any (fun i => i != k && !s.mss.revoked.getLsbD i) = true :=
    List.any_eq_true.mpr ⟨j, List.mem_range.mpr hj, by simp [hne, hjfree]⟩
  simp only [revokeSlot, hrom, hfree, hslot, hothers, Bool.false_eq_true, if_false, not_true_eq_false, or_self]

end

theorem getLsbD_or_twoPow {x : BitVec 4} {j k : Nat} (hj : j < 4) :
    (x ||| BitVec.ofNat 4 (2 ^ k)).getLsbD j = true ↔ x.getLsbD j = true ∨ j = k := by
  rw [BitVec.getLsbD_or, BitVec.getLsbD_ofNat, Bool.or_eq_true, Bool.and_eq_true, decide_eq_true_iff,
    Nat.testBit_two_pow, decide_eq_true_iff, and_iff_right hj, eq_comm (a := k)]

/-- Settles O52: each action by the state of the update and the checks it passes. -/
theorem firmwareIsUpdated : Obligations.FirmwareIsUpdated := by
  unfold Obligations.FirmwareIsUpdated
  intro s hp
  have hbegin (v : W64) : exec (.updateBegin v) s = .next (withStatus (updBegin v s).2 (updBegin v s).1) :=
    loaderCmd_on hp
  have hcommit : exec .updateCommit s = .next (withStatus (updCommit s).2 (updCommit s).1) := loaderCmd_on hp
  have hprogram (ok : Bool) : exec (.updateProgramComplete ok) s = .next (updProgrammed ok s) :=
    congrArg Host.Outcome.next (mssRuns_on hp)
  have habort : exec .updateAbort s = .next (withStatus (updAbort s).2 (updAbort s).1) := loaderCmd_on hp
  have hsvn : exec .svnCommit s = .next (withStatus (svnCommit s).2 (svnCommit s).1) := loaderCmd_on hp
  have hrevoke (k : BitVec 2) : exec (.revoke k) s =
      .next (withStatus (revokeSlot k.toNat s).2 (revokeSlot k.toNat s).1) := loaderCmd_on hp
  have hidle (h2 : s.mss.updState ≠ 2) (h3 : s.mss.updState ≠ 3) : ¬ updBusy s = true :=
    fun h => (updBusy_iff.mp h).elim h2 h3
  refine ⟨?begin_, ?done, ?commit, ?incomplete, ?programmed, ?abort, ?svn, ?revoke, ?loader⟩
  case begin_ =>
    intro v n
    refine ⟨fun h2 h3 h8 hlo hhi => ?_, fun h2 h3 hbad => ?_, fun hbusy => ?_⟩
    · have hok : ¬ (n % 8 ≠ 0 ∨ n < 5496 ∨ 12582912 < n) := by omega
      rw [hbegin, updBegin, if_neg (hidle h2 h3), if_neg hok]
      rfl
    · rw [hbegin, updBegin, if_neg (hidle h2 h3), if_pos hbad]
      rfl
    · rw [hbegin, updBegin, if_pos (updBusy_iff.mpr hbusy)]
      rfl
  case done =>
    intro h4
    rw [hcommit, updCommit, if_pos h4]
    rfl
  case commit =>
    refine fun hstate hall => ⟨fun hc => ?_, fun e hc => ?_⟩
    · rw [hcommit, updCommit_begins hstate hall hc]
      rfl
    · obtain ⟨hst, log, lost, hmss⟩ := updFail_spec e.1 e.2 s
      refine ⟨_, hcommit, ?_⟩
      rw [updCommit_fails hstate hall hc, withStatus_mss, hmss]
      exact ⟨hst, rfl, rfl, rfl, rfl, rfl, rfl⟩
  case incomplete =>
    intro hstate hall
    obtain ⟨hst, log, lost, hmss⟩ := updFail_spec .malformedTile 1 s
    refine ⟨_, hcommit, ?_⟩
    rw [updCommit_incomplete hstate hall, withStatus_mss, hmss]
    exact ⟨hst, rfl, rfl, rfl, rfl⟩
  case programmed =>
    refine fun h3 => ⟨?good, ?bad⟩
    case good =>
      obtain ⟨s1, hgood, log, lost, hs1⟩ := updProgrammed_good (programming_of_eq h3)
      obtain ⟨a, b, w, hmss⟩ := sealWaiting_mss s1
      refine ⟨_, hprogram true, ?_⟩
      rw [hgood]
      refine ⟨by rw [hmss, hs1], by rw [hmss, hs1], by rw [hmss, hs1], by rw [hmss, hs1], fun hwait => ?_⟩
      have h := sealWaiting_waited (s := s1) (by rw [hs1]; exact hwait)
      rwa [hs1] at h
    case bad =>
      obtain ⟨s1, hbad, log, lost, hs1⟩ := updProgrammed_bad (programming_of_eq h3)
      obtain ⟨a, b, w, hmss⟩ := sealWaiting_mss s1
      refine ⟨_, hprogram false, ?_⟩
      rw [hbad]
      refine ⟨by rw [hmss, hs1], by rw [hmss, hs1], by rw [hmss, hs1], by rw [hmss, hs1], fun a ha => ?_,
        fun hwait => ?_⟩
      · rw [hmss, hs1]
        exact Map.get?_keep_none (p := fun a _ => decide (64 ≤ a)) fun _ => decide_eq_false (Nat.not_le.mpr ha)
      · have h := sealWaiting_waited (s := s1) (by rw [hs1]; exact hwait)
        rwa [hs1] at h
  case abort =>
    intro h2 h3
    rw [habort, updAbort, if_neg (hidle h2 h3)]
    rfl
  case svn =>
    intro hrom
    rw [hsvn, svnCommit, if_neg (Bool.eq_false_iff.mp hrom)]
    rfl
  case revoke =>
    refine fun k hrom => ⟨fun hfree hslot hother => ?_, fun hfree hslot => ?_⟩
    · refine ⟨_, hrevoke k, ?_⟩
      rw [revokeSlot_burns hrom hfree (fun h => hslot (BitVec.eq_of_toNat_eq h)) hother]
      exact ⟨rfl, rfl, rfl, fun j hj => getLsbD_or_twoPow hj⟩
    · rw [hrevoke, revokeSlot_inUse hrom hfree (congrArg BitVec.toNat hslot)]
      rfl
  case loader =>
    refine fun hrom k => ⟨?_, ?_⟩
    · rw [hsvn, hrevoke, svnCommit, revokeSlot, if_pos hrom, if_pos hrom]
    · rw [hsvn, svnCommit, if_pos hrom]
      rfl

end Sys2Proof.Machine
end

section
/-! What is lost with the core, and what counting, logging and judging the partner leave alone (R328, R360, R389). -/

namespace Sys2Proof.Machine

open Sys2Proof

/-! ### Records of an event -/

/-- `t` is `s` but for the log's queue, the twin pair and the counters: what an event's records may change. -/
def Noted (s t : State) : Prop := ∃ twn log lost counters at_ recent shadows, t = { s with
  twn := twn
  mss := { s.mss with logFifo := log, logLost := lost }
  dbg := { s.dbg with counters := counters, recentAt := at_, recent := recent, shadows := shadows } }

namespace Noted

theorem refl (s : State) : Noted s s := ⟨_, _, _, _, _, _, _, rfl⟩

theorem trans {s t u : State} (hst : Noted s t) (htu : Noted t u) : Noted s u := by
  obtain ⟨_, _, _, _, _, _, _, rfl⟩ := hst
  obtain ⟨_, _, _, _, _, _, _, rfl⟩ := htu
  exact ⟨_, _, _, _, _, _, _, rfl⟩

variable {s t : State} (h : Noted s t)
include h

theorem regs_eq : t.regs = s.regs := by obtain ⟨_, _, _, _, _, _, _, rfl⟩ := h; rfl
theorem time_eq : t.time = s.time := by obtain ⟨_, _, _, _, _, _, _, rfl⟩ := h; rfl
theorem ports_eq : t.ports = s.ports := by obtain ⟨_, _, _, _, _, _, _, rfl⟩ := h; rfl
theorem sw_eq : t.sw = s.sw := by obtain ⟨_, _, _, _, _, _, _, rfl⟩ := h; rfl
theorem mem_eq : t.mem = s.mem := by obtain ⟨_, _, _, _, _, _, _, rfl⟩ := h; rfl
theorem bpm_eq : t.bpm = s.bpm := by obtain ⟨_, _, _, _, _, _, _, rfl⟩ := h; rfl
theorem groups_eq : t.groups = s.groups := by obtain ⟨_, _, _, _, _, _, _, rfl⟩ := h; rfl
theorem ctx_eq : t.ctx = s.ctx := by obtain ⟨_, _, _, _, _, _, _, rfl⟩ := h; rfl
theorem cord_eq : t.cord = s.cord := by obtain ⟨_, _, _, _, _, _, _, rfl⟩ := h; rfl
theorem host_eq : t.host = s.host := by obtain ⟨_, _, _, _, _, _, _, rfl⟩ := h; rfl
theorem pwr_eq : t.pwr = s.pwr := by obtain ⟨_, _, _, _, _, _, _, rfl⟩ := h; rfl
theorem dampered_eq : t.dbg.dampered = s.dbg.dampered := by obtain ⟨_, _, _, _, _, _, _, rfl⟩ := h; rfl
theorem serials_eq : t.dbg.serials = s.dbg.serials := by obtain ⟨_, _, _, _, _, _, _, rfl⟩ := h; rfl
theorem sensors_eq : t.mss.sensors = s.mss.sensors := by obtain ⟨_, _, _, _, _, _, _, rfl⟩ := h; rfl

end Noted

theorem count_noted (b i k : Nat) (s : State) : Noted s (count b i k s) := by
  unfold count countN
  split
  · exact .refl s
  · split
    · exact ⟨_, _, _, _, _, _, _, rfl⟩
    · exact .refl s

theorem logEv_noted (code sev unit : Nat) (tag : Option (BitVec 24)) (args : List Nat) (s : State) :
    Noted s (logEv code sev unit tag args s) := by
  unfold logEv
  dsimp only
  split
  · exact ⟨_, _, _, _, _, _, _, rfl⟩
  · exact Noted.trans ⟨_, _, _, _, _, _, _, rfl⟩ (count_noted ..)

theorem mirrorSend_noted (mtype : Byte) (body : List Byte) (s : State) : Noted s (mirrorSend mtype body s) := by
  unfold mirrorSend
  split
  · exact .refl s
  · split
    · exact Noted.trans ⟨_, _, _, _, _, _, _, rfl⟩ (count_noted ..)
    · unfold mirrorPush
      split
      · exact .refl s
      · exact ⟨_, _, _, _, _, _, _, rfl⟩

theorem setPairEpoch_noted (e : BitVec 32) (s : State) : Noted s (setPairEpoch e s) := by
  unfold setPairEpoch
  split
  · exact .refl s
  · exact Noted.trans ⟨_, _, _, _, _, _, _, rfl⟩ (mirrorSend_noted ..)

theorem partnerLost_noted (s : State) : Noted s (partnerLost s) := by
  have hlog : Noted s (logEv (codeOther 12) 2 0xFF none [s.twn.epoch.toNat]
      { s with twn := { s.twn with state := 5, version := 0 } }) :=
    Noted.trans ⟨_, _, _, _, _, _, _, rfl⟩ (logEv_noted ..)
  unfold partnerLost
  dsimp only
  split
  · exact hlog.trans ((setPairEpoch_noted ..).trans ⟨_, _, _, _, _, _, _, rfl⟩)
  · exact hlog

theorem judgePartner_noted (s : State) : Noted s (judgePartner s) := by
  unfold judgePartner
  split
  · split
    · exact ⟨_, _, _, _, _, _, _, rfl⟩
    · split
      · exact .refl s
      · exact partnerLost_noted s
  · exact .refl s

/-! ### The core goes off (Table 15.1) -/

section
variable (s : State)

@[simp] theorem coreOff_pwr : (coreOff s).pwr = s.pwr := (judgePartner_noted _).pwr_eq
@[simp] theorem coreOff_mem : (coreOff s).mem = { cells := [], chk := [] } := (judgePartner_noted _).mem_eq
@[simp] theorem coreOff_ports : (coreOff s).ports = [] := (judgePartner_noted _).ports_eq
@[simp] theorem coreOff_groups : (coreOff s).groups = [] := (judgePartner_noted _).groups_eq
@[simp] theorem coreOff_host : (coreOff s).host = s.host := (judgePartner_noted _).host_eq

theorem coreOff_staged : (coreOff s).cord.staged = s.cord.staged := by
  rw [coreOff, (judgePartner_noted _).cord_eq]

theorem coreOff_floor : (coreOff s).cord.floor = s.cord.floor := by
  rw [coreOff, (judgePartner_noted _).cord_eq]

@[simp] theorem coreOff_dampered : (coreOff s).dbg.dampered = s.dbg.dampered := (judgePartner_noted _).dampered_eq

end

/-- A start that fails keeps its step. -/
theorem logStartFail_pwr (cause : Nat) (s : State) :
    (logStartFail cause s).pwr = { s.pwr with failStep := s.pwr.startStep } := logEv_pwr ..

/-- What the start under way leaves when it is ended from outside: its step, logged. -/
theorem pwr_endedStart (cause : Nat) (s : State) : (if starting s then logStartFail cause s else s).pwr =
    { s.pwr with failStep := if starting s = true then s.pwr.startStep else s.pwr.failStep } := by
  split
  · exact logStartFail_pwr cause s
  · rfl

/-- A removal drops the first rail, unless one is under way. -/
theorem beginRemoval_eq (s : State) : beginRemoval s = { s with pwr := (beginRemoval s).pwr } := by
  unfold beginRemoval
  split <;> rfl

theorem beginRemoval_en (s : State) :
    (beginRemoval s).pwr.en = if s.pwr.dropping then s.pwr.en else dropTop s.pwr.en := by
  unfold beginRemoval
  split <;> rfl

/-- A removal changes the rails and nothing else of the power part. -/
theorem beginRemoval_pwr (s : State) : ∃ e g o d, (beginRemoval s).pwr = { s.pwr with
    en := e, pg := g, pgOpen := o, dropping := d } := by
  unfold beginRemoval
  split
  · exact ⟨_, _, _, _, rfl⟩
  · exact ⟨_, _, _, _, rfl⟩

/-- A cold start from step 1. -/
theorem coldFrom_pwr (fallback : Bool) (s : State) : (coldFrom fallback s).pwr = { s.pwr with
    state := .coldStarting, startStep := 1, fallback := fallback, bankEntry := false, restartKind := false
    lost := none } := by
  have hpwr : (coldReset s).pwr = s.pwr := coreOff_pwr s
  rw [coldFrom]
  dsimp only
  rw [hpwr]

theorem coldFrom_frame (fallback : Bool) (s : State) :
    (coldFrom fallback s).time = TimeSt.reset ∧
    (coldFrom fallback s).cord = { CordSt.reset with staged := s.cord.staged, floor := s.cord.floor } ∧
    (coldFrom fallback s).mem = { cells := [], chk := [] } ∧ (coldFrom fallback s).ports = [] ∧
    (coldFrom fallback s).dbg.dampered = s.dbg.dampered := by
  refine ⟨rfl, ?_, coreOff_mem s, coreOff_ports s, coreOff_dampered s⟩
  have hcord : (coldFrom fallback s).cord =
      { CordSt.reset with staged := (coreOff s).cord.staged, floor := (coreOff s).cord.floor } := rfl
  rw [hcord, coreOff_staged, coreOff_floor]

end Sys2Proof.Machine
end

section
/-! The state commands of the power block: OFF, COLD, BANK, RESTART, IDLE, ACTIVE and BLAZE (R316, R320, R321, R325). -/

namespace Sys2Proof.Machine

open Sys2Proof

theorem Map.get?_each {α β : Type} (m : Map α) (f : Nat → α → β) (k : Nat) :
    Map.get? (Map.each m f) k = (Map.get? m k).map (f k) := by
  induction m with
  | nil => rfl
  | cons e m ih =>
    by_cases he : e.1 = k
    · simp [Map.each, Map.get?, he]
    · simpa [Map.each, Map.get?, he] using ih

/-- A value of a map made by `each` is `f` of the value that stood there. -/
theorem Map.of_get?_each {α β : Type} {m : Map α} {f : Nat → α → β} {k : Nat} {b : β}
    (h : Map.get? (Map.each m f) k = some b) : ∃ a, Map.get? m k = some a ∧ b = f k a := by
  rw [Map.get?_each, Option.map_eq_some_iff] at h
  obtain ⟨a, ha, hb⟩ := h
  exact ⟨a, ha, hb.symm⟩

/-! ### OFF and COLD -/

section
variable {s : State}

theorem exec_powerCmd {op : State → Status × State} {n : Nat} (hp : s.pwr.porst = true)
    (h : s.mss.romOnly = false ∨ starting s = true) : stateCmd (powerCmd n op) s = .next { (op s).2 with
      lastStatus := (op s).1
      pwr := { (op s).2.pwr with lastStatus := (op s).1, lastCmd := BitVec.ofNat 4 n } } := stateCmd_on hp h

theorem exec_cold (hp : s.pwr.porst = true) : exec .cold s = .next { (cmdCold s).2 with
    lastStatus := (cmdCold s).1
    pwr := { (cmdCold s).2.pwr with lastStatus := (cmdCold s).1, lastCmd := 2 } } := loaderCmd_on hp

theorem cmdOff_off (h : s.pwr.state = .off) : cmdOff s = (.ok, s) := if_pos h

/-- What the core loses when OFF ends what runs. -/
def offCore (s : State) : State :=
  let s2 := coreOff (if starting s then logStartFail 0x0C s else s)
  { s2 with pwr := { s2.pwr with state := .off, startStep := 0, bankEntry := false, haltN := true } }

theorem cmdOff_on (h : s.pwr.state ≠ .off) : cmdOff s = (.ok, beginRemoval (offCore s)) := if_neg h

theorem offCore_pwr (s : State) : (offCore s).pwr = { s.pwr with
    failStep := if starting s = true then s.pwr.startStep else s.pwr.failStep
    state := .off, startStep := 0, bankEntry := false, haltN := true } := by
  simp only [offCore, coreOff_pwr, pwr_endedStart]

theorem offCore_lost (s : State) : (offCore s).mem.cells = [] ∧ (offCore s).ports = [] ∧ (offCore s).groups = [] := by
  simp only [offCore, coreOff_mem, coreOff_ports, coreOff_groups, and_self]

theorem cmdCold_busy (h : s.mss.updState = 3) : cmdCold s = (.resourceBound, s) := if_pos (programming_of_eq h)

theorem cmdCold_starts (hp : s.pwr.porst = true) (hu : s.mss.updState ≠ 3)
    (h : s.pwr.state = .off ∨ s.pwr.state = .halted) :
    cmdCold s = (.ok, { coldFrom false s with pwr := { (coldFrom false s).pwr with haltCause := 0, haltN := true } }) := by
  have hns : s.pwr.state ≠ .coldStarting := by
    rcases h with h | h
    · simp [h]
    · simp [h]
  rw [cmdCold, if_neg (by simp [programming_of_ne hu]), if_neg hns, if_pos ⟨h, hp⟩]

/-! ### BANK and the entry into Banked (R320) -/

theorem cmdBank_begins (hi : s.pwr.state = .idle) (he : s.pwr.bankEntry = false) (hf : (reg s Reg.fwdCfg).getLsbD 0 = false)
    (hb : anyBusy s = false) (hc : cordRunning s = false) (hm : s.bpm.copy = none) :
    cmdBank s = (.ok, { closeAll s with pwr := { (closeAll s).pwr with bankEntry := true } }) := by
  have hne : s.pwr.state ≠ .banked := by simp [hi]
  rw [cmdBank, if_neg hne, if_neg (by simp [he]), if_pos ⟨hi, by rw [bitAt, hf]; decide, by simp [hb], by simp [hc], hm⟩]

theorem closeAll_port (s : State) (k : Nat) {p : Port} (hk : Map.get? s.ports k = some p) :
    ∃ q, Map.get? (closeAll s).ports k = some q ∧
      q.state = if p.state = .up ∨ p.state = .closing then .closing else .down := by
  refine ⟨_, by rw [closeAll, Map.get?_each, hk]; rfl, ?_⟩
  dsimp only
  split_ifs <;> simp_all

/-- With no port closing the entry into Banked has nothing left to close. -/
theorem bankCloses_none (h : ∀ e ∈ s.ports, e.2.state ≠ .closing) : bankCloses s = s := by
  have hnil : s.ports.filter (fun e => e.2.state == .closing) = [] :=
    List.filter_eq_nil_iff.mpr fun e he => by simp [h e he]
  rw [bankCloses, hnil]
  rfl

/-- Three removals take the rails of core and SerDes and leave the other three (Table 19.4). -/
theorem bankDrop_all (e : BitVec 6) : bankDrop (bankDrop (bankDrop e)) = e &&& 0x38#6 := by
  revert e
  decide

theorem and_not_and (e : BitVec 6) : e &&& ~~~(e &&& 0x38#6) = e &&& 7#6 := by
  revert e
  decide

/-- The state as the entry into Banked leaves it. -/
def bankedOf (s : State) : State := { s with
  ports := Map.each s.ports (fun _ p => portBanked p), twn := { s.twn with hbTx := false }
  pwr := { s.pwr with
    state := .banked, bankEntry := false, en := s.pwr.en &&& 0x38#6, pg := s.pwr.pg &&& (s.pwr.en &&& 0x38#6)
    pgOpen := s.pwr.pgOpen ||| (s.pwr.en &&& 7#6) } }

theorem bankedEntry_enters (hp : s.pwr.porst = true) (hi : s.pwr.state = .idle) (he : s.pwr.bankEntry = true)
    (h : ∀ e ∈ s.ports, e.2.state ≠ .closing) : bankedEntry s = judgePartner (bankedOf s) := by
  have hrem : bankRemoving s = true := by simpa [bankRemoving, hp, hi, he] using h
  rw [bankedEntry, if_pos ⟨hp, hi, he⟩]
  dsimp only
  rw [bankCloses_none h, if_neg (by simp [hrem]), bankDrop_all, dropTo, and_not_and]
  rfl

/-! ### RESTART (R321) -/

/-- One group's buffers freed. -/
def freeGroup (gr : GroupSt) : GroupSt := { gr with
  bufs := [], offers := [], steerA := [], steerB := [], poolWait := none, units := Map.each gr.units (fun _ un =>
    { un with qa := [], qb := [], arbA := Arb.reset, arbB := Arb.reset }) }

theorem getGroup_modGroup (s : State) (g k : Nat) (f : GroupSt → GroupSt) :
    getGroup (modGroup s g f) k = if k = g then f (getGroup s g) else getGroup s k := by
  split
  · next hk =>
    subst hk
    exact Map.getD_set_same
  · next hk => exact Map.getD_set_other hk

/-- What one function makes of each of the groups named, once each. -/
theorem getGroup_foldOver {f : GroupSt → GroupSt} {l : List Nat} (hl : l.Nodup) (s : State) (k : Nat) :
    getGroup (foldOver l (fun s g => modGroup s g f) s) k = if k ∈ l then f (getGroup s k) else getGroup s k := by
  unfold foldOver
  induction l generalizing s with
  | nil => rfl
  | cons g l ih =>
    have hg := (List.nodup_cons.mp hl).1
    rw [List.foldl_cons, ih (List.nodup_cons.mp hl).2, getGroup_modGroup]
    by_cases hk : k = g
    · subst hk
      simp [hg]
    · simp [hk]

theorem foldOver_modGroup_eq {f : GroupSt → GroupSt} (l : List Nat) (s : State) :
    foldOver l (fun s g => modGroup s g f) s = { s with
      groups := (foldOver l (fun s g => modGroup s g f) s).groups } :=
  foldOver_rel (R := fun s t => t = { s with groups := t.groups }) (fun _ => rfl)
    (fun s t u hst htu => by rw [htu, hst]) (fun _ _ => rfl) l s

theorem mem_upTo {k n : Nat} : k ∈ upTo n ↔ k < n := List.mem_range

theorem nodup_upTo {n : Nat} : (upTo n).Nodup := List.nodup_range

theorem freeAllBuffers_eq (s : State) : freeAllBuffers s = { s with
    groups := (foldOver (upTo 16) (fun s g => modGroup s g freeGroup) s).groups
    moe := { s.moe with books := [], ledgers := [] } } :=
  congrArg (fun t : State => { t with moe := { t.moe with books := [], ledgers := [] } })
    (foldOver_modGroup_eq (f := freeGroup) (upTo 16) s)

theorem getGroup_freeAllBuffers (s : State) {g : Nat} (hg : g < 16) :
    getGroup (freeAllBuffers s) g = freeGroup (getGroup s g) := by
  have hfree := getGroup_foldOver (f := freeGroup) (l := upTo 16) nodup_upTo s g
  rw [if_pos (mem_upTo.mpr hg)] at hfree
  rw [freeAllBuffers_eq]
  unfold getGroup at hfree ⊢
  exact hfree

/-- A group that asks for maintenance. -/
def askMaint (gr : GroupSt) : GroupSt := { gr with maint := true }

/-- A port as a banked restart leaves it. -/
def restartPort (p : Port) : Port :=
  { Port.reset with cause := p.cause, downed := p.downed, signature := p.signature, peerCheck := true }

/-- A banked restart empties every pool and every port, and keeps the programs, which ask for maintenance; it keeps
memory, registers, contexts and the cord. -/
theorem restartEmpties_spec (s : State) : ∃ groups moe sw, restartEmpties s = { s with
    groups := groups, moe := moe, sw := sw, ports := Map.each s.ports (fun _ p => restartPort p)
    bpm := { s.bpm with pcArb := [], spareState := 0 }, time := { s.time with measure := [] } } ∧
    ∀ g, g < 16 → Map.getD groups g GroupSt.reset = askMaint (freeGroup (getGroup s g)) := by
  have hmaint := foldOver_modGroup_eq (f := askMaint) (upTo 16) (freeAllBuffers s)
  have hgroup := getGroup_foldOver (f := askMaint) (l := upTo 16) nodup_upTo (freeAllBuffers s)
  refine ⟨(foldOver (upTo 16) (fun s g => modGroup s g askMaint) (freeAllBuffers s)).groups,
    (freeAllBuffers s).moe, (restartEmpties s).sw, ?_, fun g hg => ?_⟩
  · unfold restartEmpties
    dsimp only
    rw [show (fun (s : State) g => modGroup s g fun gr => { gr with maint := true }) =
      fun s g => modGroup s g askMaint from rfl, hmaint, freeAllBuffers_eq]
    rfl
  · have h := hgroup g
    rw [if_pos (mem_upTo.mpr hg), getGroup_freeAllBuffers s hg] at h
    exact h

theorem cmdRestart_begins (hb : s.pwr.state = .banked) (hu : s.mss.updState ≠ 3) : cmdRestart s =
    (.ok, { restartEmpties s with pwr := { (restartEmpties s).pwr with
      state := .bankedRestarting, startStep := 1, fallback := false, restartKind := true } }) := by
  have hne : s.pwr.state ≠ .bankedRestarting := by simp [hb]
  rw [cmdRestart, if_neg (by simp [programming_of_ne hu]), if_neg hne, if_pos hb]

theorem cmdRestart_refused (hb : s.pwr.state ≠ .banked) (hr : s.pwr.state ≠ .bankedRestarting) :
    cmdRestart s = (.resourceBound, s) := by
  rw [cmdRestart, if_neg hr, if_neg hb, ite_self]

/-! ### IDLE and BLAZE (R323, R325) -/

theorem cmdIdle_busy (h : s.pwr.state = .active ∨ s.pwr.state = .blaze) (hb : anyBusy s = true) :
    cmdIdle s = (.resourceBound, s) := by
  rcases h with h | h
  · simp [cmdIdle, h, hb]
  · simp [cmdIdle, h, hb]

theorem cmdBlaze_refused (hne : s.pwr.state ≠ .blaze) (h : s.pwr.state ≠ .active ∨ claimHeld s 0x10 = false ∨
    120000 ≤ s.pwr.blazeU ∨ cordRunning s = true) : cmdBlaze s = (.resourceBound, s) := by
  unfold cmdBlaze
  split
  · next hb => exact absurd hb hne
  · next ha =>
    refine if_neg fun ⟨hcl, hu, hc⟩ => ?_
    rcases h with h | h | h | h
    · exact h ha
    · exact absurd (h.symm.trans hcl) Bool.false_ne_true
    · omega
    · exact hc h
  · rfl

end

/-- Settles O45: each command runs its operation; OFF and COLD lose the core, and BANK and RESTART keep memory,
registers and contexts. -/
theorem powerCommands : Obligations.PowerCommands := by
  unfold Obligations.PowerCommands
  refine ⟨fun s hp => ⟨?_, ?_, ?_, ?_, ?_, ?_, ?_, ?_⟩, fun s hp hr => ⟨?_, ?_, ?_, ?_, ?_, ?_, ?_⟩⟩
  · intro hr hoff
    exact (exec_powerCmd hp (.inl hr)).trans (by rw [cmdOff_off hoff]; rfl)
  · intro hr hon
    refine ⟨_, exec_powerCmd hp hr, ?_⟩
    rw [cmdOff_on hon]
    obtain ⟨hcells, hports, hgroups⟩ := offCore_lost s
    obtain ⟨e, g, o, d, hpwr⟩ := beginRemoval_pwr (offCore s)
    have hen := beginRemoval_en (offCore s)
    rw [offCore_pwr] at hen hpwr
    rw [beginRemoval_eq]
    dsimp only
    rw [hpwr] at hen ⊢
    exact ⟨rfl, rfl, rfl, rfl, rfl, hen, rfl, hcells, hports, hgroups, rfl⟩
  · intro hu hstate
    refine ⟨_, exec_cold hp, ?_⟩
    rw [cmdCold_starts hp hu hstate]
    obtain ⟨htime, hcord, hmem, hports, hdamp⟩ := coldFrom_frame false s
    dsimp only
    rw [coldFrom_pwr, htime, hcord, hmem, hports, hdamp]
    exact ⟨rfl, rfl, rfl, rfl, rfl, rfl, rfl, rfl, rfl, rfl, rfl, rfl⟩
  · intro hr hi he hf hb hc hm
    refine ⟨_, exec_powerCmd hp (.inl hr), ?_⟩
    rw [cmdBank_begins hi he hf hb hc hm]
    exact ⟨rfl, fun k p => closeAll_port s k⟩
  · intro hi he hclosed
    have hexec : exec .bankedEntryComplete s = .next (judgePartner (bankedOf s)) :=
      congrArg Host.Outcome.next (bankedEntry_enters hp hi he hclosed)
    have hn := judgePartner_noted (bankedOf s)
    refine ⟨_, hexec, hn.pwr_eq, fun k p hk => ?_, hn.mem_eq, hn.regs_eq, hn.ctx_eq, hn.groups_eq, hn.cord_eq⟩
    rw [hn.ports_eq] at hk
    dsimp only [bankedOf] at hk
    obtain ⟨q, -, rfl⟩ := Map.of_get?_each hk
    rfl
  · intro hr hb hu
    obtain ⟨groups, moe, sw, hstate, hgroups⟩ := restartEmpties_spec s
    refine ⟨_, exec_powerCmd hp (.inl hr), ?_⟩
    rw [cmdRestart_begins hb hu, hstate]
    refine ⟨rfl, rfl, fun g hg => ?_, fun k p hk => ?_, rfl, rfl, rfl, rfl, rfl⟩
    · dsimp only [getGroup]
      rw [hgroups g hg]
      exact ⟨rfl, rfl, rfl⟩
    · dsimp only at hk
      obtain ⟨q, -, rfl⟩ := Map.of_get?_each hk
      exact ⟨rfl, rfl⟩
  · intro hu
    exact (exec_cold hp).trans (by rw [cmdCold_busy hu])
  · intro hr hnb hnr
    exact (exec_powerCmd hp (.inl hr)).trans (by rw [cmdRestart_refused hnb hnr]; rfl)
  · intro hi he
    exact (exec_powerCmd hp (.inl hr)).trans (by simp [cmdActive, hi, he])
  · intro hb
    exact (exec_powerCmd hp (.inl hr)).trans (by simp [cmdActive, hb, vsetCode, vidCodeOf])
  · intro ha hb
    exact (exec_powerCmd hp (.inl hr)).trans (by simp [cmdIdle, ha, hb])
  · intro ha hb
    exact (exec_powerCmd hp (.inl hr)).trans (by simp [cmdIdle, ha, hb, vsetCode, vidCodeOf])
  · intro ha hb
    exact (exec_powerCmd hp (.inl hr)).trans (by rw [cmdIdle_busy ha hb]; rfl)
  · intro ha hcl hu hc
    exact (exec_powerCmd hp (.inl hr)).trans (by simp [cmdBlaze, ha, hcl, hu, hc])
  · intro hne h
    exact (exec_powerCmd hp (.inl hr)).trans (by rw [cmdBlaze_refused hne h]; rfl)

end Sys2Proof.Machine
end

section
/-! The group gates, and what raising a damper and bringing links up leave alone (R324, R52, R372, R373). -/

namespace Sys2Proof.Machine

open Sys2Proof

/-! ### Pauses and bring-up -/

/-- `t` is `s` but for the ports and what has gone out on the wire. -/
def LinksOnly (s t : State) : Prop := ∃ ports wire, t = { s with ports := ports, wire := wire }

namespace LinksOnly

theorem refl (s : State) : LinksOnly s s := ⟨_, _, rfl⟩

theorem trans {s t u : State} (hst : LinksOnly s t) (htu : LinksOnly t u) : LinksOnly s u := by
  obtain ⟨_, _, rfl⟩ := hst
  obtain ⟨_, _, rfl⟩ := htu
  exact ⟨_, _, rfl⟩

theorem foldOver {β : Type} {f : State → β → State} (hf : ∀ s x, LinksOnly s (f s x)) (l : List β) (s : State) :
    LinksOnly s (foldOver l f s) := foldOver_rel refl (fun _ _ _ => trans) hf l s

end LinksOnly

theorem setPause_linksOnly (l : Nat) (want : Byte) (s : State) : LinksOnly s (setPause l want s) := by
  unfold setPause
  split_ifs
  · exact .refl s
  · exact ⟨_, _, rfl⟩
  · exact ⟨_, _, rfl⟩

theorem pfcAll_linksOnly (s : State) : LinksOnly s (pfcAll s) :=
  LinksOnly.foldOver (fun s l => setPause_linksOnly l _ s) (ethUp s) s

theorem adminRise_linksOnly (l : Nat) (s : State) : LinksOnly s (adminRise l s) := by
  unfold adminRise
  split
  · exact ⟨_, _, rfl⟩
  · exact .refl s

theorem bringUpAll_linksOnly (s : State) : LinksOnly s (bringUpAll s) := by
  unfold bringUpAll
  refine LinksOnly.trans (LinksOnly.foldOver (fun s l => ?_) (upTo 1024) s) (LinksOnly.foldOver (fun s n => ?_) (upTo 8) _)
  · split
    · exact adminRise_linksOnly l s
    · exact .refl s
  · split
    · exact ⟨_, _, rfl⟩
    · exact .refl s

/-! ### A damper takes effect -/

/-- `t` is `s` but for what a damper stops and what it records as traces and counts. -/
def StoppedFrom (s t : State) : Prop := ∃ ports wire groups bpm cord fifo counters at_ recent shadows, t = { s with
  ports := ports, wire := wire, groups := groups, bpm := bpm, cord := cord
  dbg := { s.dbg with
    traceFifo := fifo, counters := counters, recentAt := at_, recent := recent, shadows := shadows } }

namespace StoppedFrom

theorem refl (s : State) : StoppedFrom s s := ⟨_, _, _, _, _, _, _, _, _, _, rfl⟩

theorem trans {s t u : State} (hst : StoppedFrom s t) (htu : StoppedFrom t u) : StoppedFrom s u := by
  obtain ⟨_, _, _, _, _, _, _, _, _, _, rfl⟩ := hst
  obtain ⟨_, _, _, _, _, _, _, _, _, _, rfl⟩ := htu
  exact ⟨_, _, _, _, _, _, _, _, _, _, rfl⟩

theorem foldOver {β : Type} {f : State → β → State} (hf : ∀ s x, StoppedFrom s (f s x)) (l : List β) (s : State) :
    StoppedFrom s (foldOver l f s) := foldOver_rel refl (fun _ _ _ => trans) hf l s

theorem of_links {s t : State} (h : LinksOnly s t) : StoppedFrom s t := by
  obtain ⟨_, _, rfl⟩ := h
  exact ⟨_, _, _, _, _, _, _, _, _, _, rfl⟩

theorem pwr_eq {s t : State} (h : StoppedFrom s t) : t.pwr = s.pwr := by
  obtain ⟨_, _, _, _, _, _, _, _, _, _, rfl⟩ := h
  rfl

theorem dampered_eq {s t : State} (h : StoppedFrom s t) : t.dbg.dampered = s.dbg.dampered := by
  obtain ⟨_, _, _, _, _, _, _, _, _, _, rfl⟩ := h
  rfl

end StoppedFrom

theorem stopGroup_stopped (g : Nat) (s : State) : StoppedFrom s (stopGroup g s) := by
  refine StoppedFrom.foldOver (fun s u => ?_) (upTo 13) s
  split
  · next r _ =>
    have hfree : StoppedFrom s (foldOver r.outs (fun s h => freeBuf g h s) s) :=
      StoppedFrom.foldOver (fun s h => ⟨_, _, _, _, _, _, _, _, _, _, rfl⟩) r.outs s
    exact hfree.trans ⟨_, _, _, _, _, _, _, _, _, _, rfl⟩
  · exact .refl s

theorem stopApply_stopped (s : State) : StoppedFrom s (stopApply s) := by
  unfold stopApply
  split
  · exact ⟨_, _, _, _, _, _, _, _, _, _, rfl⟩
  · exact .refl s

theorem stopCopy_stopped (s : State) : StoppedFrom s (stopCopy s) := by
  unfold stopCopy
  split
  · exact ⟨_, _, _, _, _, _, _, _, _, _, rfl⟩
  · exact .refl s

theorem count_stopped (b i k : Nat) (s : State) : StoppedFrom s (count b i k s) := by
  unfold count countN
  split
  · exact .refl s
  · split
    · exact ⟨_, _, _, _, _, _, _, _, _, _, rfl⟩
    · exact .refl s

theorem traceDamper_stopped (src serial origin : Nat) (s : State) : StoppedFrom s (traceDamper src serial origin s) := by
  unfold traceDamper
  split
  · exact .refl s
  · unfold tracePush
    dsimp only
    split
    · exact count_stopped ..
    · exact ⟨_, _, _, _, _, _, _, _, _, _, rfl⟩

theorem spreadDamper_stopped (serial : BitVec 32) (origin : Chip) (time : BitVec 48) (except_ : Option Nat) (s : State) :
    StoppedFrom s (spreadDamper serial origin time except_ s) := by
  refine StoppedFrom.foldOver (fun s e => ?_) s.ports s
  split
  · exact ⟨_, _, _, _, _, _, _, _, _, _, rfl⟩
  · exact .refl s

/-- All that a damper changes beside its own record. -/
theorem damperNow_stopped (src : BitVec 3) (serial : BitVec 32) (origin : Chip) (time : BitVec 48) (from_ : Option Nat)
    (s : State) : StoppedFrom (freezeNow (markDamper src serial origin time s)) (damperNow src serial origin time from_ s) := by
  have hgroups := StoppedFrom.foldOver (fun s g => stopGroup_stopped g s) (upTo 16)
    (freezeNow (markDamper src serial origin time s))
  have hstop := hgroups.trans ((stopApply_stopped _).trans (stopCopy_stopped _))
  have htrace (ls : List Nat) := hstop.trans ((traceDamper_stopped src.toNat serial.toNat origin.toNat _).trans
    (StoppedFrom.foldOver (fun s l => StoppedFrom.of_links (setPause_linksOnly l 0xFF s)) ls _))
  unfold damperNow
  dsimp only
  split
  · exact (htrace _).trans (spreadDamper_stopped ..)
  · exact htrace _

@[simp] theorem raiseOwn_pwr (src : BitVec 3) (serial : BitVec 32) (s : State) : (raiseOwn src serial s).pwr = s.pwr := by
  unfold raiseOwn raiseDamper
  split
  · rfl
  · exact (damperNow_stopped ..).pwr_eq

theorem raiseOwn_dampered {src : BitVec 3} {serial : BitVec 32} {s : State} (h : s.dbg.serials.contains serial = false) :
    (raiseOwn src serial s).dbg.dampered = true := by
  unfold raiseOwn raiseDamper
  split
  · next hraised => exact hraised.resolve_right (by rw [h]; exact Bool.false_ne_true)
  · exact (damperNow_stopped ..).dampered_eq

/-! ### PWR_GROUP_GATE (R324) -/

theorem groupGateWrite_refused {v : W64} {s : State} (h : ∃ g, g < 16 ∧ v.getLsbD g = true ∧
    (reg s Reg.groupGate).getLsbD g = false ∧ groupBusy s g = true) : groupGateWrite v s = (.resourceBound, s) := by
  obtain ⟨g, hg, hv, hold, hb⟩ := h
  exact if_pos (List.any_eq_true.mpr ⟨g, mem_upTo.mpr hg, by rw [bitAt, bitAt, hv, hold, hb]; rfl⟩)

theorem groupGateWrite_stored {v : W64} {s : State} (h : ∀ g, g < 16 → v.getLsbD g = true →
    (reg s Reg.groupGate).getLsbD g = false → groupBusy s g = false) :
    groupGateWrite v s = (.ok, pfcAll (setReg s Reg.groupGate (v &&& 0xFFFF#64))) := by
  refine if_neg fun hany => ?_
  obtain ⟨g, hg, hbits⟩ := List.any_eq_true.mp hany
  simp only [bitAt, Bool.and_eq_true, Bool.not_eq_true'] at hbits
  exact absurd ((h g (mem_upTo.mp hg) hbits.1.1 hbits.1.2).symm.trans hbits.2) Bool.false_ne_true

/-- In Active and Blaze the groups gated are those of the set bits. -/
theorem gated_of_active {s : State} {v : W64} (h : s.pwr.state = .active ∨ s.pwr.state = .blaze)
    (hv : reg s Reg.groupGate = v &&& 0xFFFF#64) {g : Nat} (hg : g < 16) : gated s g = v.getLsbD g := by
  have hbit : bitAt (reg s Reg.groupGate) g = v.getLsbD g := by
    have hmask : BitVec.getLsbD 0xFFFF#64 g = true := by
      interval_cases g <;> rfl
    rw [bitAt, hv, BitVec.getLsbD_and, hmask, Bool.and_true]
  rcases h with h | h
  · rw [gated, h]
    exact hbit
  · rw [gated, h]
    exact hbit

theorem exec_active_idle {s : State} (hp : s.pwr.porst = true) (hr : s.mss.romOnly = false) (hi : s.pwr.state = .idle)
    (he : s.pwr.bankEntry = false) : exec .active s = .next { s with
      lastStatus := .ok, pwr := { s.pwr with state := .active, lastStatus := .ok, lastCmd := 6 } } :=
  (exec_powerCmd hp (.inl hr)).trans (by simp [cmdActive, hi, he])

/-- Settles O47: the write stores its bits where no busy group would be gated, and ACTIVE brings them into force. -/
theorem groupsAreGated : Obligations.GroupsAreGated := by
  unfold Obligations.GroupsAreGated
  intro v s hp hr hsorted
  refine ⟨fun hbusy => ?_, fun hfree => ?_⟩
  · have hexec : exec (.groupGateWrite v) s = _ := hostCmd_running hp hr
    rw [hexec, groupGateWrite_refused hbusy]
    rfl
  · have hexec : exec (.groupGateWrite v) s = _ := hostCmd_running hp hr
    obtain ⟨ports, wire, hall⟩ := pfcAll_linksOnly (setReg s Reg.groupGate (v &&& 0xFFFF#64))
    rw [hexec, groupGateWrite_stored hfree, hall]
    have hreg := reg_setReg_same (v := v &&& 0xFFFF#64) (a := Reg.groupGate) hsorted
    refine ⟨_, rfl, rfl, hreg, fun b hb => reg_setReg_other (s := s) hb, fun hact g hg => ?_, fun hi he => ?_⟩
    · exact gated_of_active (s := { s with regs := _, ports := ports, wire := wire, lastStatus := .ok }) hact hreg hg
    · refine ⟨_, exec_active_idle hp hr hi he, fun g hg => gated_of_active ?_ ?_ hg⟩
      · exact .inl rfl
      · exact hreg

end Sys2Proof.Machine
end

section
/-! The steps of a start (R318, R319, R321, Table 15.3). -/

namespace Sys2Proof.Machine

open Sys2Proof

section
variable {r : StepResult} {s : State}

/-- A step of a cold start that completes out of reset. -/
theorem exec_coldStep (hp : s.pwr.porst = true) (hs : s.pwr.state = .coldStarting) :
    exec (.startStepComplete r) s = .next (coldStep r s) := by
  have hst : starting s = true := by simp [starting, hp, hs]
  refine congrArg Host.Outcome.next ?_
  rw [startStepComplete, if_neg (by simp [hst]), if_pos hs]

theorem exec_restartStep (hp : s.pwr.porst = true) (hs : s.pwr.state = .bankedRestarting) :
    exec (.startStepComplete r) s = .next (restartStep r s) := by
  have hst : starting s = true := by simp [starting, hp, hs]
  refine congrArg Host.Outcome.next ?_
  rw [startStepComplete, if_neg (by simp [hst]), if_neg (by simp [hs])]

theorem toNat_cause_eq : r.cause.toNat = 0 ↔ r.cause = 0 :=
  ⟨fun h => BitVec.eq_of_toNat_eq h, fun h => by rw [h]; rfl⟩

/-- A failing step of a cold start leaves Off, with the step kept and the rails going (R319). -/
theorem startFails_spec (cause : Nat) (s : State) : (startFails cause s).pwr.state = .off ∧
    (startFails cause s).pwr.failStep = s.pwr.startStep ∧ (startFails cause s).pwr.startStep = 0 ∧
    (startFails cause s).pwr.en = (if s.pwr.dropping then s.pwr.en else dropTop s.pwr.en) ∧
    (startFails cause s).pwr.dropping = (s.pwr.dropping || s.pwr.en != 0) ∧
    (startFails cause s).mem.cells = [] := by
  have hlog := logStartFail_pwr cause s
  unfold startFails
  dsimp only
  rw [coreOff_pwr, hlog]
  unfold beginRemoval
  dsimp only
  split
  · next hd => exact ⟨rfl, rfl, rfl, rfl, by simp [hd], by rw [coreOff_mem]⟩
  · next hd => exact ⟨rfl, rfl, rfl, rfl, by simp [hd], by rw [coreOff_mem]⟩

/-- A failing step of a banked restart falls back to a cold start from step 1 (R321). -/
theorem fallBack_spec (cause : Nat) (s : State) : (fallBack cause s).pwr.state = .coldStarting ∧
    (fallBack cause s).pwr.startStep = 1 ∧ (fallBack cause s).pwr.fallback = true ∧ (fallBack cause s).mem.cells = [] ∧
    (fallBack cause s).time.ftc = 0 := by
  unfold fallBack
  obtain ⟨htime, -, hmem, -, -⟩ := coldFrom_frame true (logEv 0x0003 2 0xFF none [s.pwr.startStep.toNat, cause] s)
  rw [coldFrom_pwr, htime, hmem]
  exact ⟨rfl, rfl, rfl, rfl, rfl⟩

/-- Steps 3, 5, 6 and 7 fail with the cause they report. -/
theorem coldStep_fails (hs : s.pwr.state = .coldStarting)
    (hn : s.pwr.startStep = 3 ∨ s.pwr.startStep = 5 ∨ s.pwr.startStep = 6 ∨ s.pwr.startStep = 7) (hc : r.cause ≠ 0) :
    coldStep r s = startFails r.cause.toNat s := by
  have hc' := mt toNat_cause_eq.mp hc
  have hfail : stepFails r.cause.toNat s = startFails r.cause.toNat s := if_neg (by simp [hs])
  rw [← hfail]
  rcases hn with hn | hn | hn | hn <;> simp [coldStep, hn, hc']

theorem restartStep_fails (hs : s.pwr.state = .bankedRestarting)
    (hn : s.pwr.startStep = 3 ∨ s.pwr.startStep = 5 ∨ s.pwr.startStep = 6 ∨ s.pwr.startStep = 7) (hc : r.cause ≠ 0) :
    restartStep r s = fallBack r.cause.toNat s := by
  have hc' := mt toNat_cause_eq.mp hc
  have hfail : stepFails r.cause.toNat s = fallBack r.cause.toNat s := if_pos hs
  rw [← hfail]
  rcases hn with hn | hn | hn | hn <;> simp [restartStep, hn, hc']

/-! ### The steps that go on -/

theorem coldStep_rails (hn : s.pwr.startStep = 1) (hen : s.pwr.en = 0x3F#6) (hc : r.cause = 0)
    (hf : s.mss.flashValid = true) : coldStep r s =
      { s with pwr := { s.pwr with pg := 0x3F#6, pgOpen := 0#6, startStep := 2 } } := by
  simp [coldStep, hn, hen, hc, hf, railsUp, nextStep]

theorem coldStep_firmware (hn : s.pwr.startStep = 2) (hc : r.cause = 0) (hv : romVerdict s = 0) :
    coldStep r s = nextStep (runFirmware s) := by
  simp [coldStep, hn, hc, hv]

theorem coldStep_fuses (hn : s.pwr.startStep = 3) (hc : r.cause = 0) :
    coldStep r s = nextStep { s with bpm := { s.bpm with fusedRows := s.mss.repairFuses } } := by
  simp [coldStep, hn, hc]

theorem coldStep_rows (hn : s.pwr.startStep = 4) (hc : r.cause = 0)
    (hrows : tooManyRows (repairRows (s.bpm.fusedRows ++ r.bistRows) s.bpm.sramMarks) = false) :
    coldStep r s = nextStep { s with bpm := { s.bpm with
      sramRepairs := repairRows (s.bpm.fusedRows ++ r.bistRows) s.bpm.sramMarks } } := by
  simp [coldStep, hn, hc, hrows]

theorem coldStep_plain (hn : s.pwr.startStep = 5) (hc : r.cause = 0) : coldStep r s = nextStep s := by
  simp [coldStep, hn, hc]

theorem coldStep_dimms (hn : s.pwr.startStep = 6) (hc : r.cause = 0) : coldStep r s = nextStep (ddrTrained r s) := by
  simp [coldStep, hn, hc]

theorem coldStep_lanes (hn : s.pwr.startStep = 7) (hc : r.cause = 0) :
    coldStep r s = nextStep { s with host := { s.host with fullCal := upTo 8 } } := by
  simp [coldStep, hn, hc]

theorem coldStep_last (hn : s.pwr.startStep = 9) (hc : r.cause = 0) :
    coldStep r s = startEnds 0 r.durationMs { s with mem := { cells := [], chk := [] } } := by
  simp [coldStep, hn, hc]

theorem restartStep_last (hn : s.pwr.startStep = 8) (hc : r.cause = 0) (hv : s.mss.store.valid = true)
    (hd : cordDigest s.cord.activeImg = s.mss.store.cordDigest) :
    restartStep r s = startEnds 1 r.durationMs (reapplyCord s) := by
  simp [restartStep, hn, hc, hv, hd]

/-- The window is in service where all eight channels are usable and of one capacity (R116). -/
theorem ddrTrained_window : (ddrTrained r s).bpm.ddrWindow = true ↔
    usableChannels r = 0xFF#8 ∧ ∀ k, k < 8 → nthD r.ddrGb k 0 = nthD r.ddrGb 0 0 := by
  unfold ddrTrained
  dsimp only
  rw [(logEv_noted ..).bpm_eq]
  simp [mem_upTo]

/-! ### The end of a start -/

/-- The counters of an event recorded with none of them set: at most that of log entries lost. -/
theorem counters_logEv {code sev unit : Nat} {tag : Option (BitVec 24)} {args : List Nat} {s : State}
    (h : s.dbg.counters = []) {k : Nat} (hk : Map.get? (logEv code sev unit tag args s).dbg.counters k ≠ none) :
    k = ctrKey 0 0 0 := by
  by_contra hne
  refine hk ?_
  unfold logEv
  dsimp only
  split
  · rw [h]
    rfl
  · unfold count countN
    rw [if_neg (by decide)]
    split
    · dsimp only
      rw [h, bumpCtr, Map.get?_set_other hne]
      rfl
    · rw [h]
      rfl

/-- The state as a start ends, before the links come up: Idle at PWR_VSET, with the counters zeroed. -/
def startEnded (s : State) : State := zeroCounters { s with pwr := { s.pwr with
  state := .idle, startStep := 0, failStep := 0, vidTarget := vsetCode s
  resumedAt := if s.pwr.restartKind then now s else s.pwr.resumedAt } }

theorem startEnds_links (kind ms : Nat) (s : State) :
    LinksOnly (logEv 0x0001 0 0xFF none [kind, ms] (startEnded s)) (startEnds kind ms s) := bringUpAll_linksOnly _

/-- What the end of a start leaves: Idle at PWR_VSET, with the counters zeroed before its event. -/
theorem startEnds_spec (kind ms : Nat) (s : State) : (startEnds kind ms s).pwr = (startEnded s).pwr ∧
    (startEnds kind ms s).mem = s.mem ∧ (startEnds kind ms s).ctx = s.ctx ∧ (startEnds kind ms s).cord = s.cord ∧
    ∀ k, Map.get? (startEnds kind ms s).dbg.counters k ≠ none → k = ctrKey 0 0 0 := by
  have hn := logEv_noted 0x0001 0 0xFF none [kind, ms] (startEnded s)
  have hctr (k : Nat) (hk : Map.get? (logEv 0x0001 0 0xFF none [kind, ms] (startEnded s)).dbg.counters k ≠ none) :=
    counters_logEv rfl hk
  obtain ⟨ports, wire, hup⟩ := startEnds_links kind ms s
  rw [hup]
  exact ⟨hn.pwr_eq, hn.mem_eq, hn.ctx_eq, hn.cord_eq, hctr⟩

end

theorem reg_vset_setEnable (v : W64) (s : State) : reg (setEnable v s) Reg.vset = reg s Reg.vset :=
  reg_setReg_other (by decide)

/-- The firmware in flash taken into service. -/
def inService (s : State) : State := { s with mss := { s.mss with
  fw := fwOf s (flashImage s), romOnly := false, recovery := false, cosig := zeros 3309, spdmStage := 0, large := none
  spdmCtx := [] } }

theorem runFirmware_eq (s : State) : runFirmware s = sealStore (fun x => { x with
    valid := true, fwDigest := (fwOf s (flashImage s)).digest, coldStarts := x.coldStarts + 1 }) (inService s) := rfl

/-- A seal leaves the loader and the firmware. -/
theorem sealStore_loader (f : DigestStore → DigestStore) (s : State) :
    (sealStore f s).mss.romOnly = s.mss.romOnly ∧ (sealStore f s).mss.recovery = s.mss.recovery ∧
    (sealStore f s).mss.fw = s.mss.fw := by
  unfold sealStore writeCopy
  dsimp only
  split_ifs <;> exact ⟨rfl, rfl, rfl⟩

/-- Settles O46: each step's equation, and what a failure and the end of a start leave. -/
theorem startsRunTheirSteps : Obligations.StartsRunTheirSteps := by
  unfold Obligations.StartsRunTheirSteps
  intro r s hp
  refine ⟨fun hs => ⟨?_, ?_, ?_, ?_, ?_, ?_, ?_, ?_, ?_⟩, fun hs => ⟨?_, ?_⟩⟩
  · intro hn hen hc hf
    rw [exec_coldStep hp hs, coldStep_rails hn hen hc hf]
  · intro hn hc hv
    refine ⟨_, exec_coldStep hp hs, ?_⟩
    rw [coldStep_firmware hn hc hv]
    obtain ⟨hframe, hstore, -, -⟩ := sealStore_spec (fun x => { x with
      valid := true, fwDigest := (fwOf s (flashImage s)).digest, coldStarts := x.coldStarts + 1 }) (inService s)
    have hloader := sealStore_loader (fun x => { x with
      valid := true, fwDigest := (fwOf s (flashImage s)).digest, coldStarts := x.coldStarts + 1 }) (inService s)
    rw [runFirmware_eq, hframe]
    exact ⟨rfl, hloader.1, hloader.2.1, hloader.2.2, congrArg DigestStore.fwDigest hstore,
      congrArg DigestStore.coldStarts hstore⟩
  · intro hn hc
    rw [exec_coldStep hp hs, coldStep_fuses hn hc]
    rfl
  · intro hn hc rows hrows
    rw [exec_coldStep hp hs, coldStep_rows hn hc hrows]
    rfl
  · intro hn hc
    rw [exec_coldStep hp hs, coldStep_plain hn hc]
    rfl
  · intro hn hc
    refine ⟨_, exec_coldStep hp hs, ?_⟩
    rw [coldStep_dimms hn hc]
    refine ⟨?_, ?_, ?_, ddrTrained_window⟩
    · exact congrArg (fun p : PowerSt => { p with startStep := p.startStep + 1 }) (logEv_noted ..).pwr_eq
    · exact congrArg BpmSt.ddrPresent (logEv_noted ..).bpm_eq
    · exact congrArg BpmSt.ddrUsable (logEv_noted ..).bpm_eq
  · intro hn hc
    rw [exec_coldStep hp hs, coldStep_lanes hn hc]
    rfl
  · intro hn hc
    refine ⟨_, exec_coldStep hp hs, ?_⟩
    rw [coldStep_last hn hc]
    obtain ⟨hpwr, hmem, -, hcord, hctr⟩ :=
      startEnds_spec 0 r.durationMs { s with mem := { cells := [], chk := [] } }
    rw [hpwr]
    exact ⟨rfl, rfl, rfl, rfl, congrArg MemSt.cells hmem, hcord, hctr⟩
  · intro hn hc
    rw [exec_coldStep hp hs, coldStep_fails hs hn hc]
    obtain ⟨hstate, hfail, hstep, hen, -, hcells⟩ := startFails_spec r.cause.toNat s
    exact ⟨_, rfl, hstate, hfail, hstep, hen, hcells⟩
  · intro hn hc hv hd
    rw [exec_restartStep hp hs, restartStep_last hn hc hv hd]
    obtain ⟨hpwr, hmem, hctx, hcord, -⟩ := startEnds_spec 1 r.durationMs (reapplyCord s)
    have hvid : vsetCode (reapplyCord s) = vsetCode s := congrArg (fun v => vidCodeOf (fld v 15 0)) (reg_vset_setEnable _ _)
    refine ⟨_, rfl, ?_⟩
    rw [hpwr, hcord]
    exact ⟨rfl, rfl, hvid, hmem, hctx, rfl⟩
  · intro hn hc
    rw [exec_restartStep hp hs, restartStep_fails hs hn hc]
    exact ⟨_, rfl, fallBack_spec r.cause.toNat s⟩

end Sys2Proof.Machine
end

section
/-! The core voltage and the board rails (R323, R385, R387-R390). -/

namespace Sys2Proof.Machine

open Sys2Proof

/-! ### The setpoint and its frames (R323, R385) -/

theorem vsetWrite_invalid {v : W64} {s : State} (h : fld v 15 0 < 660 ∨ 760 < fld v 15 0 ∨ fld v 15 0 % 5 ≠ 0) :
    vsetWrite v s = (.fieldInvalid, s) := if_pos h

theorem vsetWrite_taken {v : W64} {s : State} (hlo : 660 ≤ fld v 15 0) (hhi : fld v 15 0 ≤ 760) (h5 : fld v 15 0 % 5 = 0) :
    vsetWrite v s = (.ok, { setReg s Reg.vset (bv64 (fld v 15 0)) with pwr := { s.pwr with
      vidTarget := if s.pwr.state = .idle ∨ s.pwr.state = .active then BitVec.ofNat 8 ((fld v 15 0 - 500) / 5)
        else s.pwr.vidTarget } }) := by
  rw [vsetWrite, if_neg (by omega)]
  dsimp only
  rw [setReg_pwr]
  split <;> rfl

theorem bv64_fld_low (v : W64) : bv64 (fld v 15 0) = v &&& 0xFFFF#64 := by
  refine BitVec.eq_of_getLsbD_eq fun i hi => ?_
  rw [getLsbD_bv64, testBit_fld, BitVec.getLsbD_and]
  interval_cases i <;> simp [Bool.and_comm]

/-- A VID frame carries 0b1010, the CODE and the exclusive or of its halves. -/
theorem vidFrame_fields : ∀ c : Byte, (vidFrame c).extractLsb' 12 4 = 0xA#4 ∧ (vidFrame c).extractLsb' 4 8 = c ∧
    (vidFrame c).extractLsb' 0 4 = c.extractLsb' 4 4 ^^^ c.extractLsb' 0 4 := by
  decide +kernel

theorem vidStep_ramps {s : State} (hen : s.pwr.en.getLsbD 0 = true) (hne : s.pwr.vidCode.toNat ≠ s.pwr.vidTarget.toNat) :
    vidStep s = sendVid (if s.pwr.vidCode.toNat < s.pwr.vidTarget.toNat then s.pwr.vidCode + 1 else s.pwr.vidCode - 1) s :=
  if_neg fun h => h.elim (fun h => h hen) fun h => hne (congrArg BitVec.toNat h)

/-! ### The enables (R387, R389) -/

theorem topRail_spec : ∀ e : BitVec 6, e ≠ 0 → ∃ i < 6, e.getLsbD i = true ∧ (∀ k < 6, i < k → e.getLsbD k = false) ∧
    ∀ k < 6, ((dropTop e).getLsbD k = true ↔ e.getLsbD k = true ∧ k ≠ i) := by
  decide +kernel

theorem bankDrop_spec : ∀ e : BitVec 6, e &&& 7#6 ≠ 0 → ∃ i < 3, e.getLsbD i = true ∧
    (∀ k < 3, i < k → e.getLsbD k = false) ∧ ∀ k < 6, ((bankDrop e).getLsbD k = true ↔ e.getLsbD k = true ∧ k ≠ i) := by
  decide +kernel

theorem getLsbD_or_rail : ∀ (e : BitVec 6) (i k : Fin 6),
    (e ||| BitVec.ofNat 6 (2 ^ i.val)).getLsbD k.val = true ↔ e.getLsbD k.val = true ∨ k = i := by
  decide +kernel

/-- A rail newly enabled is the one enable more. -/
theorem or_rail_and_not : ∀ (e : BitVec 6) (i : Fin 6), e.getLsbD i.val = false →
    (e ||| BitVec.ofNat 6 (2 ^ i.val)) &&& ~~~e = BitVec.ofNat 6 (2 ^ i.val) := by
  decide +kernel

/-- Every rail before the `i`th is enabled and it is not: it is the next. -/
theorem nextRail_eq : ∀ (e : BitVec 6) (i : Fin 6), (∀ k < 6, k < i.val → e.getLsbD k = true) → e.getLsbD i.val = false →
    (upTo 6).find? (fun i => !e.getLsbD i) = some i.val := by
  decide +kernel

section
variable {s : State}

/-- The next enable of a start that is not the core's. -/
theorem railEnableNext_rail {i : Nat} (hs : starting s = true) (hn : s.pwr.startStep = 1) (hd : s.pwr.dropping = false)
    (hpos : 0 < i) (hlt : i < 6) (hbelow : ∀ k < i, s.pwr.en.getLsbD k = true) (hi : s.pwr.en.getLsbD i = false) :
    railEnableNext s = { s with pwr := { s.pwr with
      pg := s.pwr.en, en := s.pwr.en ||| BitVec.ofNat 6 (2 ^ i)
      pgOpen := (s.pwr.pgOpen &&& ~~~s.pwr.en) ||| BitVec.ofNat 6 (2 ^ i) } } := by
  have hnext := nextRail_eq s.pwr.en ⟨i, hlt⟩ (fun k _ => hbelow k) hi
  rw [railEnableNext, if_pos ⟨hs, hn, by simp [hd]⟩, hnext]
  dsimp only
  rw [if_neg (by omega)]

/-- The core's rail comes first, and the regulator is told its CODE before (R385). -/
theorem railEnableNext_core (hs : starting s = true) (hn : s.pwr.startStep = 1) (hd : s.pwr.dropping = false)
    (hen : s.pwr.en = 0) : railEnableNext s = { s with
      pwr := { s.pwr with
        en := 1, pg := 0, pgOpen := (s.pwr.pgOpen &&& ~~~0#6) ||| 1#6, vidCode := vsetCode s, vidTarget := vsetCode s }
      wire := .vid (vidFrame (vsetCode s)) :: s.wire } := by
  have hnext : (upTo 6).find? (fun i => !s.pwr.en.getLsbD i) = some 0 := by
    rw [hen]
    rfl
  rw [railEnableNext, if_pos ⟨hs, hn, by simp [hd]⟩, hnext]
  dsimp only [sendVid, emit]
  rw [if_pos rfl]
  simp only [hen]
  rfl

theorem railDisableNext_drops (hd : s.pwr.dropping = true) (hen : s.pwr.en ≠ 0) :
    railDisableNext s = { s with pwr := dropTo (dropTop s.pwr.en) s.pwr } := by
  rw [railDisableNext, if_pos hd, bne_iff_ne.mpr hen, ← hd]
  rfl

theorem railDisableNext_bank (hb : bankRemoving s = true) (hd : s.pwr.dropping = false) :
    railDisableNext s = { s with pwr := dropTo (bankDrop s.pwr.en) s.pwr } := by
  rw [railDisableNext, if_neg (by simp [hd]), if_pos hb]

/-- A power good that does not come ends a cold start, whose rails go. -/
theorem railPgTimeout_ends (hp : s.pwr.porst = true) (hs : s.pwr.state = .coldStarting) (hn : s.pwr.startStep = 1)
    (hpg : s.pwr.en ≠ s.pwr.pg) (hen : s.pwr.en ≠ 0) (hd : s.pwr.dropping = false) :
    exec .railPgTimeout s = .next (startFails 0x0A s) := by
  have hst : starting s = true := by simp [starting, hp, hs]
  have hfail : stepFails 0x0A s = startFails 0x0A s := if_neg (by simp [hs])
  have hdrop : (startFails 0x0A s).pwr.dropping = true := by
    obtain ⟨-, -, -, -, hdrop, -⟩ := startFails_spec 0x0A s
    rw [hdrop, bne_iff_ne.mpr hen, Bool.or_true]
  refine congrArg Host.Outcome.next ?_
  rw [if_pos ⟨hst, hn, hpg, by simp [hd]⟩, hfail]
  exact if_pos hdrop

/-! ### Power lost and applied (R388, R390) -/

theorem powerGoodLost_spec {r : BitVec 3} (hen : s.pwr.en.getLsbD (r.toNat - 1) = true) (hd : s.pwr.dropping = false) :
    (powerGoodLost r.toNat s).pwr.state = .off ∧ (powerGoodLost r.toNat s).pwr.en = 0 ∧
    (powerGoodLost r.toNat s).pwr.pg = 0 ∧ (powerGoodLost r.toNat s).pwr.lastLost = r ∧
    (powerGoodLost r.toNat s).mem.cells = [] ∧ (powerGoodLost r.toNat s).ports = [] := by
  rw [powerGoodLost, if_pos ⟨hen, by simp [hd]⟩]
  dsimp only
  rw [(logEv_noted ..).pwr_eq, (logEv_noted ..).mem_eq, (logEv_noted ..).ports_eq]
  refine ⟨rfl, rfl, ?_, ?_, ?_, ?_⟩
  · simp [dropTo]
  · simp
  · rw [coreOff_mem]
  · rw [coreOff_ports]

theorem porstLow_spec (s : State) : (porstLow s).pwr.porst = false ∧ (porstLow s).pwr.en = 0 ∧
    (porstLow s).pwr.pg = 0 ∧ (porstLow s).host.hopUp = HopSt.reset ∧ (porstLow s).host.hopDn = HopSt.reset ∧
    powered (porstLow s) = false ∧ (porstLow s).mem.cells = [] ∧ (porstLow s).ports = [] :=
  ⟨rfl, rfl, by simp [porstLow, dropTo], rfl, rfl, rfl, by simp [porstLow], by simp [porstLow]⟩

/-- With a copy of the digest store in force nothing of its loss is logged. -/
theorem powerApplied_spec {st : DigestStore} (hst : storeInForce s.mss = some st) :
    (powerApplied s).pwr = { PowerSt.reset with lifeSeconds := st.blazeSeconds, ratedExceeded := st.rated } ∧
    (powerApplied s).regs = [] ∧ (powerApplied s).mem.cells = [] ∧
    (powerApplied s).mss.deviceId = s.mss.deviceId ∧ (powerApplied s).mss.svnFloor = s.mss.svnFloor ∧
    (powerApplied s).mss.flash = s.mss.flash ∧ (powerApplied s).mss.store = st ∧
    (powerApplied s).cord.floor = st.floor ∧ (powerApplied s).mss.romOnly = true := by
  unfold powerApplied
  dsimp only
  rw [hst]
  exact ⟨rfl, rfl, rfl, rfl, rfl, rfl, rfl, rfl, rfl⟩

end

/-- Settles O48: the setpoint, the frames, the rails of a start and of a removal, and what a loss of power leaves. -/
theorem railsAndVoltage : Obligations.RailsAndVoltage := by
  unfold Obligations.RailsAndVoltage
  refine ⟨fun v s hp hrom hsorted => ?vset, fun s hp hen hne => ?frame, fun s i hs hn hd hpos hlt hbelow hi => ?rail,
    fun s hs hn hd hen => ?core, fun s hd hen => ?drops, fun s hb hd hen => ?bank, fun s hp hs hn hpg hen hd => ?timeout,
    fun s r hlo hhi hen hd => ?lost, fun s => ?low, fun st s hst => ?applied⟩
  case vset =>
    have hexec : exec (.vsetWrite v) s = .next (withStatus (vsetWrite v s).2 (vsetWrite v s).1) := hostCmd_running hp hrom
    refine ⟨fun hlo hhi h5 => ?_, fun h => ?_⟩
    · rw [hexec, vsetWrite_taken hlo hhi h5]
      exact ⟨_, rfl, (reg_setReg_same hsorted).trans (bv64_fld_low v), rfl⟩
    · rw [hexec, vsetWrite_invalid h]
      rfl
  case frame =>
    intro c
    obtain ⟨htag, hcode, hcheck⟩ := vidFrame_fields c
    have hexec : exec .vidFrameSend s = .next (vidStep s) := congrArg Host.Outcome.next (mssRuns_on hp)
    rw [hexec, vidStep_ramps hen hne]
    exact ⟨vidFrame c, rfl, htag, hcode, hcheck⟩
  case rail =>
    have hexec : exec .railEnableNext s = .next (railEnableNext s) := rfl
    rw [hexec, railEnableNext_rail hs hn hd hpos hlt hbelow hi]
    refine ⟨s.pwr.en ||| BitVec.ofNat 6 (2 ^ i), by rw [or_rail_and_not s.pwr.en ⟨i, hlt⟩ hi], fun k hk => (getLsbD_or_rail s.pwr.en ⟨i, hlt⟩ ⟨k, hk⟩).trans ?_⟩
    rw [Fin.mk.injEq]
  case core =>
    have hexec : exec .railEnableNext s = .next (railEnableNext s) := rfl
    obtain ⟨-, hcode, -⟩ := vidFrame_fields (vsetCode s)
    rw [hexec, railEnableNext_core hs hn hd hen]
    exact ⟨_, _, rfl, rfl, rfl, rfl, rfl, hcode⟩
  case drops =>
    have hexec : exec .railDisableNext s = .next (railDisableNext s) := rfl
    obtain ⟨i, hi, hset, habove, hdrop⟩ := topRail_spec s.pwr.en hen
    rw [hexec, railDisableNext_drops hd hen]
    exact ⟨i, dropTop s.pwr.en, rfl, hi, hset, fun k hik hk => habove k hk hik, hdrop⟩
  case bank =>
    have hexec : exec .railDisableNext s = .next (railDisableNext s) := rfl
    obtain ⟨i, hi, hset, habove, hdrop⟩ := bankDrop_spec s.pwr.en hen
    rw [hexec, railDisableNext_bank hb hd]
    exact ⟨i, bankDrop s.pwr.en, rfl, hi, hset, fun k hik hk => habove k hk hik, hdrop⟩
  case timeout =>
    obtain ⟨hstate, hstep, -, hdropped, hdropping, -⟩ := startFails_spec 0x0A s
    refine ⟨_, railPgTimeout_ends hp hs hn hpg hen hd, hstate, hstep.trans hn, ?_, ?_⟩
    · rw [hdropping, bne_iff_ne.mpr hen, Bool.or_true]
    · rw [hdropped, hd]
      rfl
  case lost =>
    have hexec : exec (.powerGoodLost r) s = .next (powerGoodLost r.toNat s) := if_pos ⟨hlo, hhi⟩
    exact ⟨_, hexec, powerGoodLost_spec hen hd⟩
  case low => exact ⟨_, rfl, porstLow_spec s⟩
  case applied =>
    obtain ⟨hpwr, hregs, hmem, hid, hsvn, hflash, hstore, hfloor, hromOnly⟩ := powerApplied_spec hst
    exact ⟨_, rfl, by rw [hpwr]; rfl, by rw [hpwr]; rfl, by rw [hpwr]; rfl, hregs, hmem, hid, hsvn, hflash, hstore,
      by rw [hpwr], hfloor, hromOnly⟩

end Sys2Proof.Machine
end

section
/-! Blaze and heat: the budget, the sensors' samples and the protective halt (R326-R330, R333). -/

namespace Sys2Proof.Machine

open Sys2Proof

theorem Noted.withPwr {s t : State} (h : Noted s t) (p : PowerSt) :
    Noted { s with pwr := p } { t with pwr := p } := by
  obtain ⟨_, _, _, _, _, _, _, rfl⟩ := h
  exact ⟨_, _, _, _, _, _, _, rfl⟩

/-- The state in which the tick began depends on the power state, the loss of this tick and the time only. -/
theorem tickState_congr {s t : State} (hl : t.pwr.lost = s.pwr.lost) (hs : t.pwr.state = s.pwr.state)
    (ht : t.time = s.time) : tickState t = tickState s := by
  unfold tickState
  rw [hl, hs, ht]

/-! ### The protective halt (R328) -/

theorem undoLoss_frame (s : State) : (undoLoss s).dbg = s.dbg ∧ (undoLoss s).pwr.tj = s.pwr.tj := by
  unfold undoLoss
  split
  · split <;> exact ⟨rfl, rfl⟩
  · exact ⟨rfl, rfl⟩

theorem endedStart_dampered (cause : Nat) (s : State) :
    (if starting s then logStartFail cause s else s).dbg.dampered = s.dbg.dampered := by
  split
  · exact (logEv_noted ..).dampered_eq
  · rfl

theorem protectiveHalt_spec (cause : Nat) (s : State) : (protectiveHalt cause s).pwr.state = .halted ∧
    (protectiveHalt cause s).pwr.haltCause = BitVec.ofNat 8 cause ∧ (protectiveHalt cause s).pwr.en = 0 ∧
    (protectiveHalt cause s).pwr.haltN = false ∧ (protectiveHalt cause s).pwr.tj = s.pwr.tj ∧
    (protectiveHalt cause s).mem.cells = [] ∧
    (s.dbg.serials.contains 0 = false → (protectiveHalt cause s).dbg.dampered = true) := by
  obtain ⟨hdbg, htj⟩ := undoLoss_frame s
  unfold protectiveHalt
  dsimp only
  rw [(logEv_noted ..).pwr_eq, (logEv_noted ..).mem_eq, (logEv_noted ..).dampered_eq]
  refine ⟨rfl, rfl, rfl, rfl, ?_, ?_, fun hserial => ?_⟩
  · simp only [dropTo, coreOff_pwr, pwr_endedStart, raiseOwn_pwr, htj]
  · rw [coreOff_mem]
  · dsimp only
    rw [coreOff_dampered, endedStart_dampered]
    exact raiseOwn_dampered (hdbg ▸ hserial)

/-! ### The Blaze budget (R326, R327, R330) -/

theorem blazeLife_noted (s : State) : ∃ ms n r, Noted { s with pwr := { s.pwr with
    lifeMs := ms, lifeSeconds := n, ratedExceeded := r } } (blazeLife s) := by
  unfold blazeLife
  split
  · exact ⟨_, _, _, .refl _⟩
  · dsimp only
    split
    · exact ⟨_, _, _, logEv_noted ..⟩
    · exact ⟨_, _, _, .refl _⟩

/-- The marks set where U passes them. -/
theorem blazeMarks_noted (old u : Nat) (s : State) : Noted { s with pwr := { s.pwr with
    warn := s.pwr.warn || decide (old < 120000 ∧ 120000 ≤ u)
    exhausted := s.pwr.exhausted || decide (old < 160000 ∧ 160000 ≤ u) } } (blazeMarks old u s) := by
  have hwarn : Noted { s with pwr := { s.pwr with warn := s.pwr.warn || decide (old < 120000 ∧ 120000 ≤ u) } }
      (if old < 120000 ∧ 120000 ≤ u then logEv 0x0005 2 0xFF none [u] { s with pwr := { s.pwr with warn := true } }
        else s) := by
    split
    · next h =>
      simp only [h, and_self, decide_true, Bool.or_true]
      exact logEv_noted ..
    · next h =>
      simp only [h, decide_false, Bool.or_false]
      exact .refl s
  unfold blazeMarks
  dsimp only
  split
  · next h =>
    simp only [h, and_self, decide_true, Bool.or_true]
    rw [hwarn.pwr_eq]
    exact (hwarn.withPwr _).trans (logEv_noted ..)
  · next h =>
    simp only [h, decide_false, Bool.or_false]
    exact hwarn

section
variable {s : State}

theorem blazeTick_outside (h : tickState s ≠ .blaze) :
    blazeTick s = { s with pwr := { s.pwr with blazeU := s.pwr.blazeU - 1 } } := by
  have hb : (tickState s == .blaze) = false := beq_eq_false_iff_ne.mpr h
  unfold blazeTick
  rw [hb]
  rfl

/-- What a tick of Blaze records before it is judged. -/
def blazeUsed (s : State) : State :=
  blazeMarks s.pwr.blazeU (s.pwr.blazeU + 4) (blazeLife { s with pwr := { s.pwr with blazeU := s.pwr.blazeU + 4 } })

theorem blazeTick_blaze (h : tickState s = .blaze) : blazeTick s =
    if 168000 < s.pwr.blazeU + 4 then protectiveHalt 1 (blazeUsed s) else blazeUsed s := by
  have hb : (tickState s == .blaze) = true := beq_iff_eq.mpr h
  unfold blazeTick
  rw [hb]
  rfl

theorem blazeUsed_noted (s : State) : ∃ ms n r, Noted { s with pwr := { s.pwr with
    blazeU := s.pwr.blazeU + 4, lifeMs := ms, lifeSeconds := n, ratedExceeded := r
    warn := s.pwr.warn || decide (s.pwr.blazeU < 120000 ∧ 120000 ≤ s.pwr.blazeU + 4)
    exhausted := s.pwr.exhausted || decide (s.pwr.blazeU < 160000 ∧ 160000 ≤ s.pwr.blazeU + 4) } } (blazeUsed s) := by
  obtain ⟨ms, n, r, hlife⟩ := blazeLife_noted { s with pwr := { s.pwr with blazeU := s.pwr.blazeU + 4 } }
  have hmarks := blazeMarks_noted s.pwr.blazeU (s.pwr.blazeU + 4)
    (blazeLife { s with pwr := { s.pwr with blazeU := s.pwr.blazeU + 4 } })
  rw [hlife.pwr_eq] at hmarks
  exact ⟨ms, n, r, (hlife.withPwr _).trans hmarks⟩

end

/-! ### Sensors (R329, R333) -/

/-- Each key of the list holds its own value after the values are set one by one. -/
theorem get?_foldOver_set {α : Type} {f : Nat → α} (l : List Nat) (m : Map α) (k : Nat) :
    Map.get? (foldOver l (fun m i => Map.set m i (f i)) m) k = if k ∈ l then some (f k) else Map.get? m k := by
  unfold foldOver
  induction l generalizing m with
  | nil => rfl
  | cons i l ih =>
    rw [List.foldl_cons, ih]
    by_cases hk : k = i
    · subst hk
      simp
    · simp [hk, Map.get?_set_other hk]

/-- The fold that keeps the larger reading ends at the largest one of the list. -/
theorem foldl_largest {v : Int} (xs : List Int) (m : Option Int) (hm : ∀ y ∈ m, y ≤ v) (hxs : ∀ x ∈ xs, x ≤ v)
    (hv : v ∈ xs ∨ m = some v) : xs.foldl (fun m x => match m with
      | none => some x
      | some y => some (max x y)) m = some v := by
  induction xs generalizing m with
  | nil => exact hv.resolve_left (List.not_mem_nil)
  | cons x xs ih =>
    have hx : x ≤ v := hxs x (List.mem_cons_self ..)
    rw [List.foldl_cons]
    refine ih _ ?_ (fun z hz => hxs z (List.mem_cons_of_mem _ hz)) ?_
    · cases m with
      | none => simpa using hx
      | some y =>
        have hy : y ≤ v := hm y rfl
        simpa using ⟨hx, hy⟩
    · cases m with
      | none =>
        rcases hv with hv | hv
        · exact (List.mem_cons.mp hv).elim (fun h => .inr (congrArg some h.symm)) .inl
        · cases hv
      | some y =>
        have hy : y ≤ v := hm y rfl
        rcases hv with hv | hv
        · refine (List.mem_cons.mp hv).elim (fun h => .inr (congrArg some ?_)) .inl
          omega
        · refine .inr (congrArg some ?_)
          cases hv
          omega

theorem hottest_eq {l : List (Option (BitVec 16))} {v : BitVec 16} (hv : some v ∈ l.take 32)
    (hall : ∀ x ∈ l.take 32, ∃ w, x = some w ∧ w.toInt ≤ v.toInt) : hottest l = some v.toInt := by
  refine foldl_largest _ none (fun y hy => nomatch hy) (fun x hx => ?_) (.inl ?_)
  · obtain ⟨y, hy, hxy⟩ := List.mem_filterMap.mp hx
    obtain ⟨w, rfl, hw⟩ := hall y hy
    cases hxy
    exact hw
  · exact List.mem_filterMap.mpr ⟨some v, hv, rfl⟩

/-- The readings of one die are among the junction readings. -/
theorem getElem?_die {α : Type} (l : List α) (d i : Nat) (hi : i < 8) : ((l.drop (8 * d)).take 8)[i]? = l[8 * d + i]? := by
  rw [List.getElem?_take_of_lt hi, List.getElem?_drop]

theorem dieBlind_false {l : List (Option (BitVec 16))} (hlen : l.length = 64)
    (hall : ∀ x ∈ l.take 32, x.isSome = true) : dieBlind l = false := by
  rw [dieBlind, Bool.eq_false_iff]
  intro hany
  obtain ⟨d, hd, hblind⟩ := List.any_eq_true.mp hany
  have hd : d < 4 := mem_upTo.mp hd
  have hget : l[8 * d]? = some l[8 * d] := List.getElem?_eq_getElem (by omega)
  have hdie : l[8 * d] ∈ (l.drop (8 * d)).take 8 := List.mem_of_getElem? ((getElem?_die l d 0 (by omega)).trans hget)
  have hjunction : l[8 * d] ∈ l.take 32 :=
    List.mem_of_getElem? ((List.getElem?_take_of_lt (show 8 * d < 32 by omega)).trans hget)
  have hnone := List.all_eq_true.mp hblind _ hdie
  have hsome := hall _ hjunction
  rw [Option.isNone_iff_eq_none] at hnone
  rw [hnone] at hsome
  exact Bool.false_ne_true hsome

theorem dieBlind_true {l : List (Option (BitVec 16))} {d : Nat} (hd : d < 4)
    (hnone : ∀ i, i < 8 → l[8 * d + i]? = some none) : dieBlind l = true := by
  refine List.any_eq_true.mpr ⟨d, mem_upTo.mpr hd, List.all_eq_true.mpr fun x hx => ?_⟩
  obtain ⟨i, hi⟩ := List.mem_iff_getElem?.mp hx
  have hi8 : i < 8 := by
    by_contra hge
    rw [List.getElem?_take_eq_none (by omega)] at hi
    cases hi
  rw [getElem?_die l d i hi8, hnone i hi8] at hi
  cases hi
  rfl

/-- First failures are recorded, and nothing else changes. -/
theorem logSensors_noted (samples : List (Option (BitVec 16))) (s : State) :
    ∃ failed, Noted { s with mss := { s.mss with sensorFailed := failed } } (logSensors samples s) := by
  refine foldOver_rel (R := fun s t => ∃ failed, Noted { s with mss := { s.mss with sensorFailed := failed } } t)
    (fun s => ⟨_, .refl s⟩) (fun s t u hst htu => ?_) (fun s i => ?_) _ s
  · obtain ⟨_, _, _, _, _, _, _, _, rfl⟩ := hst
    obtain ⟨_, _, _, _, _, _, _, _, rfl⟩ := htu
    exact ⟨_, _, _, _, _, _, _, _, rfl⟩
  · split
    · exact ⟨_, .refl s⟩
    · exact ⟨_, logEv_noted ..⟩

/-- The warning of a junction at `tj` eighths of a degree (R329). -/
theorem thermWarn_noted (tj : Int) (s : State) : ∃ w a, Noted { s with pwr := { s.pwr with
    tj := BitVec.ofInt 16 tj, thermWarn := w, thermArmed := a } } (thermWarn tj s) ∧
    (tj < 840 → w = s.pwr.thermWarn) ∧ (840 ≤ tj → s.pwr.thermArmed = true → w = true ∧ a = false) ∧
    (tj < 800 → a = true) := by
  unfold thermWarn
  dsimp only
  split_ifs with hhot harm hcool
  · exact ⟨_, _, logEv_noted .., fun _ => by omega, fun _ _ => ⟨rfl, rfl⟩, fun _ => by omega⟩
  · exact ⟨_, _, .refl _, fun _ => rfl, fun _ h => absurd h harm, fun _ => by omega⟩
  · exact ⟨_, _, .refl _, fun _ => rfl, fun _ => by omega, fun _ => rfl⟩
  · exact ⟨_, _, .refl _, fun _ => rfl, fun _ => by omega, fun _ => by omega⟩

/-- The sensors' registers after a sample. -/
def sampleRegs (samples : List (Option (BitVec 16))) (s : State) : Map (Option (BitVec 16)) :=
  foldOver ((upTo 54).filter sensorExists) (fun m i => Map.set m i (nthD samples i none)) s.mss.sensors

/-- The state with a sample's readings and first failures recorded. -/
def readingsLogged (samples : List (Option (BitVec 16))) (s : State) : State :=
  logSensors samples { s with mss := { s.mss with sensors := sampleRegs samples s } }

/-- The state with a sample recorded, before a halt is judged. -/
def sampled (samples : List (Option (BitVec 16))) (s : State) : State :=
  match hottest samples with
  | some t => thermWarn t (readingsLogged samples s)
  | none => readingsLogged samples s

theorem readingsLogged_noted (samples : List (Option (BitVec 16))) (s : State) : ∃ failed, Noted { s with
    mss := { s.mss with sensors := sampleRegs samples s, sensorFailed := failed } } (readingsLogged samples s) := by
  unfold readingsLogged
  generalize sampleRegs samples s = m
  exact logSensors_noted samples { s with mss := { s.mss with sensors := m } }

/-- Is a sample the cause of a halt? -/
def sampleTrips (samples : List (Option (BitVec 16))) (p : PowerState) : Prop :=
  canHalt p = true ∧ ((match hottest samples with
    | some t => decide (920 ≤ t)
    | none => false) = true ∨ (diesPowered p = true ∧ dieBlind samples = true))

theorem sensorSample_halts {samples : List (Option (BitVec 16))} {s : State}
    (h : sampleTrips samples (tickState (sampled samples s))) :
    sensorSample samples s = protectiveHalt 2 (sampled samples s) := if_pos h

theorem sensorSample_goes {samples : List (Option (BitVec 16))} {s : State}
    (h : ¬ sampleTrips samples (tickState (sampled samples s))) : sensorSample samples s = sampled samples s := if_neg h

theorem get?_sampleRegs {samples : List (Option (BitVec 16))} {s : State} (hlen : samples.length = 64) {i : Nat}
    (hi : i < 54) (hne : i ≠ 47) : Map.get? (sampleRegs samples s) i = samples[i]? := by
  have hmem : i ∈ (upTo 54).filter sensorExists :=
    List.mem_filter.mpr ⟨mem_upTo.mpr hi, by simp [sensorExists, hi, hne]⟩
  have hget : samples[i]? = some samples[i] := List.getElem?_eq_getElem (by omega)
  rw [sampleRegs, get?_foldOver_set, if_pos hmem, nthD, List.getD_eq_getElem?_getD, hget]
  rfl

/-- A sample changes the sensors' registers, the warning and its own records. -/
theorem sampled_hot {samples : List (Option (BitVec 16))} {s : State} {tj : Int} (h : hottest samples = some tj) :
    ∃ w a failed, Noted { s with
      mss := { s.mss with sensors := sampleRegs samples s, sensorFailed := failed }
      pwr := { s.pwr with tj := BitVec.ofInt 16 tj, thermWarn := w, thermArmed := a } } (sampled samples s) ∧
    (tj < 840 → w = s.pwr.thermWarn) ∧ (840 ≤ tj → s.pwr.thermArmed = true → w = true ∧ a = false) ∧
    (tj < 800 → a = true) := by
  obtain ⟨failed, hlog⟩ := readingsLogged_noted samples s
  obtain ⟨w, a, hwarn, hkeep, harm, hcool⟩ := thermWarn_noted tj (readingsLogged samples s)
  rw [hlog.pwr_eq] at hwarn hkeep harm
  have hsampled : sampled samples s = thermWarn tj (readingsLogged samples s) := by rw [sampled, h]
  rw [hsampled]
  exact ⟨w, a, failed, (hlog.withPwr _).trans hwarn, hkeep, harm, hcool⟩

theorem tickState_sampled (samples : List (Option (BitVec 16))) (s : State) :
    tickState (sampled samples s) = tickState s := by
  cases h : hottest samples with
  | some tj =>
    obtain ⟨w, a, failed, hn, -⟩ := sampled_hot (s := s) h
    exact tickState_congr (by rw [hn.pwr_eq]) (by rw [hn.pwr_eq]) hn.time_eq
  | none =>
    obtain ⟨failed, hn⟩ := readingsLogged_noted samples s
    rw [sampled, h]
    exact tickState_congr (by rw [hn.pwr_eq]) (by rw [hn.pwr_eq]) hn.time_eq

theorem canHalt_iff {p : PowerState} : canHalt p = true ↔ p ≠ .off ∧ p ≠ .halted := by cases p <;> decide

theorem canHalt_of_diesPowered {p : PowerState} : diesPowered p = true → canHalt p = true := by cases p <;> decide

/-- Settles O49: the budget's tick, the seal of the lifetime, and what a sample warns of and halts. -/
theorem blazeAndHeat : Obligations.BlazeAndHeat := by
  unfold Obligations.BlazeAndHeat
  refine ⟨fun s hp => ⟨?out, ?blaze, ?past, ?store⟩, ?hot, ?blind⟩
  case out =>
    intro h
    have hexec : exec .blazeBudgetTick s = .next (blazeTick s) := congrArg Host.Outcome.next (mssRuns_on hp)
    rw [hexec, blazeTick_outside h]
  case blaze =>
    intro hstate h hu
    have hexec : exec .blazeBudgetTick s = .next (blazeTick s) := congrArg Host.Outcome.next (mssRuns_on hp)
    obtain ⟨ms, n, r, hn⟩ := blazeUsed_noted s
    rw [hexec, blazeTick_blaze h, if_neg (by omega)]
    refine ⟨_, rfl, ?_⟩
    rw [hn.pwr_eq, hn.regs_eq, hn.mem_eq, hn.groups_eq, hn.ctx_eq]
    exact ⟨hstate, rfl, by simp, by simp, rfl, rfl, rfl, rfl⟩
  case past =>
    intro h hu hserial
    have hexec : exec .blazeBudgetTick s = .next (blazeTick s) := congrArg Host.Outcome.next (mssRuns_on hp)
    obtain ⟨ms, n, r, hn⟩ := blazeUsed_noted s
    rw [hexec, blazeTick_blaze h, if_pos hu]
    obtain ⟨hstate, hcause, hen, hhalt, -, hcells, hdamp⟩ := protectiveHalt_spec 1 (blazeUsed s)
    refine ⟨_, rfl, hstate, hcause, hen, hhalt, hdamp ?_, hcells⟩
    rw [hn.serials_eq]
    exact hserial
  case store =>
    have hexec : exec .blazeLifePersist s = .next (blazePersist s) := congrArg Host.Outcome.next (mssRuns_on hp)
    obtain ⟨hframe, hstore, hforce, hwait⟩ := sealStore_spec
      (fun x => { x with blazeSeconds := s.pwr.lifeSeconds, rated := s.pwr.ratedExceeded }) s
    refine ⟨_, hexec, hframe, hstore, fun hprog => ?_, hwait⟩
    exact (hforce hprog).trans (congrArg some hstore.symm)
  case hot =>
    intro l v s hp hlen hv hall
    have hexec : exec (.sensorSample l) s = .next (sensorSample l s) :=
      (if_pos hlen).trans (congrArg Host.Outcome.next (mssRuns_on hp))
    have hhot := hottest_eq hv hall
    obtain ⟨w, a, failed, hn, hkeep, harm, hcool⟩ := sampled_hot (s := s) hhot
    rw [BitVec.ofInt_toInt] at hn
    refine ⟨fun hlt => ?_, fun hge hoff hhalted => ?_⟩
    · have hblind : dieBlind l = false := dieBlind_false hlen fun x hx => by
        obtain ⟨w, rfl, -⟩ := hall x hx
        rfl
      have hstay : ¬ sampleTrips l (tickState (sampled l s)) := by
        rintro ⟨-, htrip | ⟨-, hdie⟩⟩
        · rw [hhot, decide_eq_true_iff] at htrip
          omega
        · exact absurd (hblind.symm.trans hdie) Bool.false_ne_true
      have hsensors : (sampled l s).mss.sensors = sampleRegs l s := by rw [hn.sensors_eq]
      rw [hexec, sensorSample_goes hstay]
      refine ⟨_, rfl, ?_⟩
      rw [hn.pwr_eq, hn.regs_eq, hn.mem_eq, hn.groups_eq, hsensors]
      exact ⟨rfl, rfl, fun i hi hne => get?_sampleRegs hlen hi hne, hkeep, harm, hcool, rfl, rfl, rfl⟩
    · have htrips : sampleTrips l (tickState (sampled l s)) := by
        rw [tickState_sampled]
        exact ⟨canHalt_iff.mpr ⟨hoff, hhalted⟩, .inl (by rw [hhot]; exact decide_eq_true hge)⟩
      obtain ⟨hstate, hcause, hen, -, htj, hcells, -⟩ := protectiveHalt_spec 2 (sampled l s)
      rw [hexec, sensorSample_halts htrips]
      refine ⟨_, rfl, hstate, hcause, ?_, hen, hcells⟩
      rw [htj, hn.pwr_eq]
  case blind =>
    intro l d s hp hlen hd hnone hdies
    have hexec : exec (.sensorSample l) s = .next (sensorSample l s) :=
      (if_pos hlen).trans (congrArg Host.Outcome.next (mssRuns_on hp))
    have htrips : sampleTrips l (tickState (sampled l s)) := by
      rw [tickState_sampled]
      exact ⟨canHalt_of_diesPowered hdies, .inr ⟨hdies, dieBlind_true hd hnone⟩⟩
    obtain ⟨hstate, hcause, hen, -, -, hcells, -⟩ := protectiveHalt_spec 2 (sampled l s)
    rw [hexec, sensorSample_halts htrips]
    exact ⟨_, rfl, hstate, hcause, hen, hcells⟩

end Sys2Proof.Machine
end

section
/-! The cord: its checks, its load and apply, the run-time bindings and the floor (chapter 13). -/

namespace Sys2Proof.Machine

open Sys2Proof

/-! ### Staging, VERIFY and LOAD (R284, R296, R298) -/

section
variable {s : State}

theorem cordRunning_iff : cordRunning s = true ↔ s.cord.action ≠ .idle := by
  unfold cordRunning
  split <;> simp_all

theorem cordRunning_idle (h : s.cord.action = .idle) : cordRunning s = false :=
  Bool.eq_false_iff.mpr fun hr => cordRunning_iff.mp hr h

theorem cordVerify_running (h : cordRunning s = true) : cordVerify s = (.resourceBound, s) := if_pos h

theorem cordVerify_passes (h : cordRunning s = false) (hv : cordVerdict s (stagedImage s) = none) :
    cordVerify s = (.ok, showOk s) := by
  rw [cordVerify, if_neg (by simp [h]), hv]

theorem cordVerify_fails {e : CordFail} (h : cordRunning s = false) (hv : cordVerdict s (stagedImage s) = some e) :
    cordVerify s = (.ok, showFail e s) := by
  rw [cordVerify, if_neg (by simp [h]), hv]

theorem cordLoad_begins (h : cordRunning s = false) (hre : s.cord.cfg = none ∨ reloadOk s = true)
    (hv : cordVerdict s (stagedImage s) = none) : cordLoad s = (.ok, { showOk s with cord := { (showOk s).cord with
      state := 2, activeImg := stagedImage s, action := .applying (stagedImage s) (cordCfgOf (stagedImage s)) } }) := by
  have hcheck : reloadCheck s = none := if_pos (by simpa using hre)
  rw [cordLoad, if_neg (by simp [h])]
  dsimp only
  rw [hcheck, hv]

theorem cordLoad_kept (h : cordRunning s = false) (hcfg : s.cord.cfg ≠ none) (hre : reloadOk s = false) :
    cordLoad s = (.ok, showFail (cordFail .resourceBound 1 0) s) := by
  have hcheck : reloadCheck s = some (cordFail .resourceBound 1 0) := if_neg (by simp [hcfg, hre])
  rw [cordLoad, if_neg (by simp [h])]
  dsimp only
  rw [hcheck]

end

/-! ### What the apply keeps (R299) -/

/-- The memory, the contexts and the floor stay. -/
structure LoadKeeps (s t : State) : Prop where
  mem : t.mem = s.mem
  ctx : t.ctx = s.ctx
  floor : t.cord.floor = s.cord.floor

namespace LoadKeeps

theorem refl (s : State) : LoadKeeps s s := ⟨rfl, rfl, rfl⟩

theorem trans {s t u : State} (hst : LoadKeeps s t) (htu : LoadKeeps t u) : LoadKeeps s u :=
  ⟨htu.mem.trans hst.mem, htu.ctx.trans hst.ctx, htu.floor.trans hst.floor⟩

theorem foldOver {β : Type} {f : State → β → State} (hf : ∀ s x, LoadKeeps s (f s x)) (l : List β) (s : State) :
    LoadKeeps s (foldOver l f s) := foldOver_rel refl (fun _ _ _ => trans) hf l s

theorem of_noted {s t : State} (h : Noted s t) : LoadKeeps s t :=
  ⟨h.mem_eq, h.ctx_eq, congrArg CordSt.floor h.cord_eq⟩

theorem of_switchOnly {s t : State} (h : SwitchOnly s t) : LoadKeeps s t := by
  obtain ⟨_, _, _, rfl⟩ := h
  exact ⟨rfl, rfl, rfl⟩

end LoadKeeps

/-- Every pool buffer of the groups is free. -/
def NoBufs (s : State) : Prop := ∀ g, g < 16 → (getGroup s g).bufs = []

theorem NoBufs.of_groups {s t : State} (h : NoBufs s) (hg : t.groups = s.groups) : NoBufs t := fun g hlt => by
  rw [getGroup, hg]
  exact h g hlt

theorem NoBufs.modGroup {s : State} (h : NoBufs s) {g : Nat} {f : GroupSt → GroupSt} (hf : ∀ gr, (f gr).bufs = gr.bufs) :
    NoBufs (modGroup s g f) := fun k hk => by
  rw [getGroup_modGroup]
  split
  · next hkg => rw [hf, ← hkg, h k hk]
  · exact h k hk

theorem freeAllBuffers_noBufs (s : State) : NoBufs (freeAllBuffers s) := fun g hg => by
  rw [getGroup_freeAllBuffers s hg]
  rfl

theorem freeAllBuffers_loadKeeps (s : State) : LoadKeeps s (freeAllBuffers s) := by
  rw [freeAllBuffers_eq]
  exact ⟨rfl, rfl, rfl⟩

theorem adminFall_loadKeeps (l : Nat) (s : State) : LoadKeeps s (adminFall l s) := by
  unfold adminFall
  split <;> exact ⟨rfl, rfl, rfl⟩

theorem resetPorts_loadKeeps (c : CordCfg) (s : State) : LoadKeeps s (resetPorts c s) := by
  refine LoadKeeps.foldOver (fun t l => ?_) (upTo 1024) s
  split
  · exact LoadKeeps.trans (t := setReg t _ _) ⟨rfl, rfl, rfl⟩ (adminFall_loadKeeps ..)
  · exact .refl t

theorem dropFrames_loadKeeps (l : List Nat) (s : State) : LoadKeeps s (foldOver l (fun s uid => dropFrame uid s) s) :=
  LoadKeeps.foldOver (fun s uid => .of_switchOnly (dropFrame_switchOnly uid s)) l s

theorem emptyOutputs_loadKeeps (s : State) : LoadKeeps s (emptyOutputs s) :=
  (dropFrames_loadKeeps _ s).trans ⟨rfl, rfl, rfl⟩

theorem zeroLocal_loadKeeps (g : Nat) (s : State) : LoadKeeps s (zeroLocal g s) := ⟨rfl, rfl, rfl⟩

/-- What a changed split of SRAM empties. -/
def splitEmpties (s : State) : State := clearTables (foldOver (upTo 16) (fun s g => zeroLocal g s) (emptyOutputs s))

/-- What a changed count of each kind of table empties, where `ch` says that it has changed. -/
def countsEmpty (ch : (CordCfg → Nat) → Bool) (s : State) : State :=
  let s3 := if ch (·.slotTables) then clearSlots s else s
  let s4 := if ch (·.pinEntries) then { s3 with sw := { s3.sw with pins := [] } } else s3
  let s5 := if ch (·.windows) then
      let s5 := foldOver (s4.sw.windows.map (fun w => w.2.held.map (·.uid))).flatten (fun s uid => dropFrame uid s) s4
      { s5 with sw := { s5.sw with windows := [] } }
    else s4
  if ch (·.sprayCounters) then { s5 with sw := { s5.sw with spray := [] } } else s5

theorem resizeTables_same {old : Option CordCfg} {c : CordCfg} (s : State) (h : splitOf old = splitOf (some c)) :
    resizeTables old c s = countsEmpty (fun f => (old.map f) != some (f c)) s := by
  have hsplit : (splitOf old != splitOf (some c)) = false := bne_eq_false_iff_eq.mpr h
  unfold resizeTables
  rw [hsplit]
  rfl

theorem resizeTables_split {old : Option CordCfg} {c : CordCfg} (s : State) (h : splitOf old ≠ splitOf (some c)) :
    resizeTables old c s = countsEmpty (fun _ => true) (splitEmpties s) := by
  have hsplit : (splitOf old != splitOf (some c)) = true := bne_iff_ne.mpr h
  unfold resizeTables
  rw [hsplit]
  rfl

theorem clearTables_spec (s : State) : (clearTables s).mem = s.mem ∧ (clearTables s).cord.floor = s.cord.floor ∧
    (clearTables s).ctx.groups = [] ∧ (clearTables s).ctx.tallies = [] := ⟨rfl, rfl, rfl, rfl⟩

theorem splitEmpties_spec (s : State) : (splitEmpties s).mem = s.mem ∧ (splitEmpties s).cord.floor = s.cord.floor ∧
    (splitEmpties s).ctx.groups = [] ∧ (splitEmpties s).ctx.tallies = [] := by
  have hzero := (emptyOutputs_loadKeeps s).trans
    (LoadKeeps.foldOver (fun s g => zeroLocal_loadKeeps g s) (upTo 16) (emptyOutputs s))
  have hclear := clearTables_spec (foldOver (upTo 16) (fun s g => zeroLocal g s) (emptyOutputs s))
  exact ⟨hclear.1.trans hzero.mem, hclear.2.1.trans hzero.floor, hclear.2.2⟩

theorem countsEmpty_loadKeeps (ch : (CordCfg → Nat) → Bool) (s : State) : LoadKeeps s (countsEmpty ch s) := by
  have hslots : LoadKeeps s (if ch (·.slotTables) then clearSlots s else s) := by
    split
    · exact ⟨rfl, rfl, rfl⟩
    · exact .refl s
  have hpins (t : State) : LoadKeeps t (if ch (·.pinEntries) then { t with sw := { t.sw with pins := [] } } else t) := by
    split
    · exact ⟨rfl, rfl, rfl⟩
    · exact .refl t
  have hwindows (t : State) : LoadKeeps t (if ch (·.windows) then
      let s5 := foldOver (t.sw.windows.map (fun w => w.2.held.map (·.uid))).flatten (fun s uid => dropFrame uid s) t
      { s5 with sw := { s5.sw with windows := [] } } else t) := by
    split
    · exact (dropFrames_loadKeeps _ t).trans ⟨rfl, rfl, rfl⟩
    · exact .refl t
  have hspray (t : State) : LoadKeeps t (if ch (·.sprayCounters) then { t with sw := { t.sw with spray := [] } } else t) := by
    split
    · exact ⟨rfl, rfl, rfl⟩
    · exact .refl t
  exact hslots.trans ((hpins _).trans ((hwindows _).trans (hspray _)))

theorem modGroup_loadKeeps (g : Nat) (f : GroupSt → GroupSt) (s : State) : LoadKeeps s (modGroup s g f) :=
  ⟨rfl, rfl, rfl⟩

theorem setReg_loadKeeps (a : Nat) (v : W64) (s : State) : LoadKeeps s (setReg s a v) := ⟨rfl, rfl, rfl⟩

theorem resetTriggers_spec (g : Nat) (s : State) :
    LoadKeeps s (foldOver (upTo 12) (fun s u => setReg s (Reg.trigger g u) (Reg.resetValue (Reg.trigger g u))) s) ∧
    (foldOver (upTo 12) (fun s u => setReg s (Reg.trigger g u) (Reg.resetValue (Reg.trigger g u))) s).groups = s.groups :=
  foldOver_rel (R := fun s t => LoadKeeps s t ∧ t.groups = s.groups) (fun s => ⟨.refl s, rfl⟩)
    (fun _ _ _ hst htu => ⟨hst.1.trans htu.1, htu.2.trans hst.2⟩)
    (f := fun s u => setReg s (Reg.trigger g u) (Reg.resetValue (Reg.trigger g u)))
    (fun s _ => ⟨setReg_loadKeeps _ _ s, setReg_groups s _ _⟩) (upTo 12) s

theorem resetShape_spec (old : Option CordCfg) (c : CordCfg) (s : State) (g : Nat) :
    LoadKeeps s (resetShape old c s g) ∧ (NoBufs s → NoBufs (resetShape old c s g)) := by
  unfold resetShape
  split
  · exact ⟨.refl s, id⟩
  · obtain ⟨hkeep, hgroups⟩ := resetTriggers_spec g (modGroup (zeroLocal g s) g (fun gr =>
      { gr with progs := [], params := [], replay := [] }))
    refine ⟨((zeroLocal_loadKeeps g s).trans (modGroup_loadKeeps ..)).trans hkeep, fun hnone => NoBufs.of_groups ?_ hgroups⟩
    have hzero : NoBufs (zeroLocal g s) := hnone.modGroup (by exact fun _ => rfl)
    exact hzero.modGroup (by exact fun _ => rfl)

theorem resetShapes_spec (old : Option CordCfg) (c : CordCfg) (s : State) :
    LoadKeeps s (foldOver (upTo 16) (resetShape old c) s) ∧
    (NoBufs s → NoBufs (foldOver (upTo 16) (resetShape old c) s)) :=
  foldOver_rel (R := fun s t => LoadKeeps s t ∧ (NoBufs s → NoBufs t)) (fun s => ⟨.refl s, id⟩)
    (fun _ _ _ hst htu => ⟨hst.1.trans htu.1, fun h => htu.2 (hst.2 h)⟩) (fun s g => resetShape_spec old c s g) (upTo 16) s

/-! ### Timers of bindings (R332) -/

/-- `t` is `s` but for the timers. -/
def TimersOnly (s t : State) : Prop := ∃ timers, t = { s with mss := { s.mss with timers := timers } }

namespace TimersOnly

theorem refl (s : State) : TimersOnly s s := ⟨_, rfl⟩

theorem trans {s t u : State} (hst : TimersOnly s t) (htu : TimersOnly t u) : TimersOnly s u := by
  obtain ⟨_, rfl⟩ := hst
  obtain ⟨_, rfl⟩ := htu
  exact ⟨_, rfl⟩

end TimersOnly

theorem timerOn_timersOnly (c : Nat) (s : State) : TimersOnly s (timerOn c s) := by
  unfold timerOn startTimer
  split
  · split
    · exact ⟨_, rfl⟩
    · exact .refl s
  · exact .refl s

theorem stopTimer_timersOnly (r : Byte) (s : State) : TimersOnly s (stopTimer r s) := by
  unfold stopTimer
  split
  · exact ⟨_, rfl⟩
  · exact .refl s

theorem replaceBindings_spec (c : CordCfg) (s : State) :
    LoadKeeps s (replaceBindings c s) ∧ (replaceBindings c s).groups = s.groups := by
  have htimers (s0 : State) : TimersOnly s0 (foldOver [0x10, 0x11, 0x12, 0x13] (fun s c => timerOn c s) s0) :=
    foldOver_rel TimersOnly.refl (fun _ _ _ => TimersOnly.trans) (fun s c => timerOn_timersOnly c s) _ s0
  unfold replaceBindings
  dsimp only
  generalize c.bindings.foldl (fun m x => Map.set m x.claimant.toNat (claimOfBinding false x)) [] = claims
  obtain ⟨timers, heq⟩ := htimers { s with cord := { s.cord with claims := claims }, mss := { s.mss with timers := [] } }
  rw [heq]
  split
  · refine ⟨LoadKeeps.trans ?_ (.of_noted (logEv_noted ..)), (logEv_noted ..).groups_eq.trans ?_⟩
    · exact ⟨rfl, rfl, rfl⟩
    · rfl
  · exact ⟨⟨rfl, rfl, rfl⟩, rfl⟩

/-! ### The apply (R299) -/

/-- What an apply empties before the structure is in force: steps 1 to 4. -/
def cordEmptied (c : CordCfg) (s : State) : State :=
  foldOver (upTo 16) (resetShape s.cord.cfg c) (freeAllBuffers (resizeTables s.cord.cfg c (resetPorts c s)))

/-- The structure put in force, with its enables. -/
def cordInForce (img : List Byte) (c : CordCfg) (s : State) : State :=
  let t := setEnable c.enables (replaceBindings c (cordEmptied c s))
  { t with cord := { t.cord with
    cfg := some c, digest := cordDigest img, serial := c.serial, state := 3, action := .idle } }

theorem applyCord_eq (img : List Byte) (c : CordCfg) (s : State) : applyCord img c s =
    logEv (codeStatus 11 .ok) 0 0xFF none [c.serial.toNat] (logUnknown img (sealStore
      (fun x => { x with cordDigest := cordDigest img, cordSerial := c.serial }) (cordInForce img c s))) := rfl

theorem resizeTables_spec (old : Option CordCfg) (c : CordCfg) (s : State) : (resizeTables old c s).mem = s.mem ∧
    (resizeTables old c s).cord.floor = s.cord.floor ∧
    (splitOf old = splitOf (some c) → (resizeTables old c s).ctx = s.ctx) ∧
    (splitOf old ≠ splitOf (some c) →
      (resizeTables old c s).ctx.groups = [] ∧ (resizeTables old c s).ctx.tallies = []) := by
  by_cases h : splitOf old = splitOf (some c)
  · rw [resizeTables_same s h]
    have hcounts := countsEmpty_loadKeeps (fun f => (old.map f) != some (f c)) s
    exact ⟨hcounts.mem, hcounts.floor, fun _ => hcounts.ctx, fun hne => absurd h hne⟩
  · rw [resizeTables_split s h]
    have hcounts := countsEmpty_loadKeeps (fun _ => true) (splitEmpties s)
    obtain ⟨hmem, hfloor, hgroups, htallies⟩ := splitEmpties_spec s
    refine ⟨hcounts.mem.trans hmem, hcounts.floor.trans hfloor, fun heq => absurd heq h, fun _ => ?_⟩
    rw [hcounts.ctx]
    exact ⟨hgroups, htallies⟩

theorem cordEmptied_spec (c : CordCfg) (s : State) : (cordEmptied c s).mem = s.mem ∧
    (cordEmptied c s).cord.floor = s.cord.floor ∧ NoBufs (cordEmptied c s) ∧
    (splitOf s.cord.cfg = splitOf (some c) → (cordEmptied c s).ctx = s.ctx) ∧
    (splitOf s.cord.cfg ≠ splitOf (some c) → (cordEmptied c s).ctx.groups = [] ∧ (cordEmptied c s).ctx.tallies = []) := by
  have hports := resetPorts_loadKeeps c s
  obtain ⟨hmem, hfloor, hsame, hdiff⟩ := resizeTables_spec s.cord.cfg c (resetPorts c s)
  obtain ⟨hshape, hbufs⟩ := resetShapes_spec s.cord.cfg c (freeAllBuffers (resizeTables s.cord.cfg c (resetPorts c s)))
  have hfree := (freeAllBuffers_loadKeeps (resizeTables s.cord.cfg c (resetPorts c s))).trans hshape
  unfold cordEmptied
  refine ⟨hfree.mem.trans (hmem.trans hports.mem), hfree.floor.trans (hfloor.trans hports.floor),
    hbufs (freeAllBuffers_noBufs _), fun h => hfree.ctx.trans ((hsame h).trans hports.ctx), fun h => ?_⟩
  rw [hfree.ctx]
  exact hdiff h

theorem cordEmptied_sorted (c : CordCfg) {s : State} (h : Map.sorted s.regs = true) :
    Map.sorted (replaceBindings c (cordEmptied c s)).regs = true := by
  have hports : Keeps (keptOf s) (resetPorts c s) := resetPorts_keeps (keeps_keptOf s)
  have hfree : Keeps (keptOf s) (freeAllBuffers (resizeTables s.cord.cfg c (resetPorts c s))) :=
    freeAllBuffers_keeps (resizeTables_keeps hports)
  have hempty : Keeps (keptOf s) (cordEmptied c s) := foldOver_keeps hfree fun _ _ hk => resetShape_keeps hk
  exact (replaceBindings_keeps hempty).by_.regs h

/-- The structure in force, and what came with it. -/
theorem cordInForce_spec (img : List Byte) (c : CordCfg) (s : State) :
    LoadKeeps (cordEmptied c s) (cordInForce img c s) ∧ NoBufs (cordInForce img c s) ∧
    (Map.sorted s.regs = true → reg (cordInForce img c s) Reg.dbgEnable = c.enables) := by
  obtain ⟨hbind, hgroups⟩ := replaceBindings_spec c (cordEmptied c s)
  refine ⟨⟨hbind.mem, hbind.ctx, hbind.floor⟩, (cordEmptied_spec c s).2.2.1.of_groups hgroups, fun hsorted => ?_⟩
  exact reg_setReg_same (s := replaceBindings c (cordEmptied c s)) (cordEmptied_sorted c hsorted)

theorem Noted.store_eq {s t : State} (h : Noted s t) : t.mss.store = s.mss.store := by
  obtain ⟨_, _, _, _, _, _, _, rfl⟩ := h
  rfl

theorem logUnknown_noted (img : List Byte) (s : State) : Noted s (logUnknown img s) :=
  foldOver_rel Noted.refl (fun _ _ _ => Noted.trans) (fun _ _ => logEv_noted ..) _ s

/-- What the apply leaves: all of `cordInForce` but the seal of its digest and serial, and its records. -/
theorem applyCord_noted (img : List Byte) (c : CordCfg) (s : State) : ∃ mss,
    mss.store = { (cordInForce img c s).mss.store with cordDigest := cordDigest img, cordSerial := c.serial } ∧
    Noted { cordInForce img c s with mss := mss } (applyCord img c s) := by
  obtain ⟨hframe, hstore, -, -⟩ := sealStore_spec
    (fun x => { x with cordDigest := cordDigest img, cordSerial := c.serial }) (cordInForce img c s)
  refine ⟨_, hstore, ?_⟩
  rw [applyCord_eq, ← hframe]
  exact (logUnknown_noted img _).trans (logEv_noted ..)

theorem helloNow_eq (s : State) : helloNow s = { s with twn := (helloNow s).twn } := by
  unfold helloNow
  split
  · exact foldOver_rel (R := fun s t => t = { s with twn := t.twn }) (fun _ => rfl)
      (fun s t u hst htu => by rw [htu, hst]) (f := fun s n => twinEmit n 1 0 (helloBody s) s) (fun _ _ => rfl)
      (upSublinks s) s
  · rfl

/-- The apply's end, but for the step of a start that waits for it. -/
theorem cordApply_eq {img : List Byte} {c : CordCfg} {s : State} (h : s.cord.action = .applying img c) :
    ∃ p, cordApply s = { helloNow (applyCord img c s) with pwr := p } := by
  unfold cordApply
  rw [h]
  dsimp only
  split
  · exact ⟨_, rfl⟩
  · exact ⟨_, rfl⟩

/-- Settles O39: staging, VERIFY and LOAD by their cases, and the apply through what each of its steps keeps. -/
theorem cordIsLoaded : Obligations.CordIsLoaded := by
  unfold Obligations.CordIsLoaded
  refine ⟨?idle, ?running⟩
  case idle =>
    intro s hp hr hidle img
    have hrun := cordRunning_idle hidle
    have hverify : exec .cordVerify s = _ := hostCmd_running hp hr
    have hload : exec .cordLoad s = _ := hostCmd_running hp hr
    refine ⟨fun off v => ?_, fun hv => ?_, fun e hv => ?_, fun hre hv => ?_, fun hcfg hre => ?_⟩
    · have hexec : exec (.cordStageWrite off v) s = _ := hostCmd_running hp hr
      rw [hexec, cordStage, if_neg (by simp [hrun])]
      rfl
    · rw [hverify, cordVerify_passes hrun hv]
      rfl
    · rw [hverify, cordVerify_fails hrun hv]
      rfl
    · rw [hload, cordLoad_begins hrun hre hv]
      rfl
    · rw [hload, cordLoad_kept hrun hcfg hre]
      rfl
  case running =>
    intro img c s hp hr haction hsorted
    have hrun : cordRunning s = true := cordRunning_iff.mpr (by simp [haction])
    refine ⟨fun off v => ?_, ?_, ?_, ?_⟩
    · have hexec : exec (.cordStageWrite off v) s = _ := hostCmd_running hp hr
      rw [hexec, cordStage, if_pos hrun]
      rfl
    · have hexec : exec .cordVerify s = _ := hostCmd_running hp hr
      rw [hexec, cordVerify_running hrun]
      rfl
    · have hexec : exec .cordLoad s = _ := hostCmd_running hp hr
      rw [hexec, cordLoad, if_pos hrun]
      rfl
    · have hexec : exec .cordApply s = .next (cordApply s) := congrArg Host.Outcome.next (mssRuns_on hp)
      obtain ⟨p, hend⟩ := cordApply_eq haction
      obtain ⟨mss, hstore, hn⟩ := applyCord_noted img c s
      obtain ⟨hkeep, hbufs, henables⟩ := cordInForce_spec img c s
      obtain ⟨hmem, hfloor, -, hsame, hdiff⟩ := cordEmptied_spec c s
      rw [hexec, hend, helloNow_eq]
      have hreg : reg (applyCord img c s) Reg.dbgEnable = c.enables := by
        rw [reg, hn.regs_eq]
        exact henables hsorted
      have hgroups : NoBufs (applyCord img c s) := hbufs.of_groups hn.groups_eq
      refine ⟨_, rfl, ?_⟩
      dsimp only
      rw [hn.cord_eq, hn.mem_eq, hn.ctx_eq, hn.store_eq, hkeep.mem, hkeep.ctx]
      refine ⟨rfl, rfl, rfl, rfl, rfl, hkeep.floor.trans hfloor, congrArg DigestStore.cordSerial hstore, hreg, hgroups, hmem,
        hsame, hdiff⟩

/-! ### Run-time bindings and the floor (R300, R301) -/

section
variable {s : State} {v : W64}

theorem bindReq_unpaired (hrun : cordRunning s = false) (hcfg : s.cord.cfg ≠ none) (hpair : pairOk (bindOf v) = false) :
    bindReq v s = (.cordRejected, s) := by
  rw [bindReq]
  dsimp only
  rw [if_neg (by simp [hrun, hcfg]), if_pos (by simp [hpair])]

theorem bindReq_held (hrun : cordRunning s = false) (hcfg : s.cord.cfg ≠ none) (hpair : pairOk (bindOf v) = true)
    (hheld : claimHeld s (bindOf v).claimant.toNat = true) : bindReq v s = (.resourceBound, s) := by
  rw [bindReq]
  dsimp only
  rw [if_neg (by simp [hrun, hcfg]), if_neg (by simp [hpair]), if_pos (.inl hheld)]

/-- The state with a run-time binding recorded, before its timer runs. -/
def bindMade (v : W64) (s : State) : State :=
  let s1 := stopTimer (bindOf v).resource (noteAux s)
  { s1 with cord := { s1.cord with
    claims := Map.set s1.cord.claims (bindOf v).claimant.toNat (claimOfBinding true (bindOf v)) } }

theorem bindReq_binds (hrun : cordRunning s = false) (hcfg : s.cord.cfg ≠ none) (hpair : pairOk (bindOf v) = true)
    (hheld : claimHeld s (bindOf v).claimant.toNat = false) (htaken : resourceTaken s (bindOf v) = false) :
    bindReq v s = (.ok, timerOn (bindOf v).claimant.toNat (bindMade v s)) := by
  rw [bindReq]
  dsimp only
  rw [if_neg (by simp [hrun, hcfg]), if_neg (by simp [hpair]), if_neg (by simp [hheld, htaken])]
  rfl

theorem bindMade_eq (v : W64) (s : State) : ∃ timers aux, bindMade v s = { s with
    mss := { s.mss with timers := timers }
    cord := { s.cord with
      auxBefore := aux
      claims := Map.set s.cord.claims (bindOf v).claimant.toNat (claimOfBinding true (bindOf v)) } } := by
  obtain ⟨timers, hstop⟩ := stopTimer_timersOnly (bindOf v).resource (noteAux s)
  unfold bindMade
  rw [hstop]
  exact ⟨_, _, rfl⟩

theorem unbindReq_invalid (h : bindFieldsOk v = false) : unbindReq v s = (.fieldInvalid, s) := if_pos (by simp [h])

theorem unbindReq_stays {y : Claim} (hfields : bindFieldsOk v = true) (hrun : cordRunning s = false)
    (hcfg : s.cord.cfg ≠ none) (hy : claimOf s (fld v 55 48) = some y)
    (hstay : y.runtime = false ∨ featureOn s (fld v 55 48) = true) : unbindReq v s = (.resourceBound, s) := by
  rw [unbindReq]
  dsimp only
  rw [if_neg (by simp [hfields]), if_neg (by simp [hrun, hcfg]), hy]
  exact if_pos (by simpa using hstay)

theorem unbindReq_frees {y : Claim} (hfields : bindFieldsOk v = true) (hrun : cordRunning s = false)
    (hcfg : s.cord.cfg ≠ none) (hy : claimOf s (fld v 55 48) = some y) (hruntime : y.runtime = true)
    (hoff : featureOn s (fld v 55 48) = false) : ∃ timers aux, unbindReq v s = (.ok, { s with
      mss := { s.mss with timers := timers }
      cord := { s.cord with auxBefore := aux, claims := Map.erase s.cord.claims (fld v 55 48) } }) := by
  obtain ⟨timers, hstop⟩ := stopTimer_timersOnly y.resource (noteAux s)
  rw [unbindReq]
  dsimp only
  rw [if_neg (by simp [hfields]), if_neg (by simp [hrun, hcfg]), hy]
  dsimp only
  rw [if_neg (by simp [hruntime, hoff]), hstop]
  exact ⟨_, _, rfl⟩

theorem floorWrite_lower (h : v.toNat < s.cord.floor.toNat) : floorWrite v s = (.resourceBound, s) := if_pos h

theorem floorWrite_raises (h : s.cord.floor.toNat ≤ v.toNat) : floorWrite v s =
    (.ok, sealStore (fun x => { x with floor := v }) { s with cord := { s.cord with floor := v } }) :=
  if_neg (Nat.not_lt.mpr h)

end

/-- Settles O40: BIND, UNBIND and the floor by the cases of each request. -/
theorem bindingsAndFloor : Obligations.BindingsAndFloor := by
  unfold Obligations.BindingsAndFloor
  refine ⟨?bindings, ?floor⟩
  case bindings =>
    intro v s hp hr hidle hcfg x
    have hrun := cordRunning_idle hidle
    have hbind : exec (.bind v) s = _ := hostCmd_running hp hr
    have hunbind : exec (.unbind v) s = _ := hostCmd_running hp hr
    refine ⟨fun hpair hheld htaken => ?_, fun hpair hheld => ?_, fun hpair => ?_, fun hfields => ?_,
      fun y hfields hy hruntime hoff => ?_, fun y hfields hy hstay => ?_⟩
    · obtain ⟨timers₁, aux, hbound⟩ := bindMade_eq v s
      obtain ⟨timers₂, htimer⟩ := timerOn_timersOnly (bindOf v).claimant.toNat (bindMade v s)
      rw [hbind, bindReq_binds hrun hcfg hpair hheld htaken, htimer, hbound]
      exact ⟨_, rfl, rfl, Map.get?_set_same, fun k hk => Map.get?_set_other hk⟩
    · rw [hbind, bindReq_held hrun hcfg hpair hheld]
      rfl
    · rw [hbind, bindReq_unpaired hrun hcfg hpair]
      rfl
    · rw [hunbind, unbindReq_invalid hfields]
      rfl
    · obtain ⟨timers, aux, hfrees⟩ := unbindReq_frees hfields hrun hcfg hy hruntime hoff
      rw [hunbind, hfrees]
      exact ⟨_, rfl, rfl, rfl⟩
    · rw [hunbind, unbindReq_stays hfields hrun hcfg hy hstay]
      rfl
  case floor =>
    intro v s hp hr
    have hexec : exec (.floorWrite v) s = _ := hostCmd_running hp hr
    refine ⟨fun hlow => ?_, fun hhigh => ?_⟩
    · rw [hexec, floorWrite_lower hlow]
      rfl
    · obtain ⟨hframe, hstore, hforce, hwait⟩ := sealStore_spec (fun x => { x with floor := v })
        { s with cord := { s.cord with floor := v } }
      rw [hexec, floorWrite_raises hhigh, hframe]
      exact ⟨_, rfl, rfl, hstore, fun hprog => (hforce hprog).trans (congrArg some hstore.symm), hwait⟩

end Sys2Proof.Machine
end

section
/-! The hops of the host link: what sending, acknowledging and receiving leave (R302-R307, R312). -/

namespace Sys2Proof.Machine

open Sys2Proof

/-! ### Rules of a hop's state -/

theorem setHop_eq (h : Hop) (x : HopSt) (s : State) : setHop h x s = { s with host := (setHop h x s).host } := by
  cases h <;> rfl

theorem getHop_congr {s t : State} (h : t.host = s.host) (k : Hop) : getHop t k = getHop s k := by
  cases k
  · exact congrArg HostSt.hopUp h
  · exact congrArg HostSt.hopDn h

theorem setHop_getHop (h : Hop) (s : State) : setHop h (getHop s h) s = s := by
  cases h <;> rfl

theorem getHop_setHop_other {h k : Hop} {x : HopSt} {s : State} (hk : k ≠ h) : getHop (setHop h x s) k = getHop s k := by
  cases h <;> cases k
  · exact absurd rfl hk
  · rfl
  · rfl
  · exact absurd rfl hk

theorem getHop_modHop (h : Hop) (f : HopSt → HopSt) (s : State) : getHop (modHop h f s) h = f (getHop s h) :=
  getHop_setHop_same

theorem setHop_chainAddr (h : Hop) (x : HopSt) (s : State) : (setHop h x s).host.chainAddr = s.host.chainAddr := by
  cases h <;> rfl

theorem hopOffers_setHop (h : Hop) (x : HopSt) (s : State) : hopOffers (setHop h x s) h = hopOffers s h := by
  cases h <;> rfl

theorem hopMayTrain_setHop (h : Hop) (x : HopSt) (s : State) : hopMayTrain (setHop h x s) h = hopMayTrain s h := by
  cases h <;> rfl

/-- A packet received starts the keep-alive watch's timer again and changes nothing else. -/
theorem hopHeard_timersOnly (h : Hop) (s : State) : TimersOnly s (hopHeard h s) := by
  unfold hopHeard startTimer
  split
  · split
    · split
      · exact ⟨_, rfl⟩
      · exact .refl s
    · exact .refl s
  · exact .refl s

theorem porst_of_hopMayTrain {s : State} {h : Hop} (hm : hopMayTrain s h = true) : s.pwr.porst = true := by
  cases h with
  | up => exact hm
  | dn => exact (Bool.and_eq_true_iff.mp hm).1

/-! ### Bring-up (R303) -/

/-- A HELLO goes out; the exchange is judged after it. -/
theorem sendHello_sends {h : Hop} {s : State} (ht : (getHop s h).trained = true) (hup : (getHop s h).up = false)
    (hm : hopMayTrain s h = true) : sendHello h s = helloDone h (setHop h { getHop s h with
      seenSent := (getHop s h).seenSent || (getHop s h).helloRx.isSome }
      (emitPkt h (hopControl s 0x0B#8 ([hopOffers s h, BitVec.ofNat 8 (bit1 (getHop s h).helloRx.isSome)] ++ zeros 6)) s)) := by
  rw [sendHello, if_pos ⟨ht, by simp [hup], hm⟩]
  cases h <;> rfl

theorem helloDone_waits {h : Hop} {s : State} (hx : (getHop s h).helloRx = none ∨ (getHop s h).seenSent = false) :
    helloDone h s = s := by
  unfold helloDone
  dsimp only
  split
  · rfl
  · next offers ho => exact if_pos (.inl (by simp [hx.resolve_left (by simp [ho])]))

theorem helloDone_selects {h : Hop} {s : State} {offers : Byte} (ho : (getHop s h).helloRx = some offers)
    (hsent : (getHop s h).seenSent = true) (hup : (getHop s h).up = false)
    (hv : commonVersion (hopOffers s h) offers ≠ 0) : helloDone h s = hopSigned h (getHop s h).loss
      (setHop h { HopSt.reset with
        trained := true, up := true, version := commonVersion (hopOffers s h) offers } s) := by
  unfold helloDone
  dsimp only
  rw [ho]
  dsimp only
  rw [if_neg (by simp [hsent, hup]), if_neg hv]

theorem hopSigned_getHop (h k : Hop) (loss : List Nat) (s : State) : getHop (hopSigned h loss s) k = getHop s k := by
  cases k <;> rfl

theorem hopSigned_eq (h : Hop) (loss : List Nat) (s : State) :
    hopSigned h loss s = { s with host := (hopSigned h loss s).host } := rfl

/-- Training complete, the first HELLO goes out. -/
theorem hopTrained_begins {h : Hop} {loss : List Nat} {s : State} (hm : hopMayTrain s h = true)
    (hup : (getHop s h).up = false) : hopTrained h loss s = setHop h { HopSt.reset with trained := true, loss := loss }
      (emitPkt h (hopControl s 0x0B#8 [hopOffers s h, 0, 0, 0, 0, 0, 0, 0]) s) := by
  have hget : getHop (setHop h { HopSt.reset with trained := true, loss := loss } s) h =
      { HopSt.reset with trained := true, loss := loss } := getHop_setHop_same
  rw [hopTrained, if_pos ⟨hm, by simp [hup]⟩, sendHello_sends (by rw [hget]) (by rw [hget]; rfl)
    ((hopMayTrain_setHop ..).trans hm), helloDone_waits (.inl (by rw [getHop_setHop_same, hget]; rfl)), hget,
    hopOffers_setHop]
  cases h <;> rfl

/-- The HELLO that ends the exchange brings the hop up. -/
theorem sendHello_completes {h : Hop} {offers : Byte} {s : State} (hm : hopMayTrain s h = true)
    (hup : (getHop s h).up = false) (ht : (getHop s h).trained = true) (ho : (getHop s h).helloRx = some offers)
    (hv : commonVersion (hopOffers s h) offers ≠ 0) : sendHello h s = { s with
      host := (sendHello h s).host
      wire := .packet h (pktOctets (hopControl s 0x0B#8 [hopOffers s h, 1, 0, 0, 0, 0, 0, 0])) :: s.wire } ∧
    getHop (sendHello h s) h = { HopSt.reset with
      trained := true, up := true, version := commonVersion (hopOffers s h) offers } := by
  have hsent := sendHello_sends ht hup hm
  rw [ho] at hsent
  have hget : getHop (setHop h { getHop s h with seenSent := (getHop s h).seenSent || (some offers).isSome }
      (emitPkt h (hopControl s 0x0B#8 ([hopOffers s h, BitVec.ofNat 8 (bit1 (some offers).isSome)] ++ zeros 6)) s)) h =
      { getHop s h with seenSent := true } := by
    rw [getHop_setHop_same, Option.isSome_some, Bool.or_true]
  have hoffers : hopOffers (emitPkt h (hopControl s 0x0B#8
      ([hopOffers s h, BitVec.ofNat 8 (bit1 (some offers).isSome)] ++ zeros 6)) s) h = hopOffers s h := by
    cases h <;> rfl
  rw [helloDone_selects (offers := offers) (by rw [hget]; exact ho) (by rw [hget]) (by rw [hget]; exact hup)
    (by rw [hopOffers_setHop, hoffers]; exact hv), hopOffers_setHop, hoffers] at hsent
  rw [hsent]
  refine ⟨?_, (hopSigned_getHop ..).trans getHop_setHop_same⟩
  cases h <;> rfl

/-! ### Octets received with a good CRC -/

theorem received_good {h : Hop} {b : List Byte} {op : HostPkt → State → State} {s : State} (hcrc : pktCrcOk b = true) :
    received h b op s = op (pktOf b) s := if_pos hcrc

theorem received_bad {h : Hop} {b : List Byte} {op : HostPkt → State → State} {s : State} (hcrc : pktCrcOk b = false)
    (hup : (getHop s h).up = true) : received h b op s = sendLinkNak h s := by
  rw [received, if_neg (by simp [hcrc]), if_pos hup]

theorem oneHopPacket_good {h : Hop} {p : HostPkt} {op : State → State} {s : State} (ht : (getHop s h).trained = true)
    (hok : oneHopOk p = true) : oneHopPacket h p op s = op (hopHeard h s) := by
  rw [oneHopPacket, if_pos ht, if_pos hok]

theorem oneHopPacket_malformed {h : Hop} {p : HostPkt} {op : State → State} {s : State}
    (ht : (getHop s h).trained = true) (hok : oneHopOk p = false) :
    oneHopPacket h p op s = pktMalformed p (hopHeard h s) := by
  rw [oneHopPacket, if_pos ht, if_neg (by simp [hok])]

/-- A HELLO that comes before this side has answered is recorded. -/
theorem hello_recorded {h : Hop} {p : HostPkt} {s : State} (hty : p.ty = 0x0B#8) (hok : oneHopOk p = true)
    (hm : hopMayTrain s h = true) (hup : (getHop s h).up = false) (ht : (getHop s h).trained = true)
    (hsent : (getHop s h).seenSent = false) : ∃ timers, helloPkt h p s =
      setHop h { getHop s h with helloRx := some (payloadByte p 0) } { s with mss := { s.mss with timers := timers } } := by
  obtain ⟨timers, hheard⟩ := hopHeard_timersOnly h s
  refine ⟨timers, ?_⟩
  have hget : getHop (hopHeard h s) h = getHop s h := getHop_congr (by rw [hheard]) h
  have hmay : hopMayTrain (hopHeard h s) h = true := by
    rw [← hm, hheard]
    cases h <;> rfl
  rw [helloPkt, if_pos hty, oneHopPacket_good ht hok, hget, if_pos ⟨by simp [hup], hmay⟩,
    helloDone_waits (.inr (by rw [getHop_setHop_same]; exact hsent)), hheard]

/-! ### What sending does (R304, R312) -/

/-- `t` is `s` but for what has taken room in the completion queue: the hops and the chain address stay, and the queue
keeps what it held. -/
def Refilled (s t : State) : Prop := ∃ host groups, t = { s with host := host, groups := groups } ∧
  host.hopUp = s.host.hopUp ∧ host.hopDn = s.host.hopDn ∧ host.chainAddr = s.host.chainAddr ∧
  ∃ more, host.cplq = s.host.cplq ++ more

namespace Refilled

theorem refl (s : State) : Refilled s s := ⟨_, _, rfl, rfl, rfl, rfl, [], (List.append_nil _).symm⟩

theorem trans {s t u : State} (hst : Refilled s t) (htu : Refilled t u) : Refilled s u := by
  obtain ⟨_, _, rfl, hup₁, hdn₁, hc₁, more₁, hq₁⟩ := hst
  obtain ⟨_, _, rfl, hup₂, hdn₂, hc₂, more₂, hq₂⟩ := htu
  refine ⟨_, _, rfl, hup₂.trans hup₁, hdn₂.trans hdn₁, hc₂.trans hc₁, more₁ ++ more₂, ?_⟩
  rw [hq₂, hq₁, List.append_assoc]

theorem foldOver {β : Type} {f : State → β → State} (hf : ∀ s x, Refilled s (f s x)) (l : List β) (s : State) :
    Refilled s (foldOver l f s) := foldOver_rel refl (fun _ _ _ => trans) hf l s

end Refilled

theorem pushCpl_refilled (c : Cpl) (s : State) : Refilled s (pushCpl c s).2 := by
  unfold pushCpl
  split
  · exact ⟨_, _, rfl, rfl, rfl, rfl, _, rfl⟩
  · exact .refl s

theorem refillTallies_refilled (s : State) : Refilled s (refillTallies s) := by
  refine Refilled.foldOver (fun s e => ?_) _ s
  dsimp only
  split
  · exact (pushCpl_refilled _ s).trans ⟨_, _, rfl, rfl, rfl, rfl, [], (List.append_nil _).symm⟩
  · exact .refl s

theorem modGroup_refilled (g : Nat) (f : GroupSt → GroupSt) (s : State) : Refilled s (modGroup s g f) :=
  ⟨_, _, rfl, rfl, rfl, rfl, [], (List.append_nil _).symm⟩

theorem modUnit_refilled (g u : Nat) (f : UnitSt → UnitSt) (s : State) : Refilled s (modUnit s g u f) :=
  ⟨_, _, rfl, rfl, rfl, rfl, [], (List.append_nil _).symm⟩

theorem refillHeld_refilled (s : State) : Refilled s (refillHeld s) := by
  have hunits (g : Nat) (s : State) : Refilled s (foldOver (upTo 12) (fun s u =>
      match (getUnit s g u).heldCpl with
      | some c =>
        let r := pushCpl c s
        if r.1 then modUnit r.2 g u (fun un => { un with heldCpl := none }) else s
      | none => s) s) := by
    refine Refilled.foldOver (fun s u => ?_) _ s
    split
    · dsimp only
      split
      · exact (pushCpl_refilled _ s).trans (modUnit_refilled ..)
      · exact .refl s
    · exact .refl s
  have hseq (g : Nat) (s : State) : Refilled s (match (getGroup s g).seqCpl with
      | some c =>
        let r := pushCpl c s
        if r.1 then modGroup r.2 g (fun gr => { gr with seqCpl := none }) else s
      | none => s) := by
    split
    · dsimp only
      split
      · exact (pushCpl_refilled _ s).trans (modGroup_refilled ..)
      · exact .refl s
    · exact .refl s
  have hentries (l : List Cpl) (s : State) : Refilled s (foldOver l (fun s c =>
      let r := pushCpl c s
      if r.1 then { r.2 with host := { r.2.host with entryCpl := r.2.host.entryCpl.drop 1 } } else s) s) := by
    refine Refilled.foldOver (fun s c => ?_) l s
    dsimp only
    split
    · exact (pushCpl_refilled _ s).trans ⟨_, _, rfl, rfl, rfl, rfl, [], (List.append_nil _).symm⟩
    · exact .refl s
  unfold refillHeld
  exact (Refilled.foldOver (fun s g => (hseq g s).trans (hunits g _)) (upTo 16) s).trans (hentries _ _)

/-- `t` is `s` but for the host's part, the groups' held completions and the wire; the chain address stays, and each
hop's unacknowledged packets stay before those sent since. -/
def HopRan (s t : State) : Prop := (∃ host groups wire, t = { s with host := host, groups := groups, wire := wire }) ∧
  t.host.chainAddr = s.host.chainAddr ∧ ∀ h, ∃ more, (getHop t h).unacked = (getHop s h).unacked ++ more

namespace HopRan

theorem refl (s : State) : HopRan s s := ⟨⟨_, _, _, rfl⟩, rfl, fun _ => ⟨[], (List.append_nil _).symm⟩⟩

theorem trans {s t u : State} (hst : HopRan s t) (htu : HopRan t u) : HopRan s u := by
  obtain ⟨⟨_, _, _, rfl⟩, hc₁, hq₁⟩ := hst
  obtain ⟨⟨_, _, _, rfl⟩, hc₂, hq₂⟩ := htu
  refine ⟨⟨_, _, _, rfl⟩, hc₂.trans hc₁, fun h => ?_⟩
  obtain ⟨more₁, hm₁⟩ := hq₁ h
  obtain ⟨more₂, hm₂⟩ := hq₂ h
  exact ⟨more₁ ++ more₂, by rw [hm₂, hm₁, List.append_assoc]⟩

theorem of_refilled {s t : State} (h : Refilled s t) : HopRan s t := by
  obtain ⟨host, groups, rfl, hup, hdn, hc, -⟩ := h
  refine ⟨⟨_, _, _, rfl⟩, hc, fun k => ⟨[], ?_⟩⟩
  rw [List.append_nil]
  cases k
  · exact congrArg HopSt.unacked hup
  · exact congrArg HopSt.unacked hdn

/-- A hop's state replaced by one with the same unacknowledged packets, and more. -/
theorem setHop {s : State} {h : Hop} {x : HopSt} {more : List (Byte × HostPkt)}
    (hx : x.unacked = (getHop s h).unacked ++ more) : HopRan s (setHop h x s) := by
  refine ⟨⟨_, _, _, setHop_eq h x s⟩, setHop_chainAddr h x s, fun k => ?_⟩
  by_cases hk : k = h
  · subst hk
    exact ⟨more, by rw [getHop_setHop_same, hx]⟩
  · exact ⟨[], by rw [getHop_setHop_other hk, List.append_nil]⟩

theorem emitPkt (h : Hop) (p : HostPkt) (s : State) : HopRan s (emitPkt h p s) :=
  ⟨⟨_, _, _, rfl⟩, rfl, fun k => ⟨[], by rw [List.append_nil]; cases k <;> rfl⟩⟩

end HopRan

theorem hopSend_ran (h : Hop) (p : HostPkt) (s : State) : HopRan s (hopSend h p s) :=
  (HopRan.setHop rfl).trans (HopRan.emitPkt ..)

theorem handCpl_ran (s : State) : HopRan s (handCpl s) := by
  unfold handCpl
  split
  · exact .refl s
  · have hdrop (q : List Cpl) : HopRan s { s with host := { s.host with cplq := q } } :=
      ⟨⟨_, _, _, rfl⟩, rfl, fun k => ⟨[], by rw [List.append_nil]; cases k <;> rfl⟩⟩
    exact (hdrop _).trans ((hopSend_ran ..).trans
      (.of_refilled ((refillTallies_refilled _).trans (refillHeld_refilled _))))

theorem hopTurn_ran (h : Hop) (t : HopTurn) (s : State) : HopRan s (hopTurn h t s) := by
  have hmod (f : HopSt → HopSt) (hf : ∀ x, (f x).unacked = x.unacked) : HopRan s (modHop h f s) :=
    HopRan.setHop (more := []) ((hf _).trans (List.append_nil _).symm)
  have hown := hmod (fun x => { x with own := x.own.drop 1, turnFwd := true }) fun _ => rfl
  cases t with
  | own p => exact hown.trans (hopSend_ran ..)
  | cpl => exact hown.trans (handCpl_ran _)
  | fwd p => exact (hmod (fun x => { x with fwd := x.fwd.drop 1, turnFwd := false }) fun _ => rfl).trans (hopSend_ran ..)

theorem hopDrain_ran (h : Hop) (n : Nat) (s : State) : HopRan s (hopDrain h n s) := by
  induction n generalizing s with
  | zero => exact .refl s
  | succ n ih =>
    unfold hopDrain
    split
    · exact .refl s
    · split
      · exact .refl s
      · exact (hopTurn_ran ..).trans (ih _)

theorem hopFlush_ran (h : Hop) (s : State) : HopRan s (hopFlush h s) := hopDrain_ran ..

theorem hopFlush_empty {h : Hop} {s : State} (ho : (getHop s h).own = []) (hf : (getHop s h).fwd = []) :
    hopFlush h s = s := by
  rw [hopFlush, ho, hf]
  rfl

/-! ### Acknowledgement and retry (R306) -/

theorem afterHseq_found {q : Byte} {done rest : List (Byte × HostPkt)} {e : Byte × HostPkt} (he : e.1 = q)
    (hdone : ∀ x ∈ done, x.1 ≠ e.1) : afterHseq q (done ++ e :: rest) = some rest := by
  induction done with
  | nil => exact if_pos he
  | cons x done ih =>
    have hx : x.1 ≠ q := he ▸ hdone x (List.mem_cons_self ..)
    exact (if_neg hx).trans (ih fun y hy => hdone y (List.mem_cons_of_mem _ hy))

theorem dropWhile_found {q : Byte} {done rest : List (Byte × HostPkt)} {e : Byte × HostPkt} (he : e.1 = q)
    (hdone : ∀ x ∈ done, x.1 ≠ e.1) : (done ++ e :: rest).dropWhile (fun e => e.1 != q) = e :: rest := by
  induction done with
  | nil => simp [he]
  | cons x done ih =>
    have hx : x.1 ≠ q := he ▸ hdone x (List.mem_cons_self ..)
    rw [List.cons_append, List.dropWhile_cons_of_pos (by simpa using hx)]
    exact ih fun y hy => hdone y (List.mem_cons_of_mem _ hy)

/-- Packets sent one after another lie on the wire, the last one first. -/
theorem foldOver_emitPkt (h : Hop) (l : List (Byte × HostPkt)) (s : State) :
    foldOver l (fun s e => emitPkt h e.2 s) s =
      { s with wire := (l.map (fun x => WireOut.packet h (pktOctets x.2))).reverse ++ s.wire } := by
  unfold foldOver
  induction l generalizing s with
  | nil => rfl
  | cons e l ih =>
    rw [List.foldl_cons, ih]
    simp [emitPkt, emit]

theorem hopResend_later {h : Hop} {l : List (Byte × HostPkt)} {s : State} (hl : l.head? ≠ (getHop s h).unacked.head?) :
    hopResend h l s = { s with wire := (l.map (fun x => WireOut.packet h (pktOctets x.2))).reverse ++ s.wire } := by
  have hold : decide (l ≠ [] ∧ l.head? = (getHop s h).unacked.head?) = false := by simp [hl]
  rw [hopResend]
  rw [hold, if_neg (by simp), foldOver_emitPkt]
  exact congrArg (fun u : State => { u with
    wire := (l.map (fun x : Byte × HostPkt => WireOut.packet h (pktOctets x.2))).reverse ++ u.wire }) (setHop_getHop h s)

theorem hopResend_oldest {h : Hop} {l : List (Byte × HostPkt)} {s : State} (hne : l ≠ [])
    (hl : l.head? = (getHop s h).unacked.head?) (hr : (getHop s h).resends < 16) : hopResend h l s =
      setHop h { getHop s h with resends := (getHop s h).resends + 1 } { s with
        wire := (l.map (fun x => WireOut.packet h (pktOctets x.2))).reverse ++ s.wire } := by
  have hold : decide (l ≠ [] ∧ l.head? = (getHop s h).unacked.head?) = true := by simp [hne, hl]
  rw [hopResend]
  rw [hold, if_neg (by omega), foldOver_emitPkt]
  cases h <;> rfl

theorem hopResend_last {h : Hop} {l : List (Byte × HostPkt)} {s : State} (hne : l ≠ [])
    (hl : l.head? = (getHop s h).unacked.head?) (hr : 16 ≤ (getHop s h).resends) : hopResend h l s = hopDown h s := by
  have hold : decide (l ≠ [] ∧ l.head? = (getHop s h).unacked.head?) = true := by simp [hne, hl]
  rw [hopResend]
  rw [hold, if_pos ⟨rfl, hr⟩]

theorem hopDown_spec (h : Hop) (s : State) : getHop (hopDown h s) h = HopSt.reset ∧ (hopDown h s).mem = s.mem ∧
    (hopDown h s).regs = s.regs := by
  cases h <;> exact ⟨rfl, rfl, rfl⟩

theorem linkPkt_good {h : Hop} {kind : Byte} {op : Hop → Byte → State → State} {p : HostPkt} {s : State}
    (hty : p.ty = 0x0C#8) (hkind : payloadByte p 0 = kind) (hok : oneHopOk p = true) (ht : (getHop s h).trained = true) :
    linkPkt h kind op p s = op h (payloadByte p 1) (hopHeard h s) := by
  rw [linkPkt, if_pos ⟨hty, .inl hkind⟩, oneHopPacket_good ht hok]

section
variable {h : Hop} {q : Byte} {done rest : List (Byte × HostPkt)} {e : Byte × HostPkt} {s : State}

theorem hopAck_releases (hup : (getHop s h).up = true) (hun : (getHop s h).unacked = done ++ e :: rest) (he : e.1 = q)
    (hdone : ∀ x ∈ done, x.1 ≠ e.1) :
    hopAck h q s = hopFlush h (setHop h { getHop s h with unacked := rest, resends := 0 } s) := by
  rw [hopAck, if_neg (by simp [hup]), hun, afterHseq_found he hdone]
  rfl

theorem hopNak_resends (hup : (getHop s h).up = true) (hun : (getHop s h).unacked = done ++ e :: rest) (he : e.1 = q)
    (hdone : ∀ x ∈ done, x.1 ≠ e.1) : hopNak h q s = hopResend h (e :: rest) s := by
  rw [hopNak, if_pos hup, hun, dropWhile_found he hdone]

end

/-- Settles O41: bring-up, acknowledgement and retry by the rules of a hop. -/
theorem hostHopsRun : Obligations.HostHopsRun := by
  unfold Obligations.HostHopsRun
  refine ⟨?upDown, ?dnDown, ?trained, ?timer, ?hello, ?link, ?retry⟩
  case upDown =>
    exact fun s hp => congrArg Host.Outcome.next (mssRuns_on hp)
  case dnDown =>
    exact fun s hp => congrArg Host.Outcome.next (mssRuns_on hp)
  case trained =>
    intro h loss s hm hup
    have hexec : exec (.hostLinkTrained ⟨h, loss⟩) s = .next (hopTrained h loss s) := rfl
    rw [hexec, hopTrained_begins hm hup]
    exact ⟨_, rfl, setHop_eq .., getHop_setHop_same⟩
  case timer =>
    intro h offers s hm hup ht ho hv
    have hexec : exec (.hostHelloTimer h) s = .next (sendHello h s) :=
      congrArg Host.Outcome.next (mssRuns_on (porst_of_hopMayTrain hm))
    exact ⟨_, hexec, sendHello_completes hm hup ht ho hv⟩
  case hello =>
    intro h header rest s b hcrc hty hok hm hup ht hsent
    obtain ⟨timers, hrec⟩ := hello_recorded hty hok hm hup ht hsent
    have hexec : exec (.hostHello h header rest) s = .next (helloPkt h (pktOf b) s) :=
      congrArg Host.Outcome.next ((mssRuns_on (porst_of_hopMayTrain hm)).trans (received_good hcrc))
    rw [hexec, hrec]
    exact ⟨_, rfl, by rw [setHop_eq], getHop_setHop_same⟩
  case link =>
    intro h b done rest e s hp hcrc hty hok ht hup hun he hdone resent
    obtain ⟨timers, hheard⟩ := hopHeard_timersOnly h s
    have hget : getHop { s with mss := { s.mss with timers := timers } } h = getHop s h := getHop_congr rfl h
    have hack : exec (.hostLinkAck h b) s = .next (linkPkt h 1 hopAck (pktOf b) s) :=
      congrArg Host.Outcome.next ((mssRuns_on hp).trans (received_good hcrc))
    have hnak : exec (.hostLinkNak h b) s = .next (linkPkt h 2 hopNak (pktOf b) s) :=
      congrArg Host.Outcome.next ((mssRuns_on hp).trans (received_good hcrc))
    refine ⟨fun hkind => ?_, fun hkind hne hhead => ?_, fun hkind hnil hr => ?_⟩
    · rw [hack, linkPkt_good hty hkind hok ht, hheard, hopAck_releases (hget ▸ hup) (hget ▸ hun) he hdone, hget]
      generalize hu : setHop h { getHop s h with unacked := rest, resends := 0 }
        { s with mss := { s.mss with timers := timers } } = u
      have hug : getHop u h = { getHop s h with unacked := rest, resends := 0 } := by rw [← hu, getHop_setHop_same]
      obtain ⟨⟨host, groups, wire, hrun⟩, -, hq⟩ := hopFlush_ran h u
      obtain ⟨more, hmore⟩ := hq h
      refine ⟨_, more, rfl, by rw [hmore, hug], ?_, ?_, fun hown hfwd => ?_⟩
      · rw [hrun, ← hu, setHop_eq]
      · rw [hrun, ← hu, setHop_eq]
      · rw [hopFlush_empty (by rw [hug]; exact hown) (by rw [hug]; exact hfwd)]
        exact ⟨by rw [← hu, setHop_eq], hug⟩
    · have hlater : (e :: rest).head? ≠ (getHop { s with mss := { s.mss with timers := timers } } h).unacked.head? := by
        rw [hget, hun, List.head?_append_of_ne_nil _ hne]
        exact hhead
      rw [hnak, linkPkt_good hty hkind hok ht, hheard, hopNak_resends (hget ▸ hup) (hget ▸ hun) he hdone,
        hopResend_later hlater]
      exact ⟨_, rfl, rfl⟩
    · have hun' : (getHop { s with mss := { s.mss with timers := timers } } h).unacked = e :: rest := by
        rw [hget, hun, hnil]
        rfl
      rw [hnak, linkPkt_good hty hkind hok ht, hheard, hopNak_resends (hget ▸ hup) (hget ▸ hun) he hdone,
        hopResend_oldest (l := e :: rest) (List.cons_ne_nil _ _) (by rw [hun']) (hget ▸ hr), hget]
      exact ⟨_, rfl, by rw [setHop_eq], getHop_setHop_same⟩
  case retry =>
    intro h s hp hup hne
    have hexec : exec (.hostHopRetryTimeout h) s = .next (hopResend h (getHop s h).unacked s) :=
      congrArg Host.Outcome.next ((mssRuns_on hp).trans (if_pos ⟨hup, hne⟩))
    refine ⟨fun hr => ?_, fun hr => ?_⟩
    · rw [hexec, hopResend_oldest hne rfl hr]
      exact ⟨_, rfl, by rw [setHop_eq], getHop_setHop_same⟩
    · rw [hexec, hopResend_last hne rfl hr]
      exact ⟨_, rfl, hopDown_spec h s⟩

end Sys2Proof.Machine
end

section
/-! Packets received on the host link: accepted in turn, handled here or passed on, and answered (R304-R308, R394). -/

namespace Sys2Proof.Machine

open Sys2Proof

/-! ### A packet accepted in turn (R306) -/

/-- The state with the packet accepted on a hop and acknowledged. -/
def accepted (h : Hop) (s : State) : State := hopAccept h (hopHeard h s)

theorem getHop_hopHeard (h k : Hop) (s : State) : getHop (hopHeard h s) k = getHop s k := by
  obtain ⟨timers, hheard⟩ := hopHeard_timersOnly h s
  exact getHop_congr (by rw [hheard]) k

theorem getHop_accepted (h : Hop) (s : State) : getHop (accepted h s) h =
    { getHop s h with rxExp := (getHop s h).rxExp + 1, nakPending := false } := by
  have hget : getHop (accepted h s) h = getHop (modHop h (fun x => { x with rxExp := x.rxExp + 1, nakPending := false })
      (hopHeard h s)) h := getHop_congr rfl h
  rw [hget, getHop_modHop, getHop_hopHeard]

theorem getHop_accepted_other {h k : Hop} (hk : k ≠ h) (s : State) : getHop (accepted h s) k = getHop s k := by
  have hget : getHop (accepted h s) k = getHop (modHop h (fun x => { x with rxExp := x.rxExp + 1, nakPending := false })
      (hopHeard h s)) k := getHop_congr rfl k
  rw [hget, modHop, getHop_setHop_other hk, getHop_hopHeard]

/-- Accepting a packet changes the hop, the keep-alive watch's timer and the wire. -/
theorem accepted_eq (h : Hop) (s : State) : ∃ host timers wire, accepted h s = { s with
    host := host, mss := { s.mss with timers := timers }, wire := wire } ∧ host.chainAddr = s.host.chainAddr := by
  obtain ⟨timers, hheard⟩ := hopHeard_timersOnly h s
  unfold accepted hopAccept
  rw [hheard]
  cases h <;> exact ⟨_, _, _, rfl, rfl⟩

theorem hopReceive_inTurn {h : Hop} {q : Byte} {op : State → State} {s : State} (hup : (getHop s h).up = true)
    (hq : q = (getHop s h).rxExp) : hopReceive h q op s = op (accepted h s) := by
  rw [hopReceive, if_neg (by simp [hup])]
  exact if_pos (hq.trans (by rw [getHop_hopHeard]))

theorem forHere_congr {s t : State} (h : t.host.chainAddr = s.host.chainAddr) (p : HostPkt) : forHere t p = forHere s p := by
  rw [forHere, forHere, h]

theorem pktOk_congr {s t : State} (h : t.host.hopUp.version = s.host.hopUp.version) (p : HostPkt) :
    pktOk t p = pktOk s p := by
  have htransfer : transferSize t = transferSize s := by rw [transferSize, transferSize, h]
  have haccess : accessOk t p = accessOk s p := by
    rw [accessOk, accessOk, wordLimit, wordLimit, version11, version11, h]
  have hcmd : cmdLimit t = cmdLimit s := by rw [cmdLimit, cmdLimit, version11, version11, h]
  unfold pktOk
  rw [htransfer, haccess, hcmd]

/-- A packet of its type, in turn, for this device and well formed, has its effect on the state that accepted it. -/
theorem upRow_handled {ty : Byte} {b : List Byte} {op : HostPkt → State → State} {s : State} (hp : s.pwr.porst = true)
    (hcrc : pktCrcOk b = true) (hty : (pktOf b).ty = ty) (hup : s.host.hopUp.up = true)
    (hq : (pktOf b).hseq = s.host.hopUp.rxExp) (hhere : forHere s (pktOf b) = true) (hok : pktOk s (pktOf b) = true)
    (hrom : s.mss.romOnly = false) : upRow ty b op s = .next (op (pktOf b) (accepted .up s)) := by
  obtain ⟨host, timers, wire, hacc, hchain⟩ := accepted_eq .up s
  have hversion : (accepted .up s).host.hopUp.version = s.host.hopUp.version := by
    have hget : (accepted .up s).host.hopUp = _ := getHop_accepted .up s
    rw [hget]
    rfl
  have hhere' : forHere (accepted .up s) (pktOf b) = true :=
    (forHere_congr (s := s) (by rw [hacc]; exact hchain) _).trans hhere
  have hrom' : (accepted .up s).mss.romOnly = false := by rw [hacc]; exact hrom
  refine congrArg Host.Outcome.next ?_
  rw [mssRuns_on hp, received_good hcrc, upPacket, if_neg (by simp [hty]), hopReceive_inTurn (h := .up) hup hq, if_pos hhere',
    handleHere, if_neg (by rw [pktOk_congr hversion]; simp [hok]), if_neg (by simp [hrom'])]

/-! ### The device's own packets -/

/-- The one packet waiting on a hop takes its turn. -/
theorem hopFlush_one {h : Hop} {t : HopTurn} {s : State} (hn : (getHop s h).own.length + (getHop s h).fwd.length = 1)
    (ht : hopNext (getHop s h) = some t) (hup : (getHop s h).up = true) (hroom : (getHop s h).unacked.length < 128) :
    hopFlush h s = hopTurn h t s := by
  rw [hopFlush, hn, hopDrain, if_neg (by simp [hup, hroom]), ht]
  rfl

section
variable {p : HostPkt} {s : State}

/-- With nothing waiting, a packet of the device's own goes out at once. -/
theorem sendOwn_sends (hup : s.host.hopUp.up = true) (hown : s.host.hopUp.own = []) (hfwd : s.host.hopUp.fwd = [])
    (hroom : s.host.hopUp.unacked.length < 128) : ∃ host, sendOwn p s = { s with
      host := host, wire := .packet .up (pktOctets { p with hseq := s.host.hopUp.txSeq }) :: s.wire } ∧
      host.chainAddr = s.host.chainAddr := by
  have hx : getHop (modHop .up (fun x => { x with own := x.own ++ [some p] }) s) .up =
      { s.host.hopUp with own := [some p] } := by
    rw [getHop_modHop]
    dsimp only [getHop]
    rw [hown]
    rfl
  have hnext : hopNext (getHop (modHop .up (fun x => { x with own := x.own ++ [some p] }) s) .up) = some (.own p) := by
    rw [hx]
    dsimp only [hopNext]
    rw [hfwd]
    rfl
  rw [sendOwn, if_pos hup, hopFlush_one (by rw [hx]; simp [hfwd]) hnext (by rw [hx]; exact hup) (by rw [hx]; exact hroom)]
  exact ⟨_, rfl, rfl⟩

theorem hopSend_spec (h : Hop) (p : HostPkt) (s : State) : hopSend h p s = { s with
      host := (hopSend h p s).host
      wire := .packet h (pktOctets { p with hseq := (getHop s h).txSeq }) :: s.wire } ∧
    (getHop (hopSend h p s) h).txSeq = (getHop s h).txSeq + 1 := by
  cases h <;> exact ⟨rfl, rfl⟩

/-- With nothing waiting, a packet passed on goes out at once. -/
theorem forwardOn_sends {h : Hop} (hup : (getHop s h).up = true) (hown : (getHop s h).own = [])
    (hfwd : (getHop s h).fwd = []) (hroom : (getHop s h).unacked.length < 128) : forwardOn h p s = { s with
      host := (forwardOn h p s).host
      wire := .packet h (pktOctets { p with hseq := (getHop s h).txSeq }) :: s.wire } ∧
    (getHop (forwardOn h p s) h).txSeq = (getHop s h).txSeq + 1 := by
  have hx : getHop (modHop h (fun x => { x with fwd := x.fwd ++ [p] }) s) h = { getHop s h with fwd := [p] } := by
    rw [getHop_modHop, hfwd]
    rfl
  have hnext : hopNext (getHop (modHop h (fun x => { x with fwd := x.fwd ++ [p] }) s) h) = some (.fwd p) := by
    rw [hx]
    dsimp only [hopNext]
    rw [hown]
  rw [forwardOn, if_pos hup, hopFlush_one (by rw [hx]; simp [hown]) hnext (by rw [hx]; exact hup) (by rw [hx]; exact hroom),
    hopTurn]
  have hget : getHop (modHop h (fun x => { x with fwd := x.fwd.drop 1, turnFwd := false })
      (modHop h (fun x => { x with fwd := x.fwd ++ [p] }) s)) h = { getHop s h with fwd := [], turnFwd := false } := by
    rw [getHop_modHop, hx]
    rfl
  obtain ⟨hsend, hseq⟩ := hopSend_spec h p (modHop h (fun x => { x with fwd := x.fwd.drop 1, turnFwd := false })
      (modHop h (fun x => { x with fwd := x.fwd ++ [p] }) s))
  rw [hget] at hsend hseq
  refine ⟨hsend.trans ?_, hseq⟩
  simp only [modHop_regs, modHop_time, modHop_ports, modHop_sw, modHop_mem, modHop_bpm, modHop_groups, modHop_ctx,
    modHop_moe, modHop_cord, modHop_pwr, modHop_mss, modHop_twn, modHop_dbg, modHop_lastStatus, modHop_freeCtr,
    modHop_wire, modHop_pending]

end

/-! ### PWR_RAILS (R394) -/

/-- An address outside the context states and the tallies is read with no record of memory. -/
theorem regTouch_plain {a : Nat} {s : State} (hctx : a < 0x800100000 ∨ 0x800200000 ≤ a)
    (htally : a < 0x810000000 ∨ 0x810040000 ≤ a) : regTouch a s = s := by
  have hc : arrayIx a (blockBase 8 + 0x100000) 8 131072 = none := by
    rw [arrayIx, blockBase]
    exact if_neg (by omega)
  have ht : arrayIx a (Reg.tallyCfg 0 - 8) 8 32768 = none := by
    rw [arrayIx, Reg.tallyCfg, blockBase]
    exact if_neg (by omega)
  unfold regTouch
  simp only [hc, ht]

theorem readWords_one {a : Nat} {s : State} (h : regTouch a s = s) : readWords 1 a s = ([regRead s a], s) := by
  simp only [readWords, h]

theorem regRead_rails (s : State) : regRead s 0xE00000040 = railsReg s := rfl

theorem lt_of_testBit_toNat {n i : Nat} {x : BitVec n} (h : x.toNat.testBit i = true) : i < n :=
  BitVec.lt_of_getLsbD (x := x) h

/-- A field of the word is the value placed at its low bit, where the other values are placed clear of it. -/
theorem extractLsb'_at_ {n lo : Nat} (w : W64) (x : BitVec n)
    (h : ∀ i, i < n → w.getLsbD (lo + i) = x.toNat.testBit i) : w.extractLsb' lo n = x := by
  refine BitVec.eq_of_getLsbD_eq fun i hi => ?_
  rw [BitVec.getLsbD_extractLsb', h i hi]
  simp [hi, BitVec.getElem_eq_testBit_toNat]

/-- The bits of PWR_RAILS. -/
theorem getLsbD_railsReg (s : State) (i : Nat) : (railsReg s).getLsbD i = (decide (i < 64) &&
    ((decide (40 ≤ i) && s.pwr.vidCode.toNat.testBit (i - 40)) || (decide (32 ≤ i) && s.pwr.lastLost.toNat.testBit (i - 32)) ||
      (decide (16 ≤ i) && (s.pwr.pg ||| (s.pwr.pgOpen &&& Config.pgInputs s.freeCtr s.time.raw)).toNat.testBit (i - 16)) ||
      s.pwr.en.toNat.testBit i)) := by
  unfold railsReg
  dsimp only
  rw [BitVec.getLsbD_or, BitVec.getLsbD_or, BitVec.getLsbD_or, getLsbD_at_, getLsbD_at_, getLsbD_at_, getLsbD_bv64]
  cases decide (i < 64) <;> rfl

theorem testBit_toNat_above {n i : Nat} (x : BitVec n) (h : n ≤ i) : x.toNat.testBit i = false :=
  BitVec.getLsbD_of_ge x i h

/-- The bits of PWR_RAILS that are zero. -/
theorem rails_reserved : ∀ i, i < 64 → BitVec.getLsbD 0xFFFF00F8FFC0FFC0#64 i = true →
    (6 ≤ i ∧ i < 16) ∨ (22 ≤ i ∧ i < 32) ∨ (35 ≤ i ∧ i < 40) ∨ 48 ≤ i := by decide

/-- The fields of PWR_RAILS. -/
theorem railsReg_fields (s : State) : (railsReg s).extractLsb' 0 6 = s.pwr.en ∧
    (railsReg s).extractLsb' 40 8 = s.pwr.vidCode ∧ (railsReg s).extractLsb' 32 3 = s.pwr.lastLost ∧
    (railsReg s).extractLsb' 16 6 = s.pwr.pg ||| (s.pwr.pgOpen &&& Config.pgInputs s.freeCtr s.time.raw) ∧
    railsReg s &&& 0xFFFF00F8FFC0FFC0#64 = 0#64 := by
  refine ⟨extractLsb'_at_ _ _ fun i hi => ?_, extractLsb'_at_ _ _ fun i hi => ?_, extractLsb'_at_ _ _ fun i hi => ?_,
    extractLsb'_at_ _ _ fun i hi => ?_, BitVec.eq_of_getLsbD_eq fun i hi => ?zeros⟩
  case zeros =>
    rw [BitVec.getLsbD_and, getLsbD_railsReg, BitVec.getLsbD_zero]
    by_cases hbit : BitVec.getLsbD 0xFFFF00F8FFC0FFC0#64 i = true
    · rcases rails_reserved i hi hbit with h | h | h | h <;>
        simp (disch := omega) [testBit_toNat_above, decide_eq_false]
    · rw [Bool.eq_false_iff.mpr hbit, Bool.and_false]
  all_goals
    rw [getLsbD_railsReg]
    interval_cases i <;> simp (disch := omega) [testBit_toNat_above]

/-- What accepting a packet leaves of the hop's queues. -/
theorem accepted_hopUp (s : State) : (accepted .up s).host.hopUp =
    { s.host.hopUp with rxExp := s.host.hopUp.rxExp + 1, nakPending := false } := getHop_accepted .up s

/-- Settles O43: the RD is answered with the word of PWR_RAILS as it stands when the packet is accepted. -/
theorem railsAreShown : Obligations.RailsAreShown := by
  unfold Obligations.RailsAreShown
  intro b s hp hcrc hup p hq hhere hok hrom hty haddr hcount hown hfwd hroom
  have hx := accepted_hopUp s
  obtain ⟨host, timers, wire, hacc, -⟩ := accepted_eq .up s
  have hexec : exec (.rd b) s = .next (rdPkt p (accepted .up s)) := upRow_handled hp hcrc hty hup hq hhere hok hrom
  have hread : readWords (pktCount p) (pktAddr p) (accepted .up s) = ([railsReg (accepted .up s)], accepted .up s) := by
    rw [hcount, haddr, readWords_one (regTouch_plain (by omega) (by omega)), regRead_rails]
  have hrails : railsReg (accepted .up s) = railsReg s := by
    rw [hacc]
    rfl
  obtain ⟨host', hsend, -⟩ := sendOwn_sends (p := ownPkt (accepted .up s) 0x02#8 p.reqId
    ([railsReg (accepted .up s)].flatMap (fun w => beBytes 8 w.toNat))) (s := accepted .up s)
    (by rw [hx]; exact hup) (by rw [hx]; exact hown) (by rw [hx]; exact hfwd) (by rw [hx]; exact hroom)
  rw [hexec, rdPkt, hread]
  dsimp only
  rw [hsend]
  exact ⟨_, _, railsReg s, rfl, rfl, rfl, rfl, by rw [← hrails]; exact List.append_nil _, railsReg_fields s⟩

end Sys2Proof.Machine
end

section
/-! Attestation over SPDM: each request is answered with one packet (R347, R348). -/

namespace Sys2Proof.Machine

open Sys2Proof

section
variable {s : State}

/-- A packet of type 0x09 in turn has its effect on the state that accepted it. -/
theorem spdmPacket_running {op : State → State} (hup : s.host.hopUp.up = true) (hrom : s.mss.romOnly = false) :
    spdmPacket op s = op (accepted .up s) := by
  obtain ⟨host, timers, wire, hacc, -⟩ := accepted_eq .up s
  have hrom' : (accepted .up s).mss.romOnly = false := by rw [hacc]; exact hrom
  exact (hopReceive_inTurn (h := .up) hup rfl).trans (if_neg (by simp [hrom']))

/-- The ROM loader discards it (R345). -/
theorem spdmPacket_loader {op : State → State} (hup : s.host.hopUp.up = true) (hrom : s.mss.romOnly = true) :
    spdmPacket op s = badDst (accepted .up s) := by
  obtain ⟨host, timers, wire, hacc, -⟩ := accepted_eq .up s
  have hrom' : (accepted .up s).mss.romOnly = true := by rw [hacc]; exact hrom
  exact (hopReceive_inTurn (h := .up) hup rfl).trans (if_pos hrom')

/-- The state in which a request is answered: accepted, in the transcript, and no large response being fetched. -/
def heardBy (s : State) (fields : List (List Byte)) : State :=
  { accepted .up s with mss := { (accepted .up s).mss with
    spdmCtx := (accepted .up s).mss.spdmCtx ++ [Config.spdmMessage fields], large := none } }

theorem accepted_spdmStage (s : State) : (accepted .up s).mss.spdmStage = s.mss.spdmStage := by
  obtain ⟨host, timers, wire, hacc, -⟩ := accepted_eq .up s
  rw [hacc]

theorem spdmRow_answers {needs : Nat} {fields : List (List Byte)} {op : State → State} (hp : s.pwr.porst = true)
    (hrom : s.mss.romOnly = false) (hup : s.host.hopUp.up = true) (hstage : needs ≤ s.mss.spdmStage) :
    spdmRow needs fields op s = .next (op (heardBy s fields)) := by
  refine congrArg Host.Outcome.next ?_
  rw [mssRuns_on hp, spdmPacket_running hup hrom, spdmRequest, accepted_spdmStage, if_neg (by omega)]
  rfl

theorem spdmRow_unexpected {needs : Nat} {fields : List (List Byte)} {op : State → State} (hp : s.pwr.porst = true)
    (hrom : s.mss.romOnly = false) (hup : s.host.hopUp.up = true) (hstage : s.mss.spdmStage < needs) :
    spdmRow needs fields op s = .next (spdmReply (.error spdmUnexpected) (accepted .up s)) := by
  refine congrArg Host.Outcome.next ?_
  rw [mssRuns_on hp, spdmPacket_running hup hrom, spdmRequest, accepted_spdmStage, if_pos hstage]

/-! ### The answer -/

/-- `t` is `u` with a response sent up: its packet is on the wire before its fields. -/
def SpdmSent (s t : State) (r : SpdmRsp) (u : State) : Prop := t = { u with
  host := t.host
  wire := .packet .up (pktOctets { ownPkt s 0x09#8 0 (rspOctets r) with hseq := s.host.hopUp.txSeq }) ::
    .spdm r :: u.wire }

theorem SpdmSent.cosig_eq {t u : State} {r : SpdmRsp} (h : SpdmSent s t r u) : t.mss.cosig = u.mss.cosig := by
  rw [SpdmSent] at h
  rw [h]

theorem measurement_cosig (t : State) : measurement t 0xEF = some (.rawBits, t.mss.cosig) := rfl

/-- A response from a state that has the host's part of the one that accepted the request. -/
theorem sendRsp_sent {r : SpdmRsp} {u : State} (hup : s.host.hopUp.up = true) (hown : s.host.hopUp.own = [])
    (hfwd : s.host.hopUp.fwd = []) (hroom : s.host.hopUp.unacked.length < 128) (hu : u.host = (accepted .up s).host) :
    SpdmSent s (sendRsp r u) r u := by
  have hx : u.host.hopUp = { s.host.hopUp with rxExp := s.host.hopUp.rxExp + 1, nakPending := false } := by
    rw [hu, accepted_hopUp]
  have hchain : u.host.chainAddr = s.host.chainAddr := by
    obtain ⟨host, timers, wire, hacc, hchain⟩ := accepted_eq .up s
    rw [hu, hacc]
    exact hchain
  obtain ⟨host, hsend, -⟩ := sendOwn_sends (p := ownPkt u 0x09#8 0 (rspOctets r)) (s := emit u (.spdm r))
    (by rw [emit_host, hx]; exact hup) (by rw [emit_host, hx]; exact hown) (by rw [emit_host, hx]; exact hfwd)
    (by rw [emit_host, hx]; exact hroom)
  have hpkt : ownPkt u 0x09#8 0 (rspOctets r) = ownPkt s 0x09#8 0 (rspOctets r) := by
    rw [ownPkt, ownPkt, hchain]
  rw [SpdmSent, sendRsp, hsend, emit_host, hx, hpkt]
  rfl

/-! ### What a request leaves of the identity and the measurements -/

/-- `u` is `s` but for the host's part, the wire, the MSS's timers, the transcript and the large response. -/
def HeardOnly (s u : State) : Prop := ∃ host wire timers ctx large, u = { s with
  host := host, wire := wire, mss := { s.mss with timers := timers, spdmCtx := ctx, large := large } }

theorem heardBy_heardOnly (s : State) (fields : List (List Byte)) : HeardOnly s (heardBy s fields) := by
  obtain ⟨host, timers, wire, hacc, -⟩ := accepted_eq .up s
  unfold heardBy
  rw [hacc]
  exact ⟨_, _, _, _, _, rfl⟩

section
variable {u : State} (h : HeardOnly s u)
include h

theorem HeardOnly.measurement_eq (i : Nat) : measurement u i = measurement s i := by
  obtain ⟨_, _, _, _, _, rfl⟩ := h
  rfl

theorem HeardOnly.measureBlock_eq : measureBlock u = measureBlock s := by
  funext i
  rw [measureBlock, measureBlock, h.measurement_eq]

theorem HeardOnly.measureBlocks_eq (i : Nat) : measureBlocks u i = measureBlocks s i := by
  rw [measureBlocks, measureBlocks, h.measureBlock_eq]

theorem HeardOnly.measSummary_eq (k : Nat) : measSummary u k = measSummary s k := by
  rw [measSummary, measSummary, h.measureBlocks_eq, h.measureBlocks_eq]

theorem HeardOnly.certChain_eq : certChain u = certChain s := by
  obtain ⟨_, _, _, _, _, rfl⟩ := h
  rfl

theorem HeardOnly.aliasSeed_eq (i : Nat) : aliasSeed u i = aliasSeed s i := by
  obtain ⟨_, _, _, _, _, rfl⟩ := h
  rfl

theorem HeardOnly.nonce_eq : takeNonce u = ((takeNonce s).1, { u with freeCtr := s.freeCtr + 4 }) := by
  obtain ⟨_, _, _, _, _, rfl⟩ := h
  rfl

theorem HeardOnly.nextHandle_eq : u.mss.nextHandle = s.mss.nextHandle := by
  obtain ⟨_, _, _, _, _, rfl⟩ := h
  rfl

theorem HeardOnly.spdmStage_eq : u.mss.spdmStage = s.mss.spdmStage := by
  obtain ⟨_, _, _, _, _, rfl⟩ := h
  rfl

end

theorem length_nonce (s : State) : (takeNonce s).1.length = 32 := by
  simp [takeNonce, List.flatMap_cons, Laws.leBytes_length]

theorem length_recordOctets_one (i : Byte) (c : MeasType × List Byte) :
    (recordOctets [(i, c)]).length = c.2.length + 7 := by
  simp [recordOctets, Laws.leBytes_length]
  omega

theorem transferSize_of_host {u : State} (hu : u.host = (accepted .up s).host) :
    transferSize u = if s.host.hopUp.version = 2 then 4104 else 1032 := by
  rw [transferSize, hu, accepted_hopUp]

/-- An index of one measurement asks for its block. -/
theorem measureBlocks_one {i : Byte} {c : MeasType × List Byte} (hc : measurement s i.toNat = some c) (h0 : i ≠ 0)
    (hall : i ≠ 0xFF) : measureBlocks s i.toNat = some [(i, c)] := by
  have h0' : i.toNat ≠ 0 := fun h => h0 (BitVec.eq_of_toNat_eq h)
  have hall' : i.toNat ≠ 0xFF := fun h => hall (BitVec.eq_of_toNat_eq h)
  rw [measureBlocks, if_neg h0', if_neg hall', measureBlock, hc, BitVec.ofNat_toNat]
  simp

/-! ### Signed and large answers (R348) -/

/-- What is signed: the transcript so far and the answer. -/
def spdmMsg (u : State) (r : SpdmRsp) : List Byte := Config.spdmSigMessage u.mss.spdmCtx (rspOctets r)

/-- A signed answer leaves its co-signature, and four free values are spent on its nonce. -/
def signedBy (s u : State) (r : SpdmRsp) : State := { u with
  freeCtr := s.freeCtr + 4, mss := { u.mss with cosig := mldsaSign (aliasSeed s 1) (spdmMsg u r) } }

theorem signedBy_host (s u : State) (r : SpdmRsp) : (signedBy s u r).host = u.host := by simp only [signedBy]

theorem signedBy_nextHandle (s u : State) (r : SpdmRsp) : (signedBy s u r).mss.nextHandle = u.mss.nextHandle := by
  simp only [signedBy]

theorem HeardOnly.sign_eq {u : State} (h : HeardOnly s u) (r : SpdmRsp) :
    spdmSign r { u with freeCtr := s.freeCtr + 4 } = (ed25519Sign (aliasSeed s 0) (spdmMsg u r), signedBy s u r) := by
  have h₀ : aliasSeed { u with freeCtr := s.freeCtr + 4 } 0 = aliasSeed s 0 := h.aliasSeed_eq 0
  have h₁ : aliasSeed { u with freeCtr := s.freeCtr + 4 } 1 = aliasSeed s 1 := h.aliasSeed_eq 1
  rw [spdmSign, h₀, h₁]
  rfl

/-- The state that holds a large response, to be fetched in chunks. -/
def heldLarge (s : State) (r : SpdmRsp) (u : State) : State := { u with mss := { u.mss with
  large := some { handle := s.mss.nextHandle, data := rspOctets r }, nextHandle := s.mss.nextHandle + 1 } }

section
variable (hup : s.host.hopUp.up = true) (hown : s.host.hopUp.own = []) (hfwd : s.host.hopUp.fwd = [])
  (hroom : s.host.hopUp.unacked.length < 128)
include hup hown hfwd hroom

theorem spdmReply_sent {r : SpdmRsp} {u : State} (hu : u.host = (accepted .up s).host) :
    SpdmSent s (spdmReply r u) r (noteRsp r u) := sendRsp_sent hup hown hfwd hroom hu

/-- An answer that fits goes out itself. -/
theorem spdmSend_small {r : SpdmRsp} {n : Nat} {u : State} (hu : u.host = (accepted .up s).host)
    (hn : n + 50 ≤ if s.host.hopUp.version = 2 then 4104 else 1032) : SpdmSent s (spdmSend r n u) r (noteRsp r u) := by
  rw [spdmSend, transferSize_of_host hu, if_pos hn]
  exact spdmReply_sent hup hown hfwd hroom hu

/-- One that does not is held, and its handle goes out. -/
theorem spdmSend_large {r : SpdmRsp} {n : Nat} {u : State} (hu : u.host = (accepted .up s).host)
    (hh : u.mss.nextHandle = s.mss.nextHandle) (hn : (if s.host.hopUp.version = 2 then 4104 else 1032) < n + 50) :
    SpdmSent s (spdmSend r n u) (.chunkLarge s.mss.nextHandle) (heldLarge s r (noteRsp r u)) := by
  have hsend : spdmSend r n u = sendRsp (.chunkLarge s.mss.nextHandle) (heldLarge s r (noteRsp r u)) := by
    rw [spdmSend, transferSize_of_host hu, if_neg (by omega)]
    dsimp only
    rw [hh]
    rfl
  rw [hsend]
  exact sendRsp_sent hup hown hfwd hroom hu

end

/-! ### The requests -/

theorem spdmCertificate_answer {off len : Nat} {u : State} (h : HeardOnly s u) (hu : u.host = (accepted .up s).host) :
    spdmCertificate 0 off len u = spdmReply (if off < (certChain s).length then
      .certificate 0 (slice (certChain s) off (min len ((if s.host.hopUp.version = 2 then 4104 else 1032) - 8)))
        ((certChain s).length - off -
          (slice (certChain s) off (min len ((if s.host.hopUp.version = 2 then 4104 else 1032) - 8))).length)
      else .error spdmInvalid) u := by
  rw [spdmCertificate, h.certChain_eq, transferSize_of_host hu]
  dsimp only
  by_cases hoff : off < (certChain s).length
  · rw [if_neg (by omega), if_pos hoff]
  · rw [if_pos (by omega), if_neg hoff]

section
variable {i : Byte} {c : MeasType × List Byte} {u : State}

theorem spdmMeasure_plain (hc : measurement s i.toNat = some c) (h0 : i ≠ 0) (hall : i ≠ 0xFF) (h : HeardOnly s u) :
    spdmMeasure i.toNat false u = spdmSend (.measurements [(i, c)] (takeNonce s).1 none) (c.2.length + 7)
      { u with freeCtr := s.freeCtr + 4 } := by
  rw [spdmMeasure, h.measureBlocks_eq, measureBlocks_one hc h0 hall, h.nonce_eq]
  dsimp only
  rw [if_neg (by simp), if_neg Bool.false_ne_true, length_recordOctets_one]

theorem spdmMeasure_signed (hc : measurement s i.toNat = some c) (h0 : i ≠ 0) (hall : i ≠ 0xFF) (hco : i ≠ 0xEF)
    (h : HeardOnly s u) : spdmMeasure i.toNat true u = spdmSend (.measurements [(i, c)] (takeNonce s).1
        (some (ed25519Sign (aliasSeed s 0) (spdmMsg u (.measurements [(i, c)] (takeNonce s).1 none)))))
      (c.2.length + 7 + 64) (signedBy s u (.measurements [(i, c)] (takeNonce s).1 none)) := by
  have hco' : i.toNat ≠ 0xEF := fun h => hco (BitVec.eq_of_toNat_eq h)
  rw [spdmMeasure, h.measureBlocks_eq, measureBlocks_one hc h0 hall, h.nonce_eq]
  dsimp only
  rw [if_neg (by simp [hco']), if_pos rfl, h.sign_eq, length_recordOctets_one]

/-- A CHALLENGE_AUTH before it is signed. -/
def challengeDraft (s : State) (n : Nat) : SpdmRsp :=
  .challengeAuth (sha512 (certChain s)) (takeNonce s).1 (measSummary s n) []

/-- The CHALLENGE_AUTH that answers a request heard in the state `u`. -/
def challengeRsp (s u : State) (n : Nat) : SpdmRsp := .challengeAuth (sha512 (certChain s)) (takeNonce s).1
  (measSummary s n) (ed25519Sign (aliasSeed s 0) (spdmMsg u (challengeDraft s n)))

theorem spdmChallenge_signed {n : Nat} (hn : n = 0 ∨ n = 1 ∨ n = 0xFF) (h : HeardOnly s u) :
    spdmChallenge 0 n u = spdmReply (challengeRsp s u n) (signedBy s u (challengeDraft s n)) := by
  rw [spdmChallenge, if_neg (by simp [hn]), h.certChain_eq, h.measSummary_eq, h.nonce_eq]
  dsimp only
  rw [h.sign_eq]
  rfl

end

theorem spdmChallenge_answered {n : Nat} {u : State} (hup : s.host.hopUp.up = true) (hown : s.host.hopUp.own = [])
    (hfwd : s.host.hopUp.fwd = []) (hroom : s.host.hopUp.unacked.length < 128) (hn : n = 0 ∨ n = 1 ∨ n = 0xFF)
    (h : HeardOnly s u) (hu : u.host = (accepted .up s).host) :
    SpdmSent s (spdmChallenge 0 n u) (challengeRsp s u n) (noteRsp (challengeRsp s u n) (signedBy s u (challengeDraft s n))) ∧
      measurement (spdmChallenge 0 n u) 0xEF =
        some (.rawBits, mldsaSign (aliasSeed s 1) (spdmMsg u (challengeDraft s n))) := by
  have hsent : SpdmSent s (spdmReply (challengeRsp s u n) (signedBy s u (challengeDraft s n))) (challengeRsp s u n)
      (noteRsp (challengeRsp s u n) (signedBy s u (challengeDraft s n))) :=
    spdmReply_sent (u := signedBy s u (challengeDraft s n)) hup hown hfwd hroom ((signedBy_host ..).trans hu)
  rw [spdmChallenge_signed hn h]
  exact ⟨hsent, by rw [measurement_cosig, hsent.cosig_eq, noteRsp, signedBy]⟩

theorem spdmChunk_sends {x : SpdmLarge} {seq size : Nat} {u : State} (hx : u.mss.large = some x)
    (hsize : transferSize u = size) (hseq : seq * (size - 16) < x.data.length) : spdmChunk x.handle seq u =
      sendRsp (.chunk x.handle seq (decide (x.data.length ≤ (seq + 1) * (size - 16)))
          (slice x.data (seq * (size - 16)) (size - 16)))
        { u with mss := { u.mss with
          large := if decide (x.data.length ≤ (seq + 1) * (size - 16)) = true then none else some x } } := by
  rw [spdmChunk, hx, hsize]
  dsimp only
  rw [if_neg (by simpa using hseq)]

end

/-- Settles O53: each request by its row, and each answer by the packet it is sent in. -/
theorem spdmAnswers : Obligations.SpdmAnswers := by
  unfold Obligations.SpdmAnswers
  refine ⟨?loader, ?running⟩
  case loader =>
    intro s hp hrom hup i hi
    have hdiscard {op : State → State} : mssRuns (spdmPacket op) s = badDst (accepted .up s) :=
      (mssRuns_on hp).trans (spdmPacket_loader hup hrom)
    simp only [List.mem_cons, List.not_mem_nil, or_false] at hi
    rcases hi with rfl | rfl | rfl | rfl <;> exact congrArg Host.Outcome.next hdiscard
  case running =>
    intro s hp hrom hup hown hfwd hroom size s1 heard sent noted answers nonce msg signs held
    have hheard (f : List (List Byte)) : HeardOnly s (heardBy s f) := heardBy_heardOnly s f
    have hhost (f : List (List Byte)) : (heardBy s f).host = (accepted .up s).host := rfl
    have hreply {r : SpdmRsp} {u : State} (hu : u.host = (accepted .up s).host) :=
      spdmReply_sent hup hown hfwd hroom (r := r) hu
    refine ⟨length_nonce s, ?version, fun hstage => ?capabilities, fun hstage => ?algorithms,
      fun hstage => ⟨_, spdmRow_unexpected hp hrom hup hstage, hreply rfl⟩, fun hstage => ⟨?digests, ?certificate,
      ?measurements, ?challenge⟩, ?chunk⟩
    case version =>
      have hexec : exec .getVersion s = .next (spdmVersion (accepted .up s)) :=
        congrArg Host.Outcome.next ((mssRuns_on hp).trans (spdmPacket_running hup hrom))
      exact ⟨_, hexec, hreply rfl⟩
    case capabilities =>
      refine ⟨_, spdmRow_answers hp hrom hup hstage, ?_⟩
      rw [spdmCapabilities, transferSize_of_host (hhost _), (hheard _).spdmStage_eq]
      exact hreply rfl
    case algorithms => exact ⟨_, spdmRow_answers hp hrom hup hstage, hreply rfl⟩
    case digests =>
      refine ⟨_, spdmRow_answers hp hrom hup hstage, ?_⟩
      rw [spdmDigests, (hheard _).certChain_eq]
      exact hreply rfl
    case certificate =>
      intro off len part
      refine ⟨_, spdmRow_answers hp hrom hup hstage, ?_⟩
      have hanswer := spdmCertificate_answer (off := off.toNat) (len := len.toNat)
        (hheard (reqFields 4 [numField 0, numField off.toNat, numField len.toNat])) rfl
      exact (congrArg (fun t => SpdmSent s t _ _) hanswer).mpr (hreply rfl)
    case measurements =>
      intro i asked c hc h0 hall u u0 r v q
      refine ⟨fun hfit => ?_, fun hlarge => ?_, fun hco hfit => ?_, fun hco hlarge => ?_⟩
      · refine ⟨_, spdmRow_answers hp hrom hup hstage, ?_⟩
        rw [spdmMeasure_plain hc h0 hall (hheard _)]
        exact spdmSend_small hup hown hfwd hroom rfl (by omega)
      · refine ⟨_, spdmRow_answers hp hrom hup hstage, ?_⟩
        rw [spdmMeasure_plain hc h0 hall (hheard _)]
        exact spdmSend_large hup hown hfwd hroom rfl (hheard _).nextHandle_eq (by omega)
      · refine ⟨_, spdmRow_answers hp hrom hup hstage, ?_⟩
        rw [spdmMeasure_signed hc h0 hall hco (hheard _)]
        exact spdmSend_small hup hown hfwd hroom ((signedBy_host ..).trans (hhost _)) (by omega)
      · refine ⟨_, spdmRow_answers hp hrom hup hstage, ?_⟩
        rw [spdmMeasure_signed hc h0 hall hco (hheard _)]
        exact spdmSend_large hup hown hfwd hroom ((signedBy_host ..).trans (hhost _))
          ((signedBy_nextHandle ..).trans (hheard _).nextHandle_eq) (by omega)
    case challenge =>
      intro n asked hn u r
      have hn' : n.toNat = 0 ∨ n.toNat = 1 ∨ n.toNat = 0xFF := by
        rcases hn with rfl | rfl | rfl
        · exact .inl rfl
        · exact .inr (.inl rfl)
        · exact .inr (.inr rfl)
      have hexec : exec (.challenge 0 n asked) s =
          .next (spdmChallenge 0 n.toNat (heardBy s (reqFields 5 [numField 0, [n], leBytes 32 asked.toNat]))) :=
        spdmRow_answers hp hrom hup hstage
      obtain ⟨hsent, hcosig⟩ := spdmChallenge_answered hup hown hfwd hroom hn'
        (hheard (reqFields 5 [numField 0, [n], leBytes 32 asked.toNat])) (hhost _)
      refine ⟨_, hexec, ?_, ?_⟩
      · exact hsent
      · exact hcosig
    case chunk =>
      intro x seq hx hseq last
      obtain ⟨host, timers, wire, hacc, -⟩ := accepted_eq .up s
      have hlarge : (accepted .up s).mss.large = some x := by rw [hacc]; exact hx
      have hexec : exec (.chunkGet x.handle seq) s = .next (spdmChunk x.handle seq.toNat (accepted .up s)) :=
        congrArg Host.Outcome.next ((mssRuns_on hp).trans (spdmPacket_running hup hrom))
      rw [spdmChunk_sends hlarge (transferSize_of_host rfl) hseq] at hexec
      exact ⟨_, hexec, sendRsp_sent hup hown hfwd hroom rfl⟩

end Sys2Proof.Machine
end

section
/-! The damper against its statement: a port in near-end loopback hears its own pause (R77, R373). -/

namespace Sys2Proof.Machine

open Sys2Proof

/-- A device with one Ethernet-mode port up, whose LOOPBACK field puts it in near-end loopback (Table 3.6). -/
def loopedPortState : State := { State.reset with
  ports := [(0, { Port.reset with state := .up, rev := 0 })]
  regs := [(Reg.lnkCfg 0, 4)]
  pwr := { PowerSt.reset with porst := true }
  mss := { MssSt.reset with romOnly := false } }

/-- What the port's receiver has been told to pause after a damper is raised. -/
def pausedAfterRaise : Option Byte :=
  match exec (.raise 1) loopedPortState with
  | .next t => (Map.get? t.ports 0).map (·.pfcRx)
  | _ => none

theorem pausedAfterRaise_eq : pausedAfterRaise = some 0xFF := by decide +kernel

/-- Refutes O58: a port in near-end loopback that is up and in Ethernet mode, which hears its own pause frame, has its
receiver's pauses raised with its own; the statement leaves them as they were. -/
theorem not_damperIsRaisedAndReleased : ¬ Obligations.DamperIsRaisedAndReleased := by
  unfold Obligations.DamperIsRaisedAndReleased
  intro h
  obtain ⟨hraise, -⟩ := h loopedPortState
  obtain ⟨hraised, -⟩ := hraise 1 rfl rfl rfl
  obtain ⟨t, hexec, -, -, -, -, -, -, -, -, -, -, -, -, -, -, -, -, -, -, -, hports⟩ := hraised rfl rfl
  have hport := (hports 0 { Port.reset with state := .up, rev := 0 } (by decide) rfl rfl).1 rfl
  have hpaused := pausedAfterRaise_eq
  rw [pausedAfterRaise, hexec] at hpaused
  simp only [hport] at hpaused
  revert hpaused
  decide

/-! ### A scan-out sent to the host (R376) -/

/-- A completion record. -/
def waitingCpl : Cpl := mkCpl 0 1 0 .ok 0

/-- A scan-out to the host is under way while a CPL packet has its place on HL_UP, and a completion that found the queue
full waits in its group. -/
def scanWithCompletions : State := { State.reset with
  groups := [(0, { GroupSt.reset with seqCpl := some waitingCpl })]
  host := { HostSt.reset with hopUp := { HopSt.reset with up := true, own := [none] }, cplq := [waitingCpl] }
  pwr := { PowerSt.reset with porst := true }
  mss := { MssSt.reset with romOnly := false }
  dbg := { DbgSt.reset with scan := { DbgSt.reset.scan with state := 1, dest := true } } }

/-- Does a completion still wait in the group when the scan-out has ended? -/
def waitsAfterScan : Option Bool :=
  match exec .scanComplete scanWithCompletions with
  | .next t => (Map.get? t.groups 0).map (·.seqCpl.isSome)
  | _ => none

theorem waitsAfterScan_eq : waitsAfterScan = some false := by decide +kernel

/-- Refutes O59: the packets of an image sent to the host go out behind a CPL packet that waits on HL_UP, which empties
the queue for a completion held in its group; the statement keeps the groups as they were. -/
theorem not_debugStoresAreRead : ¬ Obligations.DebugStoresAreRead := by
  unfold Obligations.DebugStoresAreRead
  intro h
  obtain ⟨-, hscan, -⟩ := h scanWithCompletions rfl rfl
  obtain ⟨-, t, hexec, -, -, -, hgroups, -⟩ := hscan rfl
  have hwaits := waitsAfterScan_eq
  rw [waitsAfterScan, hexec] at hwaits
  simp only [hgroups] at hwaits
  revert hwaits
  decide

end Sys2Proof.Machine
end

section
/-! The twin pair's engagement and signs of life, and its pairing (R350-R360, chapter 17). -/

namespace Sys2Proof.Machine

open Sys2Proof

/-! ### Logging with room, and a timer's claimant -/

theorem mem_logInsert (e : LogRec) (l : List LogRec) : e ∈ logInsert e l := by
  induction l with
  | nil => exact List.mem_singleton_self e
  | cons b l ih =>
    unfold logInsert
    split
    · exact List.mem_cons_self
    · exact List.mem_cons_of_mem _ ih

/-- With room in the intake FIFO an event changes nothing but the FIFO, which then holds it. -/
theorem logEv_enters (code sev unit : Nat) (tag : Option (BitVec 24)) (args : List Nat) {s : State}
    (h : s.mss.logFifo.length < 1024) : ∃ l, logEv code sev unit tag args s = { s with mss := { s.mss with logFifo := l } } ∧
      ∃ e ∈ l, e.code = BitVec.ofNat 16 code ∧ e.sev = BitVec.ofNat 2 sev ∧ e.ftime = s.time.ftc :=
  ⟨_, if_pos h, _, mem_logInsert _ _, rfl, rfl, rfl⟩

theorem count_withTwn (b i k : Nat) (s : State) (x : TwinSt) :
    count b i k { s with twn := x } = { count b i k s with twn := x } := by
  unfold count countN reg
  split
  · rfl
  · split
    · rfl
    · rfl

theorem startTimer_timersOnly (c : Nat) (s : State) : TimersOnly s (startTimer c s) := by
  unfold startTimer
  split
  · exact ⟨_, rfl⟩
  · exact ⟨_, rfl⟩

theorem haltTimer_timersOnly (c : Nat) (s : State) : TimersOnly s (haltTimer c s) := by
  unfold haltTimer
  split
  · exact ⟨_, rfl⟩
  · exact ⟨_, rfl⟩

/-! ### HELLO (R355) -/

/-- The HELLO a device says on each of its sublinks that is up. -/
def hellosOf (s : State) : List (Nat × List Byte) :=
  (upSublinks s).map (fun n => (n, twinOctets 1 0 s.twn.epoch (helloBody s)))

theorem helloBody_congr {s t : State} (hregs : t.regs = s.regs) (htook : t.twn.tookOver = s.twn.tookOver)
    (hfenced : t.twn.fenced = s.twn.fenced) (hcord : t.cord = s.cord) : helloBody t = helloBody s := by
  simp only [helloBody, twinSide, ownChip, reg, hregs, htook, hfenced, hcord]

theorem helloBody_withTwn {u : State} {x : TwinSt} {st : Status} (htook : x.tookOver = u.twn.tookOver)
    (hfenced : x.fenced = u.twn.fenced) : helloBody (withStatus { u with twn := x } st) = helloBody u :=
  helloBody_congr rfl htook hfenced rfl

theorem helloEmit_foldOver (l : List Nat) (s : State) :
    foldOver l (fun s n => twinEmit n 1 0 (helloBody s) s) s = { s with
      twn := { s.twn with out := s.twn.out ++ l.map (fun n => (n, twinOctets 1 0 s.twn.epoch (helloBody s))) } } := by
  unfold foldOver
  induction l generalizing s with
  | nil => simp
  | cons n l ih =>
    rw [List.foldl_cons, ih]
    simp [twinEmit, helloBody, twinSide, ownChip, reg]

theorem helloNow_says {s : State} (h : engaged s = true) :
    helloNow s = { s with twn := { s.twn with out := s.twn.out ++ hellosOf s } } := by
  rw [helloNow, if_pos h, helloEmit_foldOver]
  rfl

/-! ### The partner's judgement (R360) -/

section
variable {s : State}

theorem judgePartner_linked (h : upSublinks s ≠ []) : judgePartner s = s :=
  if_neg fun hc => h (List.isEmpty_iff.mp hc.2)

theorem judgePartner_disengaged (h : engaged s = false) : judgePartner s = s := if_neg fun hc => by simp [h] at hc

theorem judgePartner_alive (he : engaged s = true) (hu : upSublinks s = []) (ha : s.twn.hbAlive = true) :
    judgePartner s = { s with twn := { s.twn with state := 4, version := 0 } } := by
  rw [judgePartner, if_pos ⟨he, by rw [hu]; rfl⟩, if_pos ha]

theorem judgePartner_lost (he : engaged s = true) (hu : upSublinks s = []) (ha : s.twn.hbAlive = false)
    (hs : s.twn.state ≠ 5) : judgePartner s = partnerLost s := by
  rw [judgePartner, if_pos ⟨he, by rw [hu]; rfl⟩, if_neg (by simp [ha]), if_neg hs]

/-- A new epoch while the pair is not paired sends nothing. -/
theorem setPairEpoch_unpaired {e : BitVec 32} (hne : e ≠ s.twn.epoch) (h : s.twn.state ≠ 2) :
    setPairEpoch e s = { s with twn := { s.twn with epoch := e, recorded := [] } } := by
  rw [setPairEpoch, if_neg hne]
  exact if_pos (.inl h)

end

theorem logEv_twn_eq (code sev unit : Nat) (tag : Option (BitVec 24)) (args : List Nat) (s : State) :
    (logEv code sev unit tag args s).twn = s.twn := by simp

theorem epoch_succ_ne (e : BitVec 32) : e + 1 ≠ e := by bv_omega

/-- What the partner's loss leaves of the twin pair's state: a takeover begun where AUTO asks for one (R360, R361). -/
def lostTwn (s : State) : TwinSt :=
  if bitAt (reg s Reg.twnCfg) 62 = true ∧ s.twn.fenced = false ∧ s.twn.tookOver = false then { s.twn with
    state := 5, version := 0, epoch := s.twn.epoch + 1, recorded := [1#4], tookOver := true, taking := true }
  else { s.twn with state := 5, version := 0 }

theorem partnerLost_eq (s : State) : partnerLost s = { logEv (codeOther 12) 2 0xFF none [s.twn.epoch.toNat]
    { s with twn := { s.twn with state := 5, version := 0 } } with twn := lostTwn s } := by
  have hn := logEv_noted (codeOther 12) 2 0xFF none [s.twn.epoch.toNat] { s with twn := { s.twn with state := 5, version := 0 } }
  have ht := logEv_twn_eq (codeOther 12) 2 0xFF none [s.twn.epoch.toNat] { s with twn := { s.twn with state := 5, version := 0 } }
  unfold partnerLost lostTwn
  generalize logEv (codeOther 12) 2 0xFF none [s.twn.epoch.toNat] { s with twn := { s.twn with state := 5, version := 0 } } = u at hn ht
  have hreg : reg u Reg.twnCfg = reg s Reg.twnCfg := by unfold reg; rw [hn.regs_eq]
  simp only [hreg, ht, Bool.not_eq_true]
  split
  · rw [setPairEpoch_unpaired (by rw [ht]; exact epoch_succ_ne _) (by rw [ht]; exact (by decide : (5 : BitVec 4) ≠ 2)), ht]
    rfl
  · exact congrArg (fun w => { u with twn := w }) ht


/-! ### Writes of TWN_CFG (R350, R351) -/

section
variable {s : State} {v : W64}

theorem twnCfgMask_eq : twnCfgMask = 0xE000FFFFFFFFFFFF#64 := by decide

/-- A word with ENGAGE set, and one with it clear. -/
theorem engageWord_bit : ((v ||| 0x8000000000000000#64).getLsbD 63) = true := by simp

theorem disengageWord_bit : ((v &&& 0x7FFFFFFFFFFFFFFF#64).getLsbD 63) = false := by simp

theorem twinEngage_exec (hp : s.pwr.porst = true) (hr : s.mss.romOnly = false) : exec (.twinEngage v) s =
    .next (withStatus (twnCfgWrite (v ||| 0x8000000000000000#64) s).2 (twnCfgWrite (v ||| 0x8000000000000000#64) s).1) :=
  hostCmd_running hp hr

theorem twinDisengage_exec (hp : s.pwr.porst = true) (hr : s.mss.romOnly = false) : exec (.twinDisengage v) s =
    .next (withStatus (twnCfgWrite (v &&& 0x7FFFFFFFFFFFFFFF#64) s).2 (twnCfgWrite (v &&& 0x7FFFFFFFFFFFFFFF#64) s).1) :=
  hostCmd_running hp hr

variable {w : W64}

theorem twnCfgWrite_invalid (h : twnCfgOk w = false) : twnCfgWrite w s = (.fieldInvalid, s) := if_pos (by simp [h])

theorem twnCfgWrite_engages (h : twnCfgOk w = true) (he : engaged s = false) (hw : w.getLsbD 63 = true) :
    twnCfgWrite w s = twinEngage w s := by
  have he' : bitAt (reg s Reg.twnCfg) 63 = false := he
  simp [twnCfgWrite, h, he', show bitAt w 63 = true from hw]

theorem twnCfgWrite_disengages (h : twnCfgOk w = true) (he : engaged s = true) (hw : w.getLsbD 63 = false) :
    twnCfgWrite w s = twinDisengage w s := by
  have he' : bitAt (reg s Reg.twnCfg) 63 = true := he
  simp [twnCfgWrite, h, he', show bitAt w 63 = false from hw]

theorem twnCfgWrite_fixed (h : twnCfgOk w = true) (he : engaged s = true) (hw : w.getLsbD 63 = true)
    (hf : twnFixedChanged (reg s Reg.twnCfg) w = true) : twnCfgWrite w s = (.resourceBound, s) := by
  have he' : bitAt (reg s Reg.twnCfg) 63 = true := he
  simp [twnCfgWrite, h, he', show bitAt w 63 = true from hw, hf]

theorem twnCfgWrite_stores (h : twnCfgOk w = true)
    (hs : engaged s = true ∧ w.getLsbD 63 = true ∧ twnFixedChanged (reg s Reg.twnCfg) w = false ∨
      engaged s = false ∧ w.getLsbD 63 = false) :
    twnCfgWrite w s = (.ok, setReg s Reg.twnCfg (w &&& 0xE000FFFFFFFFFFFF#64)) := by
  rw [← twnCfgMask_eq]
  obtain ⟨he, hw, hf⟩ | ⟨he, hw⟩ := hs
  · simp [twnCfgWrite, h, show bitAt (reg s Reg.twnCfg) 63 = true from he, show bitAt w 63 = true from hw, hf]
  · simp [twnCfgWrite, h, show bitAt (reg s Reg.twnCfg) 63 = false from he, show bitAt w 63 = false from hw]

/-- The state in which an engaging write judges the partner: TWN_CFG is written, the heartbeat's timer runs and HELLO
has been said. -/
def engagedWith (w : W64) (s : State) : State :=
  let s1 := setReg s Reg.twnCfg (w &&& twnCfgMask)
  startTimer 0x11 { s1 with twn := { s1.twn with state := 1, cause := 0, version := 0 } }

theorem twinEngage_ok (h : engageOk s w = true) : twinEngage w s = (.ok, judgePartner (helloNow (engagedWith w s))) :=
  if_neg (by simp [h])

theorem engagedWith_eq (w : W64) (s : State) : ∃ timers, engagedWith w s = { setReg s Reg.twnCfg (w &&& twnCfgMask) with
    mss := { s.mss with timers := timers }, twn := { s.twn with state := 1, cause := 0, version := 0 } } := by
  obtain ⟨timers, ht⟩ := startTimer_timersOnly 0x11 { setReg s Reg.twnCfg (w &&& twnCfgMask) with
    twn := { s.twn with state := 1, cause := 0, version := 0 } }
  exact ⟨timers, ht⟩

theorem twnCfg_setReg {b : W64} (hs : Map.sorted s.regs = true) {t : State}
    (ht : t.regs = (setReg s Reg.twnCfg b).regs) :
    reg t Reg.twnCfg = b ∧ ∀ a, a ≠ Reg.twnCfg → reg t a = reg s a := by
  have hreg (a : Nat) : reg t a = reg (setReg s Reg.twnCfg b) a := by unfold reg; rw [ht]
  exact ⟨(hreg _).trans (reg_setReg_same hs), fun a ha => (hreg a).trans (reg_setReg_other ha)⟩

/-- The twin pair's state where pairing starts with a HELLO of the given body on each sublink that is up. -/
def saidTwn (s : State) (body : List Byte) : TwinSt := { s.twn with
  state := 1, cause := 0, version := 0
  out := s.twn.out ++ (upSublinks s).map (fun n => (n, twinOctets 1 0 s.twn.epoch body)) }

section
variable (hsorted : Map.sorted s.regs = true) (hw : w.getLsbD 63 = true)
include hsorted hw

theorem engagedWith_spec : engaged (engagedWith w s) = true ∧ upSublinks (engagedWith w s) = upSublinks s ∧
    (∃ timers, engagedWith w s = { s with
      regs := (engagedWith w s).regs, mss := { s.mss with timers := timers }
      twn := { s.twn with state := 1, cause := 0, version := 0 } }) ∧
    reg (engagedWith w s) Reg.twnCfg = w &&& 0xE000FFFFFFFFFFFF#64 ∧
    ∀ a, a ≠ Reg.twnCfg → reg (engagedWith w s) a = reg s a := by
  obtain ⟨timers, hu⟩ := engagedWith_eq w s
  obtain ⟨hcfg, hother⟩ := twnCfg_setReg (t := engagedWith w s) hsorted (by rw [hu])
  rw [twnCfgMask_eq] at hcfg
  refine ⟨?_, by rw [hu]; rfl, ⟨timers, ?_⟩, hcfg, hother⟩
  · rw [engaged, bitAt, hcfg]
    simp [hw]
  · rw [hu]
    rfl

/-- Engagement with a sublink up: HELLO is said on each. -/
theorem engage_linked (hu : upSublinks s ≠ []) : judgePartner (helloNow (engagedWith w s)) =
    { engagedWith w s with twn := saidTwn s (helloBody (engagedWith w s)) } := by
  obtain ⟨he, hup, ⟨timers, heq⟩, -, -⟩ := engagedWith_spec (s := s) hsorted hw
  have htwn : (engagedWith w s).twn = { s.twn with state := 1, cause := 0, version := 0 } := congrArg State.twn heq
  have hsub : upSublinks (helloNow (engagedWith w s)) = upSublinks s := by
    rw [helloNow_says he]
    exact hup
  rw [judgePartner_linked (hsub ▸ hu), helloNow_says he, hellosOf, hup, htwn]
  rfl

/-- Engagement with no sublink up: nothing is said. -/
theorem engage_unlinked (hu : upSublinks s = []) : helloNow (engagedWith w s) = engagedWith w s := by
  obtain ⟨he, hup, -, -, -⟩ := engagedWith_spec (s := s) hsorted hw
  rw [helloNow_says he, hellosOf, hup, hu, List.map_nil, List.append_nil]

/-- Engagement with no sign of life: the partner is lost at once. -/
theorem engage_lost (hu : upSublinks s = []) (ha : s.twn.hbAlive = false) :
    ∃ log lost dbg, judgePartner (helloNow (engagedWith w s)) = { engagedWith w s with
      mss := { (engagedWith w s).mss with logFifo := log, logLost := lost }, dbg := dbg
      twn := lostTwn (engagedWith w s) } := by
  obtain ⟨he, hup, ⟨timers, heq⟩, -, -⟩ := engagedWith_spec (s := s) hsorted hw
  have htwn : (engagedWith w s).twn = { s.twn with state := 1, cause := 0, version := 0 } := congrArg State.twn heq
  rw [engage_unlinked hsorted hw hu, judgePartner_lost he (hup.trans hu) (by rw [htwn]; exact ha)
    (by rw [htwn]; exact (by decide : (1 : BitVec 4) ≠ 5)), partnerLost_eq]
  obtain ⟨twn, log, lost, counters, at_, recent, shadows, hn⟩ := logEv_noted (codeOther 12) 2 0xFF none
    [(engagedWith w s).twn.epoch.toNat]
    { engagedWith w s with twn := { (engagedWith w s).twn with state := 5, version := 0 } }
  exact ⟨log, lost, _, by rw [hn]⟩

end

end

/-- The clauses of an engaging write that passes its checks, in the order of TWN_CFG's conditions. -/
theorem engages {s : State} {v : W64} (hp : s.pwr.porst = true)
    (hr : s.mss.romOnly = false) (hok : twnCfgOk (v ||| 0x8000000000000000#64) = true) (he : engaged s = false)
    (hchecks : engageOk s (v ||| 0x8000000000000000#64) = true) :
    exec (.twinEngage v) s = .next (withStatus
      (judgePartner (helloNow (engagedWith (v ||| 0x8000000000000000#64) s))) .ok) := by
  rw [twinEngage_exec hp hr, twnCfgWrite_engages hok he engageWord_bit, twinEngage_ok hchecks]

/-! ### The heartbeat (R353, R360, R392) -/

section
variable {s : State}

theorem edgeTooSoon_eq_false (h : ∀ x, s.twn.lastEdge = some x → x + 200 ≤ s.time.raw) : edgeTooSoon s = false := by
  unfold edgeTooSoon
  split
  · next x hx => exact decide_eq_false (by have := h x hx; omega)
  · rfl

theorem edgeTooSoon_eq_true {x : Nat} (hx : s.twn.lastEdge = some x) (h : s.time.raw < x + 200) :
    edgeTooSoon s = true := by
  rw [edgeTooSoon, hx]
  exact decide_eq_true (by omega)

/-- A heartbeat missed while it was alive. -/
theorem hbMiss_alive (h : s.twn.hbAlive = true) : hbMiss s =
    if ¬ engaged s then { s with twn := { s.twn with hbAlive := false } }
    else if (upSublinks s).isEmpty then judgePartner { s with twn := { s.twn with hbAlive := false } }
    else logEv (codeCounter 12 3) 0 0xFF none [] (count 12 3 0 { s with twn := { s.twn with hbAlive := false } }) :=
  if_neg (by simp [h])

end

/-- Settles O54: TWN_CFG's write by its conditions, the heartbeat's edges and misses by what judges the partner. -/
theorem twinEngagesAndBeats : Obligations.TwinEngagesAndBeats := by
  unfold Obligations.TwinEngagesAndBeats
  refine ⟨?engage, ?disengage, ?heartbeat⟩
  case engage =>
    intro v s hsorted hp hr w kept
    have hw : w.getLsbD 63 = true := engageWord_bit
    have hauto : bitAt (reg (engagedWith w s) Reg.twnCfg) 62 = v.getLsbD 62 := by
      obtain ⟨-, -, -, hcfg, -⟩ := engagedWith_spec (s := s) hsorted hw
      rw [hcfg, bitAt]
      simp [w]
    obtain ⟨heng, hup, ⟨timers, heq⟩, hcfg, hother⟩ := engagedWith_spec (s := s) hsorted hw
    have htwn : (engagedWith w s).twn = { s.twn with state := 1, cause := 0, version := 0 } := congrArg State.twn heq
    have hlost : upSublinks s = [] → s.twn.hbAlive = false → ∃ mss dbg, ∀ x, lostTwn (engagedWith w s) = x →
        judgePartner (helloNow (engagedWith w s)) =
          { s with regs := (engagedWith w s).regs, mss := mss, dbg := dbg, twn := x } := by
      intro hu ha
      obtain ⟨log, lost, dbg, hj⟩ := engage_lost hsorted hw hu ha
      refine ⟨{ (engagedWith w s).mss with logFifo := log, logLost := lost }, dbg, fun x hx => ?_⟩
      rw [hj, hx]
      exact congrArg (fun u : State => { u with
        mss := { (engagedWith w s).mss with logFifo := log, logLost := lost }, dbg := dbg, twn := x }) heq
    refine ⟨fun hok he hchecks => ?_, fun hok he hchecks => ?_, fun hok he hf => ?_, fun hok he hf => ?_, fun hok => ?_⟩
    · have hexec := engages hp hr hok he hchecks
      refine ⟨fun hu => ?_, fun hu ha => ?_, fun hu ha hv => ?_, fun hu ha hv hf ht => ?_⟩
      · rw [engage_linked hsorted hw hu] at hexec
        refine ⟨_, hexec, ?_, ?_, hcfg, hother⟩
        · rw [heq]
          rfl
        · exact congrArg (saidTwn s) (helloBody_withTwn (u := engagedWith w s) (st := .ok)
            (congrArg TwinSt.tookOver htwn.symm) (congrArg TwinSt.fenced htwn.symm)).symm
      · rw [engage_unlinked hsorted hw hu, judgePartner_alive heng (hup.trans hu) (by rw [htwn]; exact ha)] at hexec
        refine ⟨_, hexec, ?_, ?_, hcfg, hother⟩
        · rw [heq]
          rfl
        · exact congrArg (fun x : TwinSt => { x with state := 4, version := 0 }) htwn
      · obtain ⟨mss, dbg, hj⟩ := hlost hu ha
        rw [hj _ (if_neg fun h => Bool.false_ne_true (hv.symm.trans (hauto.symm.trans h.1)))] at hexec
        refine ⟨_, hexec, rfl, ?_, hcfg, hother⟩
        exact congrArg (fun x : TwinSt => { x with state := 5, version := 0 }) htwn
      · obtain ⟨mss, dbg, hj⟩ := hlost hu ha
        rw [hj _ (if_pos ⟨hauto.trans hv, by rw [htwn]; exact hf, by rw [htwn]; exact ht⟩)] at hexec
        refine ⟨_, hexec, rfl, ?_, hcfg, hother⟩
        exact congrArg (fun x : TwinSt => { x with
          state := 5, version := 0, epoch := x.epoch + 1, recorded := [1#4], tookOver := true, taking := true }) htwn
    · rw [twinEngage_exec hp hr, twnCfgWrite_engages hok he hw, twinEngage, if_pos (by simp [w, hchecks])]
      rfl
    · rw [twinEngage_exec hp hr, twnCfgWrite_fixed hok he hw hf]
      rfl
    · rw [twinEngage_exec hp hr, twnCfgWrite_stores hok (.inl ⟨he, hw, hf⟩)]
      exact ⟨_, rfl, rfl, twnCfg_setReg hsorted rfl⟩
    · rw [twinEngage_exec hp hr, twnCfgWrite_invalid hok]
      rfl
  case disengage =>
    intro v s hsorted hp hr w
    have hw : w.getLsbD 63 = false := disengageWord_bit
    refine ⟨fun hok => ?_, fun hok he ht hf hx => ?_, fun hok he hc => ?_, fun hok he => ?_⟩
    · rw [twinDisengage_exec hp hr, twnCfgWrite_invalid hok]
      rfl
    · rw [twinDisengage_exec hp hr, twnCfgWrite_disengages hok he hw, twinDisengage, if_neg (by simp [ht, w, hf])]
      obtain ⟨timers, htimer⟩ := haltTimer_timersOnly 0x11 (setReg s Reg.twnCfg (w &&& twnCfgMask))
      rw [hx, foldOver, List.foldl_nil, htimer]
      obtain ⟨hcfg, hother⟩ := twnCfg_setReg (t := setReg s Reg.twnCfg (w &&& twnCfgMask)) hsorted rfl
      refine ⟨_, rfl, rfl, ?_, ?_, ?_, hother⟩
      · refine (congrArg (bitAt · 63) hcfg).trans ?_
        rw [bitAt, BitVec.getLsbD_and, hw, Bool.false_and]
      · exact congrArg (fun l => { s.twn with
          hbTx := false, state := 0, cause := 0, version := 0, partnerHello := none, txq := [], early := []
          recopy := false, inCopy := false, giveback := false, resyncing := false, fetching := l, out := [] }) hx.symm
      · rw [← twnCfgMask_eq]
        exact hcfg
    · rw [twinDisengage_exec hp hr, twnCfgWrite_disengages hok he hw, twinDisengage, if_pos hc]
      rfl
    · rw [twinDisengage_exec hp hr, twnCfgWrite_stores hok (.inr ⟨he, hw⟩)]
      exact ⟨_, rfl, rfl, twnCfg_setReg hsorted rfl⟩
  case heartbeat =>
    intro s hp
    have htoggle : exec .heartbeatToggle s = .next (hbToggle s) := congrArg Host.Outcome.next (mssRuns_on hp)
    have hedge : exec .heartbeatEdge s = .next (hbEdge s) := congrArg Host.Outcome.next (mssRuns_on hp)
    have hmiss : exec .heartbeatMiss s = .next (hbMiss s) := congrArg Host.Outcome.next (mssRuns_on hp)
    refine ⟨fun he hc hpow => ?_, fun he => ?_, fun hc hlast => ?_, fun x hx hsoon => ?_, fun ha => ?_, fun ha he => ?_,
      fun ha he hu hroom => ?_, fun ha he hu hs hroom => ?_⟩
    · obtain ⟨timers, ht⟩ := startTimer_timersOnly 0x11 { s with twn := { s.twn with hbTx := !s.twn.hbTx } }
      rw [htoggle, hbToggle, if_pos ⟨he, hc, hpow⟩, ht]
      exact ⟨_, rfl, rfl⟩
    · rw [htoggle, hbToggle, if_neg (by simp [he])]
    · have hgood : hbEdge s = judgePartner { s with
          twn := { s.twn with lastEdge := some s.time.raw, hbAlive := true } } :=
        if_neg (by simp [hc, edgeTooSoon_eq_false hlast])
      rw [hedge, hgood]
      refine ⟨fun h => ?_, fun he hu => ?_⟩
      · obtain he | hu := h
        · exact congrArg Host.Outcome.next (judgePartner_disengaged he)
        · exact congrArg Host.Outcome.next (judgePartner_linked hu)
      · exact congrArg Host.Outcome.next (judgePartner_alive (s := { s with
          twn := { s.twn with lastEdge := some s.time.raw, hbAlive := true } }) he hu rfl)
    · rw [hedge, hbEdge, if_pos (.inr (edgeTooSoon_eq_true hx hsoon))]
    · rw [hmiss, hbMiss, if_pos (by simp [ha])]
    · rw [hmiss, hbMiss_alive ha, if_pos (by simpa using he)]
    · obtain ⟨l, hl, e, hmem, hcode, -, htime⟩ := logEv_enters (codeCounter 12 3) 0 0xFF none []
        (s := count 12 3 0 { s with twn := { s.twn with hbAlive := false } }) (by simpa using hroom)
      rw [hmiss, hbMiss_alive ha, if_neg (by simp [he]), if_neg (by simpa using hu), hl, count_withTwn]
      exact ⟨_, rfl, by rw [count_eq], e, hmem, hcode, by simpa using htime⟩
    · obtain ⟨l, hl, e, hmem, hcode, -, htime⟩ := logEv_enters (codeOther 12) 2 0xFF none [s.twn.epoch.toNat]
        (s := { s with twn := { s.twn with hbAlive := false, state := 5, version := 0 } }) hroom
      have hlost : judgePartner { s with twn := { s.twn with hbAlive := false } } =
          partnerLost { s with twn := { s.twn with hbAlive := false } } := judgePartner_lost he hu rfl hs
      rw [hmiss, hbMiss_alive ha, if_neg (by simp [he]), if_pos (by simp [hu]), hlost, partnerLost_eq, hl]
      refine ⟨_, rfl, rfl, ⟨e, hmem, hcode, htime⟩, fun hv hf ht => if_pos ⟨hv, hf, ht⟩, fun h => if_neg ?_⟩
      rintro ⟨hv, hf, ht⟩
      obtain h | h | h := h
      · exact Bool.false_ne_true (h.symm.trans hv)
      · exact Bool.false_ne_true (hf.symm.trans h)
      · exact Bool.false_ne_true (ht.symm.trans h)

end Sys2Proof.Machine
end

section
/-! The messages of the mirror's sending side, and the pairing of twins (R355-R358). -/

namespace Sys2Proof.Machine

open Sys2Proof

/-! ### Messages sent (R358) -/

/-- `t` is `s` with the messages `msgs` queued for acknowledgement, under the next numbers, and sent. -/
def Pushes (msgs : List (Byte × List Byte)) (s t : State) : Prop := ∃ q next out,
  t = { s with twn := { s.twn with
    sentMseq := s.twn.sentMseq + msgs.length, nextSub := next, txq := s.twn.txq ++ q, out := out } } ∧
  q.map (fun x => (x.mtype, x.body)) = msgs ∧ ∀ (i : Nat) (x : MirrorMsg), q[i]? = some x → x.mseq = s.twn.sentMseq + 1 + i

namespace Pushes

theorem refl (s : State) : Pushes [] s s := ⟨[], s.twn.nextSub, s.twn.out, by simp, rfl, fun _ _ h => by simp at h⟩

variable {a b : List (Byte × List Byte)} {s t u : State}

theorem trans (hst : Pushes a s t) (htu : Pushes b t u) : Pushes (a ++ b) s u := by
  obtain ⟨q, next, out, rfl, hq, hseq⟩ := hst
  obtain ⟨q', next', out', rfl, hq', hseq'⟩ := htu
  have hlen : q.length = a.length := by rw [← hq, List.length_map]
  refine ⟨q ++ q', next', out', ?_, by rw [List.map_append, hq, hq'], fun i x hx => ?_⟩
  · simp [Nat.add_assoc]
  · rw [List.getElem?_append] at hx
    split at hx
    · exact hseq i x hx
    · have := hseq' _ x hx
      dsimp only at this
      omega

/-- The message sent as the i-th of them. -/
theorem get (h : Pushes a s t) {i : Nat} {m : Byte} {body : List Byte} (hi : a[i]? = some (m, body)) :
    ∃ x, t.twn.txq[s.twn.txq.length + i]? = some x ∧ x.mtype = m ∧ x.body = body ∧ x.mseq = s.twn.sentMseq + 1 + i := by
  obtain ⟨q, next, out, rfl, hq, hseq⟩ := h
  rw [← hq, List.getElem?_map, Option.map_eq_some_iff] at hi
  obtain ⟨x, hx, hmb⟩ := hi
  obtain ⟨rfl, rfl⟩ := Prod.mk.injEq .. ▸ hmb
  refine ⟨x, ?_, rfl, rfl, hseq i x hx⟩
  rw [List.getElem?_append_right (Nat.le_add_right ..), Nat.add_sub_cancel_left, hx]

theorem mem (h : Pushes a s t) {m : Byte} {body : List Byte} (hm : (m, body) ∈ a) :
    ∃ x ∈ t.twn.txq, x.mtype = m ∧ x.body = body := by
  obtain ⟨i, hi⟩ := List.mem_iff_getElem?.mp hm
  obtain ⟨x, hx, hmt, hb, -⟩ := h.get hi
  exact ⟨x, List.mem_of_getElem? hx, hmt, hb⟩

theorem sent (h : Pushes a s t) : t.twn.sentMseq = s.twn.sentMseq + a.length := by
  obtain ⟨q, next, out, rfl, -, -⟩ := h
  rfl

theorem only (h : Pushes a s t) : t = { s with twn := t.twn } := by
  obtain ⟨q, next, out, rfl, -, -⟩ := h
  rfl

theorem twn_eq (h : Pushes a s t) : t.twn = { s.twn with
    sentMseq := t.twn.sentMseq, nextSub := t.twn.nextSub, txq := t.twn.txq, out := t.twn.out } := by
  obtain ⟨q, next, out, rfl, -, -⟩ := h
  rfl

theorem fenced (h : Pushes a s t) : t.twn.fenced = s.twn.fenced := (congrArg TwinSt.fenced h.twn_eq :)

theorem recopy (h : Pushes a s t) : t.twn.recopy = s.twn.recopy := (congrArg TwinSt.recopy h.twn_eq :)

theorem up (h : Pushes a s t) : upSublinks t = upSublinks s := by
  obtain ⟨q, next, out, rfl, -, -⟩ := h
  rfl

/-- The last of the messages sent. -/
theorem last (h : Pushes a s t) {m : Byte} {body : List Byte} (hl : a.getLast? = some (m, body)) :
    ∃ x, t.twn.txq.getLast? = some x ∧ x.mtype = m ∧ x.body = body ∧ x.mseq = t.twn.sentMseq := by
  have hpos : 0 < a.length := List.length_pos_iff.mpr fun h0 => by simp [h0] at hl
  rw [List.getLast?_eq_getElem?] at hl
  obtain ⟨x, hx, hm, hb, hseq⟩ := h.get hl
  refine ⟨x, ?_, hm, hb, by rw [hseq, h.sent]; omega⟩
  obtain ⟨q, next, out, rfl, hq, -⟩ := h
  have hlen : q.length = a.length := by rw [← hq, List.length_map]
  rw [List.getLast?_eq_getElem?]
  simp only [List.length_append, hlen] at hx ⊢
  rwa [show s.twn.txq.length + a.length - 1 = s.twn.txq.length + (a.length - 1) by omega]

/-- What stood in the queue stays there, and every further message is one of those sent. -/
theorem mem_txq (h : Pushes a s t) {x : MirrorMsg} (hx : x ∈ t.twn.txq) : x ∈ s.twn.txq ∨ (x.mtype, x.body) ∈ a := by
  obtain ⟨q, next, out, rfl, hq, -⟩ := h
  obtain hx | hx := List.mem_append.mp hx
  · exact .inl hx
  · exact .inr (hq ▸ List.mem_map.mpr ⟨x, hx, rfl⟩)

end Pushes

section
variable {s : State}

theorem pickSub_some (h : upSublinks s ≠ []) : ∃ n, pickSub s = some n := by
  unfold pickSub
  dsimp only
  split
  · exact ⟨_, rfl⟩
  · exact ⟨_, List.head?_eq_some_head h⟩

theorem mirrorPush_pushes {m : Byte} {body : List Byte} (h : upSublinks s ≠ []) : Pushes [(m, body)] s (mirrorPush m body s) := by
  obtain ⟨n, hn⟩ := pickSub_some h
  refine ⟨[{ mseq := s.twn.sentMseq + 1, mtype := m, body := body, sub := n }], n + 1,
    s.twn.out ++ [(n, twinOctets m (s.twn.sentMseq + 1) s.twn.epoch body)], ?_, rfl, fun i x hx => ?_⟩
  · rw [mirrorPush, hn]
    rfl
  · obtain ⟨rfl, rfl⟩ : i = 0 ∧ _ = x := by
      cases i with
      | zero => exact ⟨rfl, by simpa using hx⟩
      | succ i => simp at hx
    rfl

/-- Messages pushed one after another. -/
theorem pushAll {β : Type} {f : State → β → State} {msg : β → Byte × List Byte}
    (hf : ∀ s x, upSublinks s ≠ [] → Pushes [msg x] s (f s x)) (l : List β) (h : upSublinks s ≠ []) :
    Pushes (l.map msg) s (foldOver l f s) := by
  unfold foldOver
  induction l generalizing s with
  | nil => exact .refl s
  | cons x l ih =>
    have hx := hf s x h
    exact hx.trans (ih (hx.up ▸ h))

/-- The messages of a copy, with its frame. -/
def framed (resync : Bool) (msgs : List (Byte × List Byte)) : List (Byte × List Byte) :=
  [(13#8, [BitVec.ofNat 8 (bit1 resync)])] ++ (msgs ++ [(14#8, beBytes 8 msgs.length)])

theorem sendCopy_pushes (resync : Bool) (msgs : List (Byte × List Byte)) (h : upSublinks s ≠ []) :
    Pushes (framed resync msgs) s (sendCopy resync msgs s) := by
  have hbegin := mirrorPush_pushes (m := 13#8) (body := [BitVec.ofNat 8 (bit1 resync)]) h
  have hmsgs := pushAll (f := fun s m => mirrorPush m.1 m.2 s) (msg := id) (fun s x hu => mirrorPush_pushes hu) msgs
    (hbegin.up ▸ h)
  rw [List.map_id] at hmsgs
  exact hbegin.trans (hmsgs.trans (mirrorPush_pushes (by rw [hmsgs.up, hbegin.up]; exact h)))

/-- The messages of a full copy. -/
def fullCopyOf (s : State) : List (Byte × List Byte) :=
  framed false (copyObjects s true ++ (if s.twn.tookOver then copyObjects s false else []) ++ copyRoutes s ++
    [(10#8, epochsBody s)])

theorem fullCopy_fenced (h : s.twn.fenced = true) : fullCopy s = s := if_pos h

theorem fullCopy_pushes (hf : s.twn.fenced = false) (h : upSublinks s ≠ []) :
    Pushes (fullCopyOf s) { s with twn := { s.twn with recopy := false } } (fullCopy s) := by
  rw [fullCopy, if_neg (by simp [hf])]
  exact sendCopy_pushes (s := { s with twn := { s.twn with recopy := false } }) _ _ h

theorem mirrorSend_paired {m : Byte} {body : List Byte} (hs : s.twn.state = 2) (he : engaged s = true)
    (hr : s.twn.recopy = false) (hq : s.twn.txq.length < 65536) : mirrorSend m body s = mirrorPush m body s := by
  rw [mirrorSend, if_neg (by simp [hs, he, hr]), if_neg (by omega)]

/-- A new epoch while paired is mirrored. -/
theorem setPairEpoch_pushes {e : BitVec 32} (hne : e ≠ s.twn.epoch) (hs : s.twn.state = 2) (he : engaged s = true)
    (hr : s.twn.recopy = false) (hq : s.twn.txq.length < 65536) (hu : upSublinks s ≠ []) :
    ∃ body, Pushes [(10#8, body)] { s with twn := { s.twn with epoch := e, recorded := [] } } (setPairEpoch e s) := by
  rw [setPairEpoch, if_neg hne, mirrorEpochs,
    mirrorSend_paired (s := { s with twn := { s.twn with epoch := e, recorded := [] } }) hs he hr hq]
  exact ⟨_, mirrorPush_pushes (s := { s with twn := { s.twn with epoch := e, recorded := [] } }) hu⟩

end

/-! ### The message at the front of those received -/

section
variable {s : State} {mtype : Byte} {named : Nat × List Byte → Bool} {op : Nat → TwinMsg → State → State}

theorem takeMsg_none (h : s.twn.inbox = []) : takeMsg mtype named op s = s := by rw [takeMsg, h]

variable {e : Nat × List Byte} {rest : List (Nat × List Byte)} (h : s.twn.inbox = e :: rest)
include h

theorem takeMsg_other (hn : ¬ (named e = true ∧ (twinMsgOf e.2).mtype = mtype)) : takeMsg mtype named op s = s := by
  rw [takeMsg, h]
  exact if_neg hn

theorem takeMsg_takes (hn : named e = true) (hm : (twinMsgOf e.2).mtype = mtype) :
    takeMsg mtype named op s = op e.1 (twinMsgOf e.2) { s with twn := { s.twn with inbox := rest } } := by
  rw [takeMsg, h]
  exact if_pos ⟨hn, hm⟩

end

/-! ### Fencing (R362) -/

theorem closePorts_up (s : State) : upSublinks (closePorts s) = upSublinks s := by
  unfold upSublinks
  refine List.filter_congr fun n _ => ?_
  have hport : getPort (closePorts s) (1024 + n) = getPort s (1024 + n) := by
    simp only [getPort, closePorts, Map.getD, Map.get?_each]
    cases Map.get? s.ports (1024 + n) with
    | none => rfl
    | some p => exact congrArg (Option.getD · Port.reset) (congrArg some (if_pos (Nat.le_add_right ..)))
  rw [hport]

/-- A device fenced, with its ports closing, before it says so. -/
def fencing (s : State) : State := { closePorts s with twn := { s.twn with fenced := true, resynced := false } }

theorem fenceSelf_fences {s : State} (he : engaged s = true) (hf : s.twn.fenced = false) :
    fenceSelf s = { fencing s with twn := { s.twn with
      fenced := true, resynced := false
      out := s.twn.out ++ (upSublinks s).map (fun n => (n, twinOctets 1 0 s.twn.epoch (helloBody (fencing s)))) } } := by
  have hsays : fenceSelf s = helloNow (fencing s) := if_neg (by simp [he, hf])
  have hup : upSublinks (fencing s) = upSublinks s := closePorts_up s
  rw [hsays, helloNow_says (s := fencing s) he, hellosOf, hup]
  rfl

theorem fenceSelf_keeps_still {s : State} (h : engaged s = false ∨ s.twn.fenced = true) : fenceSelf s = s :=
  if_pos (by simpa using h)

/-- Fencing changes the ports and, of the twin pair's state, only the marks of a fence and what waits to be sent. -/
theorem fenceSelf_eq {s : State} (he : engaged s = true) : ∃ r o, fenceSelf s = { s with
    ports := (fenceSelf s).ports, twn := { s.twn with fenced := true, resynced := r, out := o } } ∧
    upSublinks (fenceSelf s) = upSublinks s := by
  by_cases hf : s.twn.fenced = true
  · refine ⟨s.twn.resynced, s.twn.out, ?_, ?_⟩
    · rw [fenceSelf_keeps_still (.inr hf), ← hf]
    · rw [fenceSelf_keeps_still (.inr hf)]
  · refine ⟨false, s.twn.out ++ (upSublinks s).map (fun n => (n, twinOctets 1 0 s.twn.epoch (helloBody (fencing s)))),
      ?_, ?_⟩
    · rw [fenceSelf_fences he (by simpa using hf)]
      rfl
    · rw [fenceSelf_fences he (by simpa using hf)]
      exact closePorts_up s

/-! ### Pairing (R355, R356) -/

/-- The larger epoch stands; one that rises is mirrored. -/
theorem raiseEpoch_pushes {e : BitVec 32} {s : State} (hs : s.twn.state = 2) (he : engaged s = true)
    (hr : s.twn.recopy = false) (hq : s.twn.txq.length < 65536) (hu : upSublinks s ≠ []) : ∃ ep rec msgs,
      Pushes msgs { s with twn := { s.twn with epoch := ep, recorded := rec } } (raiseEpoch e s) ∧
      ep.toNat = max s.twn.epoch.toNat e.toNat ∧ (e.toNat ≤ s.twn.epoch.toNat → msgs = []) ∧
      (s.twn.epoch.toNat < e.toNat → ∃ body, msgs = [(10#8, body)]) := by
  by_cases hlt : s.twn.epoch.toNat < e.toNat
  · have hne : e ≠ s.twn.epoch := fun h => by rw [h] at hlt; exact lt_irrefl _ hlt
    obtain ⟨body, hpush⟩ := setPairEpoch_pushes hne hs he hr hq hu
    rw [raiseEpoch, if_pos hlt]
    exact ⟨_, _, _, hpush, by omega, fun h => by omega, fun _ => ⟨body, rfl⟩⟩
  · rw [raiseEpoch, if_neg hlt]
    exact ⟨s.twn.epoch, s.twn.recorded, [], .refl s, by omega, fun _ => rfl, fun h => absurd h hlt⟩

/-- The twin pair's state where a pairing begins its numbers anew. -/
def afresh (s : State) : State := { s with twn := { s.twn with
  state := 2, cause := 0, version := 1, sentMseq := 0, ackedMseq := 0, txq := [], recopy := false, rxNext := 1
  early := [], sinceAck := 0, inCopy := false, copyResync := false } }

/-- The state a pairing reaches before it sends: afresh, fenced where due, at the larger epoch. -/
structure PairedAs (m : TwinHelloMsg) (s u : State) : Prop where
  only : u = { s with ports := u.ports, twn := { (afresh s).twn with
    fenced := s.twn.fenced || mustFence s m, resynced := u.twn.resynced, out := u.twn.out
    epoch := u.twn.epoch, recorded := u.twn.recorded } }
  up : upSublinks u = upSublinks s
  open_ : mustFence s m = false → u.ports = s.ports
  epoch : u.twn.epoch.toNat = max s.twn.epoch.toNat m.epoch.toNat

/-- What a pairing sends: the epoch that rises, then a full copy unless the device is fenced, then FETCH again for what
is absent. -/
theorem pairUp_pushes (m : TwinHelloMsg) {s : State} (he : engaged s = true) (hu : upSublinks s ≠ []) :
    ∃ u raised copy fetches, PairedAs m s u ∧ Pushes (raised ++ (copy ++ fetches)) u (pairUp m s) ∧
      (∀ x ∈ fetches, x.1 = 12#8) ∧ (u.twn.fenced = true → copy = []) ∧
      (u.twn.fenced = false → ∃ r, copy = (13#8, [0#8]) :: r) ∧
      (m.epoch.toNat ≤ s.twn.epoch.toNat → raised = []) ∧
      (s.twn.epoch.toNat < m.epoch.toNat → ∃ body, raised = [(10#8, body)]) := by
  obtain ⟨ports, r, o, hfence, hup, hopen⟩ : ∃ ports r o, (if mustFence s m then fenceSelf (afresh s) else afresh s) =
      { s with ports := ports, twn := { (afresh s).twn with
        fenced := s.twn.fenced || mustFence s m, resynced := r, out := o } } ∧
      upSublinks (if mustFence s m then fenceSelf (afresh s) else afresh s) = upSublinks s ∧
      (mustFence s m = false → ports = s.ports) := by
    by_cases hf : mustFence s m = true
    · obtain ⟨r, o, heq, hup⟩ := fenceSelf_eq (s := afresh s) he
      rw [if_pos hf, hf]
      exact ⟨_, r, o, by simpa [afresh] using heq, hup, fun h => by simp at h⟩
    · rw [if_neg hf]
      refine ⟨s.ports, s.twn.resynced, s.twn.out, ?_, rfl, fun _ => rfl⟩
      simp [afresh, hf]
  set v : State := if mustFence s m then fenceSelf (afresh s) else afresh s with hv
  obtain ⟨ep, rec, raised, hraise, hmax, hlow, hhigh⟩ := raiseEpoch_pushes (e := m.epoch) (s := v)
    (by rw [hfence]; rfl) (by rw [hfence]; exact he) (by rw [hfence]; rfl) (by rw [hfence]; exact (by decide : 0 < 65536))
    (hup ▸ hu)
  rw [show v.twn.epoch = s.twn.epoch by rw [hfence]; rfl] at hmax hlow hhigh
  set w := raiseEpoch m.epoch v
  have hwup : upSublinks w = upSublinks s := hraise.up.trans hup
  obtain ⟨copy, hcopy, hfenced, hopen'⟩ : ∃ copy, Pushes copy w (fullCopy w) ∧ (w.twn.fenced = true → copy = []) ∧
      (w.twn.fenced = false → ∃ r, copy = (13#8, [0#8]) :: r) := by
    by_cases hf : w.twn.fenced = true
    · exact ⟨[], by rw [fullCopy_fenced hf]; exact .refl w, fun _ => rfl, fun h => by simp [hf] at h⟩
    · have hrecopy : w.twn.recopy = false := hraise.recopy.trans (by rw [hfence]; rfl)
      have hsame : { w with twn := { w.twn with recopy := false } } = w := by rw [← hrecopy]
      refine ⟨fullCopyOf w, hsame ▸ fullCopy_pushes (by simpa using hf) (hwup ▸ hu), fun h => absurd h hf, fun _ => ⟨_, rfl⟩⟩
  have hfetch := pushAll (s := fullCopy w) (f := fun s (x : Nat × Nat) => fetchOne x.1 x.2 s)
    (msg := fun x => (12#8, [BitVec.ofNat 8 x.1, 0] ++ beBytes 2 (fetchNo x.1 x.2) ++ zeros 4))
    (fun s x hu => mirrorPush_pushes hu) s.twn.fetching (by rw [hcopy.up, hwup]; exact hu)
  have hwfenced : w.twn.fenced = v.twn.fenced := hraise.fenced
  refine ⟨{ v with twn := { v.twn with epoch := ep, recorded := rec } }, raised, copy, _, ⟨?_, hup, ?_, hmax⟩, hraise.trans (hcopy.trans hfetch), ?_, fun h => hfenced (hwfenced.trans h),
    fun h => hopen' (hwfenced.trans h), hlow, hhigh⟩
  · rw [hfence]
  · rw [hfence]
    exact hopen
  · intro x hx
    obtain ⟨y, -, rfl⟩ := List.mem_map.mp hx
    rfl

/-! ### HELLO received (R355) -/

/-- The partner's HELLO is kept. -/
def heard (m : TwinHelloMsg) (s : State) : State := { s with twn := { s.twn with partnerHello := some m } }

/-- A mismatch is shown. -/
def mismatch (c : BitVec 4) (s : State) : State :=
  { s with twn := { s.twn with state := 3, cause := c, version := 0, txq := [], recopy := false } }

section
variable {s : State} {n : Nat} {m : TwinHelloMsg}

theorem helloRx_elsewhere (hn : n ∉ upSublinks s) : helloRx n m s = s := if_pos (.inr (by simpa using hn))

variable (he : engaged s = true) (hn : n ∈ upSublinks s)
include he hn

theorem helloRx_heard : helloRx n m s = match helloCause (heard m s) m with
    | some c => if c = 3 ∧ ¬ (s.twn.state = 3 ∧ s.twn.cause = 3) then
        logEv (codeStatus 12 .versionUnsupported) 1 0xFF none [] (mismatch c (heard m s)) else mismatch c (heard m s)
    | none => if s.twn.state = 2 then heard m s else pairUp m (heard m s) :=
  if_neg (by simp [he, hn])

theorem helloRx_mismatch {c : BitVec 4} (hc : helloCause (heard m s) m = some c)
    (hquiet : c ≠ 3 ∨ s.twn.state = 3 ∧ s.twn.cause = 3) : helloRx n m s = mismatch c (heard m s) := by
  rw [helloRx_heard he hn, hc]
  exact if_neg fun h => hquiet.elim (fun hne => hne h.1) h.2

theorem helloRx_unsupported (hc : helloCause (heard m s) m = some 3) (hnew : s.twn.state ≠ 3 ∨ s.twn.cause ≠ 3) :
    helloRx n m s = logEv (codeStatus 12 .versionUnsupported) 1 0xFF none [] (mismatch 3 (heard m s)) := by
  rw [helloRx_heard he hn, hc]
  exact if_pos ⟨rfl, fun h => hnew.elim (fun hne => hne h.1) (fun hne => hne h.2)⟩

theorem helloRx_paired (hc : helloCause (heard m s) m = none) (hs : s.twn.state = 2) : helloRx n m s = heard m s := by
  rw [helloRx_heard he hn, hc]
  exact if_pos hs

theorem helloRx_pairs (hc : helloCause (heard m s) m = none) (hs : s.twn.state ≠ 2) :
    helloRx n m s = pairUp m (heard m s) := by
  rw [helloRx_heard he hn, hc]
  exact if_neg hs

end

/-! ### Acknowledgements (R358) -/

section
variable {s : State} {q : Nat}

theorem twinAckRx_ignored (h : s.twn.state ≠ 2 ∨ s.twn.sentMseq < q ∨ q ≤ s.twn.ackedMseq) : twinAckRx q s = s := if_pos h

/-- The messages covered are done. -/
def ackedTo (q : Nat) (s : State) : State :=
  { s with twn := { s.twn with ackedMseq := q, txq := s.twn.txq.filter (fun m => decide (q < m.mseq)) } }

theorem twinAckRx_acks (hs : s.twn.state = 2) (hle : q ≤ s.twn.sentMseq) (hlt : s.twn.ackedMseq < q) :
    twinAckRx q s = if s.twn.recopy ∧ s.twn.sentMseq - q < 4096 then fullCopy (ackedTo q s) else ackedTo q s :=
  if_neg (by simp [hs]; omega)

theorem sendTwinAck_first {n : Nat} {l : List Nat} (h : upSublinks s = n :: l) : sendTwinAck s = { s with
    twn := { s.twn with
      sinceAck := 0, out := s.twn.out ++ [(n, twinOctets 2 0 s.twn.epoch (beBytes 8 (s.twn.rxNext - 1)))] } } := by
  rw [sendTwinAck, h]
  rfl

end

/-- Settles O55: HELLO and ACK by the message at the front, and a pairing through what it sends. -/
theorem twinsPair : Obligations.TwinsPair := by
  unfold Obligations.TwinsPair
  intro s he hp
  have htimer : exec .twinHelloTimer s = .next (helloTimer s) := congrArg Host.Outcome.next (mssRuns_on hp)
  have hack : exec .twinAckTimer s = .next (twinAckTick s) := congrArg Host.Outcome.next (mssRuns_on hp)
  have hrow (k : BitVec 3) (o : List Byte) : exec (.twinHello k o) s = .next (takeMsg 1 (fun e => e == (k.toNat, o))
      (fun n m => helloRx n (helloOf m)) s) := congrArg Host.Outcome.next (mssRuns_on hp)
  have hackRow (k : BitVec 3) (q : W64) : exec (.twinAck k q) s = .next (takeMsg 2
      (fun e => e.1 == k.toNat && bodyAt (twinMsgOf e.2).body 0 8 == q.toNat) (fun _ _ => twinAckRx q.toNat) s) :=
    congrArg Host.Outcome.next (mssRuns_on hp)
  refine ⟨fun hs => ?_, fun hs => ?_, fun hin k o q => ?_, fun n b rest hin => ?front, fun n l hs hsince hu => ?_, fun hs => ?_⟩
  · rw [htimer, helloTimer, if_neg hs, helloNow_says he]
    rfl
  · rw [htimer, helloTimer, if_pos hs]
  · rw [hrow, hackRow, takeMsg_none hin, takeMsg_none hin]
    exact ⟨rfl, rfl⟩
  case front =>
    intro m taken
    refine ⟨fun hm => ?_, fun hm q => ?_, fun k o hko => ?_, fun k q hkq => ?_, fun hm => ?hello, fun mseq hm hseq => ?ack⟩
    · rw [hrow, takeMsg_other hin fun h => hm h.2]
    · rw [hackRow, takeMsg_other hin fun h => hm h.2]
    · rw [hrow, takeMsg_other hin fun h => ?_]
      have heq : n = k ∧ b = o := by simpa [BitVec.toNat_inj] using h.1
      exact hko.elim (fun hk => hk heq.1.symm) (fun ho => ho heq.2.symm)
    · rw [hackRow, takeMsg_other hin fun h => ?_]
      have heq : n = k ∧ bodyAt m.body 0 8 = q.toNat := by simpa [BitVec.toNat_inj] using h.1
      exact hkq.elim (fun hk => hk heq.1.symm) (fun hq => hq heq.2.symm)
    case hello =>
      intro h s1 d chipBad digestBad versionBad shown
      have hexec : exec (.twinHello n b) s = .next (helloRx n.toNat h { s with twn := taken }) :=
        (hrow n b).trans (congrArg Host.Outcome.next (takeMsg_takes hin (by simp) hm))
      rw [hexec]
      refine ⟨fun hn => by rw [helloRx_elsewhere (s := { s with twn := taken }) hn], fun hn => ?_⟩
      have he0 : engaged { s with twn := taken } = true := he
      refine ⟨fun hc => ?_, fun hc hd => ?_, fun hc hd hv => ?_, fun hc hd hv => ?_⟩
      · have hcause : helloCause s1 h = some 1 := if_pos hc
        rw [helloRx_mismatch he0 hn hcause (.inl (by decide))]
        rfl
      · have hcause : helloCause s1 h = some 2 := (if_neg hc).trans (if_pos hd)
        rw [helloRx_mismatch he0 hn hcause (.inl (by decide))]
        rfl
      · have hcause : helloCause s1 h = some 3 := (if_neg hc).trans ((if_neg hd).trans (if_pos hv))
        refine ⟨fun hs hcs => ?_, fun hnew hroom => ?_⟩
        · rw [helloRx_mismatch he0 hn hcause (.inr ⟨hs, hcs⟩)]
          rfl
        · obtain ⟨l, hl, e, hmem, -, hsev, htime⟩ := logEv_enters (codeStatus 12 .versionUnsupported) 1 0xFF none []
            (s := mismatch 3 (heard h { s with twn := taken })) hroom
          rw [helloRx_unsupported he0 hn hcause hnew, hl]
          exact ⟨_, rfl, rfl, e, hmem, hsev, htime⟩
      · have hcause : helloCause s1 h = none := (if_neg hc).trans ((if_neg hd).trans (if_neg hv))
        refine ⟨fun hs => by rw [helloRx_paired he0 hn hcause hs]; rfl, fun hs => ?_⟩
        have hpairs : helloRx n.toNat h { s with twn := taken } = pairUp h s1 := helloRx_pairs he0 hn hcause hs
        rw [hpairs]
        obtain ⟨u, raised, copy, fetches, hu, hpush, hfetch, hfenced, hopen, hlow, hhigh⟩ :=
          pairUp_pushes h (s := s1) he (List.ne_nil_of_mem hn)
        have htwn := hpush.twn_eq
        have hutwn := congrArg State.twn hu.only
        have hempty : u.twn.txq = [] := congrArg TwinSt.txq hutwn
        have hfence : (pairUp h s1).twn.fenced = (s.twn.fenced || mustFence s1 h) :=
          hpush.fenced.trans (congrArg TwinSt.fenced hutwn)
        have hget {i : Nat} {mt : Byte} {body : List Byte} (hi : (raised ++ (copy ++ fetches))[i]? = some (mt, body)) :
            ∃ x, (pairUp h s1).twn.txq[i]? = some x ∧ x.mseq = i + 1 ∧ x.mtype = mt ∧ x.body = body := by
          obtain ⟨x, hx, hmt, hb, hxs⟩ := hpush.get hi
          rw [hempty] at hx
          rw [show u.twn.sentMseq = 0 from congrArg TwinSt.sentMseq hutwn] at hxs
          exact ⟨x, by simpa using hx, by omega, hmt, hb⟩
        have hports : (pairUp h s1).ports = u.ports := (congrArg State.ports hpush.only :)
        refine ⟨_, rfl, ?_, (congrArg TwinSt.state htwn).trans (congrArg TwinSt.state hutwn),
          (congrArg TwinSt.cause htwn).trans (congrArg TwinSt.cause hutwn),
          (congrArg TwinSt.version htwn).trans (congrArg TwinSt.version hutwn),
          (congrArg TwinSt.rxNext htwn).trans (congrArg TwinSt.rxNext hutwn),
          (congrArg TwinSt.ackedMseq htwn).trans (congrArg TwinSt.ackedMseq hutwn),
          (congrArg TwinSt.partnerHello htwn).trans (congrArg TwinSt.partnerHello hutwn),
          (congrArg TwinSt.inbox htwn).trans (congrArg TwinSt.inbox hutwn),
          (congrArg (fun x => x.epoch.toNat) htwn).trans hu.epoch, by rw [hfence]; simp, fun h => hports.trans (hu.open_ h),
          fun hf x hx => ?_, fun hf => ⟨fun hle => ?_, fun hgt => ?_⟩⟩
        · rw [hpush.only, hu.only]
        · obtain hx | hx := hpush.mem_txq hx
          · rw [hempty] at hx
            simp at hx
          · rw [hfenced (hpush.fenced.symm.trans hf), List.nil_append] at hx
            obtain hx | hx := List.mem_append.mp hx
            · by_cases hle : h.epoch.toNat ≤ s.twn.epoch.toNat
              · rw [hlow hle] at hx
                simp at hx
              · obtain ⟨body, rfl⟩ := hhigh (by simpa using hle)
                exact .inl (congrArg Prod.fst (List.mem_singleton.mp hx))
            · exact .inr (hfetch _ hx)
        · obtain ⟨r, rfl⟩ := hopen (hpush.fenced.symm.trans hf)
          rw [hlow hle] at hget
          exact hget (i := 0) rfl
        · obtain ⟨r, rfl⟩ := hopen (hpush.fenced.symm.trans hf)
          obtain ⟨body, rfl⟩ := hhigh hgt
          obtain ⟨x, hx, hxs, hmt, -⟩ := hget (i := 0) rfl
          obtain ⟨y, hy, hys, hyt, hyb⟩ := hget (i := 1) rfl
          exact ⟨x, y, hx, hxs, hmt, hy, hys, hyt, hyb⟩
    case ack =>
      intro q acked
      have hexec : exec (.twinAck n mseq) s = .next (twinAckRx q { s with twn := taken }) :=
        (hackRow n mseq).trans (congrArg Host.Outcome.next (takeMsg_takes hin (by simp [hseq, m]) hm))
      rw [hexec]
      refine ⟨fun h => by rw [twinAckRx_ignored (s := { s with twn := taken }) h], fun hs hle hlt => ?_⟩
      rw [twinAckRx_acks (s := { s with twn := taken }) hs hle hlt]
      refine ⟨fun h => ?_, fun hr hroom hf hu => ?_⟩
      · rw [if_neg fun hc => h.elim (fun hr => Bool.false_ne_true (hr.symm.trans hc.1)) (fun h => not_lt.mpr h hc.2)]
        rfl
      · rw [if_pos ⟨hr, hroom⟩]
        have hcopy := fullCopy_pushes (s := ackedTo q { s with twn := taken }) hf hu
        obtain ⟨x, hx, hmt, hb, hxs⟩ := hcopy.get (i := 0) rfl
        exact ⟨_, x, rfl, hcopy.only, congrArg TwinSt.ackedMseq hcopy.twn_eq, hcopy.recopy, List.mem_of_getElem? hx, hxs, hmt, hb⟩
  · rw [hack, twinAckTick, if_pos ⟨hs, hsince⟩, sendTwinAck_first hu]
  · rw [hack, twinAckTick, if_neg fun h => h.2 hs]

end Sys2Proof.Machine
end

section
/-! What becomes of a half of the pair: its contexts, groups, tallies, tables and entries (R359, R361, R363). -/

namespace Sys2Proof.Machine

open Sys2Proof

/-! ### Tiles and frames purged -/

/-- `t` is `s` but for the groups' queues and buffers, the books, the frames of the switch core, and what the ports keep
about frames and pauses: no port's state changes. -/
def QueuesPurged (s t : State) : Prop := ∃ groups moe sw ports wire arb,
  t = { s with
    groups := groups, moe := moe, sw := sw, ports := ports, wire := wire, bpm := { s.bpm with pcArb := arb } } ∧
  ∀ k, (getPort t k).state = (getPort s k).state

namespace QueuesPurged

theorem refl (s : State) : QueuesPurged s s := ⟨_, _, _, _, _, _, rfl, fun _ => rfl⟩

theorem trans {s t u : State} (hst : QueuesPurged s t) (htu : QueuesPurged t u) : QueuesPurged s u := by
  obtain ⟨_, _, _, _, _, _, rfl, hst⟩ := hst
  obtain ⟨_, _, _, _, _, _, rfl, htu⟩ := htu
  exact ⟨_, _, _, _, _, _, rfl, fun k => (htu k).trans (hst k)⟩

theorem foldOver {β : Type} {f : State → β → State} (hf : ∀ s x, QueuesPurged s (f s x)) (l : List β) (s : State) :
    QueuesPurged s (foldOver l f s) := foldOver_rel refl (fun _ _ _ => trans) hf l s

theorem modGroup (s : State) (g : Nat) (f : GroupSt → GroupSt) : QueuesPurged s (modGroup s g f) :=
  ⟨_, _, _, _, _, _, rfl, fun _ => rfl⟩

theorem modUnit (s : State) (g u : Nat) (f : UnitSt → UnitSt) : QueuesPurged s (modUnit s g u f) :=
  ⟨_, _, _, _, _, _, rfl, fun _ => rfl⟩

theorem setMoe (s : State) (m : MoeSt) : QueuesPurged s { s with moe := m } := ⟨_, _, _, _, _, _, rfl, fun _ => rfl⟩

theorem setSw (s : State) (w : SwitchSt) : QueuesPurged s { s with sw := w } := ⟨_, _, _, _, _, _, rfl, fun _ => rfl⟩

theorem modPort {s : State} {k : Nat} {f : Port → Port} (hf : ∀ p, (f p).state = p.state) :
    QueuesPurged s (modPort s k f) := by
  refine ⟨_, _, _, _, _, _, rfl, fun j => ?_⟩
  by_cases hj : j = k
  · subst hj
    rw [getPort_modPort_same, hf]
  · rw [getPort_modPort_other hj]

theorem ite {p : Prop} [Decidable p] {s t u : State} (ht : p → QueuesPurged s t) (hu : ¬ p → QueuesPurged s u) :
    QueuesPurged s (if p then t else u) := by
  split
  · next h => exact ht h
  · next h => exact hu h

variable {s t : State} (h : QueuesPurged s t)
include h

theorem regs_eq : t.regs = s.regs := by obtain ⟨_, _, _, _, _, _, rfl, -⟩ := h; rfl
theorem ctx_eq : t.ctx = s.ctx := by obtain ⟨_, _, _, _, _, _, rfl, -⟩ := h; rfl

end QueuesPurged

theorem setPause_purged (l : Nat) (want : Byte) (s : State) : QueuesPurged s (setPause l want s) := by
  refine .ite (fun _ => .refl s) fun _ => .ite (fun _ => .modPort fun _ => rfl) fun _ => ?_
  exact QueuesPurged.trans (t := modPort s l fun p => { p with pfcTx := want }) (.modPort fun _ => rfl)
    ⟨_, _, _, _, _, _, rfl, fun _ => rfl⟩

theorem pfcAll_purged (s : State) : QueuesPurged s (pfcAll s) :=
  .foldOver (fun s l => setPause_purged l _ s) (ethUp s) s

theorem forgetRx_purged (uid : Nat) (s : State) : QueuesPurged s (forgetRx uid s) := by
  unfold forgetRx
  split
  · exact .refl s
  · split
    · exact .ite (fun _ => .modPort fun _ => rfl) fun _ => .refl s
    · exact .refl s

theorem retag_purged (key : Nat) (s : State) : QueuesPurged s (retag key s) := by
  unfold retag
  exact .modPort fun _ => rfl

theorem eraseFrame_purged (uid : Nat) (s : State) : QueuesPurged s (eraseFrame uid s) := by
  refine (forgetRx_purged uid s).trans ?_
  unfold eraseFrame
  dsimp only
  split
  · exact (QueuesPurged.setSw _ _).trans (retag_purged ..)
  · exact .setSw _ _

theorem sendNotice_purged (pg : Nat) (pin : Bool) (src dst : Chip) (ch : Chan) (s : State) :
    QueuesPurged s (sendNotice pg pin src dst ch s) := .setSw s _

theorem pinMarks_purged (k : Nat) (w : Window) (s : State) : QueuesPurged s (pinMarks k w s) := by
  unfold pinMarks
  exact .ite (fun _ => (QueuesPurged.setSw ..).trans (sendNotice_purged ..)) fun _ =>
    .ite (fun _ => (QueuesPurged.setSw ..).trans (sendNotice_purged ..)) fun _ => .setSw ..

theorem dropFrame_purged (uid : Nat) (s : State) : QueuesPurged s (dropFrame uid s) := by
  unfold dropFrame
  split
  · exact (eraseFrame_purged ..).trans (pinMarks_purged ..)
  · exact eraseFrame_purged ..

theorem leaveQueue_purged (g uid : Nat) (s : State) : QueuesPurged s (leaveQueue g uid s) := by
  refine QueuesPurged.trans ?_ (pfcAll_purged _)
  exact .ite (fun _ => ((dropFrame_purged ..).trans (.setSw ..)).trans (.modGroup ..)) fun _ =>
    (dropFrame_purged ..).trans (.setSw ..)

theorem purgeQueued_purged (g : Nat) (p : Tile → Bool) (s : State) : QueuesPurged s (purgeQueued g p id s) := by
  refine .foldOver (fun s uid => ?_) _ s
  split
  · exact .ite (fun _ => leaveQueue_purged ..) fun _ => .refl s
  · exact .refl s

section
variable (s : State) (g h : Nat)

theorem freeBuf_purged : QueuesPurged s (freeBuf g h s) := .modGroup ..

theorem settleShare_purged : QueuesPurged s (settleShare g h s) := by
  unfold settleShare
  split
  · exact .ite (fun _ => (QueuesPurged.setMoe s _).trans (freeBuf_purged ..)) fun _ => .refl s
  · exact .refl s

theorem releaseTile_purged (unit heir : BitVec 16) : QueuesPurged s (releaseTile g h unit heir s) := by
  unfold releaseTile
  split
  · exact .refl s
  · exact .ite (fun _ => .ite (fun _ => (QueuesPurged.modGroup ..).trans (settleShare_purged ..)) fun _ => .refl s)
      fun _ => .ite (fun _ => freeBuf_purged ..) fun _ => .modGroup ..

theorem releaseHeld_purged : QueuesPurged s (releaseHeld g h s) := by
  unfold releaseHeld
  split
  · exact .ite (fun _ => (QueuesPurged.modGroup ..).trans (settleShare_purged ..)) fun _ => freeBuf_purged ..
  · exact .refl s

end

theorem purgeQueue_purged (g u taken : Nat) (p : Tile → Bool) (q : List QTile) (s : State) :
    QueuesPurged s (purgeQueue g u taken p q s).2 := by
  refine .foldOver (fun s x => ?_) _ s
  split
  · exact releaseTile_purged ..
  · exact .refl s

theorem purgeUnit_purged (g u : Nat) (p : Tile → Bool) (s : State) : QueuesPurged s (purgeUnit g u p s) := by
  unfold purgeUnit
  extract_lets un ta a b
  exact .ite (fun _ => .refl s) fun _ => ((purgeQueue_purged ..).trans (purgeQueue_purged ..)).trans (.modUnit ..)

theorem purgeHolds_purged (g : Nat) (p : Tile → Bool) (s : State) : QueuesPurged s (purgeHolds g p s) :=
  .ite (fun _ => .refl s) fun _ =>
    (QueuesPurged.foldOver (fun s x => releaseHeld_purged s g (QTile.handle x)) _ s).trans (.modGroup ..)

theorem purgeOffers_purged (own : Bool) (g : Nat) (p : Tile → Bool) (s : State) :
    QueuesPurged s (purgeOffers own g p s) :=
  .ite (fun _ => .refl s) fun _ => (QueuesPurged.foldOver (fun _ _ =>
    .ite (fun _ => releaseHeld_purged ..) fun _ => freeBuf_purged ..) _ s).trans (.modGroup ..)

theorem purgeGroup_purged (g : Nat) (p : Tile → Bool) (s : State) : QueuesPurged s (purgeGroup g p s) :=
  ((QueuesPurged.foldOver (fun s u => purgeUnit_purged g u p s) _ s).trans (purgeHolds_purged ..)).trans
    (purgeOffers_purged ..)

theorem freeOwned_purged (c : Nat) (s : State) : QueuesPurged s (freeOwned c s) :=
  .foldOver (fun _ _ => .ite (fun _ => .modGroup ..) fun _ => .refl _) _ s

/-! ### Contexts that go (R361, R363) -/

/-- No swap waits for a victim. -/
def NoneWait (s : State) : Prop := ∀ n ∈ s.ctx.needs, n.waits = false

theorem dropNeeds_noneWait {c : Nat} {l : List Need} (h : ∀ n ∈ l, n.waits = false) :
    ∀ n ∈ dropNeeds c l, n.waits = false := by
  intro n hn
  obtain ⟨m, hm, rfl⟩ := List.mem_map.mp (List.mem_filter.mp hn).1
  split_ifs
  · exact h m hm
  · exact h m hm
  · exact h m hm

/-- Without a swap that waits a context's record goes, with its swaps, and nothing else changes. -/
theorem eraseCtx_noneWait {c : Nat} {s : State} (h : NoneWait s) : eraseCtx c s = { s with
    ctx := { s.ctx with table := Map.erase s.ctx.table c, needs := dropNeeds c s.ctx.needs } } :=
  fillNeeds_none (s := { s with ctx := { s.ctx with
    table := Map.erase s.ctx.table c, needs := dropNeeds c s.ctx.needs } }) (dropNeeds_noneWait h)

/-- The contexts of `ks` are gone from `t`, and no other. -/
structure CtxsGone (ks : List Nat) (s t : State) : Prop where
  only : ∃ groups moe sw ports wire arb table needs, t = { s with
    groups := groups, moe := moe, sw := sw, ports := ports, wire := wire, bpm := { s.bpm with pcArb := arb }
    ctx := { s.ctx with table := table, needs := needs } }
  link : ∀ k, (getPort t k).state = (getPort s k).state
  noneWait : NoneWait t
  sorted : Map.sorted t.ctx.table = true
  ctxs : ∀ c, getCtx t c = if c ∈ ks then none else getCtx s c

/-- A context goes with its tiles and buffers. -/
def ctxDropped (s : State) (e : Nat × Ctx) : State :=
  let p (t : Tile) : Bool := t.ctx.toNat == e.1
  eraseCtx e.1 (freeOwned e.1 (foldOver (upTo 16) (fun s g => purgeQueued g p id (purgeGroup g p s)) s))

theorem ctxDropped_gone {s : State} (e : Nat × Ctx) (hn : NoneWait s) (hs : Map.sorted s.ctx.table = true) :
    CtxsGone [e.1] s (ctxDropped s e) := by
  have hpurge : QueuesPurged s (freeOwned e.1 (foldOver (upTo 16)
      (fun s g => purgeQueued g (fun t => t.ctx.toNat == e.1) id (purgeGroup g (fun t => t.ctx.toNat == e.1) s)) s)) :=
    (QueuesPurged.foldOver (fun s g => (purgeGroup_purged ..).trans (purgeQueued_purged ..)) _ s).trans
      (freeOwned_purged ..)
  unfold ctxDropped
  dsimp only
  generalize freeOwned e.1 _ = u at hpurge ⊢
  have hctx := hpurge.ctx_eq
  rw [eraseCtx_noneWait (by rw [NoneWait, hctx]; exact hn)]
  obtain ⟨_, _, _, _, _, _, rfl, hlink⟩ := hpurge
  refine ⟨⟨_, _, _, _, _, _, _, _, rfl⟩, hlink, dropNeeds_noneWait hn, Map.sorted_erase hs, fun c => ?_⟩
  by_cases hc : c = e.1
  · rw [if_pos (by simp [hc]), hc]
    exact Map.get?_erase_same hs
  · rw [if_neg (by simpa using hc)]
    exact Map.get?_erase_other hc

namespace CtxsGone

theorem trans {a b : List Nat} {s t u : State} (hst : CtxsGone a s t) (htu : CtxsGone b t u) : CtxsGone (a ++ b) s u := by
  refine ⟨?_, fun k => (htu.link k).trans (hst.link k), htu.noneWait, htu.sorted, fun c => ?_⟩
  · obtain ⟨_, _, _, _, _, _, _, _, rfl⟩ := hst.only
    obtain ⟨_, _, _, _, _, _, _, _, rfl⟩ := htu.only
    exact ⟨_, _, _, _, _, _, _, _, rfl⟩
  · rw [htu.ctxs, hst.ctxs]
    by_cases ha : c ∈ a
    · simp [ha]
    · by_cases hb : c ∈ b
      · simp [hb]
      · simp [ha, hb]

end CtxsGone

theorem ctxsDropped_gone (l : List (Nat × Ctx)) {s : State} (hn : NoneWait s) (hs : Map.sorted s.ctx.table = true) :
    CtxsGone (l.map (·.1)) s (foldOver l ctxDropped s) := by
  unfold foldOver
  induction l generalizing s with
  | nil => exact ⟨⟨_, _, _, _, _, _, _, _, rfl⟩, fun _ => rfl, hn, hs, fun _ => by simp⟩
  | cons e l ih =>
    have he := ctxDropped_gone e hn hs
    rw [List.foldl_cons]
    exact CtxsGone.trans (t := ctxDropped s e) he (ih (s := ctxDropped s e) he.noneWait he.sorted)

/-- The contexts of one half go, and no other. -/
theorem dropHalfCtxs_gone (own : Bool) {s : State} (hn : NoneWait s) (hs : Map.sorted s.ctx.table = true) :
    ∃ ks, CtxsGone ks s (dropHalfCtxs own s) ∧
      ∀ c, getCtx (dropHalfCtxs own s) c = if ((halfBit 3 c == twinSide s) == own) = true then none else getCtx s c := by
  have hgone := ctxsDropped_gone (s.ctx.table.filter fun e => (halfBit 3 e.1 == twinSide s) == own) hn hs
  have hdrop : dropHalfCtxs own s =
      foldOver (s.ctx.table.filter fun e => (halfBit 3 e.1 == twinSide s) == own) ctxDropped s := rfl
  rw [hdrop]
  refine ⟨_, hgone, fun c => (hgone.ctxs c).trans ?_⟩
  by_cases hc : ((halfBit 3 c == twinSide s) == own) = true
  · rw [if_pos hc]
    split
    · rfl
    · next hmem =>
      refine Map.get?_eq_none_of_ne fun e he hec => hmem ?_
      exact List.mem_map.mpr ⟨e, List.mem_filter.mpr ⟨he, by rw [hec]; exact hc⟩, hec⟩
  · rw [if_neg hc, if_neg]
    intro hmem
    obtain ⟨e, he, rfl⟩ := List.mem_map.mp hmem
    exact hc (List.mem_filter.mp he).2

/-! ### Registers cleared -/

/-- In `t` the registers of `A` are 0 and every other is as in `s`; besides them only marks of SRAM and memory change. -/
structure Zeroed (A : Nat → Prop) (s t : State) : Prop where
  only : ∃ regs chk mem, t = { s with regs := regs, bpm := { s.bpm with sramChk := chk }, mem := mem }
  unmarked : s.mem.chk = [] → t.mem.chk = []
  sorted : Map.sorted t.regs = true
  zero : ∀ a, A a → reg t a = 0
  other : ∀ a, ¬ A a → reg t a = reg s a

namespace Zeroed

theorem refl {s : State} (h : Map.sorted s.regs = true) : Zeroed (fun _ => False) s s :=
  ⟨⟨_, _, _, rfl⟩, id, h, fun _ => False.elim, fun _ _ => rfl⟩

variable {A B : Nat → Prop} {s t u : State}

theorem trans (hst : Zeroed A s t) (htu : Zeroed B t u) : Zeroed (fun a => A a ∨ B a) s u := by
  refine ⟨?_, fun h => htu.unmarked (hst.unmarked h), htu.sorted, fun a ha => ?_, fun a ha => ?_⟩
  · obtain ⟨_, _, _, rfl⟩ := hst.only
    obtain ⟨_, _, _, rfl⟩ := htu.only
    exact ⟨_, _, _, rfl⟩
  · by_cases hb : B a
    · exact htu.zero a hb
    · rw [htu.other a hb]
      exact hst.zero a (ha.resolve_right hb)
  · rw [htu.other a fun h => ha (.inr h), hst.other a fun h => ha (.inl h)]

theorem congr (h : Zeroed A s t) (hAB : ∀ a, A a ↔ B a) : Zeroed B s t :=
  ⟨h.only, h.unmarked, h.sorted, fun a ha => h.zero a ((hAB a).mpr ha), fun a ha => h.other a fun hA => ha ((hAB a).mp hA)⟩

theorem foldOver {β : Type} {f : State → β → State} {C : β → Nat → Prop}
    (hf : ∀ s x, Map.sorted s.regs = true → Zeroed (C x) s (f s x)) (l : List β) (h : Map.sorted s.regs = true) :
    Zeroed (fun a => ∃ x ∈ l, C x a) s (foldOver l f s) := by
  unfold Machine.foldOver
  induction l generalizing s with
  | nil => exact (Zeroed.refl h).congr fun a => by simp
  | cons x l ih =>
    have hx := hf s x h
    exact (hx.trans (ih hx.sorted)).congr fun a => by simp

end Zeroed

theorem setReg_zeroed {s : State} (a : Nat) (h : Map.sorted s.regs = true) : Zeroed (· = a) s (setReg s a 0) := by
  refine ⟨⟨_, _, _, rfl⟩, id, ?_, fun b hb => hb ▸ reg_setReg_same h, fun b hb => reg_setReg_other hb⟩
  unfold setReg
  dsimp only
  split
  · exact Map.sorted_erase h
  · exact Map.sorted_set h

theorem installLayer_zeroed {s : State} (l : Nat) (h : Map.sorted s.regs = true) :
    Zeroed (fun a => ∃ w < 8, a = Reg.layer l w) s (installLayer l [] s) :=
  (Zeroed.foldOver (fun _ w hs => setReg_zeroed (Reg.layer l w) hs) (upTo 8) h).congr fun a => by simp only [mem_upTo]

theorem placeStore_unmarked {b l e : Nat} {v : W64} {s : State} (h : s.mem.chk = []) :
    (placeStore b l e v s).mem.chk = [] := by
  obtain ⟨chk, hstored⟩ := entryStored_eq b l e v s
  cases ho : placeOffset s b l e with
  | none => rw [placeStore_unplaced ho, hstored]; exact h
  | some o =>
    rw [placeStore_placed ho]
    exact congrArg (Map.erase · o) h

theorem placeStore_zeroed {s : State} (b l e : Nat) (h : Map.sorted s.regs = true) :
    Zeroed (· = Reg.place b l e) s (placeStore b l e 0 s) := by
  obtain ⟨chk, mem, hp⟩ := placeStore_eq b l e 0 s
  have hset := setReg_zeroed (s := s) (Reg.place b l e) h
  have hregs (a : Nat) : reg (placeStore b l e 0 s) a = reg (setReg s (Reg.place b l e) 0) a := by
    rw [hp]
    rfl
  refine ⟨⟨_, chk, mem, by rw [hp]; rfl⟩, placeStore_unmarked, by rw [hp]; exact hset.sorted,
    fun a ha => (hregs a).trans (hset.zero a ha), fun a ha => (hregs a).trans (hset.other a ha)⟩

/-! ### The groups, tallies, tables and entries of a half (R361, R363) -/

/-- Does an object lie in the half that is named: the own one, or the partner's? -/
def goneHalf (s : State) (own : Bool) (kind n : Nat) : Bool := (halfBit kind n == twinSide s) == own

theorem goneHalf_eq (s : State) (own : Bool) (kind : Nat) :
    goneHalf s own kind = fun n => (halfBit kind n == twinSide s) == own := rfl

/-- The member groups and tallies of a half have gone. -/
def groupsGone (own : Bool) (s : State) : State := { s with ctx := { s.ctx with
  groups := Map.keep s.ctx.groups (fun n _ => !goneHalf s own 5 n)
  tallies := Map.keep s.ctx.tallies (fun n _ => !goneHalf s own 6 n) } }

/-- The registers of a half's tallies and layer tables. -/
def HalfRegs (s : State) (own : Bool) (a : Nat) : Prop :=
  (∃ t < 8192, goneHalf s own 6 t = true ∧ (a = Reg.tallyCfg t ∨ a = Reg.tallyRelease t)) ∨
  (∃ l < 256, goneHalf s own 9 l = true ∧ ∃ w < 8, a = Reg.layer l w)

/-- The tallies' and layer tables' registers of a half are cleared. -/
def tablesCleared (own : Bool) (s : State) : State :=
  foldOver ((upTo 256).filter (goneHalf s own 9)) (fun s l => installLayer l [] s)
    (foldOver ((upTo 8192).filter (goneHalf s own 6)) (fun s t =>
      setReg (setReg s (Reg.tallyCfg t) 0) (Reg.tallyRelease t) 0) (groupsGone own s))

theorem tablesCleared_zeroed (own : Bool) {s : State} (h : Map.sorted s.regs = true) :
    Zeroed (HalfRegs s own) (groupsGone own s) (tablesCleared own s) := by
  have htallies := Zeroed.foldOver (s := groupsGone own s) (f := fun s t =>
      setReg (setReg s (Reg.tallyCfg t) 0) (Reg.tallyRelease t) 0)
    (fun s t hs => (setReg_zeroed (Reg.tallyCfg t) hs).trans (setReg_zeroed (Reg.tallyRelease t) (setReg_zeroed _ hs).sorted))
    ((upTo 8192).filter (goneHalf s own 6)) h
  have hlayers := Zeroed.foldOver (f := fun s l => installLayer l [] s) (fun s l hs => installLayer_zeroed l hs)
    ((upTo 256).filter (goneHalf s own 9)) htallies.sorted
  refine (htallies.trans hlayers).congr fun a => ?_
  simp only [List.mem_filter, mem_upTo, HalfRegs, and_assoc]

theorem clearHalf_tables (own : Bool) (s : State) : clearHalf own false s = tablesCleared own s := by
  simp only [clearHalf, Bool.false_eq_true, if_false, tablesCleared, groupsGone, goneHalf_eq]

theorem clearHalf_places (own : Bool) (s : State) : clearHalf own true s =
    foldOver ((s.regs.filter (fun e => isPlaceAddr e.1)).filter
      (fun e => goneHalf s own 8 (placeOf e.1).2.1)) (fun s e =>
        placeStore (placeOf e.1).1 (placeOf e.1).2.1 (placeOf e.1).2.2 0 s) (tablesCleared own s) := by
  simp only [clearHalf, if_true, tablesCleared, groupsGone, goneHalf_eq]

/-- The registers of a half's placement entries that hold anything. -/
def HalfPlaces (s : State) (own : Bool) (a : Nat) : Prop :=
  ∃ e ∈ s.regs, isPlaceAddr e.1 = true ∧ goneHalf s own 8 (placeOf e.1).2.1 = true ∧
    a = Reg.place (placeOf e.1).1 (placeOf e.1).2.1 (placeOf e.1).2.2

theorem clearHalf_zeroed (own : Bool) {s : State} (h : Map.sorted s.regs = true) :
    Zeroed (fun a => HalfRegs s own a ∨ HalfPlaces s own a) (groupsGone own s) (clearHalf own true s) := by
  have htables := tablesCleared_zeroed own h
  have hplaces := Zeroed.foldOver (f := fun s (e : Nat × W64) =>
      placeStore (placeOf e.1).1 (placeOf e.1).2.1 (placeOf e.1).2.2 0 s) (fun s e hs => placeStore_zeroed _ _ _ hs)
    ((s.regs.filter (fun e => isPlaceAddr e.1)).filter (fun e => goneHalf s own 8 (placeOf e.1).2.1)) htables.sorted
  rw [clearHalf_places]
  refine (htables.trans hplaces).congr fun a => ?_
  simp only [List.mem_filter, HalfPlaces, and_assoc]

/-- TWN_CFG lies among none of a half's registers. -/
theorem HalfRegs.ne_twnCfg {s : State} {own : Bool} {a : Nat} (h : HalfRegs s own a) : a ≠ Reg.twnCfg := by
  obtain ⟨t, ht, -, rfl | rfl⟩ | ⟨l, hl, -, w, hw, rfl⟩ := h
  · simp only [Reg.tallyCfg, Reg.twnCfg, blockBase]
    omega
  · simp only [Reg.tallyRelease, Reg.twnCfg, blockBase]
    omega
  · simp only [Reg.layer, Reg.twnCfg, blockBase]
    omega

/-- The parts of a placement entry's address. -/
theorem placeOf_lt {a : Nat} (h : isPlaceAddr a = true) :
    (placeOf a).1 < 2 ∧ (placeOf a).2.1 < 256 ∧ (placeOf a).2.2 < 8192 := by
  simp [isPlaceAddr, Reg.place, blockBase] at h
  simp only [placeOf, Reg.place, blockBase]
  omega

theorem place_ne_twnCfg {b l e : Nat} (hb : b < 2) (hl : l < 256) (he : e < 8192) : Reg.place b l e ≠ Reg.twnCfg := by
  simp only [Reg.place, Reg.twnCfg, blockBase]
  omega

theorem HalfPlaces.ne_twnCfg {s : State} {own : Bool} {a : Nat} (h : HalfPlaces s own a) : a ≠ Reg.twnCfg := by
  obtain ⟨e, -, he, -, rfl⟩ := h
  obtain ⟨hb, hl, hx⟩ := placeOf_lt he
  exact place_ne_twnCfg hb hl hx

theorem Map.get?_keep_some {α : Type} {m : Map α} {k : Nat} {p : Nat → α → Bool} (h : ∀ a, p k a = true) :
    Map.get? (Map.keep m p) k = Map.get? m k := by
  induction m with
  | nil => rfl
  | cons e m ih =>
    obtain ⟨j, a⟩ := e
    unfold Map.keep at ih ⊢
    rw [List.filter_cons]
    by_cases hj : j = k
    · subst hj
      rw [if_pos (h a), Map.get?, Map.get?, if_pos rfl, if_pos rfl]
    · split
      · rw [Map.get?, Map.get?, if_neg hj, if_neg hj, ih]
      · rw [ih, Map.get?, if_neg hj]

theorem Map.getD_keep_not {α : Type} {m : Map α} {k : Nat} {d : α} (q : Nat → Bool) :
    Map.getD (Map.keep m (fun n _ => !q n)) k d = if q k = true then d else Map.getD m k d := by
  by_cases h : q k = true
  · rw [if_pos h, Map.getD, Map.get?_keep_none fun _ => by simp [h]]
  · rw [if_neg h, Map.getD, Map.get?_keep_some fun _ => by simp [h], Map.getD]

/-- Of the halves of member groups and tallies the one named is at its reset value, and the other as it was. -/
theorem getMGroup_groupsGone (own : Bool) (s : State) (n : Nat) : getMGroup (groupsGone own s) n =
    if goneHalf s own 5 n = true then MGroup.reset else getMGroup s n := Map.getD_keep_not (goneHalf s own 5)

theorem getTally_groupsGone (own : Bool) (s : State) (n : Nat) : getTally (groupsGone own s) n =
    if goneHalf s own 6 n = true then TallySt.reset else getTally s n := Map.getD_keep_not (goneHalf s own 6)

/-! ### A half emptied -/

theorem upSublinks_congr {s t : State} (h : ∀ k, (getPort t k).state = (getPort s k).state) :
    upSublinks t = upSublinks s := by
  unfold upSublinks
  exact List.filter_congr fun n _ => by rw [h]

theorem goneHalf_congr {s t : State} (h : t.regs = s.regs) (own : Bool) : goneHalf t own = goneHalf s own := by
  unfold goneHalf twinSide reg
  rw [h]

/-- One half of `s` is emptied in `t`: its contexts, member groups and tallies, and the registers of `A`. -/
structure HalfEmptied (own : Bool) (A : Nat → Prop) (s t : State) : Prop where
  only : ∃ regs groups moe sw ports wire bpm mem ctx, t = { s with
    regs := regs, groups := groups, moe := moe, sw := sw, ports := ports, wire := wire, bpm := bpm, mem := mem
    ctx := ctx }
  unmarked : s.mem.chk = [] → t.mem.chk = []
  up : upSublinks t = upSublinks s
  noneWait : NoneWait t
  sorted : Map.sorted t.regs = true
  held : Map.sorted s.ctx.tallies = true → Map.sorted t.ctx.tallies = true
  zero : ∀ a, A a → reg t a = 0
  other : ∀ a, ¬ A a → reg t a = reg s a
  ctxs : ∀ c, getCtx t c = if goneHalf s own 3 c = true then none else getCtx s c
  mgroups : ∀ n, getMGroup t n = if goneHalf s own 5 n = true then MGroup.reset else getMGroup s n
  tallies : ∀ n, getTally t n = if goneHalf s own 6 n = true then TallySt.reset else getTally s n

/-- The contexts of a half go, then its groups and tallies and the registers that a step clears. -/
theorem halfEmptied {own : Bool} {A : Nat → Prop} {f : State → State} {s : State} (hn : NoneWait s)
    (htable : Map.sorted s.ctx.table = true)
    (hf : ∀ d, d.regs = s.regs → Zeroed A (groupsGone own d) (f d)) : HalfEmptied own A s (f (dropHalfCtxs own s)) := by
  obtain ⟨ks, hgone, hdrop⟩ := dropHalfCtxs_gone own hn htable
  have hlink := hgone.link
  have hnone := hgone.noneWait
  obtain ⟨_, _, _, _, _, _, _, _, heq⟩ := hgone.only
  generalize dropHalfCtxs own s = d at hdrop hlink hnone heq
  have hdregs : d.regs = s.regs := by rw [heq]
  have hz := hf d hdregs
  obtain ⟨_, _, _, hfd⟩ := hz.only
  have hgone (kind n : Nat) : goneHalf d own kind n = goneHalf s own kind n := by rw [goneHalf_congr hdregs]
  have hctx : (f d).ctx = (groupsGone own d).ctx := by rw [hfd]
  refine ⟨⟨_, _, _, _, _, _, _, _, _, by rw [hfd, heq]; rfl⟩, fun h => hz.unmarked (by rw [heq]; exact h), ?_, ?_, hz.sorted,
    fun h => ?_, hz.zero, fun a ha => (hz.other a ha).trans ?_, fun c => ?_, fun n => ?_, fun n => ?_⟩
  · exact (upSublinks_congr fun k => by rw [hfd]; rfl).trans (upSublinks_congr hlink)
  · unfold NoneWait
    rw [hctx]
    exact hnone
  · rw [hctx]
    exact Map.sorted_keep (m := d.ctx.tallies) (p := fun n _ => !goneHalf d own 6 n) (by rw [heq]; exact h)
  · unfold reg
    exact congrArg (Map.getD · a _) hdregs
  · rw [← hgone, getCtx, hctx]
    exact (hdrop c).trans (by rw [hgone]; rfl)
  · rw [← hgone, getMGroup, hctx]
    exact (getMGroup_groupsGone own d n).trans (by rw [heq]; rfl)
  · rw [← hgone, getTally, hctx]
    exact (getTally_groupsGone own d n).trans (by rw [heq]; rfl)

theorem halfRegs_congr {s d : State} (h : d.regs = s.regs) (own : Bool) : HalfRegs d own = HalfRegs s own := by
  unfold HalfRegs
  rw [goneHalf_congr h]

theorem halfPlaces_congr {s d : State} (h : d.regs = s.regs) (own : Bool) : HalfPlaces d own = HalfPlaces s own := by
  unfold HalfPlaces
  rw [goneHalf_congr h, h]

/-- A half emptied with its placement entries. -/
theorem halfEmptied_places (own : Bool) {s : State} (hn : NoneWait s) (hregs : Map.sorted s.regs = true)
    (htable : Map.sorted s.ctx.table = true) : HalfEmptied own (fun a => HalfRegs s own a ∨ HalfPlaces s own a) s
      (clearHalf own true (dropHalfCtxs own s)) :=
  halfEmptied (f := clearHalf own true) hn htable fun d hd => by
    have h := clearHalf_zeroed own (s := d) (hd ▸ hregs)
    rwa [halfRegs_congr hd, halfPlaces_congr hd] at h

theorem foldOver_mem {β : Type} {f : State → β → State} (hf : ∀ s x, (f s x).mem = s.mem) (l : List β) (s : State) :
    (foldOver l f s).mem = s.mem :=
  foldOver_rel (R := fun s t : State => t.mem = s.mem) (fun _ => rfl) (fun _ _ _ hst htu => Eq.trans htu hst) hf l s

theorem installLayer_mem (l : Nat) (ws : List W64) (s : State) : (installLayer l ws s).mem = s.mem :=
  foldOver_mem (fun _ _ => rfl) (upTo 8) s

theorem clearHalf_mem (own : Bool) (s : State) : (clearHalf own false s).mem = s.mem := by
  rw [clearHalf_tables, tablesCleared, foldOver_mem fun s l => installLayer_mem l [] s]
  exact foldOver_mem (f := fun s t => setReg (setReg s (Reg.tallyCfg t) 0) (Reg.tallyRelease t) 0) (fun _ _ => rfl) _ _

end Sys2Proof.Machine
end

section
/-! The recovery actions of the twin pair (R361-R364). -/

namespace Sys2Proof.Machine

open Sys2Proof

/-! ### The mirror read where no word is marked (R122, R352) -/

section
variable {s : State} (h : s.mem.chk = [])
include h

theorem scanWords_clean (reader unit : Nat) (tag : Option (BitVec 24)) (ws : List Nat) :
    scanWords reader unit tag ws s = ([], s) := scanWords_unmarked fun _ _ => by rw [h]; rfl

theorem mirrorRead_clean (o : Option Nat) (n : Nat) : mirrorRead o n s = (true, s) := by
  unfold mirrorRead
  split
  · rw [scanWords_clean h]
    rfl
  · rfl

theorem mirrorSift_clean (keys : List Nat) (place : Nat → Option Nat) (n : Nat) (drop : Nat → Mirror → Mirror) :
    mirrorSift keys place n drop s = s := by
  unfold mirrorSift foldOver
  induction keys with
  | nil => rfl
  | cons k keys ih =>
    rw [List.foldl_cons, mirrorRead_clean h]
    exact ih

theorem mirrorCheck_clean : mirrorCheck s = s := by
  simp only [mirrorCheck, mirrorSift_clean h]

end

/-! ### A context adopted (R361) -/

/-- What a mirrored change may send. -/
def MirrorSent (s t : State) : Prop := ∃ sent next q recopy out dbg, t = { s with
  twn := { s.twn with sentMseq := sent, nextSub := next, txq := q, recopy := recopy, out := out }, dbg := dbg }

theorem MirrorSent.refl (s : State) : MirrorSent s s := ⟨_, _, _, _, _, _, rfl⟩

theorem mirrorPush_sent (m : Byte) (body : List Byte) (s : State) : MirrorSent s (mirrorPush m body s) := by
  unfold mirrorPush
  split
  · exact .refl s
  · exact ⟨_, _, _, _, _, _, rfl⟩

theorem mirrorSend_sent (m : Byte) (body : List Byte) (s : State) : MirrorSent s (mirrorSend m body s) := by
  unfold mirrorSend
  split
  · exact .refl s
  · split
    · rw [count_eq]
      exact ⟨_, _, _, _, _, _, rfl⟩
    · exact mirrorPush_sent ..

theorem mirrorCtx_sent (c : Nat) (s : State) : MirrorSent s (mirrorCtx c s) := by
  unfold mirrorCtx
  split
  · split
    · exact mirrorSend_sent ..
    · exact .refl s
  · split
    · exact mirrorSend_sent ..
    · exact .refl s

/-- A context of the mirror as it is taken over: Timed out, off chip. -/
structure TakenOver (arg0 : W64) (timeout : BitVec 32) (step : W64) (y : Ctx) : Prop where
  state : y.state = .timedOut
  arg0 : y.arg0 = arg0
  step : y.step = step
  timeout : y.timeout = timeout
  onChip : y.onChip = false

/-- The words that whole words meet are those words. -/
theorem wholeWord_of_mem_wordsOf {o n w : Nat} (ho : o % 8 = 0) (hn : n % 8 = 0) (hw : w ∈ wordsOf o n) :
    min (o + n) (w + 8) - max o w = 8 := by
  unfold wordsOf at hw
  split at hw
  · simp at hw
  · obtain ⟨i, hi, rfl⟩ := List.mem_map.mp hw
    have := List.mem_range.mp hi
    omega

/-- A write of whole words changes memory alone, and marks nothing. -/
theorem writeMem_wholeWords {reader unit o : Nat} {tag : Option (BitVec 24)} {l : List Byte} {s : State}
    (ho : o % 8 = 0) (hl : l.length % 8 = 0) :
    ∃ mem, writeMem reader unit tag o l s = { s with mem := mem } ∧ (s.mem.chk = [] → mem.chk = []) := by
  unfold writeMem
  have hwords : ∀ w ∈ wordsOf o l.length, min (o + l.length) (w + 8) - max o w = 8 := fun w hw =>
    wholeWord_of_mem_wordsOf ho hl hw
  generalize wordsOf o l.length = ws at hwords
  induction ws generalizing s with
  | nil => exact ⟨s.mem, rfl, id⟩
  | cons w ws ih =>
    rw [List.foldl_cons]
    dsimp only
    rw [if_pos (hwords w List.mem_cons_self)]
    obtain ⟨mem, heq, hchk⟩ := ih (s := { s with mem := {
        cells := Memory.writeBytes s.mem.cells (max o w) (slice l (max o w - o) (min (o + l.length) (w + 8) - max o w))
        chk := Map.erase s.mem.chk w } }) fun v hv => hwords v (List.mem_cons_of_mem w hv)
    exact ⟨mem, heq, fun h => hchk (congrArg (Map.erase · w) h)⟩

theorem storeBank_writes (c : Nat) (s : State) :
    ∃ mem, storeBank c s = { s with mem := mem } ∧ (s.mem.chk = [] → mem.chk = []) := by
  unfold storeBank
  split
  · next x o hx ho =>
    split
    · exact ⟨s.mem, rfl, id⟩
    · rw [bankOffset, regionBase, Option.map_map, Option.map_eq_some_iff] at ho
      obtain ⟨r, -, rfl⟩ := ho
      exact writeMem_wholeWords (by simp only [Function.comp_apply]; omega) (by rw [ctxRecord_length])
  · exact ⟨s.mem, rfl, id⟩

/-- `t` is `s` but for the contexts. -/
def CtxOnly (s t : State) : Prop := ∃ ctx, t = { s with ctx := ctx }

namespace CtxOnly

theorem refl (s : State) : CtxOnly s s := ⟨_, rfl⟩

theorem trans {s t u : State} (hst : CtxOnly s t) (htu : CtxOnly t u) : CtxOnly s u := by
  obtain ⟨_, rfl⟩ := hst
  obtain ⟨_, rfl⟩ := htu
  exact ⟨_, rfl⟩

end CtxOnly

theorem modCtx_ctxOnly (c : Nat) (f : Ctx → Ctx) (s : State) : CtxOnly s (modCtx c f s) := by
  unfold modCtx
  split
  · exact ⟨_, rfl⟩
  · exact .refl s

theorem markVictim_ctxOnly (v : Option Nat) (s : State) : CtxOnly s (markVictim v s) := by
  unfold markVictim
  split
  · exact modCtx_ctxOnly ..
  · exact .refl s

theorem fillNeeds_ctxOnly (s : State) : CtxOnly s (fillNeeds s) := by
  refine foldOver_rel CtxOnly.refl (fun _ _ _ => CtxOnly.trans) (fun s n => ?_) _ s
  dsimp only
  split
  · exact .refl s
  · exact CtxOnly.trans ⟨_, rfl⟩ (markVictim_ctxOnly ..)

theorem eraseCtx_ctxOnly (c : Nat) (s : State) : CtxOnly s (eraseCtx c s) :=
  CtxOnly.trans ⟨_, rfl⟩ (fillNeeds_ctxOnly _)

/-- The record a context is installed with. -/
def installedCtx (a : W64) (tm : BitVec 32) (st : W64) (s : State) : Ctx :=
  { newCtx a tm st false s with state := .timedOut }

theorem installedCtx_takenOver (a : W64) (tm : BitVec 32) (st : W64) (s : State) :
    TakenOver a tm st (installedCtx a tm st s) := ⟨rfl, rfl, rfl, rfl, rfl⟩

/-- A context installed: its record goes to the table and to its place in the bank. -/
theorem installCtx_installs (c : Nat) (a : W64) (tm : BitVec 32) (st : W64) (s : State) :
    ∃ ctx mem, installCtx c a tm st s = { s with ctx := ctx, mem := mem } ∧ (s.mem.chk = [] → mem.chk = []) ∧
      (∃ y, Map.get? ctx.table c = some y ∧ TakenOver a tm st y) ∧
      (NoneWait s → ctx = { s.ctx with table := ctx.table, needs := dropNeeds c s.ctx.needs } ∧
        ∀ k, k ≠ c → Map.get? ctx.table k = Map.get? s.ctx.table k) := by
  obtain ⟨ctx, he⟩ := eraseCtx_ctxOnly c s
  obtain ⟨mem, hm, hchk⟩ := storeBank_writes c (setCtx c (installedCtx a tm st (eraseCtx c s)) (eraseCtx c s))
  have hinstall : installCtx c a tm st s = { s with
      ctx := { ctx with table := Map.set ctx.table c (installedCtx a tm st (eraseCtx c s)) }, mem := mem } := by
    refine Eq.trans hm ?_
    rw [he]
    rfl
  refine ⟨_, mem, hinstall, fun h => hchk (by rw [he]; exact h),
    ⟨_, Map.get?_set_same, installedCtx_takenOver ..⟩, fun hn => ?_⟩
  have hctx : ctx = { s.ctx with table := Map.erase s.ctx.table c, needs := dropNeeds c s.ctx.needs } := by
    have := (he.symm.trans (eraseCtx_noneWait hn))
    exact congrArg State.ctx this
  rw [hctx]
  exact ⟨rfl, fun k hk => (Map.get?_set_other hk).trans (Map.get?_erase_other hk)⟩

/-! ### Folds over a map -/

theorem foldl_stays {α σ : Type} {f : σ → α → σ} {I Q : σ → Prop} {l : List α} (hI : ∀ s, ∀ e ∈ l, I s → I (f s e))
    (hQ : ∀ s, ∀ e ∈ l, I s → Q s → Q (f s e)) {s : σ} (h : I s) (hs : Q s) : Q (l.foldl f s) := by
  induction l generalizing s with
  | nil => exact hs
  | cons e l ih =>
    exact ih (fun s d hd => hI s d (List.mem_cons_of_mem e hd)) (fun s d hd => hQ s d (List.mem_cons_of_mem e hd))
      (hI s e List.mem_cons_self h) (hQ s e List.mem_cons_self h hs)

theorem foldl_keeps_inv {α σ : Type} {f : σ → α → σ} {I : σ → Prop} {l : List α} (hI : ∀ s, ∀ e ∈ l, I s → I (f s e))
    {s : σ} (h : I s) : I (l.foldl f s) := foldl_stays (Q := I) hI (fun s e he hs _ => hI s e he hs) h h

/-- A fold over a map in which the step of a key sets what `Q` says, and no other undoes it. -/
theorem foldl_entry {α σ : Type} {f : σ → Nat × α → σ} {I Q : σ → Prop} {m : Map α} (hm : Map.sorted m = true) {k : Nat}
    {v : α} (hk : Map.get? m k = some v) (hI : ∀ s, ∀ e ∈ m, I s → I (f s e))
    (hset : ∀ s, (k, v) ∈ m → I s → Q (f s (k, v))) (hother : ∀ s, ∀ e ∈ m, e.1 ≠ k → I s → Q s → Q (f s e)) {s : σ}
    (h : I s) : Q (m.foldl f s) := by
  induction m generalizing s with
  | nil => simp [Map.get?] at hk
  | cons e m ih =>
    obtain ⟨j, a⟩ := e
    obtain ⟨habove, hsorted⟩ := Map.sorted_cons.mp hm
    have hI' : ∀ s, ∀ e ∈ m, I s → I (f s e) := fun s d hd => hI s d (List.mem_cons_of_mem _ hd)
    rw [List.foldl_cons]
    rw [Map.get?] at hk
    split at hk
    · next hj =>
      obtain ⟨rfl, rfl⟩ : j = k ∧ a = v := ⟨hj, Option.some.inj hk⟩
      refine foldl_stays hI' (fun s d hd hs hq => hother s d (List.mem_cons_of_mem _ hd) ?_ hs hq)
        (hI s _ List.mem_cons_self h) (hset s List.mem_cons_self h)
      exact Nat.ne_of_gt (habove d hd)
    · next hj =>
      exact ih hsorted hk hI' (fun s hd => hset s (List.mem_cons_of_mem _ hd))
        (fun s d hd => hother s d (List.mem_cons_of_mem _ hd)) (hI s _ List.mem_cons_self h)

theorem ne_of_get?_none {α : Type} {m : Map α} {k : Nat} (h : Map.get? m k = none) : ∀ e ∈ m, e.1 ≠ k := by
  induction m with
  | nil => simp
  | cons d m ih =>
    obtain ⟨j, a⟩ := d
    rw [Map.get?] at h
    split at h
    · simp at h
    · next hj =>
      intro e he
      obtain rfl | he := List.mem_cons.mp he
      · exact hj
      · exact ih h e he

/-! ### The mirror adopted (R361) -/

/-- What adopting contexts changes: the contexts, memory, and what is sent and counted. -/
structure Adopting (s t : State) : Prop where
  only : ∃ table needs mem sent next q recopy out dbg, t = { s with
    ctx := { s.ctx with table := table, needs := needs }, mem := mem, dbg := dbg
    twn := { s.twn with sentMseq := sent, nextSub := next, txq := q, recopy := recopy, out := out } }
  unmarked : s.mem.chk = [] → t.mem.chk = []
  noneWait : NoneWait s → NoneWait t

theorem adoptCtx_adopts {s : State} {e : Nat × MirCtx} (hres : CtxArg.resident e.2.arg0 = false) (hn : NoneWait s) :
    Adopting s (adoptCtx s e) ∧
      (∃ y, getCtx (adoptCtx s e) e.1 = some y ∧ TakenOver e.2.arg0 e.2.timeout e.2.step y) ∧
      ∀ k, k ≠ e.1 → getCtx (adoptCtx s e) k = getCtx s k := by
  obtain ⟨ctx, mem, hinstall, hchk, ⟨y, hy, hty⟩, hctx⟩ := installCtx_installs e.1 e.2.arg0 e.2.timeout e.2.step s
  obtain ⟨hctx, hother⟩ := hctx hn
  have hadopt : adoptCtx s e = mirrorCtx e.1 (installCtx e.1 e.2.arg0 e.2.timeout e.2.step s) := by
    simp only [adoptCtx, hres, Bool.false_and, Bool.false_eq_true, if_false]
  obtain ⟨sent, next, q, recopy, out, dbg, hsent⟩ := mirrorCtx_sent e.1 (installCtx e.1 e.2.arg0 e.2.timeout e.2.step s)
  rw [hadopt, hsent, hinstall]
  refine ⟨⟨⟨ctx.table, dropNeeds e.1 s.ctx.needs, mem, sent, next, q, recopy, out, dbg, ?_⟩, hchk, fun _ => ?_⟩, ⟨y, hy, hty⟩, hother⟩
  · rw [hctx]
  · unfold NoneWait
    rw [hctx]
    exact dropNeeds_noneWait hn

namespace Adopting

theorem refl (s : State) : Adopting s s := ⟨⟨_, _, _, _, _, _, _, _, _, rfl⟩, id, id⟩

theorem trans {s t u : State} (hst : Adopting s t) (htu : Adopting t u) : Adopting s u := by
  refine ⟨?_, fun h => htu.unmarked (hst.unmarked h), fun h => htu.noneWait (hst.noneWait h)⟩
  obtain ⟨_, _, _, _, _, _, _, _, _, rfl⟩ := hst.only
  obtain ⟨_, _, _, _, _, _, _, _, _, rfl⟩ := htu.only
  exact ⟨_, _, _, _, _, _, _, _, _, rfl⟩

end Adopting

/-- The mirror's contexts come Timed out with their steps, and every other context stays. -/
theorem adoptCtxs_spec {m : Map MirCtx} {s : State} (hm : Map.sorted m = true)
    (hres : ∀ e ∈ m, CtxArg.resident e.2.arg0 = false) (hn : NoneWait s) :
    Adopting s (m.foldl adoptCtx s) ∧
      (∀ c x, Map.get? m c = some x →
        ∃ y, getCtx (m.foldl adoptCtx s) c = some y ∧ TakenOver x.arg0 x.timeout x.step y) ∧
      ∀ c, Map.get? m c = none → getCtx (m.foldl adoptCtx s) c = getCtx s c := by
  have hstep : ∀ t, ∀ e ∈ m, (Adopting s t ∧ NoneWait t) → Adopting s (adoptCtx t e) ∧ NoneWait (adoptCtx t e) := by
    rintro t e he ⟨ht, hnt⟩
    have ha := (adoptCtx_adopts (hres e he) hnt).1
    exact ⟨ht.trans ha, ha.noneWait hnt⟩
  have hstart : Adopting s s ∧ NoneWait s := ⟨.refl s, hn⟩
  refine ⟨(foldl_keeps_inv hstep hstart).1, fun c x hc => ?_, fun c hc => ?_⟩
  · refine foldl_entry (Q := fun t => ∃ y, getCtx t c = some y ∧ TakenOver x.arg0 x.timeout x.step y) hm hc hstep
      (fun t hmem ht => (adoptCtx_adopts (hres _ hmem) ht.2).2.1) (fun t e he hne ht hq => ?_) hstart
    rw [(adoptCtx_adopts (hres e he) ht.2).2.2 c hne.symm]
    exact hq
  · refine foldl_stays (Q := fun t => getCtx t c = getCtx s c) hstep (fun t e he ht hq => ?_) hstart rfl
    rw [(adoptCtx_adopts (hres e he) ht.2).2.2 c (ne_of_get?_none hc e he).symm]
    exact hq

/-! ### The mirror's other objects adopted (R361) -/

/-- The mirror's member groups as the device's own. -/
def adoptMGroups (m : Map MGroup) (s : State) : State :=
  m.foldl (fun s e => { s with ctx := { s.ctx with groups := Map.set s.ctx.groups e.1 e.2 } }) s

theorem adoptMGroups_spec (m : Map MGroup) (s : State) :
    (∃ groups, adoptMGroups m s = { s with ctx := { s.ctx with groups := groups } }) ∧
      (Map.sorted m = true → ∀ n x, Map.get? m n = some x → getMGroup (adoptMGroups m s) n = x) := by
  unfold adoptMGroups
  refine ⟨foldl_keeps_inv (I := fun t => ∃ groups, t = { s with ctx := { s.ctx with groups := groups } }) ?_ ⟨_, rfl⟩,
    fun hm n x hn => ?_⟩
  · rintro _ e - ⟨_, rfl⟩
    exact ⟨_, rfl⟩
  · refine foldl_entry (I := fun _ => True) (Q := fun t => getMGroup t n = x) hm hn (fun _ _ _ _ => trivial) ?_ ?_ trivial
    · exact fun t _ _ => Map.getD_set_same
    · exact fun t e _ hne _ hq => (Map.getD_set_other hne.symm).trans hq

/-- `t` is `s` but for registers of `A`, the tallies, and marks of SRAM and memory. -/
structure RegsIn (A : Nat → Prop) (s t : State) : Prop where
  only : ∃ regs chk mem tallies, t = { s with
    regs := regs, bpm := { s.bpm with sramChk := chk }, mem := mem, ctx := { s.ctx with tallies := tallies } }
  sorted : Map.sorted s.regs = true → Map.sorted t.regs = true
  other : ∀ a, ¬ A a → reg t a = reg s a

namespace RegsIn

theorem refl (A : Nat → Prop) (s : State) : RegsIn A s s := ⟨⟨_, _, _, _, rfl⟩, id, fun _ _ => rfl⟩

theorem trans {A : Nat → Prop} {s t u : State} (hst : RegsIn A s t) (htu : RegsIn A t u) : RegsIn A s u := by
  refine ⟨?_, fun h => htu.sorted (hst.sorted h), fun a ha => (htu.other a ha).trans (hst.other a ha)⟩
  obtain ⟨_, _, _, _, rfl⟩ := hst.only
  obtain ⟨_, _, _, _, rfl⟩ := htu.only
  exact ⟨_, _, _, _, rfl⟩

theorem setReg {A : Nat → Prop} {a : Nat} (ha : A a) (s : State) (v : W64) : RegsIn A s (setReg s a v) := by
  refine ⟨⟨_, _, _, _, rfl⟩, fun h => ?_, fun b hb => reg_setReg_other fun hba => hb (hba ▸ ha)⟩
  unfold Machine.setReg
  dsimp only
  split
  · exact Map.sorted_erase h
  · exact Map.sorted_set h

theorem foldl {α : Type} {A : Nat → Prop} {f : State → α → State} {l : List α} (hf : ∀ s, ∀ x ∈ l, RegsIn A s (f s x))
    (s : State) : RegsIn A s (l.foldl f s) :=
  foldl_keeps_inv (I := RegsIn A s) (fun t x hx ht => ht.trans (hf t x hx)) (.refl A s)

end RegsIn

/-- The registers of the tallies, of the layer tables and of the placement entries. -/
def TallyRegs (a : Nat) : Prop := ∃ t < 8192, a = Reg.tallyCfg t ∨ a = Reg.tallyRelease t
def LayerRegs (a : Nat) : Prop := ∃ l < 256, ∃ w < 8, a = Reg.layer l w
def PlaceRegs (a : Nat) : Prop := ∃ b < 2, ∃ l < 256, ∃ e < 8192, a = Reg.place b l e

/-- A tally of the mirror as it is held. -/
def heldTally (x : MirTally) : TallySt := { value := x.value, gen := x.gen, start := x.start, relSeq := 0 }

theorem getTally_setTally {s : State} {t k : Nat} {x : TallySt} (h : Map.sorted s.ctx.tallies = true) :
    getTally (setTally t x s) k = if k = t then x else getTally s k := by
  by_cases hk : k = t
  · subst hk
    rw [if_pos rfl, getTally, setTally]
    dsimp only
    split
    · next hx => rw [Map.getD, Map.get?_erase_same h, hx]
    · exact Map.getD_set_same
  · rw [if_neg hk, getTally, setTally]
    dsimp only
    split
    · rw [Map.getD, Map.get?_erase_other hk]
      rfl
    · exact Map.getD_set_other hk

theorem sorted_setTally {s : State} {t : Nat} {x : TallySt} (h : Map.sorted s.ctx.tallies = true) :
    Map.sorted (setTally t x s).ctx.tallies = true := by
  unfold setTally
  dsimp only
  split
  · exact Map.sorted_erase h
  · exact Map.sorted_set h

/-- A tally installed: its two registers and its value, with fresh check symbols. -/
theorem installTally_eq (t : Nat) (x : MirTally) (s : State) : ∃ chk, installTally t x s = { setTally t (heldTally x)
    (setReg (setReg s (Reg.tallyCfg t) x.cfg) (Reg.tallyRelease t) x.release) with
      bpm := { s.bpm with sramChk := chk } } := writeSram_marks ..

theorem tallyCfg_ne_release (t k : Nat) : Reg.tallyCfg t ≠ Reg.tallyRelease k := by
  simp only [Reg.tallyCfg, Reg.tallyRelease, blockBase]
  omega

section
variable (t : Nat) (x : MirTally) {s : State}

theorem installTally_regsIn (ht : t < 8192) (s : State) : RegsIn TallyRegs s (installTally t x s) := by
  obtain ⟨chk, heq⟩ := installTally_eq t x s
  rw [heq]
  have hcfg := RegsIn.setReg (A := TallyRegs) ⟨t, ht, .inl rfl⟩ s x.cfg
  have hrel := RegsIn.setReg (A := TallyRegs) ⟨t, ht, .inr rfl⟩ (setReg s (Reg.tallyCfg t) x.cfg) x.release
  have hboth := hcfg.trans hrel
  exact ⟨⟨_, _, _, _, rfl⟩, hboth.sorted, hboth.other⟩

theorem installTally_regs (h : Map.sorted s.regs = true) : Map.sorted (installTally t x s).regs = true ∧
    reg (installTally t x s) (Reg.tallyCfg t) = x.cfg ∧ reg (installTally t x s) (Reg.tallyRelease t) = x.release ∧
    ∀ a, a ≠ Reg.tallyCfg t → a ≠ Reg.tallyRelease t → reg (installTally t x s) a = reg s a := by
  obtain ⟨chk, heq⟩ := installTally_eq t x s
  have hcfg := RegsIn.setReg (A := fun _ => True) (a := Reg.tallyCfg t) trivial s x.cfg
  have hrel := RegsIn.setReg (A := fun _ => True) (a := Reg.tallyRelease t) trivial (setReg s (Reg.tallyCfg t) x.cfg)
    x.release
  have hreg (a : Nat) : reg (installTally t x s) a =
      reg (setReg (setReg s (Reg.tallyCfg t) x.cfg) (Reg.tallyRelease t) x.release) a := by
    rw [heq]
    rfl
  refine ⟨by rw [heq]; exact (hcfg.trans hrel).sorted h, ?_, ?_, fun a ha hb => ?_⟩
  · rw [hreg, reg_setReg_other (tallyCfg_ne_release t t), reg_setReg_same h]
  · rw [hreg, reg_setReg_same (hcfg.sorted h)]
  · rw [hreg, reg_setReg_other hb, reg_setReg_other ha]

theorem installTally_tallies (h : Map.sorted s.ctx.tallies = true) :
    Map.sorted (installTally t x s).ctx.tallies = true ∧ getTally (installTally t x s) t = heldTally x ∧
      ∀ k, k ≠ t → getTally (installTally t x s) k = getTally s k := by
  obtain ⟨chk, heq⟩ := installTally_eq t x s
  have hval (k : Nat) : getTally (installTally t x s) k = if k = t then heldTally x else getTally s k := by
    rw [heq]
    exact getTally_setTally (s := setReg (setReg s (Reg.tallyCfg t) x.cfg) (Reg.tallyRelease t) x.release) h
  refine ⟨?_, by rw [hval, if_pos rfl], fun k hk => by rw [hval, if_neg hk]⟩
  rw [heq]
  exact sorted_setTally (s := setReg (setReg s (Reg.tallyCfg t) x.cfg) (Reg.tallyRelease t) x.release) h

end

/-- The mirror's tallies as the device's own. -/
def adoptTallies (m : Map MirTally) (s : State) : State := m.foldl (fun s e => installTally e.1 e.2 s) s

theorem tallyReg_inj {j k : Nat} (h : j ≠ k) : Reg.tallyCfg k ≠ Reg.tallyCfg j ∧ Reg.tallyRelease k ≠ Reg.tallyRelease j := by
  simp only [Reg.tallyCfg, Reg.tallyRelease]
  omega

theorem adoptTallies_spec {m : Map MirTally} {s : State} (hm : Map.sorted m = true) (hkeys : ∀ e ∈ m, e.1 < 8192)
    (hregs : Map.sorted s.regs = true) (htal : Map.sorted s.ctx.tallies = true) :
    RegsIn TallyRegs s (adoptTallies m s) ∧ ∀ n x, Map.get? m n = some x →
      getTally (adoptTallies m s) n = heldTally x ∧ reg (adoptTallies m s) (Reg.tallyCfg n) = x.cfg ∧
        reg (adoptTallies m s) (Reg.tallyRelease n) = x.release := by
  refine ⟨RegsIn.foldl (fun s e he => installTally_regsIn e.1 e.2 (hkeys e he) s) s, fun n x hn => ?_⟩
  refine foldl_entry (I := fun t => Map.sorted t.regs = true ∧ Map.sorted t.ctx.tallies = true)
    (Q := fun t => getTally t n = heldTally x ∧ reg t (Reg.tallyCfg n) = x.cfg ∧ reg t (Reg.tallyRelease n) = x.release)
    hm hn (fun t e _ ht => ⟨(installTally_regs e.1 e.2 ht.1).1, (installTally_tallies e.1 e.2 ht.2).1⟩)
    (fun t _ ht => ?_) (fun t e he hne ht hq => ?_) ⟨hregs, htal⟩
  · obtain ⟨-, hcfg, hrel, -⟩ := installTally_regs n x ht.1
    exact ⟨(installTally_tallies n x ht.2).2.1, hcfg, hrel⟩
  · obtain ⟨-, -, -, hother⟩ := installTally_regs e.1 e.2 ht.1
    obtain ⟨hval, hcfg, hrel⟩ := hq
    obtain ⟨hne1, hne2⟩ := tallyReg_inj hne
    exact ⟨((installTally_tallies e.1 e.2 ht.2).2.2 n hne.symm).trans hval,
      (hother _ hne1 (tallyCfg_ne_release n e.1)).trans hcfg,
      (hother _ (tallyCfg_ne_release e.1 n).symm hne2).trans hrel⟩

/-- The mirror's layer tables as the device's own, not valid. -/
def adoptLayers (m : Map (List W64)) (s : State) : State :=
  m.foldl (fun s e =>
    let s' := installLayer e.1 e.2 s
    setReg s' (Reg.layer e.1 0) (reg s' (Reg.layer e.1 0) &&& ~~~(at_ 1 63))) s

theorem layerReg_inj {j k v w : Nat} (hv : v < 8) (hw : w < 8) (h : Reg.layer j v = Reg.layer k w) : j = k := by
  simp only [Reg.layer] at h
  omega

theorem installLayer_regsIn {A : Nat → Prop} {l : Nat} (hA : ∀ w < 8, A (Reg.layer l w)) (ws : List W64) (s : State) :
    RegsIn A s (installLayer l ws s) := by
  unfold installLayer foldOver
  exact RegsIn.foldl (fun s w hw => .setReg (hA w (mem_upTo.mp hw)) s _) s

/-- One table of the mirror as the device's own, not valid. -/
def layerAdopted (s : State) (e : Nat × List W64) : State :=
  let s' := installLayer e.1 e.2 s
  setReg s' (Reg.layer e.1 0) (reg s' (Reg.layer e.1 0) &&& ~~~(at_ 1 63))

theorem layerAdopted_regsIn {A : Nat → Prop} {e : Nat × List W64} (hA : ∀ w < 8, A (Reg.layer e.1 w)) (s : State) :
    RegsIn A s (layerAdopted s e) := (installLayer_regsIn hA e.2 s).trans (.setReg (hA 0 (by decide)) _ _)

theorem installLayer_ctx (l : Nat) (ws : List W64) (s : State) : (installLayer l ws s).ctx = s.ctx :=
  foldOver_rel (R := fun s t : State => t.ctx = s.ctx) (fun _ => rfl) (fun _ _ _ hst htu => Eq.trans htu hst)
    (f := fun s w => setReg s (Reg.layer l w) (nthD ws w 0)) (fun _ _ => rfl) (upTo 8) s

theorem adoptLayers_ctx (m : Map (List W64)) (s : State) : (adoptLayers m s).ctx = s.ctx :=
  foldl_keeps_inv (f := layerAdopted) (I := fun t => t.ctx = s.ctx)
    (fun t e _ ht => (installLayer_ctx e.1 e.2 t).trans ht) rfl

theorem layerAdopted_invalid {e : Nat × List W64} {s : State} (h : Map.sorted s.regs = true) :
    (reg (layerAdopted s e) (Reg.layer e.1 0)).getLsbD 63 = false := by
  have hs := (installLayer_regsIn (A := fun _ => True) (l := e.1) (fun _ _ => trivial) e.2 s).sorted h
  rw [layerAdopted, reg_setReg_same hs, BitVec.getLsbD_and, show (~~~(at_ 1 63)).getLsbD 63 = false by decide,
    Bool.and_false]

theorem adoptLayers_spec {m : Map (List W64)} {s : State} (hkeys : ∀ e ∈ m, e.1 < 256) (hregs : Map.sorted s.regs = true) :
    RegsIn LayerRegs s (adoptLayers m s) ∧
      ∀ l, Map.has m l = true → (reg (adoptLayers m s) (Reg.layer l 0)).getLsbD 63 = false := by
  refine ⟨RegsIn.foldl (f := layerAdopted) (fun t e he => layerAdopted_regsIn (fun w hw => ⟨e.1, hkeys e he, w, hw, rfl⟩) t) s,
    fun l hl => ?_⟩
  obtain ⟨e, he, rfl⟩ := Map.mem_of_has hl
  have hsorted (t : State) (d : Nat × List W64) (h : Map.sorted t.regs = true) :
      Map.sorted (layerAdopted t d).regs = true :=
    (layerAdopted_regsIn (A := fun _ => True) (fun _ _ => trivial) t).sorted h
  refine (foldOver_reaches (f := layerAdopted) (P := fun t => Map.sorted t.regs = true)
    (Q := fun t => Map.sorted t.regs = true ∧ (reg t (Reg.layer e.1 0)).getLsbD 63 = false) he
    (fun t ht => ⟨hsorted t e ht, layerAdopted_invalid ht⟩) (fun t d _ ht => hsorted t d ht) (fun t d ht => ?_) hregs).2
  obtain ⟨ht, hbit⟩ := ht
  refine ⟨hsorted t d ht, ?_⟩
  by_cases hd : d.1 = e.1
  · rw [← hd]
    exact layerAdopted_invalid ht
  · rw [(layerAdopted_regsIn (A := fun a => ∃ w < 8, a = Reg.layer d.1 w) (fun w hw => ⟨w, hw, rfl⟩) t).other]
    · exact hbit
    · rintro ⟨w, hw, heq⟩
      exact hd (layerReg_inj (by decide) hw heq).symm

/-- The register of a placement entry's number. -/
def placeReg (k : Nat) : Nat := Reg.place (k / 2 ^ 21) (k / 2 ^ 13 % 256) (k % 2 ^ 13)

theorem placeReg_inj {j k : Nat} (h : placeReg j = placeReg k) : j = k := by
  simp only [placeReg, Reg.place] at h
  omega

theorem placeStore_regsIn {A : Nat → Prop} {b l e : Nat} (hA : A (Reg.place b l e)) (v : W64) (s : State) :
    RegsIn A s (placeStore b l e v s) := by
  obtain ⟨chk, mem, hp⟩ := placeStore_eq b l e v s
  have hset := RegsIn.setReg hA s v
  rw [hp]
  exact ⟨⟨_, chk, mem, _, rfl⟩, hset.sorted, hset.other⟩

theorem reg_placeStore_same {b l e : Nat} {v : W64} {s : State} (h : Map.sorted s.regs = true) :
    reg (placeStore b l e v s) (Reg.place b l e) = v := by
  obtain ⟨chk, mem, hp⟩ := placeStore_eq b l e v s
  rw [hp]
  exact reg_setReg_same h

/-- The mirror's placement entries as the device's own. -/
def adoptPlaces (m : Map W64) (s : State) : State :=
  m.foldl (fun s e => placeStore (e.1 / 2 ^ 21) (e.1 / 2 ^ 13 % 256) (e.1 % 2 ^ 13) e.2 s) s

theorem adoptPlaces_ctx (m : Map W64) (s : State) : (adoptPlaces m s).ctx = s.ctx := by
  refine foldl_keeps_inv (I := fun t : State => t.ctx = s.ctx) (fun t e _ ht => ?_) rfl
  obtain ⟨_, _, hp⟩ := placeStore_eq (e.1 / 2 ^ 21) (e.1 / 2 ^ 13 % 256) (e.1 % 2 ^ 13) e.2 t
  rw [hp]
  exact ht

theorem adoptPlaces_spec {m : Map W64} {s : State} (hm : Map.sorted m = true) (hkeys : ∀ e ∈ m, e.1 < 4194304)
    (hregs : Map.sorted s.regs = true) : RegsIn PlaceRegs s (adoptPlaces m s) ∧
      ∀ k v, Map.get? m k = some v → reg (adoptPlaces m s) (placeReg k) = v := by
  refine ⟨RegsIn.foldl (fun t e he => placeStore_regsIn ?_ e.2 t) s, fun k v hk => ?_⟩
  · have := hkeys e he
    exact ⟨_, by omega, _, by omega, _, by omega, rfl⟩
  · refine foldl_entry (I := fun t => Map.sorted t.regs = true) (Q := fun t => reg t (placeReg k) = v) hm hk
      (fun t e _ ht => (placeStore_regsIn (A := fun _ => True) trivial e.2 t).sorted ht)
      (fun t _ ht => reg_placeStore_same ht) (fun t e _ hne ht hq => ?_) hregs
    rw [(placeStore_regsIn (A := fun a => a = placeReg e.1) rfl e.2 t).other]
    · exact hq
    · exact fun h => hne (placeReg_inj h).symm

/-! ### A takeover completed (R361) -/

/-- The half held before goes, and the mirror's objects become the device's own. -/
def adoptMirror (s : State) : State :=
  adoptPlaces s.twn.mirror.places (adoptLayers s.twn.mirror.layers (adoptTallies s.twn.mirror.tallies
    (adoptMGroups s.twn.mirror.mgroups (s.twn.mirror.ctxs.foldl adoptCtx (clearHalf false true (dropHalfCtxs false s))))))

/-- The takeover ends, and is logged. -/
def takeoverLogged (s : State) : State := logEv (codeOther 12) 2 0xFF none [s.twn.epoch.toNat]
  { adoptMirror s with twn := { (adoptMirror s).twn with taking := false } }

theorem takeoverFinish_idle {s : State} (h : s.twn.taking = false) : takeoverFinish s = s := if_pos (by simp [h])

theorem takeoverFinish_adopts {s : State} (h : s.twn.taking = true) (hchk : s.mem.chk = []) :
    takeoverFinish s = helloNow (takeoverLogged s) := by
  rw [takeoverFinish, if_neg (by simp [h]), mirrorCheck_clean hchk]
  rfl

/-- What the mirror and the device are like where a takeover is completed: maps in order, numbers in range, and no word
marked, no resident context and no swap that waits. -/
structure Adoptable (s : State) : Prop where
  unmarked : s.mem.chk = []
  noneWait : NoneWait s
  ctxs : Map.sorted s.twn.mirror.ctxs = true
  mgroups : Map.sorted s.twn.mirror.mgroups = true
  tallies : Map.sorted s.twn.mirror.tallies = true
  places : Map.sorted s.twn.mirror.places = true
  regs : Map.sorted s.regs = true
  table : Map.sorted s.ctx.table = true
  held : Map.sorted s.ctx.tallies = true
  tallyKeys : ∀ e ∈ s.twn.mirror.tallies, e.1 < 8192
  layerKeys : ∀ e ∈ s.twn.mirror.layers, e.1 < 256
  placeKeys : ∀ e ∈ s.twn.mirror.places, e.1 < 4194304
  offChip : ∀ e ∈ s.twn.mirror.ctxs, CtxArg.resident e.2.arg0 = false

/-- The mirror of `s` is adopted in `t`. -/
structure MirrorAdopted (s t : State) : Prop where
  only : ∃ regs groups moe sw ports wire bpm mem ctx dbg, t = { s with
    regs := regs, groups := groups, moe := moe, sw := sw, ports := ports, wire := wire, bpm := bpm, mem := mem
    ctx := ctx, dbg := dbg, twn := t.twn }
  twn : ∃ sent next q recopy out, t.twn = { s.twn with
    sentMseq := sent, nextSub := next, txq := q, recopy := recopy, out := out }
  up : upSublinks t = upSublinks s
  cfg : reg t Reg.twnCfg = reg s Reg.twnCfg
  taken : ∀ c x, Map.get? s.twn.mirror.ctxs c = some x → ∃ y, getCtx t c = some y ∧ TakenOver x.arg0 x.timeout x.step y
  kept : ∀ c, Map.get? s.twn.mirror.ctxs c = none → halfBit 3 c = twinSide s → getCtx t c = getCtx s c
  gone : ∀ c, Map.get? s.twn.mirror.ctxs c = none → halfBit 3 c ≠ twinSide s → getCtx t c = none
  mgroups : ∀ n x, Map.get? s.twn.mirror.mgroups n = some x → getMGroup t n = x
  tallies : ∀ n x, Map.get? s.twn.mirror.tallies n = some x → getTally t n = heldTally x ∧
    reg t (Reg.tallyCfg n) = x.cfg ∧ reg t (Reg.tallyRelease n) = x.release
  layers : ∀ l, Map.has s.twn.mirror.layers l = true → (reg t (Reg.layer l 0)).getLsbD 63 = false
  places : ∀ k v, Map.get? s.twn.mirror.places k = some v → reg t (placeReg k) = v

theorem not_layerRegs_tally {n : Nat} (hn : n < 8192) : ¬ LayerRegs (Reg.tallyCfg n) ∧ ¬ LayerRegs (Reg.tallyRelease n) ∧
    ¬ PlaceRegs (Reg.tallyCfg n) ∧ ¬ PlaceRegs (Reg.tallyRelease n) := by
  refine ⟨?_, ?_, ?_, ?_⟩
  · rintro ⟨l, hl, w, hw, h⟩
    simp only [Reg.tallyCfg, Reg.layer, blockBase] at h
    omega
  · rintro ⟨l, hl, w, hw, h⟩
    simp only [Reg.tallyRelease, Reg.layer, blockBase] at h
    omega
  · rintro ⟨b, hb, l, hl, e, he, h⟩
    simp only [Reg.tallyCfg, Reg.place, blockBase] at h
    omega
  · rintro ⟨b, hb, l, hl, e, he, h⟩
    simp only [Reg.tallyRelease, Reg.place, blockBase] at h
    omega

theorem not_placeRegs_layer {l : Nat} (hl : l < 256) : ¬ PlaceRegs (Reg.layer l 0) := by
  rintro ⟨b, hb, k, hk, e, he, h⟩
  simp only [Reg.layer, Reg.place, blockBase] at h
  omega

theorem not_tables_twnCfg : ¬ TallyRegs Reg.twnCfg ∧ ¬ LayerRegs Reg.twnCfg ∧ ¬ PlaceRegs Reg.twnCfg := by
  refine ⟨?_, ?_, ?_⟩
  · rintro ⟨t, ht, h | h⟩
    · simp only [Reg.tallyCfg, Reg.twnCfg, blockBase] at h
      omega
    · simp only [Reg.tallyRelease, Reg.twnCfg, blockBase] at h
      omega
  · rintro ⟨l, hl, w, hw, h⟩
    simp only [Reg.layer, Reg.twnCfg, blockBase] at h
    omega
  · rintro ⟨b, hb, l, hl, e, he, h⟩
    exact place_ne_twnCfg hb hl he h.symm

theorem mem_of_get? {α : Type} {m : Map α} {k : Nat} {v : α} (h : Map.get? m k = some v) : (k, v) ∈ m := by
  induction m with
  | nil => simp [Map.get?] at h
  | cons e m ih =>
    obtain ⟨j, a⟩ := e
    rw [Map.get?] at h
    split at h
    · next hj => simp [hj, Option.some.inj h]
    · exact List.mem_cons_of_mem _ (ih h)

theorem adoptMirror_adopted {s : State} (h : Adoptable s) : MirrorAdopted s (adoptMirror s) := by
  have hempty := halfEmptied_places false h.noneWait h.regs h.table
  unfold adoptMirror
  generalize clearHalf false true (dropHalfCtxs false s) = c at hempty
  obtain ⟨_, _, _, _, _, _, _, _, _, hc⟩ := hempty.only
  obtain ⟨hadopt, htaken, hstay⟩ := adoptCtxs_spec h.ctxs h.offChip hempty.noneWait
  generalize s.twn.mirror.ctxs.foldl adoptCtx c = t1 at hadopt htaken hstay
  obtain ⟨⟨groups, hg⟩, hmgroups⟩ := adoptMGroups_spec s.twn.mirror.mgroups t1
  generalize adoptMGroups s.twn.mirror.mgroups t1 = t2 at hg hmgroups
  obtain ⟨_, _, _, sent, next, q, recopy, out, _, ha⟩ := hadopt.only
  have hregs2 : t2.regs = c.regs := by rw [hg, ha]
  obtain ⟨htin, htal⟩ := adoptTallies_spec (s := t2) h.tallies h.tallyKeys (hregs2 ▸ hempty.sorted)
    (by rw [hg, ha]; exact hempty.held h.held)
  generalize adoptTallies s.twn.mirror.tallies t2 = t3 at htin htal
  obtain ⟨hlin, hlay⟩ := adoptLayers_spec (s := t3) h.layerKeys (htin.sorted (hregs2 ▸ hempty.sorted))
  have hlctx := adoptLayers_ctx s.twn.mirror.layers t3
  generalize adoptLayers s.twn.mirror.layers t3 = t4 at hlin hlay hlctx
  obtain ⟨hpin, hplace⟩ := adoptPlaces_spec (s := t4) h.places h.placeKeys
    (hlin.sorted (htin.sorted (hregs2 ▸ hempty.sorted)))
  have hpctx := adoptPlaces_ctx s.twn.mirror.places t4
  generalize adoptPlaces s.twn.mirror.places t4 = t5 at hpin hplace hpctx
  obtain ⟨_, _, _, _, h3⟩ := htin.only
  obtain ⟨_, _, _, _, h4⟩ := hlin.only
  obtain ⟨_, _, _, _, h5⟩ := hpin.only
  have htable (c' : Nat) : getCtx t5 c' = getCtx t1 c' := by
    unfold getCtx
    rw [hpctx, hlctx, h3, hg]
  have hheld (n : Nat) : getTally t5 n = getTally t3 n := by
    unfold getTally
    rw [hpctx, hlctx]
  obtain ⟨hnt, hnl, hnp⟩ := not_tables_twnCfg
  refine ⟨⟨_, _, _, _, _, _, _, _, _, _, by rw [h5, h4, h3, hg, ha, hc]⟩,
    ⟨sent, next, q, recopy, out, by rw [h5, h4, h3, hg, ha, hc]⟩, ?up, ?cfg, fun c' x hx => ?taken, fun c' hx hside => ?kept,
    fun c' hx hside => ?gone, fun n x hx => ?groups, fun n x hx => ?tallies, fun l hl => ?layers, hplace⟩
  case up =>
    refine Eq.trans ?_ hempty.up
    rw [h5, h4, h3, hg, ha]
    rfl
  case cfg =>
    rw [hpin.other _ hnp, hlin.other _ hnl, htin.other _ hnt, reg, hregs2]
    exact hempty.other _ fun hc => hc.elim (fun hr => hr.ne_twnCfg rfl) (fun hp => hp.ne_twnCfg rfl)
  case taken =>
    rw [htable]
    exact htaken c' x hx
  case kept =>
    rw [htable, hstay c' hx, hempty.ctxs, if_neg (by simp [goneHalf, hside])]
  case gone =>
    rw [htable, hstay c' hx, hempty.ctxs, if_pos (by simp [goneHalf, hside])]
  case groups =>
    rw [getMGroup, hpctx, hlctx, h3]
    exact hmgroups h.mgroups n x hx
  case tallies =>
    obtain ⟨hval, hcfg, hrel⟩ := htal n x hx
    obtain ⟨hlc, hlr, hpc, hpr⟩ := not_layerRegs_tally (h.tallyKeys _ (mem_of_get? hx))
    refine ⟨(hheld n).trans hval, ?_, ?_⟩
    · rw [hpin.other _ hpc, hlin.other _ hlc, hcfg]
    · rw [hpin.other _ hpr, hlin.other _ hlr, hrel]
  case layers =>
    obtain ⟨e, he, rfl⟩ := Map.mem_of_has hl
    rw [hpin.other _ (not_placeRegs_layer (h.layerKeys e he))]
    exact hlay e.1 hl

/-! ### HELLO, whether engaged or not -/

theorem helloNow_twn (s : State) : ∃ out, (helloNow s).twn = { s.twn with out := out } := by
  by_cases h : engaged s = true
  · rw [helloNow_says h]
    exact ⟨_, rfl⟩
  · exact ⟨s.twn.out, by rw [helloNow, if_neg h]⟩

/-- Where a device is engaged each of its sublinks has its HELLO waiting. -/
theorem helloNow_out {s : State} (h : engaged s = true) {n : Nat} (hn : n ∈ upSublinks s) :
    (n, twinOctets 1 0 s.twn.epoch (helloBody s)) ∈ (helloNow s).twn.out := by
  rw [helloNow_says h]
  exact List.mem_append_right _ (List.mem_map.mpr ⟨n, hn, rfl⟩)

theorem helloBody_helloNow (s : State) : helloBody (helloNow s) = helloBody s := by
  obtain ⟨out, h⟩ := helloNow_twn s
  have hs := helloNow_eq s
  refine helloBody_congr (by rw [hs]) (by rw [h]) (by rw [h]) (by rw [hs])

/-! ### A giveback completed (R363) -/

/-- The adopted half goes, and TOOK_OVER with it. -/
def givenBack (s : State) : State :=
  let s1 := clearHalf false false (dropHalfCtxs false s)
  { s1 with twn := { s1.twn with tookOver := false, giveback := false } }

theorem givebackDone_waits {s : State} (h : s.twn.giveback = false ∨ s.twn.ackedMseq ≠ s.twn.sentMseq) :
    givebackDone s = s :=
  if_neg fun hc => h.elim (fun hf => Bool.false_ne_true (hf.symm.trans hc.1)) (fun hne => hne hc.2)

theorem givebackDone_gives {s : State} (hg : s.twn.giveback = true) (ha : s.twn.ackedMseq = s.twn.sentMseq) :
    givebackDone s = helloNow (givenBack s) := if_pos ⟨hg, ha⟩

/-! ### The frame of a recovery action (Table 17.5) -/

/-- The outcome of an action, kept. -/
def actShown (st : Status) (code : BitVec 4) (e : BitVec 32) (s : State) : State :=
  { s with twn := { s.twn with actStatus := st, actCode := code, actEpoch := e } }

/-- The state an action is performed on: its epoch stands, with the action recorded. -/
def acting (code : BitVec 4) (e : BitVec 32) (s : State) : State :=
  { setPairEpoch e s with twn := { (setPairEpoch e s).twn with recorded := (setPairEpoch e s).twn.recorded ++ [code] } }

section
variable {code : BitVec 4} {e : BitVec 32} {cond : Bool} {perform : State → State} {s : State}

theorem twinAct_stale (h : e.toNat < s.twn.epoch.toNat) :
    twinAct code e cond perform s = (.epochStale, actShown .epochStale code e s) := by
  rw [twinAct, if_pos h]
  rfl

theorem twinAct_repeated (h : e = s.twn.epoch) (hr : s.twn.recorded.contains code = true) :
    twinAct code e cond perform s = (.ok, actShown .ok code e s) := by
  rw [twinAct, if_neg (by rw [h]; exact lt_irrefl _), if_pos ⟨h, hr⟩]
  rfl

theorem not_stale (hf : s.twn.epoch.toNat < e.toNat ∨ e = s.twn.epoch) : ¬ e.toNat < s.twn.epoch.toNat := by
  rintro hlt
  obtain hgt | rfl := hf
  · omega
  · exact lt_irrefl _ hlt

variable (hf : s.twn.epoch.toNat < e.toNat ∨ e = s.twn.epoch) (hr : e = s.twn.epoch → s.twn.recorded.contains code = false)
include hf hr

theorem twinAct_refused (hc : cond = false) :
    twinAct code e cond perform s = (.resourceBound, actShown .resourceBound code e s) := by
  rw [twinAct, if_neg (not_stale hf), if_neg fun h => Bool.false_ne_true ((hr h.1).symm.trans h.2), if_pos (by simp [hc])]
  rfl

theorem twinAct_performs (hc : cond = true) :
    twinAct code e cond perform s = (.ok, actShown .ok code e (perform (acting code e s))) := by
  rw [twinAct, if_neg (not_stale hf), if_neg fun h => Bool.false_ne_true ((hr h.1).symm.trans h.2), if_neg (by simp [hc])]
  rfl

end

/-- What stands when an action is performed. -/
theorem acting_spec (code : BitVec 4) (e : BitVec 32) (s : State) : ∃ rec sent next q recopy out dbg,
    acting code e s = { s with dbg := dbg, twn := { s.twn with
      epoch := e, recorded := rec ++ [code], sentMseq := sent, nextSub := next, txq := q, recopy := recopy, out := out } } ∧
    (s.twn.epoch ≠ e → rec = []) := by
  unfold acting setPairEpoch
  split
  · next h => exact ⟨s.twn.recorded, s.twn.sentMseq, s.twn.nextSub, s.twn.txq, s.twn.recopy, s.twn.out, s.dbg, by rw [h],
      fun hne => absurd h.symm hne⟩
  · obtain ⟨sent, next, q, recopy, out, dbg, hsent⟩ := mirrorSend_sent 10
      (epochsBody { s with twn := { s.twn with epoch := e, recorded := [] } })
      { s with twn := { s.twn with epoch := e, recorded := [] } }
    rw [mirrorEpochs, hsent]
    exact ⟨[], sent, next, q, recopy, out, dbg, rfl, fun _ => rfl⟩

/-! ### Ports brought up after a fence (R363) -/

/-- Only ports that were down change, and nothing but ports. -/
def DownRise (s t : State) : Prop :=
  (∃ ports, t = { s with ports := ports }) ∧ ∀ k, (getPort s k).state ≠ .down → getPort t k = getPort s k

namespace DownRise

theorem refl (s : State) : DownRise s s := ⟨⟨_, rfl⟩, fun _ _ => rfl⟩

theorem trans {s t u : State} (hst : DownRise s t) (htu : DownRise t u) : DownRise s u := by
  obtain ⟨⟨_, rfl⟩, hst⟩ := hst
  obtain ⟨⟨_, rfl⟩, htu⟩ := htu
  exact ⟨⟨_, rfl⟩, fun k hk => (htu k (by rw [hst k hk]; exact hk)).trans (hst k hk)⟩

end DownRise

theorem getPort_toTraining_other {j k : Nat} (s : State) (h : j ≠ k) : getPort (toTraining k s) j = getPort s j :=
  getPort_modPort_other h

theorem toTraining_downRise {k : Nat} {s : State} (h : (getPort s k).state = .down) : DownRise s (toTraining k s) :=
  ⟨⟨_, rfl⟩, fun _ hj => getPort_toTraining_other s fun hjk => hj (hjk ▸ h)⟩

/-- One port's rise where ADMIN = 1. -/
def riseIfAdmin (s : State) (l : Nat) : State := if bitAt (reg s (Reg.lnkCfg l)) 0 then adminRise l s else s

theorem riseIfAdmin_downRise (s : State) (l : Nat) : DownRise s (riseIfAdmin s l) := by
  unfold riseIfAdmin adminRise
  split
  · split
    · next h => exact toTraining_downRise h.2
    · exact .refl s
  · exact .refl s

/-- One sublink's rise. -/
def subRise (s : State) (n : Nat) : State :=
  if (getPort s (1024 + n)).state = .down then toTraining (1024 + n) s else s

theorem subRise_downRise (s : State) (n : Nat) : DownRise s (subRise s n) := by
  unfold subRise
  split
  · next h => exact toTraining_downRise h
  · exact .refl s

theorem bringUpAll_rises (s : State) : bringUpAll s = foldOver (upTo 8) subRise (foldOver (upTo 1024) riseIfAdmin s) := rfl

theorem bringUpAll_downRise (s : State) : DownRise s (bringUpAll s) := by
  rw [bringUpAll_rises]
  exact (foldOver_rel DownRise.refl (fun _ _ _ => DownRise.trans) riseIfAdmin_downRise _ s).trans
    (foldOver_rel DownRise.refl (fun _ _ _ => DownRise.trans) subRise_downRise _ _)

theorem DownRise.up_mem {s t : State} (h : DownRise s t) {n : Nat} (hn : n ∈ upSublinks s) : n ∈ upSublinks t := by
  obtain ⟨hlt, hup⟩ := List.mem_filter.mp hn
  have hstate : (getPort s (1024 + n)).state = .up := by simpa using hup
  refine List.mem_filter.mpr ⟨hlt, ?_⟩
  rw [h.2 _ (by rw [hstate]; decide)]
  exact hup

/-- A port that is down and should be up begins its bring-up. -/
theorem bringUpAll_trains {l : Nat} {s : State} (hup : adminUp s l = true) (hdown : (getPort s l).state = .down) :
    (getPort (bringUpAll s) l).state = .training := by
  have hl : l < 1024 := by
    simp only [adminUp, isFirst, Bool.and_eq_true, decide_eq_true_eq] at hup
    exact hup.1.1.1.1.1
  have hrise (t : State) (ht : ∃ ports, t = { s with ports := ports }) (hd : (getPort t l).state = .down) :
      (getPort (riseIfAdmin t l) l).state = .training := by
    obtain ⟨ports, rfl⟩ := ht
    have hadmin : adminUp { s with ports := ports } l = true := hup
    have hbit : bitAt (reg { s with ports := ports } (Reg.lnkCfg l)) 0 = true := by
      simp only [adminUp, Bool.and_eq_true] at hup
      exact hup.1.1.2
    rw [riseIfAdmin, if_pos hbit, adminRise, if_pos ⟨hadmin, hd⟩, toTraining, getPort_modPort_same]
  have htrained {t u : State} (h : DownRise t u) (ht : (getPort t l).state = .training) :
      (getPort u l).state = .training := by
    rw [h.2 l (by rw [ht]; decide), ht]
  rw [bringUpAll_rises]
  refine htrained (foldOver_rel DownRise.refl (fun _ _ _ => DownRise.trans) subRise_downRise _ _) ?_
  refine foldOver_reaches (P := fun t => (∃ ports, t = { s with ports := ports }) ∧ (getPort t l).state = .down)
    (Q := fun t => (getPort t l).state = .training) (mem_upTo.mpr hl) (fun t ht => hrise t ht.1 ht.2)
    (fun t k hk ht => ?_) (fun t k ht => htrained (riseIfAdmin_downRise t k) ht) ⟨⟨_, rfl⟩, hdown⟩
  obtain ⟨⟨ports, rfl⟩, hd⟩ := ht
  obtain ⟨⟨ports', heq⟩, -⟩ := riseIfAdmin_downRise { s with ports := ports } k
  refine ⟨⟨ports', heq⟩, ?_⟩
  unfold riseIfAdmin adminRise
  split
  · split
    · rw [getPort_toTraining_other _ hk.symm]
      exact hd
    · exact hd
  · exact hd

theorem partnerFenced_iff {s : State} :
    partnerFenced s = true ↔ ∃ m, s.twn.partnerHello = some m ∧ m.fenced = true := by
  unfold partnerFenced
  cases s.twn.partnerHello with
  | none => simp
  | some m => simp

theorem mayTakeOver_iff {s : State} : mayTakeOver s = true ↔ engaged s = true ∧ s.twn.tookOver = false ∧
    ((s.twn.fenced = false ∧ ((s.twn.hbAlive = false ∧ upSublinks s = []) ∨
        ∃ m, s.twn.partnerHello = some m ∧ m.fenced = true)) ∨
      (s.twn.fenced = true ∧ s.twn.resynced = true ∧ s.twn.hbAlive = false ∧ upSublinks s = [])) := by
  unfold mayTakeOver
  cases hf : s.twn.fenced with
  | true => simp [partnerGone, and_assoc]
  | false => simp [partnerGone, ← partnerFenced_iff, and_assoc]

/-- `v` is a state an action of `code` at epoch `e` may be performed on or end in, from `s`. -/
structure ActedFrom (code : BitVec 4) (e : BitVec 32) (s v : State) : Prop where
  only : v = { s with ports := v.ports, dbg := v.dbg, twn := v.twn }
  epoch : v.twn.epoch = e
  recorded : v.twn.recorded.contains code = true

theorem acting_actedFrom (code : BitVec 4) (e : BitVec 32) (s : State) : ActedFrom code e s (acting code e s) := by
  obtain ⟨rec, sent, next, q, recopy, out, dbg, ha, -⟩ := acting_spec code e s
  rw [ha]
  exact ⟨rfl, rfl, by simp⟩

/-- What an action keeps of the twin pair's state until it is performed. -/
theorem acting_keeps (code : BitVec 4) (e : BitVec 32) (s : State) : (acting code e s).ports = s.ports ∧
    (acting code e s).twn.tookOver = s.twn.tookOver ∧ (acting code e s).twn.fenced = s.twn.fenced ∧
    (s.twn.epoch ≠ e → (acting code e s).twn.recorded = [code]) := by
  obtain ⟨rec, sent, next, q, recopy, out, dbg, ha, hnew⟩ := acting_spec code e s
  rw [ha]
  exact ⟨rfl, rfl, rfl, fun h => by rw [hnew h]; rfl⟩

/-- Where an action has ended in `v`, its outcome shown. -/
def ended (code : BitVec 4) (e : BitVec 32) (v : State) : State := withStatus (actShown .ok code e v) .ok

theorem ended_only {code : BitVec 4} {e : BitVec 32} {s v : State} (h : ActedFrom code e s v) :
    ended code e v = { s with
      ports := v.ports, dbg := (ended code e v).dbg, twn := (ended code e v).twn, lastStatus := .ok } := by
  rw [ended, h.only]
  rfl

theorem helloNow_actedFrom {code : BitVec 4} {e : BitVec 32} {s v : State} (h : ActedFrom code e s v) :
    ActedFrom code e s (helloNow v) ∧ (helloNow v).ports = v.ports ∧ (helloNow v).twn.tookOver = v.twn.tookOver ∧
      (helloNow v).twn.taking = v.twn.taking ∧ (helloNow v).twn.fenced = v.twn.fenced := by
  obtain ⟨out, hout⟩ := helloNow_twn v
  have hsame := helloNow_eq v
  have hports : (helloNow v).ports = v.ports := by rw [hsame]
  have hdbg : (helloNow v).dbg = v.dbg := by rw [hsame]
  refine ⟨⟨?_, ?_, ?_⟩, hports, ?_, ?_, ?_⟩
  · rw [hports, hdbg]
    exact hsame.trans (congrArg (fun u : State => { u with twn := (helloNow v).twn }) h.only)
  · rw [hout]
    exact h.epoch
  · rw [hout]
    exact h.recorded
  all_goals rw [hout]

/-- An action that ends with HELLO leaves it waiting on each sublink. -/
theorem helloNow_ended {code : BitVec 4} {e : BitVec 32} {s v : State} (ha : ActedFrom code e s v)
    (h : engaged s = true) {n : Nat} (hn : n ∈ upSublinks v) :
    (n, twinOctets 1 0 e (helloBody (ended code e (helloNow v)))) ∈ (ended code e (helloNow v)).twn.out := by
  have he : engaged v = true := by
    rw [ha.only]
    exact h
  have hbody : helloBody (ended code e (helloNow v)) = helloBody v :=
    (helloBody_congr (s := helloNow v) rfl rfl rfl rfl).trans (helloBody_helloNow v)
  rw [hbody, ← ha.epoch]
  exact helloNow_out he hn

theorem takeoverBegin_actedFrom {code : BitVec 4} {e : BitVec 32} {s v : State} (h : ActedFrom code e s v) :
    ActedFrom code e s (takeoverBegin v) := by
  refine ⟨?_, h.epoch, h.recorded⟩
  exact congrArg (fun u : State => { u with twn := (takeoverBegin v).twn }) h.only

theorem mirrorPush_actedFrom {code : BitVec 4} {e : BitVec 32} {s v : State} (m : Byte) (body : List Byte)
    (h : ActedFrom code e s v) : ActedFrom code e s (mirrorPush m body v) ∧ (mirrorPush m body v).ports = v.ports ∧
      (mirrorPush m body v).twn.resyncing = v.twn.resyncing ∧ (mirrorPush m body v).twn.fenced = v.twn.fenced := by
  obtain ⟨sent, next, q, recopy, out, dbg, hsent⟩ := mirrorPush_sent m body v
  rw [hsent]
  refine ⟨⟨?_, h.epoch, h.recorded⟩, rfl, rfl, rfl⟩
  exact congrArg (fun u : State => { u with dbg := dbg, twn := { v.twn with
    sentMseq := sent, nextSub := next, txq := q, recopy := recopy, out := out } }) h.only

theorem DownRise.actedFrom {code : BitVec 4} {e : BitVec 32} {s v u : State} (h : ActedFrom code e s v)
    (hr : DownRise v u) : ActedFrom code e s u ∧ u.dbg = v.dbg ∧ u.twn = v.twn := by
  obtain ⟨⟨ports, rfl⟩, -⟩ := hr
  refine ⟨⟨?_, h.epoch, h.recorded⟩, rfl, rfl⟩
  exact congrArg (fun u : State => { u with ports := ports }) h.only

theorem adminUp_unfenced {s t : State} {l : Nat} (hregs : t.regs = s.regs) (hcord : t.cord = s.cord) (hpwr : t.pwr = s.pwr)
    (hf : t.twn.fenced = false) : adminUp t l = (isFirst s l && bitAt (reg s (Reg.lnkCfg l)) 0 && serdesOn s) := by
  simp only [adminUp, isFirst, lanesOf, serdesOn, reg, hregs, hcord, hpwr, hf, Bool.not_false, Bool.and_true]
  rfl

/-- What an UNFENCE comes to. -/
theorem unfence_ends {code : BitVec 4} {e : BitVec 32} {s w : State} (hw : ActedFrom code e s w)
    (hopen : w.twn.fenced = false) (hports : w.ports = s.ports) : ∃ v, helloNow (bringUpAll w) = v ∧
      ActedFrom code e s v ∧ v.twn.fenced = false ∧
      (engaged s = true → ∀ n ∈ upSublinks s, (n, twinOctets 1 0 e (helloBody (ended code e v))) ∈ (ended code e v).twn.out) ∧
      ∀ l, isFirst s l = true → (reg s (Reg.lnkCfg l)).getLsbD 0 = true → serdesOn s = true →
        (getPort s l).state = .down → (getPort v l).state = .training := by
  have hup : upSublinks w = upSublinks s := upSublinks_congr fun k => by simp only [getPort, hports]
  have htrains (l : Nat) (hl : isFirst s l = true) (hadmin : (reg s (Reg.lnkCfg l)).getLsbD 0 = true)
      (hserdes : serdesOn s = true) (hdown : (getPort s l).state = .down) :
      (getPort (bringUpAll w) l).state = .training := by
    refine bringUpAll_trains ?_ (by rw [getPort, hports]; exact hdown)
    rw [adminUp_unfenced (s := s) (by rw [hw.only]) (by rw [hw.only]) (by rw [hw.only]) hopen, hl, hserdes, bitAt, hadmin]
    rfl
  have hrise := bringUpAll_downRise w
  generalize bringUpAll w = y at htrains hrise
  obtain ⟨hb, -, hbtwn⟩ := hrise.actedFrom hw
  obtain ⟨hh, hhp, -, -, hhf⟩ := helloNow_actedFrom hb
  refine ⟨helloNow y, rfl, hh, ?_, fun he n hn => helloNow_ended hb he (hrise.up_mem (hup ▸ hn)), fun l hl ha hs hd => ?_⟩
  · rw [hhf, hbtwn, hopen]
  · rw [getPort, hhp]
    exact htrains l hl ha hs hd

/-! ### FENCE said (R362, R363) -/

/-- FENCE on each of some sublinks, under one number. -/
theorem fenceEmit_foldOver (l : List Nat) (q : Nat) (s : State) :
    foldOver l (fun s k => twinEmit k 11 q [] s) s = { s with
      twn := { s.twn with out := s.twn.out ++ l.map (fun k => (k, twinOctets 11 q s.twn.epoch [])) } } := by
  unfold foldOver
  induction l generalizing s with
  | nil => simp
  | cons n l ih =>
    rw [List.foldl_cons, ih]
    simp [twinEmit]

theorem sendFence_says (s : State) : ∃ sent q out, sendFence s = { s with
    twn := { s.twn with sentMseq := sent, txq := q, out := out } } ∧
    ∀ n ∈ upSublinks s, (n, twinOctets 11 sent s.twn.epoch []) ∈ out := by
  unfold sendFence
  split
  · next h => exact ⟨s.twn.sentMseq, s.twn.txq, s.twn.out, rfl, fun n hn => by simp [h] at hn⟩
  · next k l h =>
    dsimp only
    rw [fenceEmit_foldOver]
    exact ⟨_, _, _, rfl, fun n hn => List.mem_append_right _ (List.mem_map.mpr ⟨n, h ▸ hn, rfl⟩)⟩

/-- A takeover completed: the mirror adopted, and HELLO said. -/
theorem takeoverFinish_spec {s : State} (ht : s.twn.taking = true) (h : Adoptable s) : ∃ t, takeoverFinish s = t ∧
    t.twn.taking = false ∧ t.twn.mirror = s.twn.mirror ∧ t.twn.tookOver = s.twn.tookOver ∧ t.time = s.time ∧
    t.cord = s.cord ∧ t.pwr = s.pwr ∧ t.pending = s.pending ∧ t.regs = (adoptMirror s).regs ∧
    t.ctx = (adoptMirror s).ctx ∧ (engaged s = true → ∀ n ∈ upSublinks s,
      (n, twinOctets 1 0 s.twn.epoch (helloBody t)) ∈ t.twn.out) := by
  have hm := adoptMirror_adopted h
  rw [takeoverFinish_adopts ht h.unmarked]
  unfold takeoverLogged
  generalize adoptMirror s = a at hm
  have hlog := logEv_noted (codeOther 12) 2 0xFF none [s.twn.epoch.toNat] { a with twn := { a.twn with taking := false } }
  have htwn := logEv_twn_eq (codeOther 12) 2 0xFF none [s.twn.epoch.toNat] { a with twn := { a.twn with taking := false } }
  generalize logEv (codeOther 12) 2 0xFF none [s.twn.epoch.toNat] { a with twn := { a.twn with taking := false } } = u
    at hlog htwn
  have hsame := helloNow_eq u
  obtain ⟨out, hout⟩ := helloNow_twn u
  have hbody := helloBody_helloNow u
  have hsaid (he : engaged u = true) (n : Nat) (hn : n ∈ upSublinks u) := helloNow_out he hn
  generalize helloNow u = t at hsame hout hbody hsaid
  obtain ⟨sent, next, q, recopy, out', hatwn⟩ := hm.twn
  obtain ⟨_, _, _, _, _, _, _, _, _, _, ha⟩ := hm.only
  have hcfg : reg u Reg.twnCfg = reg s Reg.twnCfg := by
    rw [← hm.cfg]
    exact congrArg (Map.getD · _ _) hlog.regs_eq
  have hup : upSublinks u = upSublinks s := by
    rw [← hm.up]
    refine upSublinks_congr fun k => ?_
    rw [getPort, hlog.ports_eq]
    rfl
  have hpend : u.pending = a.pending := by
    obtain ⟨_, _, _, _, _, _, _, rfl⟩ := hlog
    rfl
  refine ⟨t, rfl, ?_, ?_, ?_, ?_, ?_, ?_, ?_, ?_, ?_, fun he n hn => ?_⟩
  · rw [hout, htwn]
  · rw [hout, htwn, hatwn]
  · rw [hout, htwn, hatwn]
  · rw [hsame, hlog.time_eq, ha]
  · rw [hsame, hlog.cord_eq, ha]
  · rw [hsame, hlog.pwr_eq, ha]
  · rw [hsame, hpend, ha]
  · rw [hsame, hlog.regs_eq]
  · rw [hsame, hlog.ctx_eq]
  · have hepoch : u.twn.epoch = s.twn.epoch := by rw [htwn, hatwn]
    rw [hbody, ← hepoch]
    exact hsaid (by rw [engaged, hcfg]; exact he) n (hup ▸ hn)

/-- Clearing a half's tables leaves TWN_CFG, in whatever order the registers are held. -/
theorem clearHalf_regsIn (own : Bool) (s : State) :
    RegsIn (· ≠ Reg.twnCfg) (groupsGone own s) (clearHalf own false s) := by
  rw [clearHalf_tables, tablesCleared]
  refine RegsIn.trans (RegsIn.foldl (fun t n hn => ?_) _) (RegsIn.foldl (fun t l hl => ?_) _)
  · have hlt := mem_upTo.mp (List.mem_filter.mp hn).1
    refine (RegsIn.setReg ?_ t 0).trans (RegsIn.setReg ?_ _ 0)
    · exact fun h => not_tables_twnCfg.1 ⟨n, hlt, .inl h.symm⟩
    · exact fun h => not_tables_twnCfg.1 ⟨n, hlt, .inr h.symm⟩
  · have hlt := mem_upTo.mp (List.mem_filter.mp hl).1
    exact installLayer_regsIn (fun w hw h => not_tables_twnCfg.2.1 ⟨l, hlt, w, hw, h.symm⟩) [] t

/-- A giveback completed: the adopted half gone, and HELLO said. -/
theorem givenBack_spec {s : State} (htable : Map.sorted s.ctx.table = true) (hn : NoneWait s) :
    ∃ t, helloNow (givenBack s) = t ∧ t.twn.tookOver = false ∧ t.twn.giveback = false ∧
      (∀ c, getCtx t c = if goneHalf s false 3 c = true then none else getCtx s c) ∧
      (∀ n, getMGroup t n = if goneHalf s false 5 n = true then MGroup.reset else getMGroup s n) ∧
      (engaged s = true → ∀ n ∈ upSublinks s, (n, twinOctets 1 0 s.twn.epoch (helloBody t)) ∈ t.twn.out) ∧
      t.mem = s.mem ∧ t.time = s.time ∧ t.cord = s.cord ∧ t.pwr = s.pwr ∧ t.pending = s.pending := by
  obtain ⟨ks, hgone, hdrop⟩ := dropHalfCtxs_gone false hn htable
  have hlink := hgone.link
  obtain ⟨_, _, _, _, _, _, _, _, hd⟩ := hgone.only
  unfold givenBack
  generalize dropHalfCtxs false s = d at hdrop hlink hd
  have hin := clearHalf_regsIn false d
  have hmem := clearHalf_mem false d
  generalize clearHalf false false d = c at hin hmem
  obtain ⟨_, _, _, _, hc⟩ := hin.only
  have hdregs : d.regs = s.regs := by rw [hd]
  have hcfg : reg c Reg.twnCfg = reg s Reg.twnCfg := (hin.other _ (by simp)).trans (congrArg (Map.getD · _ _) hdregs)
  have hup : upSublinks c = upSublinks s :=
    (upSublinks_congr fun k => by rw [hc]; rfl).trans (upSublinks_congr hlink)
  have hctx (k : Nat) : getCtx c k = getCtx d k := by
    rw [hc]
    rfl
  have hgrp (k : Nat) : getMGroup c k = getMGroup (groupsGone false d) k := by
    rw [hc]
    rfl
  have hsame := helloNow_eq { c with twn := { c.twn with tookOver := false, giveback := false } }
  obtain ⟨out, hout⟩ := helloNow_twn { c with twn := { c.twn with tookOver := false, giveback := false } }
  have hbody := helloBody_helloNow { c with twn := { c.twn with tookOver := false, giveback := false } }
  have hsaid (he : engaged c = true) (n : Nat) (hn : n ∈ upSublinks c) :=
    helloNow_out (s := { c with twn := { c.twn with tookOver := false, giveback := false } }) he hn
  generalize helloNow { c with twn := { c.twn with tookOver := false, giveback := false } } = t at hsame hout hbody hsaid
  refine ⟨t, rfl, by rw [hout], by rw [hout], fun k => ?_, fun n => ?_, fun he n hn => ?_, ?_, ?_, ?_, ?_, ?_⟩
  · rw [show getCtx t k = getCtx c k by rw [hsame]; rfl, hctx]
    exact hdrop k
  · rw [show getMGroup t n = getMGroup c n by rw [hsame]; rfl, hgrp, getMGroup_groupsGone, goneHalf_congr hdregs]
    rw [show getMGroup d n = getMGroup s n by rw [hd]; rfl]
  · have hepoch : c.twn.epoch = s.twn.epoch := by rw [hc, hd]; rfl
    rw [hbody, ← hepoch]
    exact hsaid (by rw [engaged, hcfg]; exact he) n (hup ▸ hn)
  · rw [hsame]
    exact hmem.trans (by rw [hd])
  all_goals
    rw [hsame, hc, hd]
    rfl

/-- Settles O57: the frame that every action has, and each action by what it performs. -/
theorem recoveryActionsRun : Obligations.RecoveryActionsRun := by
  unfold Obligations.RecoveryActionsRun
  intro s hp
  refine ⟨fun hr e => ?actions, fun h => ?_, fun ht hchk => ?takeover, fun hg ha hsorted hn => ?giveback, fun h => ?_⟩
  case actions =>
    intro all fresh hellos turnedAway gone partner done
    have hrun {op : State → Status × State} : hostCmd op s = .next (withStatus (op s).2 (op s).1) := hostCmd_running hp hr
    have hdone (a : BitVec 4) (v : State) (he : v.twn.epoch = e) (ha : v.twn.recorded.contains a = true) :
        done a (withStatus (actShown .ok a e v) .ok) := ⟨rfl, he, ha, rfl, rfl, rfl⟩
    refine ⟨fun p hpm => ?frame, fun hf hrec => ?take, fun hf hrec => ?give, fun hf hrec => ?resync, fun hf hrec => ?fence,
      fun hf hrec => ?unfence, fun hf hrec => ?epoch⟩
    case frame =>
      have hact : ∃ cond perform, exec p.2 s = .next (withStatus (twinAct p.1 e cond perform s).2
          (twinAct p.1 e cond perform s).1) := by
        simp only [all, List.mem_cons, List.not_mem_nil, or_false] at hpm
        obtain rfl | rfl | rfl | rfl | rfl | rfl := hpm
        all_goals exact ⟨_, _, hrun⟩
      obtain ⟨cond, perform, hexec⟩ := hact
      refine ⟨fun hlt => ?_, fun heq hc => ?_⟩
      · rw [hexec, twinAct_stale hlt]
        rfl
      · rw [hexec, twinAct_repeated heq hc]
        rfl
    case take =>
      intro may
      have hact : exec (.takeover e) s = hostCmd (actTakeover e) s := rfl
      refine ⟨fun hm => ?_, fun hm => ?_⟩
      · rw [hact, hrun, actTakeover, twinAct_performs (code := 1) hf hrec (mayTakeOver_iff.mpr hm)]
        have hv := takeoverBegin_actedFrom (acting_actedFrom 1 e s)
        have hup : upSublinks (takeoverBegin (acting 1 e s)) = upSublinks s :=
          upSublinks_congr fun k => by rw [getPort, takeoverBegin, (acting_keeps 1 e s).1]; rfl
        have hports := (acting_keeps 1 e s).1
        have htook : (takeoverBegin (acting 1 e s)).twn.tookOver = true ∧ (takeoverBegin (acting 1 e s)).twn.taking = true :=
          ⟨rfl, rfl⟩
        have hvp : (takeoverBegin (acting 1 e s)).ports = s.ports := hports
        generalize takeoverBegin (acting 1 e s) = v at hv hup htook hvp
        obtain ⟨hh, hhp, ht, htk, -⟩ := helloNow_actedFrom hv
        refine ⟨ended 1 e (helloNow v), rfl, hdone 1 _ hh.epoch hh.recorded, ht.trans htook.1, htk.trans htook.2,
          fun he n hn => helloNow_ended hv he (hup ▸ hn), (ended_only hh).trans ?_⟩
        rw [hhp, hvp]
      · rw [hact, hrun, actTakeover, twinAct_refused (code := 1) hf hrec
          (Bool.eq_false_iff.mpr fun h => hm (mayTakeOver_iff.mp h))]
        rfl
    case give =>
      intro may
      have hact : exec (.giveback e) s = hostCmd (actGiveback e) s := rfl
      have hiff : (s.twn.tookOver && s.twn.state == 2 && partnerFenced s && s.twn.partnerResync == some e) = true ↔ may := by
        simp [may, partner, partnerFenced_iff, and_assoc]
      refine ⟨fun hm => ?_, fun hm => ?_⟩
      · rw [hact, hrun, actGiveback, twinAct_performs (code := 2) hf hrec (hiff.mpr hm)]
        have hv := acting_actedFrom 2 e s
        obtain ⟨hports, htook, -, -⟩ := acting_keeps 2 e s
        generalize acting 2 e s = v at hv hports htook
        refine ⟨_, rfl, hdone 2 _ hv.epoch hv.recorded, rfl, htook.trans hm.1, ?_⟩
        rw [hv.only, hports]
        rfl
      · rw [hact, hrun, actGiveback, twinAct_refused (code := 2) hf hrec
          (Bool.eq_false_iff.mpr fun h => hm (hiff.mp h))]
        rfl
    case resync =>
      intro may
      have hact : exec (.resync e) s = hostCmd (actResync e) s := rfl
      have hiff : (s.twn.fenced && s.twn.state == 2 && partnerTook s == some true) = true ↔ may := by
        simp [may, partner, partnerTook, and_assoc]
      refine ⟨fun hm => ?_, fun hm => ?_⟩
      · rw [hact, hrun, actResync, twinAct_performs (code := 3) hf hrec (hiff.mpr hm)]
        have hv := acting_actedFrom 3 e s
        obtain ⟨hports, -, hfenced, -⟩ := acting_keeps 3 e s
        generalize acting 3 e s = v at hv hports hfenced
        have hv' : ActedFrom 3 e s { v with twn := { v.twn with resyncing := true } } :=
          ⟨congrArg (fun u : State => { u with twn := { v.twn with resyncing := true } }) hv.only, hv.epoch, hv.recorded⟩
        have hup : upSublinks { v with twn := { v.twn with resyncing := true } } = upSublinks s :=
          upSublinks_congr fun k => by simp only [getPort, hports]
        have hpush := mirrorPush_pushes (s := { v with twn := { v.twn with resyncing := true } }) (m := 12#8)
          (body := [0xFF#8] ++ zeros 7)
        obtain ⟨hp', hpp, hre, hfe⟩ := mirrorPush_actedFrom 12#8 ([0xFF#8] ++ zeros 7) hv'
        refine ⟨ended 3 e (mirrorPush 12#8 ([0xFF#8] ++ zeros 7) { v with twn := { v.twn with resyncing := true } }), rfl,
          hdone 3 _ hp'.epoch hp'.recorded, hre, (hfe.trans hfenced).trans hm.1, (ended_only hp').trans ?_, fun hu => ?_⟩
        · rw [hpp]
          simp only [hports]
        · obtain ⟨x, hx, hm, hb, hseq⟩ := (hpush (hup ▸ hu)).last rfl
          exact ⟨x, hx, hm, hb, hseq⟩
      · rw [hact, hrun, actResync, twinAct_refused (code := 3) hf hrec
          (Bool.eq_false_iff.mpr fun h => hm (hiff.mp h))]
        rfl
    case fence =>
      have hact : exec (.fencePartner e) s = hostCmd (actFencePartner e) s := rfl
      refine ⟨fun hs => ?_, fun hs => ?_⟩
      · rw [hact, hrun, actFencePartner, twinAct_performs (code := 4) hf hrec (by simpa using hs)]
        have hv := acting_actedFrom 4 e s
        have hports := (acting_keeps 4 e s).1
        generalize acting 4 e s = v at hv hports
        have hup : upSublinks v = upSublinks s := upSublinks_congr fun k => by simp only [getPort, hports]
        obtain ⟨sent, q, out, hsay, hout⟩ := sendFence_says v
        rw [hsay]
        refine ⟨_, rfl, hdone 4 _ hv.epoch hv.recorded, fun n hn => ?_, ?_⟩
        · rw [← hv.epoch]
          exact hout n (hup ▸ hn)
        · rw [hv.only, hports]
          rfl
      · rw [hact, hrun, actFencePartner, twinAct_refused (code := 4) hf hrec (by simpa using hs)]
        rfl
    case unfence =>
      intro may
      have hact : exec (.unfence e) s = hostCmd (actUnfence e) s := rfl
      have hiff : (s.twn.fenced && partnerTook s == some false) = true ↔ may := by
        simp [may, partner, partnerTook]
      refine ⟨fun hm => ?_, fun hm => ?_⟩
      · rw [hact, hrun, actUnfence, twinAct_performs (code := 5) hf hrec (hiff.mpr hm)]
        have hv := acting_actedFrom 5 e s
        have hports := (acting_keeps 5 e s).1
        generalize acting 5 e s = v at hv hports
        have hv' : ActedFrom 5 e s { v with twn := { v.twn with fenced := false } } :=
          ⟨congrArg (fun u : State => { u with twn := { v.twn with fenced := false } }) hv.only, hv.epoch, hv.recorded⟩
        obtain ⟨u, hu, hacted, hopen, hsaid, htrains⟩ := unfence_ends hv' rfl hports
        dsimp only
        rw [hu]
        exact ⟨_, rfl, hdone 5 u hacted.epoch hacted.recorded, hopen, hsaid, htrains, ended_only hacted⟩
      · rw [hact, hrun, actUnfence, twinAct_refused (code := 5) hf hrec
          (Bool.eq_false_iff.mpr fun h => hm (hiff.mp h))]
        rfl
    case epoch =>
      have hact : exec (.setEpoch e) s = hostCmd (actSetEpoch e) s := rfl
      rw [hact, hrun, actSetEpoch, twinAct_performs (code := 6) hf hrec rfl]
      have hv := acting_actedFrom 6 e s
      obtain ⟨hports, htook, hfenced, hnew⟩ := acting_keeps 6 e s
      generalize acting 6 e s = v at hv hports htook hfenced hnew
      refine ⟨_, rfl, hdone 6 _ hv.epoch hv.recorded, hnew, htook, hfenced, ?_⟩
      rw [hv.only, hports]
      rfl
  case takeover =>
    intro mi keys hmaps hres hn
    obtain ⟨hctxs, hgroups, htallies, hplaces, hregs, htable, hheld, hkt, hkl, hkp⟩ := hmaps
    have hkey {α : Type} {m : Map α} {k : Nat} (h : keys (m.map (·.1)) k) : ∀ e ∈ m, e.1 < k := fun e he =>
      h e.1 (List.mem_map.mpr ⟨e, he, rfl⟩)
    have hadopt : Adoptable s := ⟨hchk, hn, hctxs, hgroups, htallies, hplaces, hregs, htable, hheld, hkey hkt, hkey hkl,
      hkey hkp, hres⟩
    obtain ⟨t, hexec, htaking, hmirror, htook, htime, hcord, hpwr, hpend, htregs, htctx, hsaid⟩ := takeoverFinish_spec ht hadopt
    have hm := adoptMirror_adopted hadopt
    generalize adoptMirror s = a at hm htregs htctx
    have hreg (x : Nat) : reg t x = reg a x := congrArg (Map.getD · _ _) htregs
    have hget (c : Nat) : getCtx t c = getCtx a c := congrArg (fun x : CtxSt => Map.get? x.table c) htctx
    have htal (n : Nat) : getTally t n = getTally a n := congrArg (fun x : CtxSt => Map.getD x.tallies n _) htctx
    refine ⟨t, congrArg Host.Outcome.next ((mssRuns_on hp).trans hexec), htaking, hmirror, htook, htime, hcord, hpwr, hpend,
      fun c x hx => ?_, fun c hx hside => (hget c).trans (hm.kept c hx hside),
      fun c hx hside => (hget c).trans (hm.gone c hx hside), fun n x hx => ?_, fun n x hx => ?_, fun l hl => ?_,
      fun k v hk => (hreg _).trans (hm.places k v hk), hsaid⟩
    · obtain ⟨y, hy, hstate, harg, hstep, htimeout, hchip⟩ := hm.taken c x hx
      exact ⟨y, (hget c).trans hy, hstate, harg, hstep, htimeout, hchip⟩
    · exact (congrArg (fun x : CtxSt => Map.getD x.groups n _) htctx).trans (hm.mgroups n x hx)
    · obtain ⟨hval, hcfg, hrel⟩ := hm.tallies n x hx
      exact ⟨(htal n).trans hval, (hreg _).trans hcfg, (hreg _).trans hrel⟩
    · rw [hreg]
      exact hm.layers l hl
  case giveback =>
    obtain ⟨t, hexec, htook, hgive, hctx, hgrp, hsaid, hmem, htime, hcord, hpwr, hpend⟩ := givenBack_spec hsorted hn
    have hside (kind n : Nat) : goneHalf s false kind n = true ↔ halfBit kind n ≠ twinSide s := by
      simp [goneHalf]
    refine ⟨t, congrArg Host.Outcome.next ((mssRuns_on hp).trans ((givebackDone_gives hg ha).trans hexec)), htook, hgive,
      fun c hc => (hctx c).trans (if_pos ((hside 3 c).mpr hc)),
      fun c hc => (hctx c).trans (if_neg fun h => (hside 3 c).mp h hc),
      fun n hn => (hgrp n).trans (if_neg fun h => (hside 5 n).mp h hn), hsaid, hmem, htime, hcord, hpwr, hpend⟩
  · exact congrArg Host.Outcome.next ((mssRuns_on hp).trans (takeoverFinish_idle h))
  · exact congrArg Host.Outcome.next ((mssRuns_on hp).trans (givebackDone_waits h))

end Sys2Proof.Machine
end

section
/-! The mirror against its statement: a fetched tally that the partner does not hold, with the log's intake full (R337,
R359). -/

namespace Sys2Proof.Machine

open Sys2Proof

/-- An entry of the log's intake. -/
def waitingRec : LogRec :=
  { lseq := 0, code := 0x0011, sev := 2, unit := 0xFF, tag := none, lost := false, persist := false, ftime := 0, args := [] }

/-- The partner's answer to a FETCH for tally 0, which it does not hold: message 1, a TALLY at its reset value. -/
def absentTally : List Byte := twinOctets 6 1 0 (beBytes 2 0 ++ zeros 38)

/-- A paired device that fetches tally 0 of its own half and has that answer at the front, with the 1,024 entries of the
log's intake taken and the counters of block 0 enabled. -/
def fetchingWithFullLog : State := { State.reset with
  regs := [(Reg.dbgEnable, 1)]
  pwr := { PowerSt.reset with porst := true }
  mss := { MssSt.reset with romOnly := false, logFifo := List.replicate 1024 waitingRec }
  twn := { TwinSt.reset with state := 2, fetching := [(6, 0)], inbox := [(0, absentTally)] } }

/-- The counters once the answer is taken. -/
def countersAfterAbsent : Option (Map Nat) :=
  match exec (.tally absentTally) fetchingWithFullLog with
  | .next t => some t.dbg.counters
  | _ => none

theorem countersAfterAbsent_eq : countersAfterAbsent = some [(ctrKey 0 0 0, 1)] := by decide +kernel

theorem absentTally_met : (twinMsgOf absentTally).mseq.toNat = 1 ∧ (twinMsgOf absentTally).mtype = 6 ∧
    bodyAt (twinMsgOf absentTally).body 0 2 = 0 ∧ ownHalf fetchingWithFullLog 6 0 = true ∧
    allZero ((twinMsgOf absentTally).body.drop 2) = true := by decide +kernel

/-- Refutes O56: with the log's intake full the event of the object that stays absent is lost, and the loss is counted
in block 0 besides; the statement, which for a tally asks for no room in the intake, has only the object counted. -/
theorem not_mirrorIsKept : ¬ Obligations.MirrorIsKept := by
  unfold Obligations.MirrorIsKept
  intro h
  obtain ⟨-, -, -, -, hturn⟩ := h fetchingWithFullLog 0 absentTally [] rfl rfl
  obtain ⟨hseq, htype, hnumber, hown, hzero⟩ := absentTally_met
  obtain ⟨-, -, -, htally, -⟩ := hturn rfl hseq rfl (by decide)
  obtain ⟨-, -, -, -, -, -, -, habsent, -⟩ := htally htype
  rw [hnumber] at habsent
  obtain ⟨t, hexec, ht⟩ := habsent hown List.mem_cons_self hzero
  have hcounters := countersAfterAbsent_eq
  rw [countersAfterAbsent, hexec] at hcounters
  have hcounted : t.dbg.counters = (count 12 4 0 fetchingWithFullLog).dbg.counters := by rw [ht]
  simp only [hcounted] at hcounters
  revert hcounters
  decide +kernel

end Sys2Proof.Machine
end

section
/-! What a register write leaves of HL_UP: one law of each function it runs (R308). -/

namespace Sys2Proof.Machine

open Sys2Proof

/-! ### Branches and folds -/

@[simp] theorem ite_hopUp {c : Prop} [Decidable c] {s t : State} :
    (if c then s else t).host.hopUp = if c then s.host.hopUp else t.host.hopUp := apply_ite (·.host.hopUp) c s t

@[simp] theorem ite_snd_hopUp {α : Type} {c : Prop} [Decidable c] {s t : α × State} :
    (if c then s else t).2.host.hopUp = if c then s.2.host.hopUp else t.2.host.hopUp :=
  apply_ite (·.2.host.hopUp) c s t

@[simp] theorem foldOver_hopUp {β : Type} {f : State → β → State} {l : List β} {s : State}
    (hf : ∀ s x, (f s x).host.hopUp = s.host.hopUp) : (foldOver l f s).host.hopUp = s.host.hopUp :=
  foldOver_rel (R := fun s t => t.host.hopUp = s.host.hopUp) (fun _ => rfl)
    (fun _ _ u h (h' : u.host.hopUp = _) => h'.trans h) hf l s

@[simp] theorem foldl_snd_hopUp {α β : Type} {f : α × State → β → α × State} {l : List β} {b : α × State}
    (hf : ∀ b x, (f b x).2.host.hopUp = b.2.host.hopUp) : (l.foldl f b).2.host.hopUp = b.2.host.hopUp :=
  foldOver_rel (R := fun s t => t.2.host.hopUp = s.2.host.hopUp) (fun _ => rfl)
    (fun _ _ u h (h' : u.2.host.hopUp = _) => h'.trans h) hf l b

@[simp] theorem arrayWrite_hopUp {o base step n : Nat} {f : Nat → State → Status × State} {rest : State → Status × State}
    {s : State} : (arrayWrite o base step n f rest s).2.host.hopUp =
      (arrayIx o base step n).elim (rest s).2.host.hopUp fun i => (f i s).2.host.hopUp := by
  unfold arrayWrite
  cases arrayIx o base step n <;> rfl

@[simp] theorem elim_const {α β : Type} (o : Option α) (b : β) : o.elim b (fun _ => b) = b := by cases o <;> rfl

/-! ### Management -/

@[simp] theorem unfenced_hopUp {op s} (hop : ∀ s, (op s).2.host.hopUp = s.host.hopUp) :
    (unfenced op s).2.host.hopUp = s.host.hopUp := by
  simp [unfenced, *]

@[simp] theorem storeIf_hopUp {ok a mask v s} : (storeIf ok a mask v s).2.host.hopUp = s.host.hopUp := by simp [storeIf]

@[simp] theorem logSelect_hopUp {v s} : (logSelect v s).2.host.hopUp = s.host.hopUp := by
  unfold logSelect
  dsimp only
  split <;> simp

@[simp] theorem updShow_hopUp {st detail s} : (updShow st detail s).2.host.hopUp = s.host.hopUp := by simp [updShow]

@[simp] theorem updCommit_hopUp {s} : (updCommit s).2.host.hopUp = s.host.hopUp := by
  unfold updCommit
  dsimp only
  repeat' split
  all_goals simp [updFail]

@[simp] theorem updCtrlWrite_hopUp {v s} : (updCtrlWrite v s).2.host.hopUp = s.host.hopUp := by
  unfold updCtrlWrite
  split <;> simp [updBegin, updAbort, svnCommit, revokeSlot]

@[simp] theorem ignored_hopUp {s} : (ignored s).2.host.hopUp = s.host.hopUp := by simp [ignored]

@[simp] theorem writeMss_hopUp {o v s} : (writeMss o v s).2.host.hopUp = s.host.hopUp := by simp [writeMss, ite_apply]

/-! ### The host link, time and the governor -/

@[simp] theorem startTimer_hopUp {claimant s} : (startTimer claimant s).host.hopUp = s.host.hopUp := by
  unfold startTimer
  split <;> simp

@[simp] theorem haltTimer_hopUp {claimant s} : (haltTimer claimant s).host.hopUp = s.host.hopUp := by
  unfold haltTimer
  split <;> simp

@[simp] theorem writeHlk_hopUp {o v s} : (writeHlk o v s).2.host.hopUp = s.host.hopUp := by
  simp [writeHlk, ite_apply, wdCfgWrite]

@[simp] theorem governorApply_hopUp {s} : (governorApply s).host.hopUp = s.host.hopUp := by
  unfold governorApply
  split
  · rfl
  · dsimp only
    repeat' split
    · exact foldOver_hopUp fun _ _ => rfl
    all_goals rfl

@[simp] theorem writeFtc_hopUp {o v s} : (writeFtc o v s).2.host.hopUp = s.host.hopUp := by
  simp [writeFtc, ite_apply, ftcSet, discCtrlWrite, discStatusWrite, govCtrlWrite]

/-! ### What the mirror is sent -/

@[simp] theorem twinEmit_hopUp {sub mtype mseq body s} :
    (twinEmit sub mtype mseq body s).host.hopUp = s.host.hopUp := by
  simp [twinEmit]

@[simp] theorem mirrorPush_hopUp {mtype body s} : (mirrorPush mtype body s).host.hopUp = s.host.hopUp := by
  unfold mirrorPush
  split <;> simp

@[simp] theorem mirrorSend_hopUp {mtype body s} : (mirrorSend mtype body s).host.hopUp = s.host.hopUp := by
  simp [mirrorSend]

@[simp] theorem writeSram_hopUp {ob lo n s} : (writeSram ob lo n s).host.hopUp = s.host.hopUp := by simp [writeSram]

@[simp] theorem helloNow_hopUp {s} : (helloNow s).host.hopUp = s.host.hopUp := by simp [helloNow]

@[simp] theorem routeWrite_hopUp {a v s} : (routeWrite a v s).2.host.hopUp = s.host.hopUp := by
  simp [routeWrite, mirrorRoute, routeStore]

@[simp] theorem fwdCfgWrite_hopUp {v s} : (fwdCfgWrite v s).2.host.hopUp = s.host.hopUp := by simp [fwdCfgWrite]

@[simp] theorem sparkCtrlWrite_hopUp {v s} : (sparkCtrlWrite v s).2.host.hopUp = s.host.hopUp := by
  simp [sparkCtrlWrite]

/-! ### Links, the switch and the scheduler -/

@[simp] theorem toTraining_hopUp {k s} : (toTraining k s).host.hopUp = s.host.hopUp := by simp [toTraining]

@[simp] theorem adminRise_hopUp {l s} : (adminRise l s).host.hopUp = s.host.hopUp := by simp [adminRise]

@[simp] theorem adminFall_hopUp {l s} : (adminFall l s).host.hopUp = s.host.hopUp := by
  unfold adminFall
  split <;> simp

@[simp] theorem forgetRx_hopUp {uid s} : (forgetRx uid s).host.hopUp = s.host.hopUp := by
  unfold forgetRx
  repeat' split
  all_goals rfl

@[simp] theorem eraseFrame_hopUp {uid s} : (eraseFrame uid s).host.hopUp = s.host.hopUp := by
  unfold eraseFrame
  dsimp only
  split <;> simp [retag]

@[simp] theorem dropFrame_hopUp {uid s} : (dropFrame uid s).host.hopUp = s.host.hopUp := by
  unfold dropFrame
  split <;> simp [pinMarks, sendNotice, buildRet, newFrame]

@[simp] theorem writePort_hopUp {l w v s} : (writePort l w v s).2.host.hopUp = s.host.hopUp := by
  simp [writePort, lnkCfgWrite, portFlush, policeWrite]

@[simp] theorem setPause_hopUp {l want s} : (setPause l want s).host.hopUp = s.host.hopUp := by simp [setPause]

@[simp] theorem pfcAll_hopUp {s} : (pfcAll s).host.hopUp = s.host.hopUp := by simp [pfcAll, pfcUpdate]

@[simp] theorem obCfgWrite_hopUp {n v s} : (obCfgWrite n v s).2.host.hopUp = s.host.hopUp := by simp [obCfgWrite]

@[simp] theorem entryWrite_hopUp {a rack v s} : (entryWrite a rack v s).2.host.hopUp = s.host.hopUp := by
  simp [entryWrite]

@[simp] theorem slotWrite_hopUp {i v s} : (slotWrite_ i v s).2.host.hopUp = s.host.hopUp := by simp [slotWrite_]

@[simp] theorem writeSwc_hopUp {o v s} : (writeSwc o v s).2.host.hopUp = s.host.hopUp := by simp [writeSwc, ite_apply]

@[simp] theorem writeSchPort_hopUp {l w v s} : (writeSchPort l w v s).2.host.hopUp = s.host.hopUp := by
  simp [writeSchPort, shapeWrite]

@[simp] theorem writeSch_hopUp {o v s} : (writeSch o v s).2.host.hopUp = s.host.hopUp := by simp [writeSch, ite_apply]

/-! ### Memory and arithmetic -/

@[simp] theorem mirrorEpochs_hopUp {s} : (mirrorEpochs s).host.hopUp = s.host.hopUp := by simp [mirrorEpochs]

@[simp] theorem writeBpm_hopUp {o v s} : (writeBpm o v s).2.host.hopUp = s.host.hopUp := by
  simp [writeBpm, ite_apply, hbmSpareWrite]

@[simp] theorem writeHth_hopUp {o v s} : (writeHth o v s).2.host.hopUp = s.host.hopUp := by
  simp [writeHth, ite_apply, arithDebugWrite, accPeek]

/-! ### Stations -/

@[simp] theorem progStatus_hopUp {g p st detail bundle s} :
    (progStatus g p st detail bundle s).host.hopUp = s.host.hopUp := by
  simp [progStatus]

@[simp] theorem programLoad_hopUp {g v s} : (programLoad g v s).2.host.hopUp = s.host.hopUp := by
  unfold programLoad
  dsimp only
  split <;> simp

@[simp] theorem programUnload_hopUp {g v s} : (programUnload g v s).2.host.hopUp = s.host.hopUp := by
  unfold programUnload
  dsimp only
  repeat' split
  all_goals simp

@[simp] theorem patch_hopUp {g p f s} : (patch g p f s).2.host.hopUp = s.host.hopUp := by simp [patch]

@[simp] theorem writeStn_hopUp {g o v s} : (writeStn g o v s).2.host.hopUp = s.host.hopUp := by
  simp [writeStn, ite_apply, stnArbWrite, spareCtrlWrite, maintWrite, progCtrlWrite, pstoreWrite, replayCountWrite,
    seqctrWrite, paramWrite]

/-! ### Contexts and member groups -/

@[simp] theorem ctxAction_hopUp {code c m r} : (ctxAction code c m r).2.host.hopUp = r.2.host.hopUp := by
  simp [ctxAction]

@[simp] theorem inHalf_hopUp {kind n op s} (hop : ∀ s, (op s).2.host.hopUp = s.host.hopUp) :
    (inHalf kind n op s).2.host.hopUp = s.host.hopUp := by
  simp [inHalf, *]

@[simp] theorem takeWord_hopUp {reader unit tag w s} : (takeWord reader unit tag w s).2.host.hopUp = s.host.hopUp := by
  simp [takeWord, countFixed]

@[simp] theorem fetchFailed_hopUp {kind n s} : (fetchFailed kind n s).host.hopUp = s.host.hopUp := by simp [fetchFailed]

@[simp] theorem objectLost_hopUp {kind n s} : (objectLost kind n s).host.hopUp = s.host.hopUp := by
  simp [objectLost, fetchOne]

@[simp] theorem modCtx_hopUp {c f s} : (modCtx c f s).host.hopUp = s.host.hopUp := by
  unfold modCtx
  split <;> simp

@[simp] theorem markBanking_hopUp {c s} : (markBanking c s).host.hopUp = s.host.hopUp := by simp [markBanking]

@[simp] theorem markVictim_hopUp {v s} : (markVictim v s).host.hopUp = s.host.hopUp := by
  unfold markVictim
  split <;> simp

@[simp] theorem eraseCtx_hopUp {c s} : (eraseCtx c s).host.hopUp = s.host.hopUp := by simp [eraseCtx, fillNeeds]

@[simp] theorem ctxLost_hopUp {c s} : (ctxLost c s).host.hopUp = s.host.hopUp := by simp [ctxLost]

@[simp] theorem readBank_hopUp {c s} : (readBank c s).host.hopUp = s.host.hopUp := by
  unfold readBank
  split <;> simp [scanWords]

@[simp] theorem takeSram_hopUp {reader unit tag p s} : (takeSram reader unit tag p s).2.host.hopUp = s.host.hopUp := by
  unfold takeSram
  split <;> simp [sramFixed]

@[simp] theorem readSram_hopUp {reader unit tag ob lo n s} :
    (readSram reader unit tag ob lo n s).2.host.hopUp = s.host.hopUp := by
  simp [readSram]

@[simp] theorem readCtx_hopUp {reader unit tag c s} : (readCtx reader unit tag c s).host.hopUp = s.host.hopUp := by
  unfold readCtx
  split <;> simp

@[simp] theorem touchCtx_hopUp {c s} : (touchCtx c s).host.hopUp = s.host.hopUp := by simp [touchCtx]

@[simp] theorem mirrorCtx_hopUp {c s} : (mirrorCtx c s).host.hopUp = s.host.hopUp := by
  unfold mirrorCtx
  split <;> simp

@[simp] theorem writeMem_hopUp {reader unit tag o l s} :
    (writeMem reader unit tag o l s).host.hopUp = s.host.hopUp := by
  refine foldOver_hopUp fun s w => ?_
  dsimp only
  repeat' split
  all_goals simp

@[simp] theorem storeBank_hopUp {c s} : (storeBank c s).host.hopUp = s.host.hopUp := by
  unfold storeBank
  split <;> simp

@[simp] theorem define_hopUp {c s} : (define c s).2.host.hopUp = s.host.hopUp := by
  unfold define ctxAction
  refine inHalf_hopUp fun s => ?_
  dsimp only
  split <;> simp

@[simp] theorem dropRouteWait_hopUp {c s} : (dropRouteWait c s).host.hopUp = s.host.hopUp := by
  unfold dropRouteWait
  refine foldOver_hopUp fun s x => ?_
  split <;> simp

@[simp] theorem purgeQueued_hopUp {g p f s} (hf : ∀ s, (f s).host.hopUp = s.host.hopUp) :
    (purgeQueued g p f s).host.hopUp = s.host.hopUp := by
  unfold purgeQueued
  refine foldOver_hopUp fun s x => ?_
  split <;> simp [*, leaveQueue]

@[simp] theorem settleShare_hopUp {g h s} : (settleShare g h s).host.hopUp = s.host.hopUp := by
  unfold settleShare
  split <;> simp

@[simp] theorem releaseHeld_hopUp {g h s} : (releaseHeld g h s).host.hopUp = s.host.hopUp := by
  unfold releaseHeld
  split <;> simp

@[simp] theorem purgeOffers_hopUp {own g p s} : (purgeOffers own g p s).host.hopUp = s.host.hopUp := by
  simp [purgeOffers]

@[simp] theorem releaseTile_hopUp {g h unit heir s} : (releaseTile g h unit heir s).host.hopUp = s.host.hopUp := by
  unfold releaseTile
  split <;> simp

@[simp] theorem purgeQueue_hopUp {g u taken p q s} : (purgeQueue g u taken p q s).2.host.hopUp = s.host.hopUp := by
  unfold purgeQueue
  refine foldOver_hopUp fun s x => ?_
  split <;> simp

@[simp] theorem purgeGroup_hopUp {g p s} : (purgeGroup g p s).host.hopUp = s.host.hopUp := by
  simp [purgeGroup, purgeHolds, purgeUnit]

@[simp] theorem freeOwned_hopUp {c s} : (freeOwned c s).host.hopUp = s.host.hopUp := by simp [freeOwned]

@[simp] theorem undefine_hopUp {c s} : (undefine c s).2.host.hopUp = s.host.hopUp := by
  unfold undefine
  dsimp only
  split <;> simp

@[simp] theorem bank_hopUp {c s} : (bank c s).2.host.hopUp = s.host.hopUp := by
  unfold bank
  dsimp only
  repeat' split
  all_goals simp

@[simp] theorem needCtx_hopUp {c s} : (needCtx c s).host.hopUp = s.host.hopUp := by
  unfold needCtx
  split <;> simp

@[simp] theorem unbank_hopUp {c s} : (unbank c s).2.host.hopUp = s.host.hopUp := by
  unfold unbank
  dsimp only
  split <;> simp

@[simp] theorem advance_hopUp {c s} : (advance c s).2.host.hopUp = s.host.hopUp := by
  unfold advance
  dsimp only
  split <;> simp

@[simp] theorem setStep_hopUp {c s} : (setStep c s).2.host.hopUp = s.host.hopUp := by
  unfold setStep
  dsimp only
  split <;> simp

@[simp] theorem abandonRun_hopUp {g u r s} : (abandonRun g u r s).host.hopUp = s.host.hopUp :=
  foldOver_hopUp (f := fun s h => freeBuf g h s) fun _ _ => rfl

@[simp] theorem tracePush_hopUp {d bytes s} : (tracePush d bytes s).host.hopUp = s.host.hopUp := by simp [tracePush]

@[simp] theorem traceGroup_hopUp {kind g u tag status invoc pass btag s} :
    (traceGroup kind g u tag status invoc pass btag s).host.hopUp = s.host.hopUp := by
  simp [traceGroup]

@[simp] theorem pushCpl_hopUp {c s} : (pushCpl c s).2.host.hopUp = s.host.hopUp := by simp [pushCpl]

@[simp] theorem completeUnit_hopUp {g u inv st pass btag s} :
    (completeUnit g u inv st pass btag s).host.hopUp = s.host.hopUp := by
  simp [completeUnit]

@[simp] theorem doomRuns_hopUp {c s} : (doomRuns c s).host.hopUp = s.host.hopUp := by
  unfold doomRuns
  refine foldOver_hopUp fun s g => foldOver_hopUp fun s u => ?_
  dsimp only
  repeat' split
  all_goals simp [failRun]

@[simp] theorem freeStep_hopUp {l step hs s} : (freeStep l step hs s).host.hopUp = s.host.hopUp := by
  unfold freeStep
  dsimp only
  rw [foldOver_hopUp]
  · simp
  · exact fun _ _ => rfl

@[simp] theorem endHolds_hopUp {c s} : (endHolds c s).host.hopUp = s.host.hopUp := by
  unfold endHolds
  refine foldOver_hopUp fun s x => ?_
  split <;> simp [completeSeq]

@[simp] theorem timeoutEffects_hopUp {c s} : (timeoutEffects c s).host.hopUp = s.host.hopUp := by
  unfold timeoutEffects
  dsimp only
  split <;> simp [endLayerStep, endGateStep, endCombineStep]

@[simp] theorem reformApply_hopUp {m e chips s} : (reformApply m e chips s).host.hopUp = s.host.hopUp := by
  simp [reformApply, restartStreams, purgeStale, purgeIntake, mirrorMgrp]
  refine foldOver_hopUp fun s c => ?_
  split <;> simp

/-! ### Tallies -/

@[simp] theorem readTally_hopUp {t s} : (readTally t s).host.hopUp = s.host.hopUp := by simp [readTally]

@[simp] theorem mirrorTally_hopUp {t s} : (mirrorTally t s).host.hopUp = s.host.hopUp := by simp [mirrorTally]

@[simp] theorem tallyWrite_hopUp {t w v s} : (tallyWrite t w v s).2.host.hopUp = s.host.hopUp := by
  unfold tallyWrite
  split <;> simp [tallyValueWrite, tallyCfgWrite, tallyReleaseWrite]

@[simp] theorem writeCtx_hopUp {o v s} : (writeCtx o v s).2.host.hopUp = s.host.hopUp := by
  simp [writeCtx, ite_apply, ctxActionWrite, reform]

/-! ### Experts -/

@[simp] theorem moeStatus_hopUp {l check st s} : (moeStatus l check st s).2.host.hopUp = s.host.hopUp := by
  simp [moeStatus]

@[simp] theorem mirrorLayer_hopUp {l s} : (mirrorLayer l s).host.hopUp = s.host.hopUp := by simp [mirrorLayer]

@[simp] theorem layerWrite_hopUp {l w v s} : (layerWrite l w v s).2.host.hopUp = s.host.hopUp := by
  unfold layerWrite
  dsimp only
  repeat' split
  all_goals simp

@[simp] theorem placeStore_hopUp {b l e v s} : (placeStore b l e v s).host.hopUp = s.host.hopUp := by
  unfold placeStore
  split <;> simp

/-! ### The cord -/

@[simp] theorem showFail_hopUp {e s} : (showFail e s).host.hopUp = s.host.hopUp := by simp [showFail]

@[simp] theorem showOk_hopUp {s} : (showOk s).host.hopUp = s.host.hopUp := by simp [showOk]

@[simp] theorem cordVerify_hopUp {s} : (cordVerify s).2.host.hopUp = s.host.hopUp := by
  unfold cordVerify
  split
  · rfl
  · split <;> simp

@[simp] theorem cordLoad_hopUp {s} : (cordLoad s).2.host.hopUp = s.host.hopUp := by
  unfold cordLoad
  dsimp only
  repeat' split
  all_goals simp

@[simp] theorem stopTimer_hopUp {r s} : (stopTimer r s).host.hopUp = s.host.hopUp := by
  unfold stopTimer
  split <;> simp

@[simp] theorem noteAux_hopUp {s} : (noteAux s).host.hopUp = s.host.hopUp := by simp [noteAux]

@[simp] theorem unbindReq_hopUp {v s} : (unbindReq v s).2.host.hopUp = s.host.hopUp := by
  unfold unbindReq
  dsimp only
  repeat' split
  all_goals simp

@[simp] theorem writeCrd_hopUp {o v s} : (writeCrd o v s).2.host.hopUp = s.host.hopUp := by
  simp [writeCrd, ite_apply, cordCtrlWrite, floorWrite, sealStore, cordBindWrite, bindReq, timerOn, cordStage]

/-! ### The twin pair -/

@[simp] theorem setPairEpoch_hopUp {e s} : (setPairEpoch e s).host.hopUp = s.host.hopUp := by simp [setPairEpoch]

@[simp] theorem takeoverBegin_hopUp {s} : (takeoverBegin s).host.hopUp = s.host.hopUp := by simp [takeoverBegin]

@[simp] theorem judgePartner_hopUp {s} : (judgePartner s).host.hopUp = s.host.hopUp := by
  simp [judgePartner, partnerLost]

@[simp] theorem twinAct_hopUp {code e cond perform s} (hperform : ∀ s, (perform s).host.hopUp = s.host.hopUp) :
    (twinAct code e cond perform s).2.host.hopUp = s.host.hopUp := by
  simp [twinAct, *]

@[simp] theorem sendFence_hopUp {s} : (sendFence s).host.hopUp = s.host.hopUp := by
  unfold sendFence
  split <;> simp

@[simp] theorem actUnfence_hopUp {e s} : (actUnfence e s).2.host.hopUp = s.host.hopUp := by
  simp [actUnfence, twinAct, -twinAct_hopUp, bringUpAll]

@[simp] theorem twnActionWrite_hopUp {v s} : (twnActionWrite v s).2.host.hopUp = s.host.hopUp := by
  unfold twnActionWrite
  split <;> simp [actTakeover, actGiveback, actResync, actFencePartner, actSetEpoch]

@[simp] theorem writeTwn_hopUp {o v s} : (writeTwn o v s).2.host.hopUp = s.host.hopUp := by
  simp [writeTwn, ite_apply, twnCfgWrite, twinEngage, twinDisengage]

/-! ### The damper and the debug stores -/

@[simp] theorem stopCopy_hopUp {s} : (stopCopy s).host.hopUp = s.host.hopUp := by
  unfold stopCopy
  split <;> simp

@[simp] theorem stopApply_hopUp {s} : (stopApply s).host.hopUp = s.host.hopUp := by
  unfold stopApply
  split <;> simp

@[simp] theorem stopGroup_hopUp {g s} : (stopGroup g s).host.hopUp = s.host.hopUp := by
  unfold stopGroup
  refine foldOver_hopUp fun s x => ?_
  split <;> simp

@[simp] theorem damperRaise_hopUp {serial s} : (damperRaise serial s).2.host.hopUp = s.host.hopUp := by
  simp [damperRaise, raiseOwn, raiseDamper, damperNow, freezeNow, markDamper, pauseAll, traceDamper, spreadDamper]

@[simp] theorem damperCtrlWrite_hopUp {v s} : (damperCtrlWrite v s).2.host.hopUp = s.host.hopUp := by
  unfold damperCtrlWrite
  split <;> simp [damperRelease, releaseShift, resumeGroup, resumeOne]

@[simp] theorem scanShow_hopUp {st s} : (scanShow st s).2.host.hopUp = s.host.hopUp := by simp [scanShow]

@[simp] theorem scanView_hopUp {s} : (scanView s).host.hopUp = s.host.hopUp := by
  unfold scanView
  split <;> simp

@[simp] theorem scanCtrlWrite_hopUp {v s} : (scanCtrlWrite v s).2.host.hopUp = s.host.hopUp := by
  unfold scanCtrlWrite
  split <;> simp [scanSizeAct, scanStart]

@[simp] theorem writeDbg_hopUp {o v s} : (writeDbg o v s).2.host.hopUp = s.host.hopUp := by
  simp [writeDbg, ite_apply, setEnable, ctrClear, snapCtrlWrite, snapshot, sparkPop, traceRingWrite]

/-! ### Power -/

@[simp] theorem powerCmd_hopUp {n op s} (hop : ∀ s, (op s).2.host.hopUp = s.host.hopUp) :
    (powerCmd n op s).2.host.hopUp = s.host.hopUp := by
  simp [powerCmd, *]

@[simp] theorem cmdOff_hopUp {s} : (cmdOff s).2.host.hopUp = s.host.hopUp := by
  simp [cmdOff, logStartFail, beginRemoval]

@[simp] theorem freeAllBuffers_hopUp {s} : (freeAllBuffers s).host.hopUp = s.host.hopUp := by
  unfold freeAllBuffers
  exact foldOver_hopUp fun _ _ => rfl

@[simp] theorem restartEmpties_hopUp {s} : (restartEmpties s).host.hopUp = s.host.hopUp := by
  simp only [restartEmpties]
  rw [foldOver_hopUp]
  · simp
  · exact fun _ _ => rfl

@[simp] theorem cmdIdle_hopUp {s} : (cmdIdle s).2.host.hopUp = s.host.hopUp := by
  unfold cmdIdle
  split <;> simp

@[simp] theorem cmdActive_hopUp {s} : (cmdActive s).2.host.hopUp = s.host.hopUp := by
  unfold cmdActive
  split <;> simp

@[simp] theorem cmdBlaze_hopUp {s} : (cmdBlaze s).2.host.hopUp = s.host.hopUp := by
  unfold cmdBlaze
  split <;> simp

@[simp] theorem stateCmdWrite_hopUp {v s} : (stateCmdWrite v s).2.host.hopUp = s.host.hopUp := by
  unfold stateCmdWrite
  split <;> simp [cmdCold, coldFrom, coldReset, cmdBank, closeAll, cmdRestart]

@[simp] theorem vsetWrite_hopUp {v s} : (vsetWrite v s).2.host.hopUp = s.host.hopUp := by
  unfold vsetWrite
  dsimp only
  repeat' split
  all_goals simp

@[simp] theorem writePwr_hopUp {o v s} : (writePwr o v s).2.host.hopUp = s.host.hopUp := by
  simp [writePwr, ite_apply, groupGateWrite]

/-! ### A register write -/

@[simp] theorem regWriteAt_hopUp {a v s} : (regWriteAt a v s).2.host.hopUp = s.host.hopUp := by
  unfold regWriteAt
  rcases a / 0x100000000 with _ | _ | _ | _ | _ | _ | _ | _ | _ | _ | _ | _ | _ | _ | _ | n <;>
    simp [writeMoe, placeWrite, mirrorPlace, writeSpr, steerWrite]

@[simp] theorem regWrite_hopUp {a v s} : (regWrite a v s).2.host.hopUp = s.host.hopUp := by simp [regWrite]

end Sys2Proof.Machine
end

section
/-! Packets handled on HL_UP, completions and the keep-alive watch (R304-R309, R312, R314, R343). -/

namespace Sys2Proof.Machine

open Sys2Proof

/-! ### What a read or a write of words leaves of HL_UP (R308) -/

@[simp] theorem regTouch_hopUp {a : Nat} {s : State} : (regTouch a s).host.hopUp = s.host.hopUp := by
  unfold regTouch
  split
  · simp
  · split <;> simp

theorem readWords_hopUp (n a : Nat) (s : State) : (readWords n a s).2.host.hopUp = s.host.hopUp := by
  induction n generalizing a s with
  | zero => rfl
  | succ n ih => exact (ih (a + 8) (regTouch a s)).trans regTouch_hopUp

theorem writeWords_hopUp (l : List W64) (a done : Nat) (s : State) :
    (writeWords l a done s).2.2.host.hopUp = s.host.hopUp := by
  induction l generalizing a done s with
  | nil => rfl
  | cons w l ih =>
    rw [writeWords]
    split
    · exact (ih ..).trans regWrite_hopUp
    · exact regWrite_hopUp

/-- Words outside the context states and the tallies are read as they stand. -/
theorem readWords_plain {n a : Nat} {s : State} (h : ∀ i, i < n →
    (a + 8 * i < 0x800100000 ∨ 0x800200000 ≤ a + 8 * i) ∧ (a + 8 * i < 0x810000000 ∨ 0x810040000 ≤ a + 8 * i)) :
    readWords n a s = ((upTo n).map (fun i => regRead s (a + 8 * i)), s) := by
  induction n generalizing a with
  | zero => rfl
  | succ n ih =>
    have htouch : regTouch a s = s := regTouch_plain (h 0 n.succ_pos).1 (h 0 n.succ_pos).2
    have hrest := ih (a := a + 8) fun i hi => by
      have hnext := h (i + 1) (by omega)
      rwa [show a + 8 * (i + 1) = a + 8 + 8 * i by omega] at hnext
    rw [readWords, htouch, hrest, upTo, upTo, List.range_succ_eq_map, List.map_cons, List.map_map]
    refine Prod.ext (congrArg (_ :: ·) (List.map_congr_left fun i _ => ?_)) rfl
    exact congrArg (regRead s) (by rw [Nat.succ_eq_add_one]; omega)

/-! ### Sending where no completion has a place (R304) -/

/-- `t` is `s` but for the host's part and the wire, and no packet has joined the device's own on HL_UP. -/
def OwnSent (s t : State) : Prop := ∃ host wire, t = { s with host := host, wire := wire } ∧
  ∀ x ∈ host.hopUp.own, x ∈ s.host.hopUp.own

theorem OwnSent.trans {s t u : State} (hst : OwnSent s t) (htu : OwnSent t u) : OwnSent s u := by
  obtain ⟨_, _, rfl, hsub₁⟩ := hst
  obtain ⟨_, _, rfl, hsub₂⟩ := htu
  exact ⟨_, _, rfl, fun x hx => hsub₁ x (hsub₂ x hx)⟩

theorem OwnSent.own_subset {s t : State} (h : OwnSent s t) : ∀ x ∈ t.host.hopUp.own, x ∈ s.host.hopUp.own := by
  obtain ⟨_, _, rfl, hsub⟩ := h
  exact hsub

theorem none_mem_of_hopNext {x : HopSt} (h : hopNext x = some .cpl) : none ∈ x.own := by
  have hown {o : Option HostPkt} (ho : HopTurn.ofOwn o = .cpl) : o = none := by
    cases o with
    | none => rfl
    | some p => exact nomatch ho
  unfold hopNext at h
  split at h
  · exact nomatch h
  · next o _ ho _ =>
    rw [ho, hown (Option.some.inj h)]
    exact List.mem_cons_self
  · exact nomatch h
  · next o _ _ _ ho _ =>
    split at h
    · exact nomatch h
    · rw [ho, hown (Option.some.inj h)]
      exact List.mem_cons_self

theorem hopTurn_ownSent {t : HopTurn} (ht : t ≠ .cpl) (s : State) : OwnSent s (hopTurn .up t s) := by
  cases t with
  | own p => exact ⟨_, _, rfl, fun _ => List.mem_of_mem_drop⟩
  | cpl => exact absurd rfl ht
  | fwd p => exact ⟨_, _, rfl, fun _ hx => hx⟩

/-- Where no completion has a place among the packets waiting, sending them changes the host's part and the wire. -/
theorem hopDrain_ownSent (n : Nat) {s : State} (h : none ∉ s.host.hopUp.own) : OwnSent s (hopDrain .up n s) := by
  induction n generalizing s with
  | zero => exact ⟨_, _, rfl, fun _ hx => hx⟩
  | succ n ih =>
    unfold hopDrain
    split
    · exact ⟨_, _, rfl, fun _ hx => hx⟩
    · split
      · exact ⟨_, _, rfl, fun _ hx => hx⟩
      · next t ht =>
        have hturn : OwnSent s (hopTurn .up t s) := hopTurn_ownSent (fun hc => h (none_mem_of_hopNext (hc ▸ ht))) s
        exact hturn.trans (ih fun hx => h (hturn.own_subset none hx))

theorem sendOwn_eq {p : HostPkt} {s : State} (h : none ∉ s.host.hopUp.own) :
    ∃ host wire, sendOwn p s = { s with host := host, wire := wire } := by
  unfold sendOwn
  split
  · have hown : none ∉ (modHop .up (fun x => { x with own := x.own ++ [some p] }) s).host.hopUp.own := fun hx =>
      (List.mem_append.mp hx).elim h fun hx => nomatch List.mem_singleton.mp hx
    obtain ⟨host, wire, hdrain, -⟩ := hopDrain_ownSent _ hown
    exact ⟨host, wire, hdrain⟩
  · exact ⟨_, _, rfl⟩

theorem sendOwn_ran (p : HostPkt) (s : State) : HopRan s (sendOwn p s) := by
  unfold sendOwn
  split
  · exact (HopRan.setHop (x := { s.host.hopUp with own := s.host.hopUp.own ++ [some p] }) (more := [])
      (List.append_nil _).symm).trans (hopFlush_ran ..)
  · exact .refl s

/-! ### Each packet's effect -/

section
variable {b : List Byte} {s : State}

/-- A first ENUM gives the device its chain address (R305). -/
theorem enumPkt_assigns {p : HostPkt} (hown : s.host.chainAddr = 0xFF#8) (hne : payloadByte p 0 ≠ 0)
    (hle : (payloadByte p 0).toNat ≤ 32) : (enumPkt p s).host.chainAddr = payloadByte p 0 ∧
    (enumPkt p s).mem = s.mem ∧ (enumPkt p s).regs = s.regs := by
  have henum : enumPkt p s = enumReply p { s with host := { s.host with chainAddr := payloadByte p 0 } } := by
    rw [enumPkt]
    dsimp only
    rw [if_neg (not_or.mpr ⟨hne, by omega⟩), if_pos hown]
  obtain ⟨⟨host, groups, wire, hran⟩, hchain, -⟩ := sendOwn_ran
    (ownPkt { s with host := { s.host with chainAddr := payloadByte p 0 } } 0x08#8 p.reqId
      (enumResp { s with host := { s.host with chainAddr := payloadByte p 0 } }))
    { s with host := { s.host with chainAddr := payloadByte p 0 } }
  rw [henum, enumReply]
  refine ⟨hchain, ?_, ?_⟩ <;> rw [hran]

theorem chunksOf_whole {n : Nat} {l : List Byte} (hn : 0 < n) (h : l.length = n) : chunksOf n l = [l] := by
  obtain ⟨m, rfl⟩ : ∃ m, n = m + 1 := ⟨n - 1, by omega⟩
  have hne : l.isEmpty = false := by
    cases l with
    | nil => exact nomatch h
    | cons => rfl
  rw [chunksOf, h, chunksOf.go, if_neg (by simp [hne]), ← h, List.take_length, List.drop_length]
  cases m <;> rfl

/-- A well-formed record enters its group's FIFO (R309). -/
theorem cmdPkt_enters {p : HostPkt} (hlen : p.payload.length = 32) (hok : recordOk p.payload = true)
    (hfence : s.twn.fenced = false) (hroom : (getGroup s (recFld p.payload 1 1)).fifo.length < 256) :
    cmdPkt p s = modGroup s (recFld p.payload 1 1) (fun gr =>
      { gr with fifo := gr.fifo ++ [p.payload], fifoHigh := max gr.fifoHigh (gr.fifo.length + 1) }) := by
  have hg : recFld p.payload 1 1 % 16 = recFld p.payload 1 1 := by
    refine Nat.mod_eq_of_lt ?_
    simp only [recordOk, below, Bool.and_eq_true, decide_eq_true_eq] at hok
    exact hok.1.1.1
  rw [cmdPkt, chunksOf_whole (by omega) hlen]
  show enterRecord p.payload s = _
  rw [enterRecord, hg, if_neg (by simp [hfence]), if_neg (by simp [hok]), if_neg (by omega)]

/-- The completions at the head of the queue leave in one packet, and what waited takes their room (R312). -/
theorem handCpl_sends (hq : s.host.cplq ≠ []) : ∃ host groups q more, handCpl s = { s with
      host := host, groups := groups, wire := .packet .up (pktOctets q) :: s.wire } ∧ q.ty = 0x06#8 ∧
    q.payload = (s.host.cplq.take (cplLimit s)).flatMap cplBytes ∧
    host.cplq = s.host.cplq.drop (cplLimit s) ++ more := by
  have hempty : s.host.cplq.isEmpty = false := by simp [hq]
  unfold handCpl
  rw [if_neg (by simp [hempty])]
  dsimp only
  generalize hsent : hopSend .up _ _ = sent
  obtain ⟨host, groups, hrefill, -, -, -, more, hmore⟩ :=
    (refillTallies_refilled sent).trans (refillHeld_refilled (refillTallies sent))
  rw [hrefill]
  refine ⟨host, groups, { ownPkt s 0x06#8 0 ((s.host.cplq.take (cplLimit s)).flatMap cplBytes) with
    hseq := s.host.hopUp.txSeq }, more, ?_, rfl, rfl, ?_⟩
  · rw [← hsent]
    rfl
  · rw [hmore, ← hsent]
    rfl

theorem sendCpl_sends (hup : s.host.hopUp.up = true) (hroom : s.host.hopUp.unacked.length < 128) (hq : s.host.cplq ≠ [])
    (hown : s.host.hopUp.own = []) (hfwd : s.host.hopUp.fwd = []) : ∃ host groups q more, sendCpl s = { s with
      host := host, groups := groups, wire := .packet .up (pktOctets q) :: s.wire } ∧ q.ty = 0x06#8 ∧
    q.payload = (s.host.cplq.take (cplLimit s)).flatMap cplBytes ∧
    host.cplq = s.host.cplq.drop (cplLimit s) ++ more := by
  have hx : getHop (modHop .up (fun x => { x with own := x.own ++ [none] }) s) .up = { s.host.hopUp with own := [none] } := by
    rw [getHop_modHop]
    dsimp only [getHop]
    rw [hown]
    rfl
  have hnext : hopNext (getHop (modHop .up (fun x => { x with own := x.own ++ [none] }) s) .up) = some .cpl := by
    rw [hx]
    dsimp only [hopNext]
    rw [hfwd]
    rfl
  rw [sendCpl, if_pos ⟨hup, hq, by simp [hown]⟩, hopFlush_one (by rw [hx]; simp [hfwd]) hnext (by rw [hx]; exact hup)
    (by rw [hx]; exact hroom)]
  exact handCpl_sends (s := modHop .up (fun x => { x with own := x.own.drop 1, turnFwd := true })
    (modHop .up (fun x => { x with own := x.own ++ [none] }) s)) hq

/-- The octets of an update in order are staged (R343). -/
theorem bulkPkt_stages {p : HostPkt} (hstream : fromBe (slice p.payload 0 2) = 0) (hupd : s.mss.updState = 1)
    (hoff : fromBe (slice p.payload 2 6) % 8 = 0) (hlen : (p.payload.drop 8).length % 8 = 0)
    (hfit : fromBe (slice p.payload 2 6) + (p.payload.drop 8).length ≤ s.mss.stagedLen) :
    bulkPkt p s = { s with mss := (bulkPkt p s).mss } ∧
    (bulkPkt p s).mss.staging = (p.payload.drop 8).zipIdx.foldl
      (fun m e => setStore m (fromBe (slice p.payload 2 6) + e.2) e.1) s.mss.staging ∧
    ∀ i, i < (p.payload.drop 8).length / 8 → fromBe (slice p.payload 2 6) / 8 + i ∈ (bulkPkt p s).mss.words := by
  rw [bulkPkt, bulkStore, if_pos ⟨hstream, hupd, hoff, hlen, hfit⟩]
  refine ⟨rfl, rfl, fun i hi => ?_⟩
  dsimp only
  by_cases hin : s.mss.words.contains (fromBe (slice p.payload 2 6) / 8 + i) = true
  · exact List.mem_append_left _ (List.contains_iff_mem.mp hin)
  · exact List.mem_append_right _ (List.mem_filter.mpr
      ⟨List.mem_map.mpr ⟨i, List.mem_range.mpr hi, rfl⟩, by simpa using hin⟩)

/-! ### Packets in turn that are not handled here, or malformed (R304, R307) -/

/-- A packet in turn for this device that is malformed is counted and logged. -/
theorem malformedPkt_here {p : HostPkt} (hup : s.host.hopUp.up = true) (hone : oneHop p = false)
    (hq : p.hseq = s.host.hopUp.rxExp) (hhere : forHere s p = true) (hok : pktOk s p = false) :
    malformedPkt .up p s = pktMalformed p (accepted .up s) := by
  rw [malformedPkt, if_neg (by simp [hone])]
  exact (if_pos ⟨hhere, by simp [hok]⟩).trans (hopReceive_inTurn (h := .up) hup hq)

theorem malformedPkt_oneHop {h : Hop} {p : HostPkt} (hone : oneHop p = true) (hok : oneHopOk p = false)
    (ht : (getHop s h).trained = true) : malformedPkt h p s = pktMalformed p (hopHeard h s) := by
  unfold malformedPkt
  rw [if_pos hone, if_neg (by simp [hok]), oneHopPacket_malformed ht hok]

/-- A packet for a device further down the chain goes there. -/
theorem forwardPkt_down {p : HostPkt} (hup : s.host.hopUp.up = true) (hone : oneHop p = false)
    (hq : p.hseq = s.host.hopUp.rxExp) (hchain : s.host.chainAddr ≠ 0xFF#8) (hlt : s.host.chainAddr.toNat < p.dst.toNat)
    (hle : p.dst.toNat ≤ 32) (hdn : s.host.hopDn.up = true) :
    forwardPkt .up p s = forwardOn .dn p (accepted .up s) := by
  have hhere : forHere s p = false := by
    have hdst : p.dst ≠ s.host.chainAddr := fun h => by rw [h] at hlt; exact Nat.lt_irrefl _ hlt
    have hff : p.dst ≠ 0xFF#8 := fun h => by rw [h] at hle; exact absurd hle (by decide)
    simp [forHere, hdst, hff]
  have hchain' : (accepted .up s).host.chainAddr = s.host.chainAddr := by
    obtain ⟨_, _, _, hacc, hc⟩ := accepted_eq .up s
    rw [hacc]
    exact hc
  have hdn' : (accepted .up s).host.hopDn.up = true := by
    have hget : (accepted .up s).host.hopDn = s.host.hopDn := getHop_accepted_other (h := .up) (k := .dn) (by decide) s
    rw [hget]
    exact hdn
  rw [forwardPkt, if_neg (by simp [hone])]
  refine (if_neg (by simp [hhere])).trans ((hopReceive_inTurn (h := .up) hup hq).trans ?_)
  rw [routeDown, hchain', if_pos ⟨hchain, hlt, hle⟩, if_pos hdn']

/-- A packet from down the chain for the adapter goes up. -/
theorem forwardPkt_up {p : HostPkt} (hdn : s.host.hopDn.up = true) (hone : oneHop p = false)
    (hq : p.hseq = s.host.hopDn.rxExp) (hdst : p.dst = 0) :
    forwardPkt .dn p s = forwardOn .up p (accepted .dn s) := by
  rw [forwardPkt, if_neg (by simp [hone])]
  exact (hopReceive_inTurn (h := .dn) hdn hq).trans (if_pos hdst)

end

/-- With no packet waiting on it, a hop other than the one a packet came on sends it on at once. -/
theorem forwardOn_accepted {h k : Hop} (hk : k ≠ h) {p : HostPkt} {s : State} (hup : (getHop s k).up = true)
    (hown : (getHop s k).own = []) (hfwd : (getHop s k).fwd = []) (hroom : (getHop s k).unacked.length < 128) :
    forwardOn k p (accepted h s) = { accepted h s with
      host := (forwardOn k p (accepted h s)).host
      wire := .packet k (pktOctets { p with hseq := (getHop s k).txSeq }) :: (accepted h s).wire } ∧
    (getHop (forwardOn k p (accepted h s)) k).txSeq = (getHop s k).txSeq + 1 := by
  have hget := getHop_accepted_other hk s
  have hsends := forwardOn_sends (h := k) (p := p) (s := accepted h s) (by rw [hget]; exact hup) (by rw [hget]; exact hown)
    (by rw [hget]; exact hfwd) (by rw [hget]; exact hroom)
  rwa [hget] at hsends

end Sys2Proof.Machine
end

section
/-! The host link's packets, completions and keep-alive watch: the obligation (R304-R309, R312, R314, R343). -/

namespace Sys2Proof.Machine

open Sys2Proof

/-- Settles O42: each packet in turn is handled on the state that accepted it. A WR's words leave HL_UP as it is, so
its answer sends packets and no completion. -/
theorem hostPacketsAreHandled : Obligations.HostPacketsAreHandled := by
  unfold Obligations.HostPacketsAreHandled
  refine ⟨fun b s hp hcrc => ?packet, fun h header rest s hp hcrc hup hnak => ?corrupt, ?completion, ?watch⟩
  case packet =>
    intro p s1
    have hx := accepted_hopUp s
    obtain ⟨host, timers, wire, hacc, hchain⟩ := accepted_eq .up s
    have hmalformed (h : Hop) : exec (.hostPacketMalformed h b) s = .next (malformedPkt h p s) :=
      congrArg Host.Outcome.next ((mssRuns_on hp).trans (received_good hcrc))
    have hforward (h : Hop) : exec (.hostPacketForward h b) s = .next (forwardPkt h p s) :=
      congrArg Host.Outcome.next ((mssRuns_on hp).trans (received_good hcrc))
    refine ⟨fun hup hq hhere hok hrom => ⟨?enum, ?rd, ?wr, ?cmd, ?bulk⟩, fun hup hone hq hhere hok => ?_,
      fun h hone hok ht => ?_, ?down, ?up⟩
    case enum =>
      intro hty hown hne hle
      have hexec : exec (.enum b) s = .next (enumPkt p (accepted .up s)) := upRow_handled hp hcrc hty hup hq hhere hok hrom
      obtain ⟨hassign, hmem, hregs⟩ := enumPkt_assigns (s := accepted .up s) (p := p)
        (by rw [hacc]; exact hchain.trans hown) hne hle
      rw [hexec]
      exact ⟨_, rfl, hassign, hmem.trans (by rw [hacc]), hregs.trans (by rw [hacc])⟩
    case rd =>
      intro hty hown hfwd hroom r
      have hexec : exec (.rd b) s = .next (rdPkt p (accepted .up s)) := upRow_handled hp hcrc hty hup hq hhere hok hrom
      have hr : r.2.host.hopUp = { s.host.hopUp with rxExp := s.host.hopUp.rxExp + 1, nakPending := false } :=
        (readWords_hopUp ..).trans hx
      obtain ⟨host', hsend, -⟩ := sendOwn_sends (s := r.2)
        (p := ownPkt r.2 0x02#8 p.reqId (r.1.flatMap (fun w => beBytes 8 w.toNat)))
        (by rw [hr]; exact hup) (by rw [hr]; exact hown) (by rw [hr]; exact hfwd) (by rw [hr]; exact hroom)
      exact ⟨_, _, hexec.trans (congrArg Host.Outcome.next hsend), rfl, rfl, rfl, rfl, fun hplain =>
        ⟨congrArg Prod.snd (readWords_plain hplain), congrArg Prod.fst (readWords_plain hplain)⟩⟩
    case wr =>
      intro hty hnone r
      have hexec : exec (.wr b) s = .next (wrPkt p (accepted .up s)) := upRow_handled hp hcrc hty hup hq hhere hok hrom
      have hr : r.2.2.host.hopUp = { s.host.hopUp with rxExp := s.host.hopUp.rxExp + 1, nakPending := false } :=
        (writeWords_hopUp ..).trans hx
      obtain ⟨host', wire', hsend⟩ := sendOwn_eq (s := withStatus r.2.2 r.1) (p := ownPkt (withStatus r.2.2 r.1) 0x04#8
        p.reqId ([BitVec.ofNat 8 r.1.code, BitVec.ofNat 8 r.2.1] ++ zeros 6)) (by
          show none ∉ r.2.2.host.hopUp.own
          rw [hr]
          exact hnone)
      exact ⟨_, hexec.trans (congrArg Host.Outcome.next hsend), rfl⟩
    case cmd =>
      intro hty hlen hrec hfence g hroom
      have hexec : exec (.cmd b) s = .next (cmdPkt p (accepted .up s)) := upRow_handled hp hcrc hty hup hq hhere hok hrom
      have hgroup (k : Nat) : getGroup (accepted .up s) k = getGroup s k := by
        rw [hacc]
        rfl
      rw [hexec, cmdPkt_enters hlen hrec (by rw [hacc]; exact hfence) (by rw [hgroup]; exact hroom)]
      refine ⟨_, rfl, rfl, ?_, fun k hk => (getGroup_modGroup_other hk).trans (hgroup k)⟩
      rw [getGroup_modGroup_same, hgroup]
    case bulk =>
      intro hty hstream hupd off data hoff hlen hfit
      have hexec : exec (.bulk b) s = .next (bulkPkt p (accepted .up s)) :=
        upRow_handled hp hcrc hty hup hq hhere hok hrom
      have hmss : (accepted .up s).mss.updState = s.mss.updState ∧ (accepted .up s).mss.stagedLen = s.mss.stagedLen ∧
          (accepted .up s).mss.staging = s.mss.staging := by
        rw [hacc]
        exact ⟨rfl, rfl, rfl⟩
      obtain ⟨hstate, hstagedLen, hstaging⟩ := hmss
      obtain ⟨heq, hstaged, hwords⟩ := bulkPkt_stages (s := accepted .up s) hstream (hstate.trans hupd) hoff hlen
        (hstagedLen ▸ hfit)
      exact ⟨_, hexec, heq, hstaged.trans (by rw [hstaging]), hwords⟩
    case down =>
      intro hup hone hq hne hlt hle hdn hown hfwd hroom
      obtain ⟨hsends, hseq⟩ := forwardOn_accepted (h := .up) (k := .dn) (by decide) (p := p) hdn hown hfwd hroom
      rw [hforward, forwardPkt_down hup hone hq hne hlt hle hdn]
      exact ⟨_, rfl, hsends, hseq⟩
    case up =>
      intro hdn hone hq hdst hup hown hfwd hroom s2
      obtain ⟨hsends, hseq⟩ := forwardOn_accepted (h := .dn) (k := .up) (by decide) (p := p) hup hown hfwd hroom
      rw [hforward, forwardPkt_up hdn hone hq hdst]
      exact ⟨_, rfl, hsends, hseq⟩
    · rw [hmalformed, malformedPkt_here hup hone hq hhere hok]
      rfl
    · rw [hmalformed, malformedPkt_oneHop hone hok ht]
      rfl
  case corrupt =>
    have hexec : exec (.hostPacketCorrupt h header rest) s = .next (sendLinkNak h s) :=
      congrArg Host.Outcome.next ((mssRuns_on hp).trans (received_bad hcrc hup))
    rw [hexec, sendLinkNak, if_neg (by simp [hnak])]
    refine ⟨_, rfl, ?_, ?_⟩
    · cases h <;> rfl
    · cases h <;> rfl
  case completion =>
    intro s hp hup hroom hq hown hfwd
    have hexec : exec .completionSend s = .next (sendCpl s) := congrArg Host.Outcome.next (mssRuns_on hp)
    obtain ⟨host, groups, q, more, hsend, hty, hpayload, hcplq⟩ := sendCpl_sends hup hroom hq hown hfwd
    rw [hexec, hsend]
    exact ⟨_, q, more, rfl, rfl, hty, hpayload, hcplq, rfl, rfl, rfl⟩
  case watch =>
    intro s hp hcfg hheld
    exact congrArg Host.Outcome.next ((mssRuns_on hp).trans (if_pos ⟨hcfg, hheld⟩))

end Sys2Proof.Machine
end
